-- ==== Sys2Proof/Word.lean ====
section
/-! DEFINITION. The machine's words. Memory is little-endian and bits are numbered from 0 (R9). -/

namespace Sys2Proof

/-- A scalar register, address or system-register value: 64 bits (R25). -/
abbrev Word := BitVec 64

/-- A byte of memory, the smallest addressable unit. -/
abbrev Byte := BitVec 8

/-- A lane of the vector datapath (R4). -/
abbrev Lane := BitVec 32

/-- The signed value of a word (R84: two's complement). -/
abbrev Word.int (a : Word) : Int := a.toInt

/-- The natural value of a word. -/
abbrev Word.nat (a : Word) : Nat := a.toNat

end Sys2Proof
end

