-- ==== Sys2Proof/Config.lean ====
section
/-! DEFINITION. What an implementation fixes: the part, the populated memory, and the functions of outside standards
that the manual names without defining. -/

namespace Sys2Proof

/-- The two instruction streams of a strand (R18). -/
inductive Stream where
  | c
  | v
  deriving DecidableEq, Repr

/-- What an announcement says of a clock, most significant first (R356; the data sets of IEEE 1588, PRESUMED, log entry 74). -/
structure ClockSet where
  prio1 : Nat
  cls : Nat
  acc : Nat
  var : Nat
  prio2 : Nat
  ident : Nat
  deriving DecidableEq, Repr, Inhabited

/-- A message of the Precision Time Protocol as this package receives it (R356): an announcement of a clock; a two-step sync, by
its time at the grandmaster and the time of its receipt here; a peer delay exchange, by its four times. -/
inductive PtpMsg where
  | announce (c : ClockSet)
  | sync (origin receipt : Nat)
  | pdelay (t1 t2 t3 t4 : Nat)
  deriving DecidableEq, Repr

/-- What an access of another package asks of its home package (R350, R351); `engineWord` is a store by a copy engine or message unit. -/
inductive PodOp where
  | load
  | store (v : Word)
  | engineWord (v : Word)
  | atomic (op : BitVec 4) (cmp v cmp2 v2 : Word)
  | append (v : Word)
  | seal
  | tailq
  | lr (six : Nat)
  | sc (six : Nat) (v : Word)
  deriving DecidableEq, Repr

/-- A remote access arriving over the fabric (R350): source package, local address here, size, the requesting domain's
owner tag and mode, the class of the leaf it went through (R259, R351), and the end-to-end sequence number of R352. -/
structure PodReq where
  src : Nat
  seq : Nat
  addr : Nat
  size : Nat
  owner : BitVec 16
  priv : Bool
  cls : BitVec 2
  op : PodOp
  deriving DecidableEq, Repr

/-- The two parts of R2. -/
inductive Part where
  | ezm7160
  | ezm7120
  deriving DecidableEq, Repr

/-- The capacity module of one port, as R335 reports it ("per module"). -/
structure PortModule where
  present : Bool
  pcap : Bool
  frames : Nat
  deriving DecidableEq, Repr

/-- The configuration of one package: its part (R2), the frames populated in each HBM stack (F(s) of R243) and the
capacity modules attached to its ports (R335). It is plain data; no step changes it. -/
structure Cfg where
  part : Part
  stackFrames : List Nat
  ports : List PortModule
  deriving DecidableEq, Repr

namespace Cfg

/-- F(s) of R243: frames populated in stack `s`. -/
def stack (c : Cfg) (s : Nat) : Nat := c.stackFrames.getD s 0

/-- C(p) of R243 and R335: 0 where no module is attached, and on the EZM-7120. -/
def port (c : Cfg) (p : Nat) : Nat :=
  match c.part, c.ports[p]? with
  | .ezm7160, some m => if m.present then m.frames else 0
  | _, _ => 0

/-- PRESENT and PCAP of port `p` (R335); every word of the control blocks reads zero on the EZM-7120. -/
def portPresent (c : Cfg) (p : Nat) : Bool :=
  match c.part, c.ports[p]? with
  | .ezm7160, some m => m.present
  | _, _ => false

def portPcap (c : Cfg) (p : Nat) : Bool :=
  match c.part, c.ports[p]? with
  | .ezm7160, some m => m.present && m.pcap
  | _, _ => false

/-- Whether the Tutor engines are present (R2). -/
def tutor (c : Cfg) : Bool := decide (c.part = .ezm7160)

/-- Fabric links of the part (R2): 12 or 6. -/
def links (c : Cfg) : Nat := match c.part with | .ezm7160 => 12 | .ezm7120 => 6

/-- An EZM-7160 with full stacks (R348: 732,416 frames) and no capacity module attached. DESIGN CHOICE (log entry 6):
which part and which modules a model starts with; every statement is about any configuration. -/
def default : Cfg :=
  { part := .ezm7160, stackFrames := List.replicate 12 732416, ports := [] }

end Cfg

namespace Config

/-- SHA3-256 of FIPS 202 (R345), named but not defined by the manual: an uninterpreted function (log entry 11). -/
opaque sha3_256 : List Byte → BitVec 256

/-- The ML-DSA-44 signature of FIPS 204 made with the device identity key over a quote's bytes (R346): 2,420 bytes as
one word; uninterpreted (log entry 11). -/
opaque signQuote : List Byte → BitVec 19360

/-- SHA3-256 digest of the device identity public key (R346), fixed per device (log entry 11). -/
opaque identityDigest : BitVec 256

/-- SHA3-256 digest of the firmware image that the boot ROM finds (R345); log entry 11. -/
opaque firmwareDigest : BitVec 256

/-- Whether the boot ROM's two checks of the firmware image pass (R345); log entry 11. -/
opaque firmwareAccepted : Bool

/-- What a doubleword of a die's fault spill area holds (R336 gives its size, no layout); free (log entry 24). -/
opaque faultSpill : Nat → Nat → BitVec 64

/-- What this package's own clock announces of itself (R356); free (log entry 74). -/
opaque ownClock : ClockSet

/-- The KIND of a fault-log record of a command processor's request, and the cluster of its die whose principal core is signalled and
named by SRC: R248 lists no command processor; free (log entry 43). -/
opaque cpKind : Nat
opaque cpCluster : Nat → Nat

/-- The result of a widening conversion whose scaled value overflows a format that R69 does not name (R74): exponent and
mantissa widths, sign; free (log entry 26). -/
opaque widenOverflow : Nat → Nat → Bool → BitVec 8

/-- The callee stack top of a frame whose gate is closed and whose record was refilled from its segment, which holds no
stack base (R155); free (log entry 29). -/
opaque lostStack : Nat → BitVec 64

/-- The error of a sample with a difference that is not a number (R319 takes the largest of them); from the surrogate's
results and the true ones; free (log entry 33). -/
opaque sampleError : List (BitVec 32) → List (BitVec 32) → BitVec 32

/-- The flits that a link's receive buffer holds (R354 gives distances from full, not the capacity); free (log entry 39). -/
opaque linkBuffer : Nat

/-- Cores: 1,024 compute, 32 principal, 32 chiplet, in the order of R149. -/
def computeCores : Nat := 1024
def principalEnd : Nat := 1056
def coreCount : Nat := 1088

/-- WINVA of R150 and the end of the reserved window range. -/
def winva : Nat := 0x00007F0000000000
def winEnd : Nat := winva + 0x1000000

/-- The DEVICE region of R243 and R336, and its parts. -/
def deviceBase : Nat := 0x0004000000000000
def deviceEnd : Nat := 0x0008000000000000
def tenantBase : Nat := 0x0004000000100000
def portBase : Nat := 0x0004000000110000
def powerBase : Nat := 0x0004000000120000
def mgmtBase : Nat := 0x0004000000130000
def fabricBase : Nat := 0x0004000000140000
def hostIntBase : Nat := 0x0004000000150000
def msixBase : Nat := 0x0004000000160000
def dieBase : Nat := 0x0004000001000000
def ftBase : Nat := 0x0004000010000000
def windowBase : Nat := 0x0004000100000000
def podBase : Nat := 0x0008000000000000

/-- Bytes of one domain-stack segment (R155). -/
def segBytes : Nat := 348160

end Config

end Sys2Proof
end

