-- ==== Sys2Proof/Syntax.lean ====
section
/-! DEFINITION. The instruction set as data: one constructor of `Instr` for each row of the opcode table. The first 269
are the encoded instructions (R53, R54, R48); the last 81 are the table's events, the steps the device or its
surroundings take between instructions. Operand records follow the formats of R44 and R47, one field each. -/

namespace Sys2Proof


/-- Operands: format A (R44) with fields d, a and b. -/
structure A3 where
  w : BitVec 3
  b : BitVec 5
  a : BitVec 5
  d : BitVec 5
  deriving DecidableEq, Repr

/-- Operands: format A (R44) with fields d and a; b is zero. -/
structure A2 where
  w : BitVec 3
  a : BitVec 5
  d : BitVec 5
  deriving DecidableEq, Repr

/-- Operands: format A (R44) with fields a and b; d is zero. -/
structure AB where
  w : BitVec 3
  b : BitVec 5
  a : BitVec 5
  deriving DecidableEq, Repr

/-- Operands: format A (R44) with field d only. -/
structure AD where
  w : BitVec 3
  d : BitVec 5
  deriving DecidableEq, Repr

/-- Operands: format A (R44) with field a only. -/
structure AA where
  w : BitVec 3
  a : BitVec 5
  deriving DecidableEq, Repr

/-- Operands: format A (R44) without register fields. -/
structure A0 where
  w : BitVec 3
  deriving DecidableEq, Repr

/-- Operands: format I (R44): a 15-bit immediate. -/
structure Imm where
  imm : BitVec 15
  a : BitVec 5
  d : BitVec 5
  deriving DecidableEq, Repr

/-- Operands: format I, major 0x05 kinds 0 to 3 (R54): a shift count. -/
structure Shift where
  c : BitVec 6
  a : BitVec 5
  d : BitVec 5
  deriving DecidableEq, Repr

/-- Operands: format I, major 0x05 kinds 4 and 5 (R54): position p and width n + 1. -/
structure Field where
  n : BitVec 6
  p : BitVec 6
  a : BitVec 5
  d : BitVec 5
  deriving DecidableEq, Repr

/-- Operands: format U (R44): a 20-bit immediate. -/
structure Upper where
  imm : BitVec 20
  d : BitVec 5
  deriving DecidableEq, Repr

/-- Operands: format M (R44), the access size fixed by the mnemonic (R93). -/
structure Mem where
  off : BitVec 10
  space : BitVec 3
  base : BitVec 5
  d : BitVec 5
  deriving DecidableEq, Repr

/-- Operands: format M, major 0x0B (R54): the access size in ord. -/
structure MemO where
  off : BitVec 9
  ord : BitVec 2
  space : BitVec 3
  base : BitVec 5
  d : BitVec 5
  deriving DecidableEq, Repr

/-- Operands: majors 0x0C to 0x0F (R54): acquire and release bits q, space sp, size z. -/
structure Atom where
  w : BitVec 3
  sp : BitVec 2
  z : BitVec 1
  b : BitVec 5
  a : BitVec 5
  d : BitVec 5
  q : BitVec 2
  deriving DecidableEq, Repr

/-- Operands: LR (R54): no b and no space. -/
structure AtomLr where
  w : BitVec 3
  z : BitVec 1
  a : BitVec 5
  d : BitVec 5
  q : BitVec 2
  deriving DecidableEq, Repr

/-- Operands: SC and APPND (R54): no space. -/
structure AtomG where
  w : BitVec 3
  z : BitVec 1
  b : BitVec 5
  a : BitVec 5
  d : BitVec 5
  q : BitVec 2
  deriving DecidableEq, Repr

/-- Operands: ACAS2 (R54): size 1 only. -/
structure AtomC where
  w : BitVec 3
  sp : BitVec 2
  b : BitVec 5
  a : BitVec 5
  d : BitVec 5
  q : BitVec 2
  deriving DecidableEq, Repr

/-- Operands: format B (R44): a 12-bit displacement in halfwords. -/
structure Br where
  disp : BitVec 12
  b : BitVec 5
  a : BitVec 5
  deriving DecidableEq, Repr

/-- Operands: format J (R44): a 20-bit displacement in halfwords and a link register. -/
structure Jmp where
  disp : BitVec 20
  link : BitVec 5
  deriving DecidableEq, Repr

/-- Operands: MFS (R54): a system register number. -/
structure SysD where
  n : BitVec 12
  d : BitVec 5
  deriving DecidableEq, Repr

/-- Operands: MTS (R54): a system register number. -/
structure SysA where
  n : BitVec 12
  a : BitVec 5
  deriving DecidableEq, Repr

/-- Operands: TRAP (R54): a 12-bit code. -/
structure Code where
  c : BitVec 12
  deriving DecidableEq, Repr

/-- Operands: format X (R44) with fields d, a and x. -/
structure X3 where
  w : BitVec 3
  x : BitVec 3
  a : BitVec 5
  d : BitVec 5
  deriving DecidableEq, Repr

/-- Operands: APXRET (R312): fields d and x. -/
structure X2 where
  w : BitVec 3
  x : BitVec 3
  d : BitVec 5
  deriving DecidableEq, Repr

/-- Operands: BAR (R54, R205): scope c. -/
structure Bell where
  w : BitVec 3
  c : BitVec 3
  a : BitVec 5
  d : BitVec 5
  deriving DecidableEq, Repr

/-- Operands: BARA, BARW and BARPH (R54, R205): scope c. -/
structure BellB where
  w : BitVec 3
  c : BitVec 3
  b : BitVec 5
  a : BitVec 5
  d : BitVec 5
  deriving DecidableEq, Repr

/-- Operands: format V (R44) with vd, va and mask m. -/
structure V2 where
  w : BitVec 3
  m : BitVec 3
  a : BitVec 5
  d : BitVec 5
  deriving DecidableEq, Repr

/-- Operands: format V (R44) with vd, va, vb and mask m. -/
structure V3 where
  w : BitVec 3
  m : BitVec 3
  b : BitVec 5
  a : BitVec 5
  d : BitVec 5
  deriving DecidableEq, Repr

/-- Operands: VLI (R54): a 13-bit immediate. -/
structure VImm where
  w : BitVec 3
  imm : BitVec 13
  d : BitVec 5
  deriving DecidableEq, Repr

/-- Operands: format V with a tag code t in vb and mask m. -/
structure VT where
  w : BitVec 3
  m : BitVec 3
  t : BitVec 5
  a : BitVec 5
  d : BitVec 5
  deriving DecidableEq, Repr

/-- Operands: VTAG (R54, R115): a tag code, no mask. -/
structure VTag where
  w : BitVec 3
  t : BitVec 5
  a : BitVec 5
  d : BitVec 5
  deriving DecidableEq, Repr

/-- Operands: majors 0x21 to 0x25 (R54), three registers: r = major - 0x20. -/
structure VR3 where
  w : BitVec 3
  m : BitVec 3
  b : BitVec 5
  a : BitVec 5
  d : BitVec 5
  r : BitVec 3
  deriving DecidableEq, Repr

/-- Operands: majors 0x21 to 0x25 (R54), two registers: r = major - 0x20. -/
structure VR2 where
  w : BitVec 3
  m : BitVec 3
  a : BitVec 5
  d : BitVec 5
  r : BitVec 3
  deriving DecidableEq, Repr

/-- Operands: VCVT (R54): .nan, rounding r, tag t. -/
structure Cvt where
  w : BitVec 3
  nan : BitVec 1
  r : BitVec 3
  m : BitVec 3
  t : BitVec 5
  a : BitVec 5
  d : BitVec 5
  deriving DecidableEq, Repr

/-- Operands: VPACK (R54): .nan, rounding r, tag t, no mask. -/
structure Pack where
  w : BitVec 3
  nan : BitVec 1
  r : BitVec 3
  t : BitVec 5
  a : BitVec 5
  d : BitVec 5
  deriving DecidableEq, Repr

/-- Operands: VSCALE (R54): rounding r. -/
structure Scale where
  w : BitVec 3
  r : BitVec 3
  m : BitVec 3
  b : BitVec 5
  a : BitVec 5
  d : BitVec 5
  deriving DecidableEq, Repr

/-- Operands: VUNPK (R129): part p in the m field. -/
structure Unpk where
  w : BitVec 3
  p : BitVec 3
  t : BitVec 5
  a : BitVec 5
  d : BitVec 5
  deriving DecidableEq, Repr

/-- Operands: VLD (R54): space s, tag t. -/
structure VLoad where
  w : BitVec 3
  s : BitVec 3
  m : BitVec 3
  t : BitVec 5
  a : BitVec 5
  d : BitVec 5
  deriving DecidableEq, Repr

/-- Operands: VST (R54): space s. -/
structure VStore where
  w : BitVec 3
  s : BitVec 3
  m : BitVec 3
  a : BitVec 5
  d : BitVec 5
  deriving DecidableEq, Repr

/-- Operands: VGATH and VSCAT (R54): space s, index register b. -/
structure VIdx where
  w : BitVec 3
  s : BitVec 3
  m : BitVec 3
  b : BitVec 5
  a : BitVec 5
  d : BitVec 5
  deriving DecidableEq, Repr

/-- Operands: VSAVE and VREST (R54): space s. -/
structure VSv where
  w : BitVec 3
  s : BitVec 3
  a : BitVec 5
  d : BitVec 5
  deriving DecidableEq, Repr

/-- Operands: VSTART (R54): a displacement, no link. -/
structure J0 where
  disp : BitVec 20
  deriving DecidableEq, Repr

/-- Operands: VBR (R54): a displacement. -/
structure B0 where
  disp : BitVec 12
  deriving DecidableEq, Repr

/-- Operands: VLOOP (R54): a displacement and a k register. -/
structure B1 where
  disp : BitVec 12
  a : BitVec 5
  deriving DecidableEq, Repr

/-- Operands: MZT (R232): a tag code in the a field. -/
structure Mz where
  w : BitVec 3
  t : BitVec 5
  d : BitVec 5
  deriving DecidableEq, Repr

/-- Operands: format CR (R47). -/
structure CR where
  a : BitVec 5
  d : BitVec 5
  deriving DecidableEq, Repr

/-- Operands: format CI (R47). -/
structure CI where
  imm : BitVec 6
  d : BitVec 5
  deriving DecidableEq, Repr

/-- Operands: format CB (R47): s(8 + a). -/
structure CB where
  disp : BitVec 8
  a : BitVec 3
  deriving DecidableEq, Repr

/-- Operands: format CR, JR (R48): a only. -/
structure CA where
  a : BitVec 5
  deriving DecidableEq, Repr

/-- The instruction set and the events of the opcode table, one constructor per row. -/
inductive Instr where
  /-- ADD (R85). Writes a + b modulo 2^64 to d. -/
  | add (o : A3)
  /-- SUB (R85). Writes a − b to d. -/
  | sub (o : A3)
  /-- AND (R85). Writes the bitwise AND of a and b to d. -/
  | and (o : A3)
  /-- OR (R85). Writes the bitwise OR of a and b to d. -/
  | or (o : A3)
  /-- XOR (R85). Writes the bitwise XOR of a and b to d. -/
  | xor (o : A3)
  /-- ANDN (R85). Writes a AND NOT b to d. -/
  | andn (o : A3)
  /-- ORN (R85). Writes a OR NOT b to d. -/
  | orn (o : A3)
  /-- XNOR (R85). Writes NOT (a XOR b) to d. -/
  | xnor (o : A3)
  /-- SHL (R85). Shifts a left by bits [5:0] of b. -/
  | shl (o : A3)
  /-- SHR (R85). Shifts a right logically by bits [5:0] of b. -/
  | shr (o : A3)
  /-- SHRA (R85). Shifts a right arithmetically by bits [5:0] of b. -/
  | shra (o : A3)
  /-- ROT (R85). Rotates a left by bits [5:0] of b. -/
  | rot (o : A3)
  /-- MIN (R85). Writes the signed minimum of a and b. -/
  | min (o : A3)
  /-- MAX (R85). Writes the signed maximum of a and b. -/
  | max (o : A3)
  /-- MINN (R85). Writes the natural minimum of a and b. -/
  | minn (o : A3)
  /-- MAXN (R85). Writes the natural maximum of a and b. -/
  | maxn (o : A3)
  /-- CMPEQ (R85). Writes 1 if a equals b, else 0. -/
  | cmpeq (o : A3)
  /-- CMPLT (R85). Writes 1 if a < b signed, else 0. -/
  | cmplt (o : A3)
  /-- CMPLTN (R85). Writes 1 if a < b natural, else 0. -/
  | cmpltn (o : A3)
  /-- CMPLE (R85). Writes 1 if a ≤ b signed, else 0. -/
  | cmple (o : A3)
  /-- CMPLEN (R85). Writes 1 if a ≤ b natural, else 0. -/
  | cmplen (o : A3)
  /-- SEL (R85). Writes a if the old d is nonzero, else b. -/
  | sel (o : A3)
  /-- MUL (R85). Writes the low 64 bits of a × b. -/
  | mul (o : A3)
  /-- MULH (R85). Writes the high 64 bits of the signed product. -/
  | mulh (o : A3)
  /-- MULHN (R85). Writes the high 64 bits of the natural product. -/
  | mulhn (o : A3)
  /-- DIV (R86). Signed division toward zero that never traps. -/
  | div (o : A3)
  /-- DIVN (R86). Natural division that never traps. -/
  | divn (o : A3)
  /-- REM (R86). Signed remainder that never traps. -/
  | rem (o : A3)
  /-- REMN (R86). Natural remainder that never traps. -/
  | remn (o : A3)
  /-- CLZ (R85). Counts leading zero bits of a. -/
  | clz (o : A2)
  /-- CTZ (R85). Counts trailing zero bits of a. -/
  | ctz (o : A2)
  /-- POPC (R85). Counts one bits of a. -/
  | popc (o : A2)
  /-- BSWAP (R85). Reverses the eight bytes of a. -/
  | bswap (o : A2)
  /-- SEXTB (R85). Sign-extends the low byte of a. -/
  | sextb (o : A2)
  /-- SEXTH (R85). Sign-extends the low halfword of a. -/
  | sexth (o : A2)
  /-- SEXTW (R85). Sign-extends the low word of a. -/
  | sextw (o : A2)
  /-- ADDI (R87). Adds a sign-extended 15-bit immediate to a. -/
  | addi (o : Imm)
  /-- ANDI (R87). ANDs a with a sign-extended immediate. -/
  | andi (o : Imm)
  /-- ORI (R87). ORs a with a sign-extended immediate. -/
  | ori (o : Imm)
  /-- XORI (R87). XORs a with a sign-extended immediate. -/
  | xori (o : Imm)
  /-- SHLI (R87). Shifts a left by an immediate count. -/
  | shli (o : Shift)
  /-- SHRI (R87). Shifts a right logically by an immediate count. -/
  | shri (o : Shift)
  /-- SHRAI (R87). Shifts a right arithmetically by an immediate count. -/
  | shrai (o : Shift)
  /-- ROTI (R87). Rotates a left by an immediate count. -/
  | roti (o : Shift)
  /-- BFX (R87). Extracts a bit field of a, zero-extended. -/
  | bfx (o : Field)
  /-- BFI (R87). Inserts the low bits of a into a field of d. -/
  | bfi (o : Field)
  /-- LUI (R45). Writes the sign-extended immediate shifted left by 12. -/
  | lui (o : Upper)
  /-- LEA (R45). Writes its own address plus the sign-extended immediate. -/
  | lea (o : Upper)
  /-- LDBN (R93). Loads a byte zero-extended. -/
  | ldbn (o : Mem)
  /-- LDHN (R93). Loads a halfword zero-extended. -/
  | ldhn (o : Mem)
  /-- LDWN (R93). Loads a word zero-extended. -/
  | ldwn (o : Mem)
  /-- LDD (R93). Loads a doubleword. -/
  | ldd (o : Mem)
  /-- LDB (R93). Loads a byte sign-extended. -/
  | ldb (o : Mem)
  /-- LDH (R93). Loads a halfword sign-extended. -/
  | ldh (o : Mem)
  /-- LDW (R93). Loads a word sign-extended. -/
  | ldw (o : Mem)
  /-- STB (R93). Stores the low byte of d. -/
  | stb (o : Mem)
  /-- STH (R93). Stores the low halfword of d. -/
  | sth (o : Mem)
  /-- STW (R93). Stores the low word of d. -/
  | stw (o : Mem)
  /-- STD (R93). Stores the doubleword d. -/
  | std (o : Mem)
  /-- LDACQ (R98). Zero-extending load with acquire ordering and L1 self-invalidation. -/
  | ldacq (o : MemO)
  /-- STREL (R98). Store with release ordering. -/
  | strel (o : MemO)
  /-- AADD (R102). Atomic wrapping add returning the old value. -/
  | aadd (o : Atom)
  /-- AAND (R102). Atomic AND returning the old value. -/
  | aand (o : Atom)
  /-- AOR (R102). Atomic OR returning the old value. -/
  | aor (o : Atom)
  /-- AXOR (R102). Atomic XOR returning the old value. -/
  | axor (o : Atom)
  /-- AMIN (R102). Atomic signed minimum. -/
  | amin (o : Atom)
  /-- AMAX (R102). Atomic signed maximum. -/
  | amax (o : Atom)
  /-- AMINN (R102). Atomic natural minimum. -/
  | aminn (o : Atom)
  /-- AMAXN (R102). Atomic natural maximum. -/
  | amaxn (o : Atom)
  /-- ASWAP (R102). Atomic swap. -/
  | aswap (o : Atom)
  /-- ACAS (R102). Atomic compare-and-swap against d. -/
  | acas (o : Atom)
  /-- AFADD (R102). Atomic floating add rounded by RNE. -/
  | afadd (o : Atom)
  /-- LR (R103). Loads and reserves the 64-byte granule. -/
  | lr (o : AtomLr)
  /-- SC (R103). Stores if the reservation holds and reports success. -/
  | sc (o : AtomG)
  /-- ACAS2 (R102). Atomic 16-byte compare-and-swap on register pairs. -/
  | acas2 (o : AtomC)
  /-- APPND (R104). Appends b at the rounded tail of an APPEND page and returns the offset. -/
  | appnd (o : AtomG)
  /-- TAILQ (R105). Reads the tail of an APPEND page with the sealed bit. -/
  | tailq (o : A2)
  /-- SEAL (R106). Waits for earlier appends, seals the page and returns the tail. -/
  | sealPage (o : A2)
  /-- B_EQ (R88). Branches if a equals b. -/
  | bEq (o : Br)
  /-- B_NE (R88). Branches if a differs from b. -/
  | bNe (o : Br)
  /-- B_LT (R88). Branches if a < b signed. -/
  | bLt (o : Br)
  /-- B_GE (R88). Branches if a ≥ b signed. -/
  | bGe (o : Br)
  /-- B_LTN (R88). Branches if a < b natural. -/
  | bLtn (o : Br)
  /-- B_GEN (R88). Branches if a ≥ b natural. -/
  | bGen (o : Br)
  /-- JMP (R89). Writes the link and jumps PC-relative. -/
  | jmp (o : Jmp)
  /-- JR (R89). Jumps to the address in a, writing the link. -/
  | jr (o : A2)
  /-- JTAB (R90). Jumps through a bounded table in global memory. -/
  | jtab (o : AB)
  /-- FIN (R32). Waits for VEND and tokens, releases and frees the slot. -/
  | fin (o : A0)
  /-- YIELD (R91). Moves the strand behind other ready strands of its priority. -/
  | yield (o : A0)
  /-- ALIGN (R193). Waits for the quad alignment set at the same PC or a timeout. -/
  | align (o : A0)
  /-- MFS (R108). Copies a system register into a scalar register. -/
  | mfs (o : SysD)
  /-- MTS (R108). Writes a scalar into a system register under its access rules. -/
  | mts (o : SysA)
  /-- TRAP (R109). Raises cause TRAP with the 12-bit code. -/
  | trap (o : Code)
  /-- LOXI (R107). Loads a zero-extended 20-bit immediate into an ox register. -/
  | loxi (o : Upper)
  /-- LOX (R107). Copies a scalar into an ox register. -/
  | lox (o : A2)
  /-- SOX (R107). Copies an ox register into a scalar. -/
  | sox (o : A2)
  /-- FENCE_ACQ (R98). Acquire ordering with no access. -/
  | fenceAcq (o : A0)
  /-- FENCE_REL (R98). Release ordering with no access. -/
  | fenceRel (o : A0)
  /-- FENCE_FULL (R98). Acquire, release and store-load ordering. -/
  | fenceFull (o : A0)
  /-- PERSIST (R99). Releases, writes back a range and reports persistence. -/
  | persist (o : A3)
  /-- WINWAIT (R100). Releases and waits until window N + 2 of the last pod write. -/
  | winwait (o : AD)
  /-- FEATQ (R111). Returns a word of the feature table. -/
  | featq (o : A2)
  /-- IMPLQ (R111). Returns a word of the implementation table. -/
  | implq (o : A2)
  /-- TRET (R110). Restores PM and IE and resumes the streams after a trap. -/
  | tret (o : A0)
  /-- WFI (R111). Stops issue until an interrupt, inbox arrival or pre-emption is pending. -/
  | wfi (o : A0)
  /-- MIGR (R112). Dequeues the oldest migrated strand into a save area. -/
  | migr (o : A2)
  /-- MIGRET (R186). Reloads a parked strand's C-state and resumes it. -/
  | migret (o : AB)
  /-- TLBINV (R247). Invalidates translations package-wide and retries held requests. -/
  | tlbinv (o : AB)
  /-- HARVEST (R250). Writes collected access and dirty records into leaf entries. -/
  | harvest (o : A3)
  /-- WBINV (R112). Writes back and invalidates cached copies of a range. -/
  | wbinv (o : AB)
  /-- PFREE (R262). Scrubs and frees a physical frame. -/
  | pfree (o : A2)
  /-- KILL (R112). Kills a task group with gate cleanup. -/
  | kill (o : A2)
  /-- SEND (R172). Sends a one-doubleword message. -/
  | send (o : AB)
  /-- SENDM (R172). Sends a message with a register run as payload. -/
  | sendm (o : AB)
  /-- RECV (R172). Removes the oldest inbox message into a register run. -/
  | recv (o : AD)
  /-- AMSG (R173). Sends an active message to a core's handler queue. -/
  | amsg (o : AB)
  /-- AMRET (R178). Optionally replies, then ends the handler firing. -/
  | amret (o : AB)
  /-- MBOXQ (R174). Returns a count of inbox, queue or buffer occupancy. -/
  | mboxq (o : A2)
  /-- LOOPB (R175). Deposits a message into the core's own inbox if below 48. -/
  | loopb (o : A3)
  /-- RGET (R176). Starts a hardware remote read into the scratchpad. -/
  | rget (o : AB)
  /-- RPUT (R176). Starts a hardware remote write from the scratchpad. -/
  | rput (o : AB)
  /-- TSPAWN (R294). Enqueues a task from a descriptor. -/
  | tspawn (o : A3)
  /-- TSTAMP (R296). Reads the firing's timestamp, ID, group or tenant. -/
  | tstamp (o : A2)
  /-- TABORT (R297). Aborts a speculative firing, requeuing or discarding it. -/
  | tabort (o : AA)
  /-- FPUSH (R305). Writes an entry to an actor output FIFO. -/
  | fpush (o : A3)
  /-- FPOP (R305). Removes the oldest entry of an actor input FIFO. -/
  | fpop (o : A2)
  /-- FCNT (R305). Returns the entries held in an actor FIFO. -/
  | fcnt (o : A2)
  /-- DCSET (R295). Allocates a dependence counter. -/
  | dcset (o : A2)
  /-- DCDEC (R295). Decrements a counter and readies attached tasks at zero. -/
  | dcdec (o : A2)
  /-- ADECL (R303). Declares or removes an actor. -/
  | adecl (o : A3)
  /-- GCALL (R149). Checks a gate, pushes a frame and enters the target domain. -/
  | gcall (o : AB)
  /-- GRET (R152). Drains, pops the innermost frame and returns to the caller. -/
  | gret (o : A0)
  /-- GSTAT (R153). Reads the status of the last gate return. -/
  | gstat (o : AD)
  /-- GPUB (R147). Publishes or closes a gate table entry. -/
  | gpub (o : A3)
  /-- GREVOKE (R157). Revokes a domain, closes its gates, starts unwinds and waits for HOLD 0. -/
  | grevoke (o : A2)
  /-- GQRY (R158). Queries a gate, domain entry or frame without trapping. -/
  | gqry (o : A3)
  /-- COPY (R199). Issues an asynchronous copy command with a token. -/
  | copy (o : X3)
  /-- COPYMM (R201). Issues a copy followed by a matrix follow-on command. -/
  | copymm (o : X3)
  /-- BPREF (R202). Brings the lines of a range into L2. -/
  | bpref (o : X3)
  /-- BAR (R206). Arrives at a counted bell phase and waits for completion. -/
  | bar (o : Bell)
  /-- BARA (R206). Arrives with a value to reduce and returns the ticket. -/
  | bara (o : BellB)
  /-- BARW (R206). Waits for a ticketed phase and returns its result. -/
  | barw (o : BellB)
  /-- BARPH (R208). Arrives at a numbered phase of a phased channel and waits. -/
  | barph (o : BellB)
  /-- IPDEP (R196). Deposits an iteration range in the pool. -/
  | ipdep (o : A3)
  /-- IPDRAW (R196). Draws up to a limit of iterations from the pool. -/
  | ipdraw (o : A3)
  /-- APXCALL (R315). Serves a region from the surrogate or opens a record and runs it. -/
  | apxcall (o : X3)
  /-- APXRET (R316). Closes the region record and sends a sample. -/
  | apxret (o : X2)
  /-- APXCFG (R314). Configures, sets the mode of or exports a Tutor slot. -/
  | apxcfg (o : X3)
  /-- APXQRY (R322). Queries a Tutor slot. -/
  | apxqry (o : A2)
  /-- APXINV (R323). Invalidates one or all owned Tutor slots. -/
  | apxinv (o : A2)
  /-- VMOV (R115). Copies a vector register with tag and side field. -/
  | vmov (o : V2)
  /-- VSEL (R115). Selects lanes of va or vb by mask. -/
  | vsel (o : V3)
  /-- VSHUF (R115). Permutes lanes by an index vector. -/
  | vshuf (o : V3)
  /-- VROT (R115). Rotates lanes. -/
  | vrot (o : V3)
  /-- VEXT (R115). Shifts lanes with zero fill. -/
  | vext (o : V3)
  /-- VLI (R115). Writes a sign-extended immediate to every lane, tag I32. -/
  | vli (o : VImm)
  /-- VBCAST (R116). Broadcasts a k register into every element of a tag. -/
  | vbcast (o : VT)
  /-- VABS (R115). Clears the sign bit of each element. -/
  | vabs (o : V2)
  /-- VNEG (R115). Inverts the sign bit of each element. -/
  | vneg (o : V2)
  /-- VCPS (R115). Copies the sign of vb onto va. -/
  | vcps (o : V3)
  /-- VTAG (R115). Retags a register without changing its data. -/
  | vtag (o : VTag)
  /-- VCLASS (R117). Classifies each float element into a one-hot I32. -/
  | vclass (o : V2)
  /-- VADD (R118). Vector float add, rounding by major. -/
  | vadd (o : VR3)
  /-- VSUB (R118). Vector float subtract. -/
  | vsub (o : VR3)
  /-- VMUL (R118). Vector float multiply. -/
  | vmul (o : VR3)
  /-- VFMA (R118). Fused multiply-add into vd. -/
  | vfma (o : VR3)
  /-- VFMS (R118). Fused multiply-subtract of vd. -/
  | vfms (o : VR3)
  /-- VFNMA (R118). Fused negated multiply-add. -/
  | vfnma (o : VR3)
  /-- VDIV (R118). Vector float divide. -/
  | vdiv (o : VR3)
  /-- VSQRT (R118). Vector float square root. -/
  | vsqrt (o : VR2)
  /-- VRCP (R118). Vector reciprocal. -/
  | vrcp (o : VR2)
  /-- VRSQ (R118). Vector reciprocal square root. -/
  | vrsq (o : VR2)
  /-- VMIN (R119). Vector float minimum without rounding. -/
  | vmin (o : V3)
  /-- VMAX (R119). Vector float maximum without rounding. -/
  | vmax (o : V3)
  /-- VEXP2 (R120). Computes 2^x in FP32 by the fixed polynomial. -/
  | vexp2 (o : VR2)
  /-- VLOG2 (R121). Computes log2 x in FP32 by the fixed polynomial. -/
  | vlog2 (o : VR2)
  /-- VIADD (R122). Wrapping integer vector add. -/
  | viadd (o : V3)
  /-- VISUB (R122). Wrapping integer vector subtract. -/
  | visub (o : V3)
  /-- VIMUL (R122). Low half of integer vector product. -/
  | vimul (o : V3)
  /-- VIMULH (R122). High half of integer vector product. -/
  | vimulh (o : V3)
  /-- VAND (R122). Bitwise AND of lanes. -/
  | vand (o : V3)
  /-- VOR (R122). Bitwise OR of lanes. -/
  | vor (o : V3)
  /-- VXOR (R122). Bitwise XOR of lanes. -/
  | vxor (o : V3)
  /-- VSHL (R122). Shifts elements left. -/
  | vshl (o : V3)
  /-- VSHR (R122). Shifts elements right logically. -/
  | vshr (o : V3)
  /-- VSHRA (R122). Shifts elements right arithmetically. -/
  | vshra (o : V3)
  /-- VIMIN (R122). Signed element minimum. -/
  | vimin (o : V3)
  /-- VIMAX (R122). Signed element maximum. -/
  | vimax (o : V3)
  /-- VIMINN (R122). Natural element minimum. -/
  | viminn (o : V3)
  /-- VIMAXN (R122). Natural element maximum. -/
  | vimaxn (o : V3)
  /-- VSADD (R122). Saturating element add. -/
  | vsadd (o : V3)
  /-- VSSUB (R122). Saturating element subtract. -/
  | vssub (o : V3)
  /-- VABSD (R123). Absolute difference of integer elements. -/
  | vabsd (o : V3)
  /-- VCMP_EQ (R124). Sets mask bits where elements are equal. -/
  | vcmpEq (o : V3)
  /-- VCMP_NE (R124). Sets mask bits where elements differ. -/
  | vcmpNe (o : V3)
  /-- VCMP_LT (R124). Sets mask bits where va < vb. -/
  | vcmpLt (o : V3)
  /-- VCMP_LE (R124). Sets mask bits where va ≤ vb. -/
  | vcmpLe (o : V3)
  /-- VCMP_LTN (R124). Sets mask bits where va < vb natural. -/
  | vcmpLtn (o : V3)
  /-- VCMP_LEN (R124). Sets mask bits where va ≤ vb natural. -/
  | vcmpLen (o : V3)
  /-- VCVT (R127). Converts elements to another tag. -/
  | vcvt (o : Cvt)
  /-- VPACK (R128). Converts and packs elements into the low end of vd. -/
  | vpack (o : Pack)
  /-- VSCALE (R130). Scales elements or block scale bytes by powers of two. -/
  | vscale (o : Scale)
  /-- VUNPK (R129). Unpacks a part of va, widening exactly. -/
  | vunpk (o : Unpk)
  /-- VRED_ADD (R131). Sums lanes by the fixed pairwise tree into a k register. -/
  | vredAdd (o : V2)
  /-- VRED_MIN (R131). Reduces lanes by minimum. -/
  | vredMin (o : V2)
  /-- VRED_MAX (R131). Reduces lanes by maximum. -/
  | vredMax (o : V2)
  /-- VRED_MINN (R131). Reduces lanes by natural minimum. -/
  | vredMinn (o : V2)
  /-- VRED_MAXN (R131). Reduces lanes by natural maximum. -/
  | vredMaxn (o : V2)
  /-- VRED_AND (R131). Reduces lanes by AND. -/
  | vredAnd (o : V2)
  /-- VRED_OR (R131). Reduces lanes by OR. -/
  | vredOr (o : V2)
  /-- VRED_XOR (R131). Reduces lanes by XOR. -/
  | vredXor (o : V2)
  /-- VDOT (R132). Dot product by the fixed tree into a k register. -/
  | vdot (o : V3)
  /-- VSCAN_ADD (R133). Inclusive additive scan. -/
  | vscanAdd (o : V2)
  /-- VSCAN_MIN (R133). Inclusive minimum scan. -/
  | vscanMin (o : V2)
  /-- VSCAN_MAX (R133). Inclusive maximum scan. -/
  | vscanMax (o : V2)
  /-- VLD (R135). Loads 128 bytes, and scales for block tags, and sets the tag. -/
  | vld (o : VLoad)
  /-- VST (R135). Stores active lanes, and scales for block tags. -/
  | vst (o : VStore)
  /-- VGATH (R136). Gathers words by index, tag RAW. -/
  | vgath (o : VIdx)
  /-- VSCAT (R136). Scatters lanes by index in lane order. -/
  | vscat (o : VIdx)
  /-- VLDL (R137). Loads each lane from its lane slice. -/
  | vldl (o : VT)
  /-- VSTL (R137). Stores each lane to its lane slice. -/
  | vstl (o : V2)
  /-- VREST (R138). Restores a v register from a 144-byte image. -/
  | vrest (o : VSv)
  /-- VSAVE (R138). Saves a v register to a 144-byte image. -/
  | vsave (o : VSv)
  /-- QPUSH (R14). Pushes onto the queue leaving the stream. -/
  | qpush (o : AA)
  /-- QPOP (R14). Pops the oldest entry of the queue entering the stream. -/
  | qpop (o : AD)
  /-- FSET (R21). Sets a coupling flag. -/
  | fset (o : AA)
  /-- FWAIT (R21). Waits for a coupling flag and clears it. -/
  | fwait (o : AA)
  /-- BQPUSH (R139). Pushes a branch outcome. -/
  | bqpush (o : AA)
  /-- VEND (R141). Waits for V-stream work, lands writes and clears VRUN. -/
  | vend (o : A0)
  /-- MAND (R125). ANDs two masks. -/
  | mand (o : A3)
  /-- MOR (R125). ORs two masks. -/
  | mor (o : A3)
  /-- MNOT (R125). Inverts a mask. -/
  | mnot (o : A2)
  /-- MPOP (R125). Counts the set bits of a mask. -/
  | mpop (o : A2)
  /-- MFIRST (R125). Finds the lowest set bit of a mask. -/
  | mfirst (o : A2)
  /-- VSTART (R22). Loads the V-stream PC and sets VRUN. -/
  | vstart (o : J0)
  /-- VBR (R139). Pops a branch outcome and branches if taken. -/
  | vbr (o : B0)
  /-- VLOOP (R139). Pops an outcome; if taken increments ka and branches. -/
  | vloop (o : B1)
  /-- VJMP (R139). V-stream jump writing a k link. -/
  | vjmp (o : Jmp)
  /-- MMA (R226). Accumulates a matrix product into a tile. -/
  | mma (o : X3)
  /-- MMAZ (R226). Computes a matrix product into a zeroed tile. -/
  | mmaz (o : X3)
  /-- MTCX (R230). Contracts a cube tensor along one dimension into a tile. -/
  | mtcx (o : X3)
  /-- MLDT (R231). Loads a tile through a descriptor. -/
  | mldt (o : A2)
  /-- MSTT (R231). Stores a tile through a descriptor. -/
  | mstt (o : A2)
  /-- MZT (R232). Zeroes a tile and sets its tag. -/
  | mzt (o : Mz)
  /-- MCVT (R233). Converts each tile row to another tag. -/
  | mcvt (o : X3)
  /-- MTRN (R234). Transposes a tile. -/
  | mtrn (o : A2)
  /-- TMOV (R235). Moves one row between a tile and a v register. -/
  | tmov (o : X3)
  /-- TCFG (R218). Swaps MCFG and MGB with k registers. -/
  | tcfg (o : X3)
  /-- C_ADD (R48). 16-bit add d, d, a. -/
  | cAdd (o : CR)
  /-- C_SUB (R48). 16-bit sub d, d, a. -/
  | cSub (o : CR)
  /-- C_MOV (R48). 16-bit mov d, a. -/
  | cMov (o : CR)
  /-- C_AND (R48). 16-bit and d, d, a. -/
  | cAnd (o : CR)
  /-- C_OR (R48). 16-bit or d, d, a. -/
  | cOr (o : CR)
  /-- C_XOR (R48). 16-bit xor d, d, a. -/
  | cXor (o : CR)
  /-- C_ADDI (R48). 16-bit addi with a 6-bit signed immediate. -/
  | cAddi (o : CI)
  /-- C_LI (R48). 16-bit li with a 6-bit signed immediate. -/
  | cLi (o : CI)
  /-- C_SHLI (R48). 16-bit shift left immediate. -/
  | cShli (o : CI)
  /-- C_SHRI (R48). 16-bit logical shift right immediate. -/
  | cShri (o : CI)
  /-- C_SHRAI (R48). 16-bit arithmetic shift right immediate. -/
  | cShrai (o : CI)
  /-- C_BZ (R48). 16-bit branch if s(8+a) is zero. -/
  | cBz (o : CB)
  /-- C_BNZ (R48). 16-bit branch if s(8+a) is nonzero. -/
  | cBnz (o : CB)
  /-- C_LDW (R48). 16-bit word load from g:0(a). -/
  | cLdw (o : CR)
  /-- C_STW (R48). 16-bit word store to g:0(a). -/
  | cStw (o : CR)
  /-- C_LDD (R48). 16-bit doubleword load from g:0(a). -/
  | cLdd (o : CR)
  /-- C_STD (R48). 16-bit doubleword store to g:0(a). -/
  | cStd (o : CR)
  /-- C_JR (R48). 16-bit jump to register. -/
  | cJr (o : CA)
  /-- C_RET (R48). 16-bit return through s29. -/
  | cRet
  /-- C_FIN (R48). 16-bit FIN. -/
  | cFin
  /-- C_YIELD (R48). 16-bit YIELD. -/
  | cYield
  /-- TASK_DISPATCH (R298). A free general slot takes the chosen ready task and starts a firing. -/
  | taskDispatch (six : Nat)
  /-- STRAND_PARK (R95). A held translation fault parks a compute-core strand and migrates its C-state. -/
  | strandPark (six : Nat)
  /-- REPLAY_CLASS_TRAP (R95). A replay failing the class check traps the strand at its next boundary. -/
  | replayClassTrap (six : Nat)
  /-- QUANT_EXPIRY (R187). QUANT reaching zero raises a pre-emption request for the group. -/
  | quantExpiry (six : Nat)
  /-- PREEMPT_ORDER (R187). The command processor orders pre-emption of a group. -/
  | preemptOrder (gid : Nat)
  /-- PREEMPT_ENTRY (R187). A strand enters the save routine after the drain, spilling frames. -/
  | preemptEntry (six : Nat)
  /-- INTERRUPT_ENTRY (R184). An asynchronous INTR is taken at a boundary with IE = 1. -/
  | interruptEntry (six : Nat)
  /-- STREAM_AGING (R161). A stream unserved for 1,024 requesting cycles becomes aged. -/
  | streamAging (six : Nat) (st : Stream)
  /-- ALIGN_TIMEOUT (R193). An ALIGN wait ends after 256 core cycles. -/
  | alignTimeout (six : Nat)
  /-- RESERVATION_EXPIRY (R103). An LR reservation is cleared 4,096 cycles after the LR. -/
  | reservationExpiry (six : Nat)
  /-- L1_EVICTION (R252). An L1 evicting an owned word writes it back and releases the registration. -/
  | l1Eviction (core asid va : Nat)
  /-- SYNC_VALIDATION (R254). After all sharer acknowledgements the slice validates and the store performs. -/
  | syncValidation (id : Nat)
  /-- TRANSLATION_EVICTION (R250). An evicted slice translation ORs its records into the leaf's A and D bits. -/
  | translationEviction (unit asid page : Nat)
  /-- UNWIND_START (R157). At a boundary a strand with a non-LIVE domain on its stack starts unwinding. -/
  | unwindStart (six : Nat)
  /-- CLEANUP_BUDGET_EXPIRY (R157). A cleanup's budget runs out and its frame is popped. -/
  | cleanupBudgetExpiry (six : Nat)
  /-- GREVOKE_COMPLETE (R157). A waiting GREVOKE completes with d := 0 when HOLD is 0. -/
  | grevokeComplete (six : Nat)
  /-- MACHINE_CHECK (R190). An uncorrectable error kills the owning task group. -/
  | machineCheck (gid sub six : Nat)
  /-- TASK_COMMIT (R301). The package arbiter commits the oldest finished timed task. -/
  | taskCommit (gid : Nat)
  /-- QUEUE_NOTIFY (R285). A store to a notify register wakes the command processor or sets PEND. -/
  | queueNotify (die q : Nat)
  /-- QUEUE_MAP (R285). Mapping a queue with PEND clears it and acts as a notify. -/
  | queueMap (die q : Nat)
  /-- PACKET_LAUNCH (R288). The command processor launches a group from a LAUNCH packet. -/
  | packetLaunch (die q : Nat)
  /-- PACKET_SIGNAL (R286). The command processor decrements the signal of a SIGNAL packet. -/
  | packetSignal (die q : Nat)
  /-- PACKET_RESUME (R307). The command processor rebinds a group and dispatches restore routines. -/
  | packetResume (die q : Nat)
  /-- PACKET_REJECT (R286). An invalid packet is marked ERR and its signal decremented. -/
  | packetReject (die q : Nat)
  /-- GROUP_COMPLETION (R289). A group ends, unbinds and decrements its completion signal. -/
  | groupCompletion (gid : Nat)
  /-- SPILL_WRITE (R306). The command processor writes a pre-empted group's spill area. -/
  | spillWrite (gid : Nat)
  /-- MESSAGE_ARRIVAL (R381). A request-network message reaches a core's request port or destination. -/
  | messageArrival (core idx : Nat)
  /-- REQUEST_PORT_RELEASE (R381). The request port passes a held arrival on when its destination has room. -/
  | requestPortRelease (core idx : Nat)
  /-- HANDLER_DISPATCH (R177). Slot 6 dispatches a handler firing for the oldest active message. -/
  | handlerDispatch (core : Nat)
  /-- HW_ATOMIC_ENTRY (R179). Slot 6 performs a queued hardware atomic on a scratchpad word. -/
  | hwAtomicEntry (core : Nat)
  /-- OVERFLOW_DISPATCH (R180). Slot 7 dispatches the overflow routine when the inbox fills. -/
  | overflowDispatch (core : Nat)
  /-- ACTOR_FIRE (R304). An actor whose FIFOs allow fires as an untimed task. -/
  | actorFire (six actor : Nat)
  /-- FIFO_OUTPUT_SEND (R305). The message unit sends an actor output entry as a message. -/
  | fifoOutputSend (core actor out : Nat)
  /-- ENGINE_COMMAND_START (R203). An engine command begins once conflicting earlier commands complete. -/
  | engineCommandStart (cl id : Nat)
  /-- COPY_COMPLETION (R200). The engine writes the token and releases the ranges. -/
  | copyCompletion (cl id : Nat)
  /-- COPYMM_FOLLOW_ON (R201). After the copy the engine issues the follow-on to the matrix unit. -/
  | copymmFollowOn (cl id : Nat)
  /-- REMOTE_TRANSFER_COMPLETION (R176). An RGET or RPUT finishes and delivers its completion message. -/
  | remoteTransferCompletion (cl id : Nat)
  /-- MATRIX_COMMAND_START (R226). A matrix command begins in the unit and shadows its tile. -/
  | matrixCommandStart (cl id : Nat)
  /-- MATRIX_COMMAND_COMPLETION (R227). A matrix command completes, releases hulls and ORs flags. -/
  | matrixCommandCompletion (cl id : Nat)
  /-- MATRIX_REPLAY (R229). After fault service a matrix command replays from its start. -/
  | matrixReplay (cl id : Nat)
  /-- MATRIX_DEFERRED_TRAP (R229). A class or window failure traps the strand at the next V boundary. -/
  | matrixDeferredTrap (six : Nat)
  /-- TUTOR_SAMPLE (R319). The engine takes a sample and updates the running error and mode. -/
  | tutorSample (cl : Nat)
  /-- DOMAIN_ROOT_STORE (R143). A store to word 1 of a DEAD entry sets the page-table root. -/
  | domainRootStore (asid : Nat) (v : Word)
  /-- DOMAIN_ACTIVATE (R143). A store to word 0 makes a DEAD entry LIVE and advances GEN. -/
  | domainActivate (asid : Nat) (v : Word)
  /-- FRAME_ASSIGN_OWNER (R259). A store gives an unowned ORDINARY frame an owner. -/
  | frameAssignOwner (fr : Nat) (v : Word)
  /-- FRAME_SET_APPEND (R259). A store makes an owned ORDINARY frame APPEND with tail 0. -/
  | frameSetAppend (fr : Nat) (v : Word)
  /-- CSP_BLOCK_STORE (R257). A store to a chip-scratchpad block entry starts reassignment. -/
  | cspBlockStore (die b : Nat) (v : Word)
  /-- CSP_BLOCK_INSTALL (R257). After the drain the block is zeroed and the new entry installed. -/
  | cspBlockInstall (die b : Nat)
  /-- PMARK_WRITE (R335). A privileged write sets or clears a port's persistent mark. -/
  | pmarkWrite (p : Nat) (v : Word)
  /-- PBUDGET_WRITE (R343). A write sets the package power budget, clamped. -/
  | pbudgetWrite (v : Word)
  /-- GATEREQ_WRITE (R343). A write requests gating or ungating of clusters. -/
  | gatereqWrite (v : Word)
  /-- CLUSTER_GATING (R212). An unbound cluster drains its state and loses supply. -/
  | clusterGating (cl : Nat)
  /-- CLUSTER_UNGATING (R343). A cluster regains supply and its GATED bit clears. -/
  | clusterUngating (cl : Nat)
  /-- POWER_INTERVAL (R342). Every microsecond the arbiter divides the budget among clusters. -/
  | powerInterval (throt : Word)
  /-- FREEZE_PIN (R344). FRZ_N lands pending writes and stops every clock. -/
  | freezePin
  /-- FREEZE_WRITE (R344). Writing 0xF0F0_0001 to the management block freezes the package. -/
  | freezeWrite (v : Word)
  /-- EXTEND (R346). Extends a measurement register with a digest. -/
  | extend
  /-- QUOTE (R346). Writes and signs the measurement quote. -/
  | quote
  /-- RESET (R347). Reset brings the package to its reset state and starts the boot ROM. -/
  | reset
  /-- WINCFG_WRITE (R360). A write configures pod membership and window length while EN is 0. -/
  | wincfgWrite (v : Word)
  /-- HOSTINT (R341). A doorbell store requests an MSI-X vector of a function. -/
  | hostint (f : Nat) (v : Word)
  /-- REGISTER_WRITE (R336). A privileged write to a table or register without behaviour of its own. -/
  | registerWrite (pa : Nat) (v : Word)
  /-- HOST_WRITE (R339). A host write through BAR 2 is performed as a release of its function. -/
  | hostWrite (f pa : Nat) (v : Lane)
  /-- HOST_READ (R339). A host read through BAR 2 is performed as an acquire. -/
  | hostRead (f pa : Nat)
  /-- HOST_NOTIFY (R339). A VF write to a notify page notifies a queue of its tenant. -/
  | hostNotify (f die q : Nat)
  /-- FLR_VF (R341). Function Level Reset of a VF kills the tenant's groups and unmaps its queues. -/
  | flrVf (t : Nat)
  /-- FLR_PF (R341). Function Level Reset of PF0 does so for every virtual function. -/
  | flrPf
  /-- PCIE_LOAD_TIMEOUT (R340). A window load not completed within 50 ms raises MACHINE LINK. -/
  | pcieLoadTimeout (id : Nat)
  /-- FLIT_RECEIVE (R353). A received flit is checked, acknowledged or NAKed, with flow control. -/
  | flitReceive (link : Nat) (flit : BitVec 2048)
  /-- LINK_RETRAIN (R353). A lane failure retrains the link and resends unacknowledged flits. -/
  | linkRetrain (link lanes : Nat)
  /-- ROUTE_CHANGE (R355). The fabric moves a stream to a new path preserving order. -/
  | routeChange (dest cls link : Nat)
  /-- PTP_MESSAGE (R356). A precision time protocol control flit adjusts the pod clock. -/
  | ptpMessage (ptp : PtpMsg)
  /-- WINDOW_CLOSE (R357). At window end the package sends close markers once its writes are acknowledged. -/
  | windowClose
  /-- CLOSE_MARKER (R357). A close marker from a member arrives. -/
  | closeMarker (p n : Nat)
  /-- WINDOW_ENTRY (R357). The package enters window N + 2, drops remote copies and releases waits. -/
  | windowEntry
  /-- MEMBER_FAILURE (R359). A member silent for four windows is removed as failed. -/
  | memberFailure (p : Nat)
  /-- POD_ACCESS (R350). A remote access arrives at its home package and is performed there. -/
  | podAccess (req : PodReq)
  /-- POISONED_LINE (R334). An uncorrectable ECC error in an HBM, capacity or chip-scratchpad line marks it poisoned. -/
  | poisonedLine (sp : Nat) (addr : Nat)
  /-- REPLY_NETWORK_ARRIVAL (R170). A reply-network message reaches its target core's inbox, or waits in the reply network while the inbox
  is full. -/
  | replyNetworkArrival (core idx : Nat)
  /-- REMOTE_INVALIDATION (R362). A PFREE invalidation from another package arrives and drops the frame's sealed replicas before the next
  close marker. -/
  | remoteInvalidation (p fr : Nat)
  /-- TIMER_INTERRUPT (R183). A timer raises INTR with subcode TIMER as pending on a principal or chiplet core. -/
  | timerInterrupt (core src : Nat)
  deriving DecidableEq, Repr

end Sys2Proof
end

