-- ==== Sys2Proof/WellFormed.lean ====
section
/-! DEFINITION. Which terms of `Instr` are well formed: the register classes of R49, the reserved codes of R46, R54, R58,
R116, R126 and R232, the forbidden combinations of R51 and R54, the register limits of R172, R197, R218 and R305, and the
system register numbers of R27. For an event: that it names a unit the package has (R2, R149, R283, R288). -/

namespace Sys2Proof

/-- A tag code that is not reserved and not block-scaled (R58, R116, R232). -/
abbrev plainTag (t : BitVec 5) : Prop := t < 24 ∧ ¬ (15 ≤ t ∧ t ≤ 21)

/-- The spaces of majors 0x30, 0x31 and 0x33: G, C, P and D (R46, R54). -/
abbrev vectorSpace (s : BitVec 3) : Prop := s ≤ 4 ∧ s ≠ 3

/-- A mask destination: m1 to m7 (R25, R49). -/
abbrev maskDest (d : BitVec 5) : Prop := 1 ≤ d ∧ d < 8

/-- A block-scaled destination tag takes no mask but m0 (R113). -/
abbrev blockMask (t : BitVec 5) (m : BitVec 3) : Prop := 15 ≤ t ∧ t ≤ 21 → m = 0

/-- The checks on an instruction's own fields; the decoder raises ILLEGAL where they fail (R56 check 2). -/
def Instr.wf : Instr → Bool
  | .bfx o => decide (o.p.toNat + o.n.toNat < 64)
  | .bfi o => decide (o.p.toNat + o.n.toNat < 64)
  | .ldbn o => decide (o.space ≤ 4)
  | .ldhn o => decide (o.space ≤ 4)
  | .ldwn o => decide (o.space ≤ 4)
  | .ldd o => decide (o.space ≤ 4)
  | .ldb o => decide (o.space ≤ 4)
  | .ldh o => decide (o.space ≤ 4)
  | .ldw o => decide (o.space ≤ 4)
  | .stb o => decide (o.space ≤ 4)
  | .sth o => decide (o.space ≤ 4)
  | .stw o => decide (o.space ≤ 4)
  | .std o => decide (o.space ≤ 4)
  | .ldacq o => decide (o.space ≤ 4)
  | .strel o => decide (o.space ≤ 4)
  | .acas2 o => decide (o.d % 2 = 0 ∧ o.b % 2 = 0 ∧ o.d ≠ 0)
  | .mfs o => decide (o.n ≤ 12)
  | .mts o => decide (o.n ≤ 12)
  | .loxi o => decide (o.d < 8)
  | .lox o => decide (o.d < 8)
  | .sox o => decide (o.a < 8)
  | .recv o => decide (1 ≤ o.d ∧ o.d ≤ 27)
  | .fpop o => decide (1 ≤ o.d ∧ o.d ≤ 27)
  | .copy o => decide (o.d ≠ 0 ∧ o.x ≤ 6)
  | .copymm o => decide (o.d ≠ 0 ∧ o.x ≤ 5)
  | .bpref o => decide (o.d ≠ 0)
  | .bar o => decide (2 ≤ o.c ∧ o.c ≤ 6)
  | .bara o => decide (2 ≤ o.c ∧ o.c ≤ 6)
  | .barw o => decide (2 ≤ o.c ∧ o.c ≤ 6)
  | .barph o => decide (2 ≤ o.c ∧ o.c ≤ 6)
  | .vbcast o => decide (o.a < 16 ∧ plainTag o.t)
  | .vtag o => decide (o.t < 24)
  | .vadd o => decide (1 ≤ o.r ∧ o.r ≤ 5)
  | .vsub o => decide (1 ≤ o.r ∧ o.r ≤ 5)
  | .vmul o => decide (1 ≤ o.r ∧ o.r ≤ 5)
  | .vfma o => decide (1 ≤ o.r ∧ o.r ≤ 5)
  | .vfms o => decide (1 ≤ o.r ∧ o.r ≤ 5)
  | .vfnma o => decide (1 ≤ o.r ∧ o.r ≤ 5)
  | .vdiv o => decide (1 ≤ o.r ∧ o.r ≤ 5)
  | .vsqrt o => decide (1 ≤ o.r ∧ o.r ≤ 5)
  | .vrcp o => decide (1 ≤ o.r ∧ o.r ≤ 5)
  | .vrsq o => decide (1 ≤ o.r ∧ o.r ≤ 5)
  | .vexp2 o => decide (1 ≤ o.r ∧ o.r ≤ 5)
  | .vlog2 o => decide (1 ≤ o.r ∧ o.r ≤ 5)
  | .vcmpEq o => decide (maskDest o.d)
  | .vcmpNe o => decide (maskDest o.d)
  | .vcmpLt o => decide (maskDest o.d)
  | .vcmpLe o => decide (maskDest o.d)
  | .vcmpLtn o => decide (maskDest o.d)
  | .vcmpLen o => decide (maskDest o.d)
  | .vcvt o => decide (1 ≤ o.t ∧ o.t < 24 ∧ o.r ≤ 5 ∧ blockMask o.t o.m)
  | .vpack o => decide (1 ≤ o.t ∧ o.t < 24 ∧ o.r ≤ 5)
  | .vscale o => decide (o.r ≤ 4)
  | .vunpk o => decide (1 ≤ o.t ∧ o.t < 24)
  | .vredAdd o => decide (o.d < 16)
  | .vredMin o => decide (o.d < 16)
  | .vredMax o => decide (o.d < 16)
  | .vredMinn o => decide (o.d < 16)
  | .vredMaxn o => decide (o.d < 16)
  | .vredAnd o => decide (o.d < 16)
  | .vredOr o => decide (o.d < 16)
  | .vredXor o => decide (o.d < 16)
  | .vdot o => decide (o.d < 16)
  | .vld o => decide (o.a < 16 ∧ vectorSpace o.s ∧ o.t < 24 ∧ blockMask o.t o.m)
  | .vst o => decide (o.a < 16 ∧ vectorSpace o.s)
  | .vgath o => decide (o.a < 16 ∧ vectorSpace o.s)
  | .vscat o => decide (o.a < 16 ∧ vectorSpace o.s)
  | .vldl o => decide (o.a < 16 ∧ o.t < 24 ∧ blockMask o.t o.m)
  | .vstl o => decide (o.a < 16)
  | .vrest o => decide (o.a < 16 ∧ vectorSpace o.s)
  | .vsave o => decide (o.a < 16 ∧ vectorSpace o.s)
  | .fset o => decide (o.a < 8)
  | .fwait o => decide (o.a < 8)
  | .mand o => decide (maskDest o.d ∧ o.a < 8 ∧ o.b < 8)
  | .mor o => decide (maskDest o.d ∧ o.a < 8 ∧ o.b < 8)
  | .mnot o => decide (maskDest o.d ∧ o.a < 8)
  | .mpop o => decide (o.d < 16 ∧ o.a < 8)
  | .mfirst o => decide (o.d < 16 ∧ o.a < 8)
  | .vloop o => decide (o.a < 16)
  | .vjmp o => decide (o.link < 16)
  | .mma o => decide (o.d < 4 ∧ o.a < 16)
  | .mmaz o => decide (o.d < 4 ∧ o.a < 16)
  | .mtcx o => decide (o.d < 4 ∧ o.a < 16)
  | .mldt o => decide (o.d < 4 ∧ o.a < 16)
  | .mstt o => decide (o.d < 4 ∧ o.a < 16)
  | .mzt o => decide (o.d < 4 ∧ plainTag o.t)
  | .mcvt o => decide (o.d < 4 ∧ o.a < 4)
  | .mtrn o => decide (o.d < 4 ∧ o.a < 4)
  | .tmov o => decide (o.a < 4)
  | .tcfg o => decide (o.d < 15 ∧ o.a < 16)
  | .taskDispatch six => decide (six < 8704)
  | .strandPark six => decide (six < 8704)
  | .replayClassTrap six => decide (six < 8704)
  | .quantExpiry six => decide (six < 8704)
  | .preemptOrder gid => decide (gid < 4096)
  | .preemptEntry six => decide (six < 8704)
  | .interruptEntry six => decide (six < 8704)
  | .streamAging six _ => decide (six < 8704)
  | .alignTimeout six => decide (six < 8704)
  | .reservationExpiry six => decide (six < 8704)
  | .l1Eviction core asid _ => decide (core < 1088 ∧ asid < 4096)
  | .translationEviction _ asid _ => decide (asid < 4096)
  | .unwindStart six => decide (six < 8704)
  | .cleanupBudgetExpiry six => decide (six < 8704)
  | .grevokeComplete six => decide (six < 8704)
  | .machineCheck gid _ six => decide (gid < 4096 ∧ six < 8704)
  | .taskCommit gid => decide (gid < 4096)
  | .queueNotify die q => decide (die < 4 ∧ q < 1024)
  | .queueMap die q => decide (die < 4 ∧ q < 1024)
  | .packetLaunch die q => decide (die < 4 ∧ q < 1024)
  | .packetSignal die q => decide (die < 4 ∧ q < 1024)
  | .packetResume die q => decide (die < 4 ∧ q < 1024)
  | .packetReject die q => decide (die < 4 ∧ q < 1024)
  | .groupCompletion gid => decide (gid < 4096)
  | .spillWrite gid => decide (gid < 4096)
  | .messageArrival core _ => decide (core < 1088)
  | .requestPortRelease core _ => decide (core < 1088)
  | .handlerDispatch core => decide (core < 1088)
  | .hwAtomicEntry core => decide (core < 1088)
  | .overflowDispatch core => decide (core < 1088)
  | .actorFire six actor => decide (six < 8704 ∧ actor < 32)
  | .fifoOutputSend core actor out => decide (core < 1088 ∧ actor < 32 ∧ out < 4)
  | .engineCommandStart cl _ => decide (cl < 32)
  | .copyCompletion cl _ => decide (cl < 32)
  | .copymmFollowOn cl _ => decide (cl < 32)
  | .remoteTransferCompletion cl _ => decide (cl < 32)
  | .matrixCommandStart cl _ => decide (cl < 32)
  | .matrixCommandCompletion cl _ => decide (cl < 32)
  | .matrixReplay cl _ => decide (cl < 32)
  | .matrixDeferredTrap six => decide (six < 8704)
  | .tutorSample cl => decide (cl < 32)
  | .domainRootStore asid _ => decide (asid < 4096)
  | .domainActivate asid _ => decide (asid < 4096)
  | .cspBlockStore die b _ => decide (die < 4 ∧ b < 64)
  | .cspBlockInstall die b => decide (die < 4 ∧ b < 64)
  | .pmarkWrite p _ => decide (p < 8)
  | .clusterGating cl => decide (cl < 32)
  | .clusterUngating cl => decide (cl < 32)
  | .hostWrite f pa _ => decide (f ≤ 64 ∧ pa % 4 = 0)
  | .hostRead f pa => decide (f ≤ 64 ∧ pa % 4 = 0)
  | .hostNotify f die q => decide (f < 64 ∧ die < 4 ∧ q < 1024)
  | .flrVf t => decide (t < 64)
  | .flitReceive link _ => decide (link < 12)
  | .linkRetrain link lanes => decide (link < 12 ∧ lanes ≤ 8)
  | .routeChange dest cls link => decide (link < 12 ∧ cls < 3 ∧ dest < 128)
  | .closeMarker p _ => decide (p < 128)
  | .memberFailure p => decide (p < 128)
  | .podAccess req => decide (req.src < 128)
  | .replyNetworkArrival core _ => decide (core < 1088)
  | .remoteInvalidation p _ => decide (p < 128)
  | .timerInterrupt core _ => decide (core < 1088)
  | .add _ | .sub _ | .and _ | .or _ | .xor _ | .andn _ | .orn _ | .xnor _ | .shl _ | .shr _ | .shra _ | .rot _
  | .min _ | .max _ | .minn _ | .maxn _ | .cmpeq _ | .cmplt _ | .cmpltn _ | .cmple _ | .cmplen _ | .sel _ | .mul _
  | .mulh _ | .mulhn _ | .div _ | .divn _ | .rem _ | .remn _ | .clz _ | .ctz _ | .popc _ | .bswap _ | .sextb _
  | .sexth _ | .sextw _ | .addi _ | .andi _ | .ori _ | .xori _ | .shli _ | .shri _ | .shrai _ | .roti _ | .lui _
  | .lea _ | .aadd _ | .aand _ | .aor _ | .axor _ | .amin _ | .amax _ | .aminn _ | .amaxn _ | .aswap _ | .acas _
  | .afadd _ | .lr _ | .sc _ | .appnd _ | .tailq _ | .sealPage _ | .bEq _ | .bNe _ | .bLt _ | .bGe _ | .bLtn _
  | .bGen _ | .jmp _ | .jr _ | .jtab _ | .fin _ | .yield _ | .align _ | .trap _ | .fenceAcq _ | .fenceRel _
  | .fenceFull _ | .persist _ | .winwait _ | .featq _ | .implq _ | .tret _ | .wfi _ | .migr _ | .migret _
  | .tlbinv _ | .harvest _ | .wbinv _ | .pfree _ | .kill _ | .send _ | .sendm _ | .amsg _ | .amret _ | .mboxq _
  | .loopb _ | .rget _ | .rput _ | .tspawn _ | .tstamp _ | .tabort _ | .fpush _ | .fcnt _ | .dcset _ | .dcdec _
  | .adecl _ | .gcall _ | .gret _ | .gstat _ | .gpub _ | .grevoke _ | .gqry _ | .ipdep _ | .ipdraw _ | .apxcall _
  | .apxret _ | .apxcfg _ | .apxqry _ | .apxinv _ | .vmov _ | .vsel _ | .vshuf _ | .vrot _ | .vext _ | .vli _
  | .vabs _ | .vneg _ | .vcps _ | .vclass _ | .vmin _ | .vmax _ | .viadd _ | .visub _ | .vimul _ | .vimulh _
  | .vand _ | .vor _ | .vxor _ | .vshl _ | .vshr _ | .vshra _ | .vimin _ | .vimax _ | .viminn _ | .vimaxn _
  | .vsadd _ | .vssub _ | .vabsd _ | .vscanAdd _ | .vscanMin _ | .vscanMax _ | .qpush _ | .qpop _ | .bqpush _
  | .vend _ | .vstart _ | .vbr _ | .cAdd _ | .cSub _ | .cMov _ | .cAnd _ | .cOr _ | .cXor _ | .cAddi _ | .cLi _
  | .cShli _ | .cShri _ | .cShrai _ | .cBz _ | .cBnz _ | .cLdw _ | .cStw _ | .cLdd _ | .cStd _ | .cJr _ | .cRet
  | .cFin | .cYield | .syncValidation _ | .frameAssignOwner _ _ | .frameSetAppend _ _ | .pbudgetWrite _
  | .gatereqWrite _ | .powerInterval _ | .freezePin | .freezeWrite _ | .extend | .quote | .reset | .wincfgWrite _
  | .hostint _ _ | .registerWrite _ _ | .flrPf | .pcieLoadTimeout _ | .ptpMessage _ | .windowClose | .windowEntry
  | .poisonedLine _ _ => true

/-- Whether a row is an event: a step of the device or of its surroundings, without an encoding. -/
def Instr.isEvent : Instr → Bool
  | .taskDispatch _ | .strandPark _ | .replayClassTrap _ | .quantExpiry _ | .preemptOrder _ | .preemptEntry _
  | .interruptEntry _ | .streamAging _ _ | .alignTimeout _ | .reservationExpiry _ | .l1Eviction _ _ _
  | .syncValidation _ | .translationEviction _ _ _ | .unwindStart _ | .cleanupBudgetExpiry _ | .grevokeComplete _
  | .machineCheck _ _ _ | .taskCommit _ | .queueNotify _ _ | .queueMap _ _ | .packetLaunch _ _ | .packetSignal _ _
  | .packetResume _ _ | .packetReject _ _ | .groupCompletion _ | .spillWrite _ | .messageArrival _ _
  | .requestPortRelease _ _ | .handlerDispatch _ | .hwAtomicEntry _ | .overflowDispatch _ | .actorFire _ _
  | .fifoOutputSend _ _ _ | .engineCommandStart _ _ | .copyCompletion _ _ | .copymmFollowOn _ _
  | .remoteTransferCompletion _ _ | .matrixCommandStart _ _ | .matrixCommandCompletion _ _ | .matrixReplay _ _
  | .matrixDeferredTrap _ | .tutorSample _ | .domainRootStore _ _ | .domainActivate _ _ | .frameAssignOwner _ _
  | .frameSetAppend _ _ | .cspBlockStore _ _ _ | .cspBlockInstall _ _ | .pmarkWrite _ _ | .pbudgetWrite _
  | .gatereqWrite _ | .clusterGating _ | .clusterUngating _ | .powerInterval _ | .freezePin | .freezeWrite _
  | .extend | .quote | .reset | .wincfgWrite _ | .hostint _ _ | .registerWrite _ _ | .hostWrite _ _ _
  | .hostRead _ _ | .hostNotify _ _ _ | .flrVf _ | .flrPf | .pcieLoadTimeout _ | .flitReceive _ _
  | .linkRetrain _ _ | .routeChange _ _ _ | .ptpMessage _ | .windowClose | .closeMarker _ _ | .windowEntry
  | .memberFailure _ | .podAccess _ | .poisonedLine _ _ | .replyNetworkArrival _ _ | .remoteInvalidation _ _
  | .timerInterrupt _ _ => true
  | .add _ | .sub _ | .and _ | .or _ | .xor _ | .andn _ | .orn _ | .xnor _ | .shl _ | .shr _ | .shra _ | .rot _
  | .min _ | .max _ | .minn _ | .maxn _ | .cmpeq _ | .cmplt _ | .cmpltn _ | .cmple _ | .cmplen _ | .sel _ | .mul _
  | .mulh _ | .mulhn _ | .div _ | .divn _ | .rem _ | .remn _ | .clz _ | .ctz _ | .popc _ | .bswap _ | .sextb _
  | .sexth _ | .sextw _ | .addi _ | .andi _ | .ori _ | .xori _ | .shli _ | .shri _ | .shrai _ | .roti _ | .bfx _
  | .bfi _ | .lui _ | .lea _ | .ldbn _ | .ldhn _ | .ldwn _ | .ldd _ | .ldb _ | .ldh _ | .ldw _ | .stb _ | .sth _
  | .stw _ | .std _ | .ldacq _ | .strel _ | .aadd _ | .aand _ | .aor _ | .axor _ | .amin _ | .amax _ | .aminn _
  | .amaxn _ | .aswap _ | .acas _ | .afadd _ | .lr _ | .sc _ | .acas2 _ | .appnd _ | .tailq _ | .sealPage _ | .bEq _
  | .bNe _ | .bLt _ | .bGe _ | .bLtn _ | .bGen _ | .jmp _ | .jr _ | .jtab _ | .fin _ | .yield _ | .align _ | .mfs _
  | .mts _ | .trap _ | .loxi _ | .lox _ | .sox _ | .fenceAcq _ | .fenceRel _ | .fenceFull _ | .persist _
  | .winwait _ | .featq _ | .implq _ | .tret _ | .wfi _ | .migr _ | .migret _ | .tlbinv _ | .harvest _ | .wbinv _
  | .pfree _ | .kill _ | .send _ | .sendm _ | .recv _ | .amsg _ | .amret _ | .mboxq _ | .loopb _ | .rget _
  | .rput _ | .tspawn _ | .tstamp _ | .tabort _ | .fpush _ | .fpop _ | .fcnt _ | .dcset _ | .dcdec _ | .adecl _
  | .gcall _ | .gret _ | .gstat _ | .gpub _ | .grevoke _ | .gqry _ | .copy _ | .copymm _ | .bpref _ | .bar _
  | .bara _ | .barw _ | .barph _ | .ipdep _ | .ipdraw _ | .apxcall _ | .apxret _ | .apxcfg _ | .apxqry _
  | .apxinv _ | .vmov _ | .vsel _ | .vshuf _ | .vrot _ | .vext _ | .vli _ | .vbcast _ | .vabs _ | .vneg _ | .vcps _
  | .vtag _ | .vclass _ | .vadd _ | .vsub _ | .vmul _ | .vfma _ | .vfms _ | .vfnma _ | .vdiv _ | .vsqrt _ | .vrcp _
  | .vrsq _ | .vmin _ | .vmax _ | .vexp2 _ | .vlog2 _ | .viadd _ | .visub _ | .vimul _ | .vimulh _ | .vand _
  | .vor _ | .vxor _ | .vshl _ | .vshr _ | .vshra _ | .vimin _ | .vimax _ | .viminn _ | .vimaxn _ | .vsadd _
  | .vssub _ | .vabsd _ | .vcmpEq _ | .vcmpNe _ | .vcmpLt _ | .vcmpLe _ | .vcmpLtn _ | .vcmpLen _ | .vcvt _
  | .vpack _ | .vscale _ | .vunpk _ | .vredAdd _ | .vredMin _ | .vredMax _ | .vredMinn _ | .vredMaxn _ | .vredAnd _
  | .vredOr _ | .vredXor _ | .vdot _ | .vscanAdd _ | .vscanMin _ | .vscanMax _ | .vld _ | .vst _ | .vgath _
  | .vscat _ | .vldl _ | .vstl _ | .vrest _ | .vsave _ | .qpush _ | .qpop _ | .fset _ | .fwait _ | .bqpush _
  | .vend _ | .mand _ | .mor _ | .mnot _ | .mpop _ | .mfirst _ | .vstart _ | .vbr _ | .vloop _ | .vjmp _ | .mma _
  | .mmaz _ | .mtcx _ | .mldt _ | .mstt _ | .mzt _ | .mcvt _ | .mtrn _ | .tmov _ | .tcfg _ | .cAdd _ | .cSub _
  | .cMov _ | .cAnd _ | .cOr _ | .cXor _ | .cAddi _ | .cLi _ | .cShli _ | .cShri _ | .cShrai _ | .cBz _ | .cBnz _
  | .cLdw _ | .cStw _ | .cLdd _ | .cStd _ | .cJr _ | .cRet | .cFin | .cYield => false

/-- Bytes the instruction occupies (R41): 4, or 2 for the 16-bit forms; an event occupies none. -/
def Instr.len : Instr → Nat
  | .taskDispatch _ | .strandPark _ | .replayClassTrap _ | .quantExpiry _ | .preemptOrder _ | .preemptEntry _
  | .interruptEntry _ | .streamAging _ _ | .alignTimeout _ | .reservationExpiry _ | .l1Eviction _ _ _
  | .syncValidation _ | .translationEviction _ _ _ | .unwindStart _ | .cleanupBudgetExpiry _ | .grevokeComplete _
  | .machineCheck _ _ _ | .taskCommit _ | .queueNotify _ _ | .queueMap _ _ | .packetLaunch _ _ | .packetSignal _ _
  | .packetResume _ _ | .packetReject _ _ | .groupCompletion _ | .spillWrite _ | .messageArrival _ _
  | .requestPortRelease _ _ | .handlerDispatch _ | .hwAtomicEntry _ | .overflowDispatch _ | .actorFire _ _
  | .fifoOutputSend _ _ _ | .engineCommandStart _ _ | .copyCompletion _ _ | .copymmFollowOn _ _
  | .remoteTransferCompletion _ _ | .matrixCommandStart _ _ | .matrixCommandCompletion _ _ | .matrixReplay _ _
  | .matrixDeferredTrap _ | .tutorSample _ | .domainRootStore _ _ | .domainActivate _ _ | .frameAssignOwner _ _
  | .frameSetAppend _ _ | .cspBlockStore _ _ _ | .cspBlockInstall _ _ | .pmarkWrite _ _ | .pbudgetWrite _
  | .gatereqWrite _ | .clusterGating _ | .clusterUngating _ | .powerInterval _ | .freezePin | .freezeWrite _
  | .extend | .quote | .reset | .wincfgWrite _ | .hostint _ _ | .registerWrite _ _ | .hostWrite _ _ _
  | .hostRead _ _ | .hostNotify _ _ _ | .flrVf _ | .flrPf | .pcieLoadTimeout _ | .flitReceive _ _
  | .linkRetrain _ _ | .routeChange _ _ _ | .ptpMessage _ | .windowClose | .closeMarker _ _ | .windowEntry
  | .memberFailure _ | .podAccess _ | .poisonedLine _ _ | .replyNetworkArrival _ _ | .remoteInvalidation _ _
  | .timerInterrupt _ _ => 0
  | .cAdd _ | .cSub _ | .cMov _ | .cAnd _ | .cOr _ | .cXor _ | .cAddi _ | .cLi _ | .cShli _ | .cShri _ | .cShrai _
  | .cBz _ | .cBnz _ | .cLdw _ | .cStw _ | .cLdd _ | .cStd _ | .cJr _ | .cRet | .cFin | .cYield => 2
  | .add _ | .sub _ | .and _ | .or _ | .xor _ | .andn _ | .orn _ | .xnor _ | .shl _ | .shr _ | .shra _ | .rot _
  | .min _ | .max _ | .minn _ | .maxn _ | .cmpeq _ | .cmplt _ | .cmpltn _ | .cmple _ | .cmplen _ | .sel _ | .mul _
  | .mulh _ | .mulhn _ | .div _ | .divn _ | .rem _ | .remn _ | .clz _ | .ctz _ | .popc _ | .bswap _ | .sextb _
  | .sexth _ | .sextw _ | .addi _ | .andi _ | .ori _ | .xori _ | .shli _ | .shri _ | .shrai _ | .roti _ | .bfx _
  | .bfi _ | .lui _ | .lea _ | .ldbn _ | .ldhn _ | .ldwn _ | .ldd _ | .ldb _ | .ldh _ | .ldw _ | .stb _ | .sth _
  | .stw _ | .std _ | .ldacq _ | .strel _ | .aadd _ | .aand _ | .aor _ | .axor _ | .amin _ | .amax _ | .aminn _
  | .amaxn _ | .aswap _ | .acas _ | .afadd _ | .lr _ | .sc _ | .acas2 _ | .appnd _ | .tailq _ | .sealPage _ | .bEq _
  | .bNe _ | .bLt _ | .bGe _ | .bLtn _ | .bGen _ | .jmp _ | .jr _ | .jtab _ | .fin _ | .yield _ | .align _ | .mfs _
  | .mts _ | .trap _ | .loxi _ | .lox _ | .sox _ | .fenceAcq _ | .fenceRel _ | .fenceFull _ | .persist _
  | .winwait _ | .featq _ | .implq _ | .tret _ | .wfi _ | .migr _ | .migret _ | .tlbinv _ | .harvest _ | .wbinv _
  | .pfree _ | .kill _ | .send _ | .sendm _ | .recv _ | .amsg _ | .amret _ | .mboxq _ | .loopb _ | .rget _
  | .rput _ | .tspawn _ | .tstamp _ | .tabort _ | .fpush _ | .fpop _ | .fcnt _ | .dcset _ | .dcdec _ | .adecl _
  | .gcall _ | .gret _ | .gstat _ | .gpub _ | .grevoke _ | .gqry _ | .copy _ | .copymm _ | .bpref _ | .bar _
  | .bara _ | .barw _ | .barph _ | .ipdep _ | .ipdraw _ | .apxcall _ | .apxret _ | .apxcfg _ | .apxqry _
  | .apxinv _ | .vmov _ | .vsel _ | .vshuf _ | .vrot _ | .vext _ | .vli _ | .vbcast _ | .vabs _ | .vneg _ | .vcps _
  | .vtag _ | .vclass _ | .vadd _ | .vsub _ | .vmul _ | .vfma _ | .vfms _ | .vfnma _ | .vdiv _ | .vsqrt _ | .vrcp _
  | .vrsq _ | .vmin _ | .vmax _ | .vexp2 _ | .vlog2 _ | .viadd _ | .visub _ | .vimul _ | .vimulh _ | .vand _
  | .vor _ | .vxor _ | .vshl _ | .vshr _ | .vshra _ | .vimin _ | .vimax _ | .viminn _ | .vimaxn _ | .vsadd _
  | .vssub _ | .vabsd _ | .vcmpEq _ | .vcmpNe _ | .vcmpLt _ | .vcmpLe _ | .vcmpLtn _ | .vcmpLen _ | .vcvt _
  | .vpack _ | .vscale _ | .vunpk _ | .vredAdd _ | .vredMin _ | .vredMax _ | .vredMinn _ | .vredMaxn _ | .vredAnd _
  | .vredOr _ | .vredXor _ | .vdot _ | .vscanAdd _ | .vscanMin _ | .vscanMax _ | .vld _ | .vst _ | .vgath _
  | .vscat _ | .vldl _ | .vstl _ | .vrest _ | .vsave _ | .qpush _ | .qpop _ | .fset _ | .fwait _ | .bqpush _
  | .vend _ | .mand _ | .mor _ | .mnot _ | .mpop _ | .mfirst _ | .vstart _ | .vbr _ | .vloop _ | .vjmp _ | .mma _
  | .mmaz _ | .mtcx _ | .mldt _ | .mstt _ | .mzt _ | .mcvt _ | .mtrn _ | .tmov _ | .tcfg _ => 4

end Sys2Proof
end

