-- ==== Sys2Proof/Decode.lean ====
section
/-! DEFINITION. Decoding of instruction bytes (R41 to R49, R52 to R54, R56) and, after it, the encoder. Both are written
from the format tables of R44, R45, R47 and R48 and the function tables of R54. Lean's compiled code cannot build the
constructors of a type past the 245th, so the functions that build them are marked noncomputable; the kernel evaluates
them. -/

namespace Sys2Proof

/-- Why bytes are no instruction. Every reason but `truncated` raises ILLEGAL (R56 check 2); `truncated` means that the
second halfword of a 32-bit instruction was not supplied. -/
inductive Reject where
  | truncated
  | reservedMajor
  | reservedFunction
  | nonzeroField
  | illegalField
  deriving DecidableEq, Repr

/-- Bits [lo + n - 1 : lo] of an instruction word. -/
def fld (w lo n : Nat) : BitVec n := BitVec.ofNat n (w / 2 ^ lo)

/-- The operand fields of an instruction word: format A (R44) with fields d, a and b. -/
def A3.of (w : Nat) : A3 :=
  ⟨fld w 29 3, fld w 17 5, fld w 12 5, fld w 7 5⟩

/-- The bits the operands contribute to the word. -/
def A3.bits (o : A3) : Nat :=
  o.w.toNat * 536870912 + o.b.toNat * 131072 + o.a.toNat * 4096 + o.d.toNat * 128

/-- The operand fields of an instruction word: format A (R44) with fields d and a; b is zero. -/
def A2.of (w : Nat) : A2 :=
  ⟨fld w 29 3, fld w 12 5, fld w 7 5⟩

/-- The bits the operands contribute to the word. -/
def A2.bits (o : A2) : Nat :=
  o.w.toNat * 536870912 + o.a.toNat * 4096 + o.d.toNat * 128

/-- The operand fields of an instruction word: format A (R44) with fields a and b; d is zero. -/
def AB.of (w : Nat) : AB :=
  ⟨fld w 29 3, fld w 17 5, fld w 12 5⟩

/-- The bits the operands contribute to the word. -/
def AB.bits (o : AB) : Nat :=
  o.w.toNat * 536870912 + o.b.toNat * 131072 + o.a.toNat * 4096

/-- The operand fields of an instruction word: format A (R44) with field d only. -/
def AD.of (w : Nat) : AD :=
  ⟨fld w 29 3, fld w 7 5⟩

/-- The bits the operands contribute to the word. -/
def AD.bits (o : AD) : Nat :=
  o.w.toNat * 536870912 + o.d.toNat * 128

/-- The operand fields of an instruction word: format A (R44) with field a only. -/
def AA.of (w : Nat) : AA :=
  ⟨fld w 29 3, fld w 12 5⟩

/-- The bits the operands contribute to the word. -/
def AA.bits (o : AA) : Nat :=
  o.w.toNat * 536870912 + o.a.toNat * 4096

/-- The operand fields of an instruction word: format A (R44) without register fields. -/
def A0.of (w : Nat) : A0 :=
  ⟨fld w 29 3⟩

/-- The bits the operands contribute to the word. -/
def A0.bits (o : A0) : Nat :=
  o.w.toNat * 536870912

/-- The operand fields of an instruction word: format I (R44): a 15-bit immediate. -/
def Imm.of (w : Nat) : Imm :=
  ⟨fld w 17 15, fld w 12 5, fld w 7 5⟩

/-- The bits the operands contribute to the word. -/
def Imm.bits (o : Imm) : Nat :=
  o.imm.toNat * 131072 + o.a.toNat * 4096 + o.d.toNat * 128

/-- The operand fields of an instruction word: format I, major 0x05 kinds 0 to 3 (R54): a shift count. -/
def Shift.of (w : Nat) : Shift :=
  ⟨fld w 17 6, fld w 12 5, fld w 7 5⟩

/-- The bits the operands contribute to the word. -/
def Shift.bits (o : Shift) : Nat :=
  o.c.toNat * 131072 + o.a.toNat * 4096 + o.d.toNat * 128

/-- The operand fields of an instruction word: format I, major 0x05 kinds 4 and 5 (R54): position p and width n + 1. -/
def Field.of (w : Nat) : Field :=
  ⟨fld w 23 6, fld w 17 6, fld w 12 5, fld w 7 5⟩

/-- The bits the operands contribute to the word. -/
def Field.bits (o : Field) : Nat :=
  o.n.toNat * 8388608 + o.p.toNat * 131072 + o.a.toNat * 4096 + o.d.toNat * 128

/-- The operand fields of an instruction word: format U (R44): a 20-bit immediate. -/
def Upper.of (w : Nat) : Upper :=
  ⟨fld w 12 20, fld w 7 5⟩

/-- The bits the operands contribute to the word. -/
def Upper.bits (o : Upper) : Nat :=
  o.imm.toNat * 4096 + o.d.toNat * 128

/-- The operand fields of an instruction word: format M (R44), the access size fixed by the mnemonic (R93). -/
def Mem.of (w : Nat) : Mem :=
  ⟨fld w 22 10, fld w 17 3, fld w 12 5, fld w 7 5⟩

/-- The bits the operands contribute to the word. -/
def Mem.bits (o : Mem) : Nat :=
  o.off.toNat * 4194304 + o.space.toNat * 131072 + o.base.toNat * 4096 + o.d.toNat * 128

/-- The operand fields of an instruction word: format M, major 0x0B (R54): the access size in ord. -/
def MemO.of (w : Nat) : MemO :=
  ⟨fld w 22 9, fld w 20 2, fld w 17 3, fld w 12 5, fld w 7 5⟩

/-- The bits the operands contribute to the word. -/
def MemO.bits (o : MemO) : Nat :=
  o.off.toNat * 4194304 + o.ord.toNat * 1048576 + o.space.toNat * 131072 + o.base.toNat * 4096 + o.d.toNat * 128

/-- The operand fields of an instruction word: majors 0x0C to 0x0F (R54): acquire and release bits q, space sp, size z. -/
def Atom.of (w : Nat) : Atom :=
  ⟨fld w 29 3, fld w 23 2, fld w 22 1, fld w 17 5, fld w 12 5, fld w 7 5, fld w 1 2⟩

/-- The bits the operands contribute to the word. -/
def Atom.bits (o : Atom) : Nat :=
  o.w.toNat * 536870912 + o.sp.toNat * 8388608 + o.z.toNat * 4194304 + o.b.toNat * 131072 + o.a.toNat * 4096 + o.d.toNat * 128 + o.q.toNat * 2

/-- The operand fields of an instruction word: LR (R54): no b and no space. -/
def AtomLr.of (w : Nat) : AtomLr :=
  ⟨fld w 29 3, fld w 22 1, fld w 12 5, fld w 7 5, fld w 1 2⟩

/-- The bits the operands contribute to the word. -/
def AtomLr.bits (o : AtomLr) : Nat :=
  o.w.toNat * 536870912 + o.z.toNat * 4194304 + o.a.toNat * 4096 + o.d.toNat * 128 + o.q.toNat * 2

/-- The operand fields of an instruction word: SC and APPND (R54): no space. -/
def AtomG.of (w : Nat) : AtomG :=
  ⟨fld w 29 3, fld w 22 1, fld w 17 5, fld w 12 5, fld w 7 5, fld w 1 2⟩

/-- The bits the operands contribute to the word. -/
def AtomG.bits (o : AtomG) : Nat :=
  o.w.toNat * 536870912 + o.z.toNat * 4194304 + o.b.toNat * 131072 + o.a.toNat * 4096 + o.d.toNat * 128 + o.q.toNat * 2

/-- The operand fields of an instruction word: ACAS2 (R54): size 1 only. -/
def AtomC.of (w : Nat) : AtomC :=
  ⟨fld w 29 3, fld w 23 2, fld w 17 5, fld w 12 5, fld w 7 5, fld w 1 2⟩

/-- The bits the operands contribute to the word. -/
def AtomC.bits (o : AtomC) : Nat :=
  o.w.toNat * 536870912 + o.sp.toNat * 8388608 + o.b.toNat * 131072 + o.a.toNat * 4096 + o.d.toNat * 128 + o.q.toNat * 2

/-- The operand fields of an instruction word: format B (R44): a 12-bit displacement in halfwords. -/
def Br.of (w : Nat) : Br :=
  ⟨fld w 20 12, fld w 12 5, fld w 7 5⟩

/-- The bits the operands contribute to the word. -/
def Br.bits (o : Br) : Nat :=
  o.disp.toNat * 1048576 + o.b.toNat * 4096 + o.a.toNat * 128

/-- The operand fields of an instruction word: format J (R44): a 20-bit displacement in halfwords and a link register. -/
def Jmp.of (w : Nat) : Jmp :=
  ⟨fld w 12 20, fld w 7 5⟩

/-- The bits the operands contribute to the word. -/
def Jmp.bits (o : Jmp) : Nat :=
  o.disp.toNat * 4096 + o.link.toNat * 128

/-- The operand fields of an instruction word: MFS (R54): a system register number. -/
def SysD.of (w : Nat) : SysD :=
  ⟨fld w 17 12, fld w 7 5⟩

/-- The bits the operands contribute to the word. -/
def SysD.bits (o : SysD) : Nat :=
  o.n.toNat * 131072 + o.d.toNat * 128

/-- The operand fields of an instruction word: MTS (R54): a system register number. -/
def SysA.of (w : Nat) : SysA :=
  ⟨fld w 17 12, fld w 12 5⟩

/-- The bits the operands contribute to the word. -/
def SysA.bits (o : SysA) : Nat :=
  o.n.toNat * 131072 + o.a.toNat * 4096

/-- The operand fields of an instruction word: TRAP (R54): a 12-bit code. -/
def Code.of (w : Nat) : Code :=
  ⟨fld w 17 12⟩

/-- The bits the operands contribute to the word. -/
def Code.bits (o : Code) : Nat :=
  o.c.toNat * 131072

/-- The operand fields of an instruction word: format X (R44) with fields d, a and x. -/
def X3.of (w : Nat) : X3 :=
  ⟨fld w 29 3, fld w 17 3, fld w 12 5, fld w 7 5⟩

/-- The bits the operands contribute to the word. -/
def X3.bits (o : X3) : Nat :=
  o.w.toNat * 536870912 + o.x.toNat * 131072 + o.a.toNat * 4096 + o.d.toNat * 128

/-- The operand fields of an instruction word: APXRET (R312): fields d and x. -/
def X2.of (w : Nat) : X2 :=
  ⟨fld w 29 3, fld w 17 3, fld w 7 5⟩

/-- The bits the operands contribute to the word. -/
def X2.bits (o : X2) : Nat :=
  o.w.toNat * 536870912 + o.x.toNat * 131072 + o.d.toNat * 128

/-- The operand fields of an instruction word: BAR (R54, R205): scope c. -/
def Bell.of (w : Nat) : Bell :=
  ⟨fld w 29 3, fld w 22 3, fld w 12 5, fld w 7 5⟩

/-- The bits the operands contribute to the word. -/
def Bell.bits (o : Bell) : Nat :=
  o.w.toNat * 536870912 + o.c.toNat * 4194304 + o.a.toNat * 4096 + o.d.toNat * 128

/-- The operand fields of an instruction word: BARA, BARW and BARPH (R54, R205): scope c. -/
def BellB.of (w : Nat) : BellB :=
  ⟨fld w 29 3, fld w 22 3, fld w 17 5, fld w 12 5, fld w 7 5⟩

/-- The bits the operands contribute to the word. -/
def BellB.bits (o : BellB) : Nat :=
  o.w.toNat * 536870912 + o.c.toNat * 4194304 + o.b.toNat * 131072 + o.a.toNat * 4096 + o.d.toNat * 128

/-- The operand fields of an instruction word: format V (R44) with vd, va and mask m. -/
def V2.of (w : Nat) : V2 :=
  ⟨fld w 29 3, fld w 22 3, fld w 12 5, fld w 7 5⟩

/-- The bits the operands contribute to the word. -/
def V2.bits (o : V2) : Nat :=
  o.w.toNat * 536870912 + o.m.toNat * 4194304 + o.a.toNat * 4096 + o.d.toNat * 128

/-- The operand fields of an instruction word: format V (R44) with vd, va, vb and mask m. -/
def V3.of (w : Nat) : V3 :=
  ⟨fld w 29 3, fld w 22 3, fld w 17 5, fld w 12 5, fld w 7 5⟩

/-- The bits the operands contribute to the word. -/
def V3.bits (o : V3) : Nat :=
  o.w.toNat * 536870912 + o.m.toNat * 4194304 + o.b.toNat * 131072 + o.a.toNat * 4096 + o.d.toNat * 128

/-- The operand fields of an instruction word: VLI (R54): a 13-bit immediate. -/
def VImm.of (w : Nat) : VImm :=
  ⟨fld w 29 3, fld w 12 13, fld w 7 5⟩

/-- The bits the operands contribute to the word. -/
def VImm.bits (o : VImm) : Nat :=
  o.w.toNat * 536870912 + o.imm.toNat * 4096 + o.d.toNat * 128

/-- The operand fields of an instruction word: format V with a tag code t in vb and mask m. -/
def VT.of (w : Nat) : VT :=
  ⟨fld w 29 3, fld w 22 3, fld w 17 5, fld w 12 5, fld w 7 5⟩

/-- The bits the operands contribute to the word. -/
def VT.bits (o : VT) : Nat :=
  o.w.toNat * 536870912 + o.m.toNat * 4194304 + o.t.toNat * 131072 + o.a.toNat * 4096 + o.d.toNat * 128

/-- The operand fields of an instruction word: VTAG (R54, R115): a tag code, no mask. -/
def VTag.of (w : Nat) : VTag :=
  ⟨fld w 29 3, fld w 17 5, fld w 12 5, fld w 7 5⟩

/-- The bits the operands contribute to the word. -/
def VTag.bits (o : VTag) : Nat :=
  o.w.toNat * 536870912 + o.t.toNat * 131072 + o.a.toNat * 4096 + o.d.toNat * 128

/-- The operand fields of an instruction word: majors 0x21 to 0x25 (R54), three registers: r = major - 0x20. -/
def VR3.of (w : Nat) : VR3 :=
  ⟨fld w 29 3, fld w 22 3, fld w 17 5, fld w 12 5, fld w 7 5, fld w 1 3⟩

/-- The bits the operands contribute to the word. -/
def VR3.bits (o : VR3) : Nat :=
  o.w.toNat * 536870912 + o.m.toNat * 4194304 + o.b.toNat * 131072 + o.a.toNat * 4096 + o.d.toNat * 128 + o.r.toNat * 2

/-- The operand fields of an instruction word: majors 0x21 to 0x25 (R54), two registers: r = major - 0x20. -/
def VR2.of (w : Nat) : VR2 :=
  ⟨fld w 29 3, fld w 22 3, fld w 12 5, fld w 7 5, fld w 1 3⟩

/-- The bits the operands contribute to the word. -/
def VR2.bits (o : VR2) : Nat :=
  o.w.toNat * 536870912 + o.m.toNat * 4194304 + o.a.toNat * 4096 + o.d.toNat * 128 + o.r.toNat * 2

/-- The operand fields of an instruction word: VCVT (R54): .nan, rounding r, tag t. -/
def Cvt.of (w : Nat) : Cvt :=
  ⟨fld w 29 3, fld w 28 1, fld w 25 3, fld w 22 3, fld w 17 5, fld w 12 5, fld w 7 5⟩

/-- The bits the operands contribute to the word. -/
def Cvt.bits (o : Cvt) : Nat :=
  o.w.toNat * 536870912 + o.nan.toNat * 268435456 + o.r.toNat * 33554432 + o.m.toNat * 4194304 + o.t.toNat * 131072 + o.a.toNat * 4096 + o.d.toNat * 128

/-- The operand fields of an instruction word: VPACK (R54): .nan, rounding r, tag t, no mask. -/
def Pack.of (w : Nat) : Pack :=
  ⟨fld w 29 3, fld w 28 1, fld w 25 3, fld w 17 5, fld w 12 5, fld w 7 5⟩

/-- The bits the operands contribute to the word. -/
def Pack.bits (o : Pack) : Nat :=
  o.w.toNat * 536870912 + o.nan.toNat * 268435456 + o.r.toNat * 33554432 + o.t.toNat * 131072 + o.a.toNat * 4096 + o.d.toNat * 128

/-- The operand fields of an instruction word: VSCALE (R54): rounding r. -/
def Scale.of (w : Nat) : Scale :=
  ⟨fld w 29 3, fld w 25 3, fld w 22 3, fld w 17 5, fld w 12 5, fld w 7 5⟩

/-- The bits the operands contribute to the word. -/
def Scale.bits (o : Scale) : Nat :=
  o.w.toNat * 536870912 + o.r.toNat * 33554432 + o.m.toNat * 4194304 + o.b.toNat * 131072 + o.a.toNat * 4096 + o.d.toNat * 128

/-- The operand fields of an instruction word: VUNPK (R129): part p in the m field. -/
def Unpk.of (w : Nat) : Unpk :=
  ⟨fld w 29 3, fld w 22 3, fld w 17 5, fld w 12 5, fld w 7 5⟩

/-- The bits the operands contribute to the word. -/
def Unpk.bits (o : Unpk) : Nat :=
  o.w.toNat * 536870912 + o.p.toNat * 4194304 + o.t.toNat * 131072 + o.a.toNat * 4096 + o.d.toNat * 128

/-- The operand fields of an instruction word: VLD (R54): space s, tag t. -/
def VLoad.of (w : Nat) : VLoad :=
  ⟨fld w 29 3, fld w 25 3, fld w 22 3, fld w 17 5, fld w 12 5, fld w 7 5⟩

/-- The bits the operands contribute to the word. -/
def VLoad.bits (o : VLoad) : Nat :=
  o.w.toNat * 536870912 + o.s.toNat * 33554432 + o.m.toNat * 4194304 + o.t.toNat * 131072 + o.a.toNat * 4096 + o.d.toNat * 128

/-- The operand fields of an instruction word: VST (R54): space s. -/
def VStore.of (w : Nat) : VStore :=
  ⟨fld w 29 3, fld w 25 3, fld w 22 3, fld w 12 5, fld w 7 5⟩

/-- The bits the operands contribute to the word. -/
def VStore.bits (o : VStore) : Nat :=
  o.w.toNat * 536870912 + o.s.toNat * 33554432 + o.m.toNat * 4194304 + o.a.toNat * 4096 + o.d.toNat * 128

/-- The operand fields of an instruction word: VGATH and VSCAT (R54): space s, index register b. -/
def VIdx.of (w : Nat) : VIdx :=
  ⟨fld w 29 3, fld w 25 3, fld w 22 3, fld w 17 5, fld w 12 5, fld w 7 5⟩

/-- The bits the operands contribute to the word. -/
def VIdx.bits (o : VIdx) : Nat :=
  o.w.toNat * 536870912 + o.s.toNat * 33554432 + o.m.toNat * 4194304 + o.b.toNat * 131072 + o.a.toNat * 4096 + o.d.toNat * 128

/-- The operand fields of an instruction word: VSAVE and VREST (R54): space s. -/
def VSv.of (w : Nat) : VSv :=
  ⟨fld w 29 3, fld w 25 3, fld w 12 5, fld w 7 5⟩

/-- The bits the operands contribute to the word. -/
def VSv.bits (o : VSv) : Nat :=
  o.w.toNat * 536870912 + o.s.toNat * 33554432 + o.a.toNat * 4096 + o.d.toNat * 128

/-- The operand fields of an instruction word: VSTART (R54): a displacement, no link. -/
def J0.of (w : Nat) : J0 :=
  ⟨fld w 12 20⟩

/-- The bits the operands contribute to the word. -/
def J0.bits (o : J0) : Nat :=
  o.disp.toNat * 4096

/-- The operand fields of an instruction word: VBR (R54): a displacement. -/
def B0.of (w : Nat) : B0 :=
  ⟨fld w 20 12⟩

/-- The bits the operands contribute to the word. -/
def B0.bits (o : B0) : Nat :=
  o.disp.toNat * 1048576

/-- The operand fields of an instruction word: VLOOP (R54): a displacement and a k register. -/
def B1.of (w : Nat) : B1 :=
  ⟨fld w 20 12, fld w 7 5⟩

/-- The bits the operands contribute to the word. -/
def B1.bits (o : B1) : Nat :=
  o.disp.toNat * 1048576 + o.a.toNat * 128

/-- The operand fields of an instruction word: MZT (R232): a tag code in the a field. -/
def Mz.of (w : Nat) : Mz :=
  ⟨fld w 29 3, fld w 12 5, fld w 7 5⟩

/-- The bits the operands contribute to the word. -/
def Mz.bits (o : Mz) : Nat :=
  o.w.toNat * 536870912 + o.t.toNat * 4096 + o.d.toNat * 128

/-- The operand fields of an instruction word: format CR (R47). -/
def CR.of (w : Nat) : CR :=
  ⟨fld w 10 5, fld w 5 5⟩

/-- The bits the operands contribute to the word. -/
def CR.bits (o : CR) : Nat :=
  o.a.toNat * 1024 + o.d.toNat * 32

/-- The operand fields of an instruction word: format CI (R47). -/
def CI.of (w : Nat) : CI :=
  ⟨fld w 10 6, fld w 5 5⟩

/-- The bits the operands contribute to the word. -/
def CI.bits (o : CI) : Nat :=
  o.imm.toNat * 1024 + o.d.toNat * 32

/-- The operand fields of an instruction word: format CB (R47): s(8 + a). -/
def CB.of (w : Nat) : CB :=
  ⟨fld w 8 8, fld w 5 3⟩

/-- The bits the operands contribute to the word. -/
def CB.bits (o : CB) : Nat :=
  o.disp.toNat * 256 + o.a.toNat * 32

/-- The operand fields of an instruction word: format CR, JR (R48): a only. -/
def CA.of (w : Nat) : CA :=
  ⟨fld w 10 5⟩

/-- The bits the operands contribute to the word. -/
def CA.bits (o : CA) : Nat :=
  o.a.toNat * 1024

/-- A row whose remaining should-be-zero fields are given with their values; any other value raises ILLEGAL (R56). -/
def require (w : Nat) (fields : List (Nat × Nat × Nat)) (i : Instr) : Except Reject Instr :=
  if fields.all (fun f => w / 2 ^ f.1 % 2 ^ f.2.1 == f.2.2) then .ok i else .error .nonzeroField

/-- Major 0x00 (R53, R54). -/
def major00 (w : Nat) : Except Reject Instr :=
  match w / 4194304 % 128 with
  | 0 => .ok (.add (A3.of w))
  | 1 => .ok (.sub (A3.of w))
  | 2 => .ok (.and (A3.of w))
  | 3 => .ok (.or (A3.of w))
  | 4 => .ok (.xor (A3.of w))
  | 5 => .ok (.andn (A3.of w))
  | 6 => .ok (.orn (A3.of w))
  | 7 => .ok (.xnor (A3.of w))
  | 8 => .ok (.shl (A3.of w))
  | 9 => .ok (.shr (A3.of w))
  | 10 => .ok (.shra (A3.of w))
  | 11 => .ok (.rot (A3.of w))
  | 12 => .ok (.min (A3.of w))
  | 13 => .ok (.max (A3.of w))
  | 14 => .ok (.minn (A3.of w))
  | 15 => .ok (.maxn (A3.of w))
  | 16 => .ok (.cmpeq (A3.of w))
  | 17 => .ok (.cmplt (A3.of w))
  | 18 => .ok (.cmpltn (A3.of w))
  | 19 => .ok (.cmple (A3.of w))
  | 20 => .ok (.cmplen (A3.of w))
  | 21 => .ok (.sel (A3.of w))
  | 24 => .ok (.mul (A3.of w))
  | 25 => .ok (.mulh (A3.of w))
  | 26 => .ok (.mulhn (A3.of w))
  | 28 => .ok (.div (A3.of w))
  | 29 => .ok (.divn (A3.of w))
  | 30 => .ok (.rem (A3.of w))
  | 31 => .ok (.remn (A3.of w))
  | 32 => require w [(17, 5, 0)] (.clz (A2.of w))
  | 33 => require w [(17, 5, 0)] (.ctz (A2.of w))
  | 34 => require w [(17, 5, 0)] (.popc (A2.of w))
  | 35 => require w [(17, 5, 0)] (.bswap (A2.of w))
  | 36 => require w [(17, 5, 0)] (.sextb (A2.of w))
  | 37 => require w [(17, 5, 0)] (.sexth (A2.of w))
  | 38 => require w [(17, 5, 0)] (.sextw (A2.of w))
  | _ => .error .reservedFunction

/-- Major 0x01 (R53, R54). -/
def major01 (w : Nat) : Except Reject Instr :=
  .ok (.addi (Imm.of w))

/-- Major 0x02 (R53, R54). -/
def major02 (w : Nat) : Except Reject Instr :=
  .ok (.andi (Imm.of w))

/-- Major 0x03 (R53, R54). -/
def major03 (w : Nat) : Except Reject Instr :=
  .ok (.ori (Imm.of w))

/-- Major 0x04 (R53, R54). -/
def major04 (w : Nat) : Except Reject Instr :=
  .ok (.xori (Imm.of w))

/-- Major 0x05 (R53, R54). -/
def major05 (w : Nat) : Except Reject Instr :=
  match w / 536870912 % 8 with
  | 0 => require w [(23, 6, 0)] (.shli (Shift.of w))
  | 1 => require w [(23, 6, 0)] (.shri (Shift.of w))
  | 2 => require w [(23, 6, 0)] (.shrai (Shift.of w))
  | 3 => require w [(23, 6, 0)] (.roti (Shift.of w))
  | 4 => .ok (.bfx (Field.of w))
  | 5 => .ok (.bfi (Field.of w))
  | _ => .error .reservedFunction

/-- Major 0x06 (R53, R54). -/
def major06 (w : Nat) : Except Reject Instr :=
  .ok (.lui (Upper.of w))

/-- Major 0x07 (R53, R54). -/
def major07 (w : Nat) : Except Reject Instr :=
  .ok (.lea (Upper.of w))

/-- Major 0x08 (R53, R54). -/
def major08 (w : Nat) : Except Reject Instr :=
  match w / 1048576 % 4 with
  | 0 => .ok (.ldbn (Mem.of w))
  | 1 => .ok (.ldhn (Mem.of w))
  | 2 => .ok (.ldwn (Mem.of w))
  | 3 => .ok (.ldd (Mem.of w))
  | _ => .error .reservedFunction

/-- Major 0x09 (R53, R54). -/
def major09 (w : Nat) : Except Reject Instr :=
  match w / 1048576 % 4 with
  | 0 => .ok (.ldb (Mem.of w))
  | 1 => .ok (.ldh (Mem.of w))
  | 2 => .ok (.ldw (Mem.of w))
  | _ => .error .reservedFunction

/-- Major 0x0A (R53, R54). -/
def major0A (w : Nat) : Except Reject Instr :=
  match w / 1048576 % 4 with
  | 0 => .ok (.stb (Mem.of w))
  | 1 => .ok (.sth (Mem.of w))
  | 2 => .ok (.stw (Mem.of w))
  | 3 => .ok (.std (Mem.of w))
  | _ => .error .reservedFunction

/-- Major 0x0B (R53, R54). -/
def major0B (w : Nat) : Except Reject Instr :=
  match w / 2147483648 % 2 with
  | 0 => .ok (.ldacq (MemO.of w))
  | 1 => .ok (.strel (MemO.of w))
  | _ => .error .reservedFunction

/-- Major 0x0C–0x0F (R53, R54). -/
def major0C (major : Nat) (w : Nat) : Except Reject Instr :=
  match w / 33554432 % 16 with
  | 0 => .ok (.aadd (Atom.of w))
  | 1 => .ok (.aand (Atom.of w))
  | 2 => .ok (.aor (Atom.of w))
  | 3 => .ok (.axor (Atom.of w))
  | 4 => .ok (.amin (Atom.of w))
  | 5 => .ok (.amax (Atom.of w))
  | 6 => .ok (.aminn (Atom.of w))
  | 7 => .ok (.amaxn (Atom.of w))
  | 8 => .ok (.aswap (Atom.of w))
  | 9 => .ok (.acas (Atom.of w))
  | 10 => .ok (.afadd (Atom.of w))
  | 11 => require w [(17, 5, 0), (23, 2, 0)] (.lr (AtomLr.of w))
  | 12 => require w [(23, 2, 0)] (.sc (AtomG.of w))
  | 13 => require w [(22, 1, 1)] (.acas2 (AtomC.of w))
  | 14 => require w [(23, 2, 0)] (.appnd (AtomG.of w))
  | 15 => 
      if major = 12 then require w [(17, 8, 0)] (.tailq (A2.of w))
      else if major = 14 then require w [(17, 8, 0)] (.sealPage (A2.of w))
      else .error .reservedFunction
  | _ => .error .reservedFunction

/-- Major 0x10 (R53, R54). -/
def major10 (w : Nat) : Except Reject Instr :=
  match w / 131072 % 8 with
  | 0 => .ok (.bEq (Br.of w))
  | 1 => .ok (.bNe (Br.of w))
  | 2 => .ok (.bLt (Br.of w))
  | 3 => .ok (.bGe (Br.of w))
  | 4 => .ok (.bLtn (Br.of w))
  | 5 => .ok (.bGen (Br.of w))
  | _ => .error .reservedFunction

/-- Major 0x11 (R53, R54). -/
def major11 (w : Nat) : Except Reject Instr :=
  .ok (.jmp (Jmp.of w))

/-- Major 0x12 (R53, R54). -/
def major12 (w : Nat) : Except Reject Instr :=
  match w / 4194304 % 128 with
  | 0 => require w [(17, 5, 0)] (.jr (A2.of w))
  | 1 => require w [(7, 5, 0)] (.jtab (AB.of w))
  | _ => .error .reservedFunction

/-- Major 0x13 (R53, R54). -/
def major13 (w : Nat) : Except Reject Instr :=
  match w / 4194304 % 128 with
  | 0 => require w [(7, 15, 0)] (.fin (A0.of w))
  | 1 => require w [(7, 15, 0)] (.yield (A0.of w))
  | 2 => require w [(7, 15, 0)] (.align (A0.of w))
  | _ => .error .reservedFunction

/-- Major 0x14 (R53, R54). -/
def major14 (w : Nat) : Except Reject Instr :=
  match w / 1073741824 % 4 with
  | 0 => require w [(12, 5, 0), (29, 1, 0)] (.mfs (SysD.of w))
  | 1 => require w [(7, 5, 0), (29, 1, 0)] (.mts (SysA.of w))
  | 2 => require w [(7, 10, 0), (29, 1, 0)] (.trap (Code.of w))
  | _ => .error .reservedFunction

/-- Major 0x15 (R53, R54). -/
def major15 (w : Nat) : Except Reject Instr :=
  .ok (.loxi (Upper.of w))

/-- Major 0x16 (R53, R54). -/
def major16 (w : Nat) : Except Reject Instr :=
  match w / 4194304 % 128 with
  | 0 => require w [(17, 5, 0)] (.lox (A2.of w))
  | 1 => require w [(17, 5, 0)] (.sox (A2.of w))
  | 8 => require w [(7, 15, 0)] (.fenceAcq (A0.of w))
  | 9 => require w [(7, 15, 0)] (.fenceRel (A0.of w))
  | 10 => require w [(7, 15, 0)] (.fenceFull (A0.of w))
  | 11 => .ok (.persist (A3.of w))
  | 12 => require w [(12, 10, 0)] (.winwait (AD.of w))
  | 16 => require w [(17, 5, 0)] (.featq (A2.of w))
  | 17 => require w [(17, 5, 0)] (.implq (A2.of w))
  | 24 => require w [(7, 15, 0)] (.tret (A0.of w))
  | 25 => require w [(7, 15, 0)] (.wfi (A0.of w))
  | _ => .error .reservedFunction

/-- Major 0x17 (R53, R54). -/
def major17 (w : Nat) : Except Reject Instr :=
  match w / 4194304 % 128 with
  | 0 => require w [(17, 5, 0)] (.migr (A2.of w))
  | 1 => require w [(7, 5, 0)] (.migret (AB.of w))
  | 2 => require w [(7, 5, 0)] (.tlbinv (AB.of w))
  | 3 => .ok (.harvest (A3.of w))
  | 4 => require w [(7, 5, 0)] (.wbinv (AB.of w))
  | 5 => require w [(17, 5, 0)] (.pfree (A2.of w))
  | 6 => require w [(17, 5, 0)] (.kill (A2.of w))
  | _ => .error .reservedFunction

/-- Major 0x18 (R53, R54). -/
def major18 (w : Nat) : Except Reject Instr :=
  match w / 4194304 % 128 with
  | 0 => require w [(7, 5, 0)] (.send (AB.of w))
  | 1 => require w [(7, 5, 0)] (.sendm (AB.of w))
  | 2 => require w [(12, 10, 0)] (.recv (AD.of w))
  | 3 => require w [(7, 5, 0)] (.amsg (AB.of w))
  | 4 => require w [(7, 5, 0)] (.amret (AB.of w))
  | 5 => require w [(17, 5, 0)] (.mboxq (A2.of w))
  | 6 => .ok (.loopb (A3.of w))
  | 7 => require w [(7, 5, 0)] (.rget (AB.of w))
  | 8 => require w [(7, 5, 0)] (.rput (AB.of w))
  | _ => .error .reservedFunction

/-- Major 0x19 (R53, R54). -/
def major19 (w : Nat) : Except Reject Instr :=
  match w / 4194304 % 128 with
  | 0 => .ok (.tspawn (A3.of w))
  | 1 => require w [(17, 5, 0)] (.tstamp (A2.of w))
  | 2 => require w [(7, 5, 0), (17, 5, 0)] (.tabort (AA.of w))
  | 3 => .ok (.fpush (A3.of w))
  | 4 => require w [(17, 5, 0)] (.fpop (A2.of w))
  | 5 => require w [(17, 5, 0)] (.fcnt (A2.of w))
  | 6 => require w [(17, 5, 0)] (.dcset (A2.of w))
  | 7 => require w [(17, 5, 0)] (.dcdec (A2.of w))
  | 8 => .ok (.adecl (A3.of w))
  | _ => .error .reservedFunction

/-- Major 0x1A (R53, R54). -/
def major1A (w : Nat) : Except Reject Instr :=
  match w / 4194304 % 128 with
  | 0 => require w [(7, 5, 0)] (.gcall (AB.of w))
  | 1 => require w [(7, 15, 0)] (.gret (A0.of w))
  | 2 => require w [(12, 10, 0)] (.gstat (AD.of w))
  | 3 => .ok (.gpub (A3.of w))
  | 4 => require w [(17, 5, 0)] (.grevoke (A2.of w))
  | 5 => .ok (.gqry (A3.of w))
  | _ => .error .reservedFunction

/-- Major 0x1C (R53, R54). -/
def major1C (w : Nat) : Except Reject Instr :=
  match w / 1048576 % 512 with
  | 0 => .ok (.copy (X3.of w))
  | 1 => .ok (.copymm (X3.of w))
  | 2 => .ok (.bpref (X3.of w))
  | _ => .error .reservedFunction

/-- Major 0x1D (R53, R54). -/
def major1D (w : Nat) : Except Reject Instr :=
  match w / 33554432 % 16 with
  | 0 => require w [(17, 5, 0)] (.bar (Bell.of w))
  | 1 => .ok (.bara (BellB.of w))
  | 2 => .ok (.barw (BellB.of w))
  | 3 => .ok (.barph (BellB.of w))
  | _ => .error .reservedFunction

/-- Major 0x1E (R53, R54). -/
def major1E (w : Nat) : Except Reject Instr :=
  match w / 4194304 % 128 with
  | 0 => .ok (.ipdep (A3.of w))
  | 1 => .ok (.ipdraw (A3.of w))
  | _ => .error .reservedFunction

/-- Major 0x1F (R53, R54). -/
def major1F (w : Nat) : Except Reject Instr :=
  match w / 1048576 % 512 with
  | 0 => .ok (.apxcall (X3.of w))
  | 1 => require w [(12, 5, 0)] (.apxret (X2.of w))
  | 2 => .ok (.apxcfg (X3.of w))
  | 3 => require w [(17, 3, 0)] (.apxqry (A2.of w))
  | 4 => require w [(17, 3, 0)] (.apxinv (A2.of w))
  | _ => .error .reservedFunction

/-- Major 0x20 (R53, R54). -/
def major20 (w : Nat) : Except Reject Instr :=
  match w / 33554432 % 16 with
  | 0 => require w [(17, 5, 0)] (.vmov (V2.of w))
  | 1 => .ok (.vsel (V3.of w))
  | 2 => .ok (.vshuf (V3.of w))
  | 3 => .ok (.vrot (V3.of w))
  | 4 => .ok (.vext (V3.of w))
  | 5 => .ok (.vli (VImm.of w))
  | 6 => .ok (.vbcast (VT.of w))
  | 7 => require w [(17, 5, 0)] (.vabs (V2.of w))
  | 8 => require w [(17, 5, 0)] (.vneg (V2.of w))
  | 9 => .ok (.vcps (V3.of w))
  | 10 => require w [(22, 3, 0)] (.vtag (VTag.of w))
  | 11 => require w [(17, 5, 0)] (.vclass (V2.of w))
  | _ => .error .reservedFunction

/-- Major 0x21–0x25 (R53, R54). -/
def major21 (major : Nat) (w : Nat) : Except Reject Instr :=
  match w / 33554432 % 16 with
  | 0 => .ok (.vadd (VR3.of w))
  | 1 => .ok (.vsub (VR3.of w))
  | 2 => .ok (.vmul (VR3.of w))
  | 3 => .ok (.vfma (VR3.of w))
  | 4 => .ok (.vfms (VR3.of w))
  | 5 => .ok (.vfnma (VR3.of w))
  | 6 => .ok (.vdiv (VR3.of w))
  | 7 => require w [(17, 5, 0)] (.vsqrt (VR2.of w))
  | 8 => require w [(17, 5, 0)] (.vrcp (VR2.of w))
  | 9 => require w [(17, 5, 0)] (.vrsq (VR2.of w))
  | 10 => if major = 33 then .ok (.vmin (V3.of w)) else .error .reservedFunction
  | 11 => if major = 33 then .ok (.vmax (V3.of w)) else .error .reservedFunction
  | 12 => require w [(17, 5, 0)] (.vexp2 (VR2.of w))
  | 13 => require w [(17, 5, 0)] (.vlog2 (VR2.of w))
  | _ => .error .reservedFunction

/-- Major 0x26 (R53, R54). -/
def major26 (w : Nat) : Except Reject Instr :=
  match w / 33554432 % 16 with
  | 0 => .ok (.viadd (V3.of w))
  | 1 => .ok (.visub (V3.of w))
  | 2 => .ok (.vimul (V3.of w))
  | 3 => .ok (.vimulh (V3.of w))
  | 4 => .ok (.vand (V3.of w))
  | 5 => .ok (.vor (V3.of w))
  | 6 => .ok (.vxor (V3.of w))
  | 7 => .ok (.vshl (V3.of w))
  | 8 => .ok (.vshr (V3.of w))
  | 9 => .ok (.vshra (V3.of w))
  | 10 => .ok (.vimin (V3.of w))
  | 11 => .ok (.vimax (V3.of w))
  | 12 => .ok (.viminn (V3.of w))
  | 13 => .ok (.vimaxn (V3.of w))
  | 14 => .ok (.vsadd (V3.of w))
  | 15 => .ok (.vssub (V3.of w))
  | _ => .error .reservedFunction

/-- Major 0x27 (R53, R54). -/
def major27 (w : Nat) : Except Reject Instr :=
  match w / 33554432 % 16 with
  | 0 => .ok (.vabsd (V3.of w))
  | 1 => .ok (.vcmpEq (V3.of w))
  | 2 => .ok (.vcmpNe (V3.of w))
  | 3 => .ok (.vcmpLt (V3.of w))
  | 4 => .ok (.vcmpLe (V3.of w))
  | 5 => .ok (.vcmpLtn (V3.of w))
  | 6 => .ok (.vcmpLen (V3.of w))
  | _ => .error .reservedFunction

/-- Major 0x28 (R53, R54). -/
def major28 (w : Nat) : Except Reject Instr :=
  .ok (.vcvt (Cvt.of w))

/-- Major 0x29 (R53, R54). -/
def major29 (w : Nat) : Except Reject Instr :=
  require w [(22, 3, 0)] (.vpack (Pack.of w))

/-- Major 0x2A (R53, R54). -/
def major2A (w : Nat) : Except Reject Instr :=
  require w [(28, 1, 0)] (.vscale (Scale.of w))

/-- Major 0x2B (R53, R54). -/
def major2B (w : Nat) : Except Reject Instr :=
  match w / 33554432 % 16 with
  | 0 => .ok (.vunpk (Unpk.of w))
  | 1 => require w [(17, 5, 0)] (.vredAdd (V2.of w))
  | 2 => require w [(17, 5, 0)] (.vredMin (V2.of w))
  | 3 => require w [(17, 5, 0)] (.vredMax (V2.of w))
  | 4 => require w [(17, 5, 0)] (.vredMinn (V2.of w))
  | 5 => require w [(17, 5, 0)] (.vredMaxn (V2.of w))
  | 6 => require w [(17, 5, 0)] (.vredAnd (V2.of w))
  | 7 => require w [(17, 5, 0)] (.vredOr (V2.of w))
  | 8 => require w [(17, 5, 0)] (.vredXor (V2.of w))
  | 9 => .ok (.vdot (V3.of w))
  | 10 => require w [(17, 5, 0)] (.vscanAdd (V2.of w))
  | 11 => require w [(17, 5, 0)] (.vscanMin (V2.of w))
  | 12 => require w [(17, 5, 0)] (.vscanMax (V2.of w))
  | _ => .error .reservedFunction

/-- Major 0x30 (R53, R54). -/
def major30 (w : Nat) : Except Reject Instr :=
  match w / 268435456 % 2 with
  | 0 => .ok (.vld (VLoad.of w))
  | 1 => require w [(17, 5, 0)] (.vst (VStore.of w))
  | _ => .error .reservedFunction

/-- Major 0x31 (R53, R54). -/
def major31 (w : Nat) : Except Reject Instr :=
  match w / 268435456 % 2 with
  | 0 => .ok (.vgath (VIdx.of w))
  | 1 => .ok (.vscat (VIdx.of w))
  | _ => .error .reservedFunction

/-- Major 0x32 (R53, R54). -/
def major32 (w : Nat) : Except Reject Instr :=
  match w / 33554432 % 16 with
  | 0 => .ok (.vldl (VT.of w))
  | 8 => require w [(17, 5, 0)] (.vstl (V2.of w))
  | _ => .error .reservedFunction

/-- Major 0x33 (R53, R54). -/
def major33 (w : Nat) : Except Reject Instr :=
  match w / 268435456 % 2 with
  | 0 => require w [(17, 8, 0)] (.vrest (VSv.of w))
  | 1 => require w [(17, 8, 0)] (.vsave (VSv.of w))
  | _ => .error .reservedFunction

/-- Major 0x34 (R53, R54). -/
def major34 (w : Nat) : Except Reject Instr :=
  match w / 4194304 % 128 with
  | 0 => require w [(7, 5, 0), (17, 5, 0)] (.qpush (AA.of w))
  | 1 => require w [(12, 10, 0)] (.qpop (AD.of w))
  | 2 => require w [(7, 5, 0), (17, 5, 0)] (.fset (AA.of w))
  | 3 => require w [(7, 5, 0), (17, 5, 0)] (.fwait (AA.of w))
  | 4 => require w [(7, 5, 0), (17, 5, 0)] (.bqpush (AA.of w))
  | 5 => require w [(7, 15, 0)] (.vend (A0.of w))
  | 8 => .ok (.mand (A3.of w))
  | 9 => .ok (.mor (A3.of w))
  | 10 => require w [(17, 5, 0)] (.mnot (A2.of w))
  | 11 => require w [(17, 5, 0)] (.mpop (A2.of w))
  | 12 => require w [(17, 5, 0)] (.mfirst (A2.of w))
  | _ => .error .reservedFunction

/-- Major 0x35 (R53, R54). -/
def major35 (w : Nat) : Except Reject Instr :=
  require w [(7, 5, 0)] (.vstart (J0.of w))

/-- Major 0x36 (R53, R54). -/
def major36 (w : Nat) : Except Reject Instr :=
  match w / 131072 % 8 with
  | 0 => require w [(7, 10, 0)] (.vbr (B0.of w))
  | 1 => require w [(12, 5, 0)] (.vloop (B1.of w))
  | _ => .error .reservedFunction

/-- Major 0x37 (R53, R54). -/
def major37 (w : Nat) : Except Reject Instr :=
  .ok (.vjmp (Jmp.of w))

/-- Major 0x38 (R53, R54). -/
def major38 (w : Nat) : Except Reject Instr :=
  match w / 1048576 % 512 with
  | 0 => .ok (.mma (X3.of w))
  | 1 => .ok (.mmaz (X3.of w))
  | 2 => .ok (.mtcx (X3.of w))
  | _ => .error .reservedFunction

/-- Major 0x39 (R53, R54). -/
noncomputable def major39 (w : Nat) : Except Reject Instr :=
  match w / 1048576 % 512 with
  | 0 => require w [(17, 3, 0)] (.mldt (A2.of w))
  | 1 => require w [(17, 3, 0)] (.mstt (A2.of w))
  | 2 => require w [(17, 3, 0)] (.mzt (Mz.of w))
  | 3 => .ok (.mcvt (X3.of w))
  | 4 => require w [(17, 3, 0)] (.mtrn (A2.of w))
  | 5 => .ok (.tmov (X3.of w))
  | 6 => .ok (.tcfg (X3.of w))
  | _ => .error .reservedFunction

/-- The instruction of a 32-bit word by its major opcode (R53), before the field checks of `Instr.wf`. -/
noncomputable def raw32 (w : Nat) : Except Reject Instr :=
  match w / 2 % 64 with
  | 0 => major00 w
  | 1 => major01 w
  | 2 => major02 w
  | 3 => major03 w
  | 4 => major04 w
  | 5 => major05 w
  | 6 => major06 w
  | 7 => major07 w
  | 8 => major08 w
  | 9 => major09 w
  | 10 => major0A w
  | 11 => major0B w
  | 12 => major0C 12 w
  | 13 => major0C 13 w
  | 14 => major0C 14 w
  | 15 => major0C 15 w
  | 16 => major10 w
  | 17 => major11 w
  | 18 => major12 w
  | 19 => major13 w
  | 20 => major14 w
  | 21 => major15 w
  | 22 => major16 w
  | 23 => major17 w
  | 24 => major18 w
  | 25 => major19 w
  | 26 => major1A w
  | 28 => major1C w
  | 29 => major1D w
  | 30 => major1E w
  | 31 => major1F w
  | 32 => major20 w
  | 33 => major21 33 w
  | 34 => major21 34 w
  | 35 => major21 35 w
  | 36 => major21 36 w
  | 37 => major21 37 w
  | 38 => major26 w
  | 39 => major27 w
  | 40 => major28 w
  | 41 => major29 w
  | 42 => major2A w
  | 43 => major2B w
  | 48 => major30 w
  | 49 => major31 w
  | 50 => major32 w
  | 51 => major33 w
  | 52 => major34 w
  | 53 => major35 w
  | 54 => major36 w
  | 55 => major37 w
  | 56 => major38 w
  | 57 => major39 w
  | _ => .error .reservedMajor

/-- The instruction of a 16-bit halfword (R47, R48); ops 0 and 15 are reserved. -/
noncomputable def raw16 (w : Nat) : Except Reject Instr :=
  match w / 2 % 16 with
  | 1 => if w / 32768 % 2 = 0 then .ok (.cAdd (CR.of w)) else .ok (.cSub (CR.of w))
  | 2 => if w / 32768 % 2 = 0 then .ok (.cMov (CR.of w)) else .ok (.cAnd (CR.of w))
  | 3 => if w / 32768 % 2 = 0 then .ok (.cOr (CR.of w)) else .ok (.cXor (CR.of w))
  | 4 => .ok (.cAddi (CI.of w))
  | 5 => .ok (.cLi (CI.of w))
  | 6 => .ok (.cShli (CI.of w))
  | 7 => .ok (.cShri (CI.of w))
  | 8 => .ok (.cShrai (CI.of w))
  | 9 => .ok (.cBz (CB.of w))
  | 10 => .ok (.cBnz (CB.of w))
  | 11 => if w / 32768 % 2 = 0 then .ok (.cLdw (CR.of w)) else .ok (.cStw (CR.of w))
  | 12 => if w / 32768 % 2 = 0 then .ok (.cLdd (CR.of w)) else .ok (.cStd (CR.of w))
  | 13 => if w / 32768 % 2 = 0 then require w [(5, 5, 0)] (.cJr (CA.of w)) else require w [(5, 10, 0)] (.cRet)
  | 14 => if w / 32768 % 2 = 0 then require w [(5, 10, 0)] (.cFin) else require w [(5, 10, 0)] (.cYield)
  | _ => .error .reservedMajor

/-- The field checks of R49, R51, R54 and of the instructions' own descriptions: what they exclude raises ILLEGAL. -/
def checked (r : Except Reject Instr) : Except Reject Instr :=
  match r with
  | .ok i => if i.wf then .ok i else .error .illegalField
  | .error e => .error e

/-- Decode a 32-bit instruction word (bit 0 is 1). -/
noncomputable def decode32 (w : Nat) : Except Reject Instr := checked (raw32 w)

/-- Decode a halfword (bit 0 is 0). -/
noncomputable def decode16 (w : Nat) : Except Reject Instr := checked (raw16 w)

/-- The halfword at the head of a byte list, little-endian (R9). -/
def halfAt : List Byte → Option (Nat × List Byte)
  | b0 :: b1 :: rest => some (b0.toNat + 256 * b1.toNat, rest)
  | _ => none

/-- Decode the instruction at the head of a byte list; answers it with the bytes that follow (R41). -/
noncomputable def decode (bytes : List Byte) : Except Reject (Instr × List Byte) :=
  match halfAt bytes with
  | none => .error .truncated
  | some (h0, rest) =>
    if h0 % 2 = 0 then
      match decode16 h0 with
      | .ok i => .ok (i, rest)
      | .error e => .error e
    else
      match halfAt rest with
      | none => .error .truncated
      | some (h1, rest') =>
        match decode32 (h0 + 65536 * h1) with
        | .ok i => .ok (i, rest')
        | .error e => .error e

/-- `n` bytes of a number, least significant first (R9). -/
def natBytes : Nat → Nat → List Byte
  | 0, _ => []
  | n + 1, w => BitVec.ofNat 8 w :: natBytes n (w / 256)

/-- The bytes of the longest instruction with the low `nbits` bits taken from `w`, the bits above zero. -/
def tableBytes (nbits w : Nat) : List Byte := natBytes 4 (w % 2 ^ nbits)

/-- The instruction this decoder reads from an opcode-table word, its bits numbered as the table numbers them. -/
noncomputable def decodeTableWord (nbits w : Nat) : Option Instr :=
  match decode (tableBytes nbits w) with
  | .ok (i, _) => some i
  | .error _ => none

/-! ## The encoder -/

/-- The encoding of an instruction as one number, bit 0 its least significant: the row's fixed bits (majors and
functions of R53, R54 and R48) plus its operand fields. An event has no encoding and is given 0, which is never an
instruction (R48). -/
def encode : Instr → Nat
  | .add o => 1 + o.bits
  | .sub o => 4194305 + o.bits
  | .and o => 8388609 + o.bits
  | .or o => 12582913 + o.bits
  | .xor o => 16777217 + o.bits
  | .andn o => 20971521 + o.bits
  | .orn o => 25165825 + o.bits
  | .xnor o => 29360129 + o.bits
  | .shl o => 33554433 + o.bits
  | .shr o => 37748737 + o.bits
  | .shra o => 41943041 + o.bits
  | .rot o => 46137345 + o.bits
  | .min o => 50331649 + o.bits
  | .max o => 54525953 + o.bits
  | .minn o => 58720257 + o.bits
  | .maxn o => 62914561 + o.bits
  | .cmpeq o => 67108865 + o.bits
  | .cmplt o => 71303169 + o.bits
  | .cmpltn o => 75497473 + o.bits
  | .cmple o => 79691777 + o.bits
  | .cmplen o => 83886081 + o.bits
  | .sel o => 88080385 + o.bits
  | .mul o => 100663297 + o.bits
  | .mulh o => 104857601 + o.bits
  | .mulhn o => 109051905 + o.bits
  | .div o => 117440513 + o.bits
  | .divn o => 121634817 + o.bits
  | .rem o => 125829121 + o.bits
  | .remn o => 130023425 + o.bits
  | .clz o => 134217729 + o.bits
  | .ctz o => 138412033 + o.bits
  | .popc o => 142606337 + o.bits
  | .bswap o => 146800641 + o.bits
  | .sextb o => 150994945 + o.bits
  | .sexth o => 155189249 + o.bits
  | .sextw o => 159383553 + o.bits
  | .addi o => 3 + o.bits
  | .andi o => 5 + o.bits
  | .ori o => 7 + o.bits
  | .xori o => 9 + o.bits
  | .shli o => 11 + o.bits
  | .shri o => 536870923 + o.bits
  | .shrai o => 1073741835 + o.bits
  | .roti o => 1610612747 + o.bits
  | .bfx o => 2147483659 + o.bits
  | .bfi o => 2684354571 + o.bits
  | .lui o => 13 + o.bits
  | .lea o => 15 + o.bits
  | .ldbn o => 17 + o.bits
  | .ldhn o => 1048593 + o.bits
  | .ldwn o => 2097169 + o.bits
  | .ldd o => 3145745 + o.bits
  | .ldb o => 19 + o.bits
  | .ldh o => 1048595 + o.bits
  | .ldw o => 2097171 + o.bits
  | .stb o => 21 + o.bits
  | .sth o => 1048597 + o.bits
  | .stw o => 2097173 + o.bits
  | .std o => 3145749 + o.bits
  | .ldacq o => 23 + o.bits
  | .strel o => 2147483671 + o.bits
  | .aadd o => 25 + o.bits
  | .aand o => 33554457 + o.bits
  | .aor o => 67108889 + o.bits
  | .axor o => 100663321 + o.bits
  | .amin o => 134217753 + o.bits
  | .amax o => 167772185 + o.bits
  | .aminn o => 201326617 + o.bits
  | .amaxn o => 234881049 + o.bits
  | .aswap o => 268435481 + o.bits
  | .acas o => 301989913 + o.bits
  | .afadd o => 335544345 + o.bits
  | .lr o => 369098777 + o.bits
  | .sc o => 402653209 + o.bits
  | .acas2 o => 440401945 + o.bits
  | .appnd o => 469762073 + o.bits
  | .tailq o => 503316505 + o.bits
  | .sealPage o => 503316509 + o.bits
  | .bEq o => 33 + o.bits
  | .bNe o => 131105 + o.bits
  | .bLt o => 262177 + o.bits
  | .bGe o => 393249 + o.bits
  | .bLtn o => 524321 + o.bits
  | .bGen o => 655393 + o.bits
  | .jmp o => 35 + o.bits
  | .jr o => 37 + o.bits
  | .jtab o => 4194341 + o.bits
  | .fin o => 39 + o.bits
  | .yield o => 4194343 + o.bits
  | .align o => 8388647 + o.bits
  | .mfs o => 41 + o.bits
  | .mts o => 1073741865 + o.bits
  | .trap o => 2147483689 + o.bits
  | .loxi o => 43 + o.bits
  | .lox o => 45 + o.bits
  | .sox o => 4194349 + o.bits
  | .fenceAcq o => 33554477 + o.bits
  | .fenceRel o => 37748781 + o.bits
  | .fenceFull o => 41943085 + o.bits
  | .persist o => 46137389 + o.bits
  | .winwait o => 50331693 + o.bits
  | .featq o => 67108909 + o.bits
  | .implq o => 71303213 + o.bits
  | .tret o => 100663341 + o.bits
  | .wfi o => 104857645 + o.bits
  | .migr o => 47 + o.bits
  | .migret o => 4194351 + o.bits
  | .tlbinv o => 8388655 + o.bits
  | .harvest o => 12582959 + o.bits
  | .wbinv o => 16777263 + o.bits
  | .pfree o => 20971567 + o.bits
  | .kill o => 25165871 + o.bits
  | .send o => 49 + o.bits
  | .sendm o => 4194353 + o.bits
  | .recv o => 8388657 + o.bits
  | .amsg o => 12582961 + o.bits
  | .amret o => 16777265 + o.bits
  | .mboxq o => 20971569 + o.bits
  | .loopb o => 25165873 + o.bits
  | .rget o => 29360177 + o.bits
  | .rput o => 33554481 + o.bits
  | .tspawn o => 51 + o.bits
  | .tstamp o => 4194355 + o.bits
  | .tabort o => 8388659 + o.bits
  | .fpush o => 12582963 + o.bits
  | .fpop o => 16777267 + o.bits
  | .fcnt o => 20971571 + o.bits
  | .dcset o => 25165875 + o.bits
  | .dcdec o => 29360179 + o.bits
  | .adecl o => 33554483 + o.bits
  | .gcall o => 53 + o.bits
  | .gret o => 4194357 + o.bits
  | .gstat o => 8388661 + o.bits
  | .gpub o => 12582965 + o.bits
  | .grevoke o => 16777269 + o.bits
  | .gqry o => 20971573 + o.bits
  | .copy o => 57 + o.bits
  | .copymm o => 1048633 + o.bits
  | .bpref o => 2097209 + o.bits
  | .bar o => 59 + o.bits
  | .bara o => 33554491 + o.bits
  | .barw o => 67108923 + o.bits
  | .barph o => 100663355 + o.bits
  | .ipdep o => 61 + o.bits
  | .ipdraw o => 4194365 + o.bits
  | .apxcall o => 63 + o.bits
  | .apxret o => 1048639 + o.bits
  | .apxcfg o => 2097215 + o.bits
  | .apxqry o => 3145791 + o.bits
  | .apxinv o => 4194367 + o.bits
  | .vmov o => 65 + o.bits
  | .vsel o => 33554497 + o.bits
  | .vshuf o => 67108929 + o.bits
  | .vrot o => 100663361 + o.bits
  | .vext o => 134217793 + o.bits
  | .vli o => 167772225 + o.bits
  | .vbcast o => 201326657 + o.bits
  | .vabs o => 234881089 + o.bits
  | .vneg o => 268435521 + o.bits
  | .vcps o => 301989953 + o.bits
  | .vtag o => 335544385 + o.bits
  | .vclass o => 369098817 + o.bits
  | .vadd o => 65 + o.bits
  | .vsub o => 33554497 + o.bits
  | .vmul o => 67108929 + o.bits
  | .vfma o => 100663361 + o.bits
  | .vfms o => 134217793 + o.bits
  | .vfnma o => 167772225 + o.bits
  | .vdiv o => 201326657 + o.bits
  | .vsqrt o => 234881089 + o.bits
  | .vrcp o => 268435521 + o.bits
  | .vrsq o => 301989953 + o.bits
  | .vmin o => 335544387 + o.bits
  | .vmax o => 369098819 + o.bits
  | .vexp2 o => 402653249 + o.bits
  | .vlog2 o => 436207681 + o.bits
  | .viadd o => 77 + o.bits
  | .visub o => 33554509 + o.bits
  | .vimul o => 67108941 + o.bits
  | .vimulh o => 100663373 + o.bits
  | .vand o => 134217805 + o.bits
  | .vor o => 167772237 + o.bits
  | .vxor o => 201326669 + o.bits
  | .vshl o => 234881101 + o.bits
  | .vshr o => 268435533 + o.bits
  | .vshra o => 301989965 + o.bits
  | .vimin o => 335544397 + o.bits
  | .vimax o => 369098829 + o.bits
  | .viminn o => 402653261 + o.bits
  | .vimaxn o => 436207693 + o.bits
  | .vsadd o => 469762125 + o.bits
  | .vssub o => 503316557 + o.bits
  | .vabsd o => 79 + o.bits
  | .vcmpEq o => 33554511 + o.bits
  | .vcmpNe o => 67108943 + o.bits
  | .vcmpLt o => 100663375 + o.bits
  | .vcmpLe o => 134217807 + o.bits
  | .vcmpLtn o => 167772239 + o.bits
  | .vcmpLen o => 201326671 + o.bits
  | .vcvt o => 81 + o.bits
  | .vpack o => 83 + o.bits
  | .vscale o => 85 + o.bits
  | .vunpk o => 87 + o.bits
  | .vredAdd o => 33554519 + o.bits
  | .vredMin o => 67108951 + o.bits
  | .vredMax o => 100663383 + o.bits
  | .vredMinn o => 134217815 + o.bits
  | .vredMaxn o => 167772247 + o.bits
  | .vredAnd o => 201326679 + o.bits
  | .vredOr o => 234881111 + o.bits
  | .vredXor o => 268435543 + o.bits
  | .vdot o => 301989975 + o.bits
  | .vscanAdd o => 335544407 + o.bits
  | .vscanMin o => 369098839 + o.bits
  | .vscanMax o => 402653271 + o.bits
  | .vld o => 97 + o.bits
  | .vst o => 268435553 + o.bits
  | .vgath o => 99 + o.bits
  | .vscat o => 268435555 + o.bits
  | .vldl o => 101 + o.bits
  | .vstl o => 268435557 + o.bits
  | .vrest o => 103 + o.bits
  | .vsave o => 268435559 + o.bits
  | .qpush o => 105 + o.bits
  | .qpop o => 4194409 + o.bits
  | .fset o => 8388713 + o.bits
  | .fwait o => 12583017 + o.bits
  | .bqpush o => 16777321 + o.bits
  | .vend o => 20971625 + o.bits
  | .mand o => 33554537 + o.bits
  | .mor o => 37748841 + o.bits
  | .mnot o => 41943145 + o.bits
  | .mpop o => 46137449 + o.bits
  | .mfirst o => 50331753 + o.bits
  | .vstart o => 107 + o.bits
  | .vbr o => 109 + o.bits
  | .vloop o => 131181 + o.bits
  | .vjmp o => 111 + o.bits
  | .mma o => 113 + o.bits
  | .mmaz o => 1048689 + o.bits
  | .mtcx o => 2097265 + o.bits
  | .mldt o => 115 + o.bits
  | .mstt o => 1048691 + o.bits
  | .mzt o => 2097267 + o.bits
  | .mcvt o => 3145843 + o.bits
  | .mtrn o => 4194419 + o.bits
  | .tmov o => 5242995 + o.bits
  | .tcfg o => 6291571 + o.bits
  | .cAdd o => 2 + o.bits
  | .cSub o => 32770 + o.bits
  | .cMov o => 4 + o.bits
  | .cAnd o => 32772 + o.bits
  | .cOr o => 6 + o.bits
  | .cXor o => 32774 + o.bits
  | .cAddi o => 8 + o.bits
  | .cLi o => 10 + o.bits
  | .cShli o => 12 + o.bits
  | .cShri o => 14 + o.bits
  | .cShrai o => 16 + o.bits
  | .cBz o => 18 + o.bits
  | .cBnz o => 20 + o.bits
  | .cLdw o => 22 + o.bits
  | .cStw o => 32790 + o.bits
  | .cLdd o => 24 + o.bits
  | .cStd o => 32792 + o.bits
  | .cJr o => 26 + o.bits
  | .cRet => 32794
  | .cFin => 28
  | .cYield => 32796
  | .taskDispatch _ | .strandPark _ | .replayClassTrap _ | .quantExpiry _ | .preemptOrder _ | .preemptEntry _
  | .interruptEntry _ | .streamAging _ _ | .alignTimeout _ | .reservationExpiry _ | .l1Eviction _ _ _
  | .syncValidation _ | .translationEviction _ _ _ | .unwindStart _ | .cleanupBudgetExpiry _ | .grevokeComplete _
  | .machineCheck _ _ _ | .taskCommit _ | .queueNotify _ _ | .queueMap _ _ | .packetLaunch _ _ | .packetSignal _ _
  | .packetResume _ _ | .packetReject _ _ | .groupCompletion _ | .spillWrite _ | .messageArrival _ _
  | .requestPortRelease _ _ | .handlerDispatch _ | .hwAtomicEntry _ | .overflowDispatch _ | .actorFire _ _
  | .fifoOutputSend _ _ _ | .engineCommandStart _ _ | .copyCompletion _ _ | .copymmFollowOn _ _
  | .remoteTransferCompletion _ _ | .matrixCommandStart _ _ | .matrixCommandCompletion _ _ | .matrixReplay _ _
  | .matrixDeferredTrap _ | .tutorSample _ | .domainRootStore _ _ | .domainActivate _ _ | .frameAssignOwner _ _
  | .frameSetAppend _ _ | .cspBlockStore _ _ _ | .cspBlockInstall _ _ | .pmarkWrite _ _ | .pbudgetWrite _
  | .gatereqWrite _ | .clusterGating _ | .clusterUngating _ | .powerInterval _ | .freezePin | .freezeWrite _
  | .extend | .quote | .reset | .wincfgWrite _ | .hostint _ _ | .registerWrite _ _ | .hostWrite _ _ _
  | .hostRead _ _ | .hostNotify _ _ _ | .flrVf _ | .flrPf | .pcieLoadTimeout _ | .flitReceive _ _
  | .linkRetrain _ _ | .routeChange _ _ _ | .ptpMessage _ | .windowClose | .closeMarker _ _ | .windowEntry
  | .memberFailure _ | .podAccess _ | .poisonedLine _ _ | .replyNetworkArrival _ _ | .remoteInvalidation _ _
  | .timerInterrupt _ _ => 0

/-- The bytes of an instruction in memory, lowest address first (R9, R41); none for an event. -/
def encodeBytes (i : Instr) : List Byte := natBytes i.len (encode i)

end Sys2Proof
end

