-- ==== Sys2Proof/Machine/Sparse.lean ====
section
/-! DEFINITION. Sparse tables: memories, register files and the package's tables are lists of (key, value) pairs in one
canonical form, keys strictly rising and no entry equal to what an unlisted key reads as. Equal contents are then equal
lists. -/

namespace Sys2Proof.Machine

/-- A sparse table by natural key. -/
abbrev Tbl (α : Type) := List (Nat × α)

/-- The value at a key; an unlisted key reads as `d`. -/
def tblGet (d : α) : Tbl α → Nat → α
  | [], _ => d
  | (k', v) :: r, k => if k' = k then v else tblGet d r k

/-- The table without a key. -/
def tblErase (t : Tbl α) (k : Nat) : Tbl α := t.filter (fun p => p.1 != k)

/-- The table with a key that it does not hold. -/
def tblInsert (k : Nat) (v : α) : Tbl α → Tbl α
  | [] => [(k, v)]
  | (k', v') :: r => if k < k' then (k, v) :: (k', v') :: r else (k', v') :: tblInsert k v r

/-- The table with one value changed; the value an unlisted key reads as is not listed. -/
def tblSet [DecidableEq α] (d : α) (t : Tbl α) (k : Nat) (v : α) : Tbl α :=
  if v = d then tblErase t k else tblInsert k v (tblErase t k)

/-- The table without the keys in [lo, hi). -/
def tblClear (t : Tbl α) (lo hi : Nat) : Tbl α := t.filter (fun p => decide (p.1 < lo ∨ hi ≤ p.1))

/-- The table with every listed value changed. -/
def tblMap [DecidableEq α] (d : α) (f : Nat → α → α) (t : Tbl α) : Tbl α :=
  (t.map (fun p => (p.1, f p.1 p.2))).filter (fun p => !decide (p.2 = d))

/-- Keys strictly rising. -/
def tblSorted : Tbl α → Bool
  | [] => true
  | [_] => true
  | (k, _) :: (k', v') :: r => decide (k < k') && tblSorted ((k', v') :: r)

/-- The canonical form of a table. -/
def tblWf [DecidableEq α] (d : α) (t : Tbl α) : Bool :=
  tblSorted t && t.all (fun p => !decide (p.2 = d))

/-- A byte memory: `Host.Cell`s, every unlisted byte 0 (R166, R212, R257, R258: every memory reads zero at reset). -/
abbrev Memory := List Host.Cell

def memGet (m : Memory) (a : Nat) : Byte := tblGet 0 m a
def memSet (m : Memory) (a : Nat) (b : Byte) : Memory := tblSet 0 m a b
def Memory.wf (m : Memory) : Bool := tblWf 0 m

/-- `n` bytes from an address, as a little-endian number (R9). -/
def memRead (m : Memory) (a : Nat) : Nat → Nat
  | 0 => 0
  | n + 1 => (memGet m a).toNat + 256 * memRead m (a + 1) n

/-- The low `n` bytes of a number stored from an address, least significant first (R9). -/
def memWrite (m : Memory) (a : Nat) : Nat → Nat → Memory
  | 0, _ => m
  | n + 1, v => memWrite (memSet m a (BitVec.ofNat 8 v)) (a + 1) n (v / 256)

end Sys2Proof.Machine
end

