-- ==== Sys2Proof/Machine/Numbers.lean ====
section
/-! DEFINITION. Number formats and arithmetic (R58 to R83): exact values, rounding, conversion, block formats, and the sums
of the matrix unit. Every operation is computed exactly and narrowed once. -/

namespace Sys2Proof.Machine

/-! ## Conditions (R30) -/

/-- The FLAGS bits of the conditions: invalid, division by zero, overflow, underflow, inexact, saturated. -/
def flagNV : BitVec 6 := 0b000001#6
def flagDZ : BitVec 6 := 0b000010#6
def flagOF : BitVec 6 := 0b000100#6
def flagUF : BitVec 6 := 0b001000#6
def flagNX : BitVec 6 := 0b010000#6
def flagSAT : BitVec 6 := 0b100000#6

/-! ## Exact values -/

/-- The exact value (−1)^neg × m × 2^e; m = 0 is a zero of that sign. -/
structure Dy where
  neg : Bool
  m : Nat
  e : Int
  deriving DecidableEq, Repr

/-- What an element reads as. -/
inductive Val where
  | fin (d : Dy)
  | inf (neg : Bool)
  | nan (signalling : Bool)
  deriving DecidableEq, Repr

/-- An integer as an exact value; zero is +0. -/
def Dy.ofInt (i : Int) : Dy := { neg := decide (i < 0), m := i.natAbs, e := 0 }

/-- The signed mantissa at an exponent not above the value's own. -/
def Dy.intAt (d : Dy) (e : Int) : Int :=
  let n : Int := (d.m * 2 ^ (d.e - e).toNat : Nat)
  if d.neg then -n else n

/-- The exact sum. An exact zero from terms that are not all −0 is +0, or −0 where `rdn` (IEEE 754). -/
def Dy.add (a b : Dy) (rdn : Bool) : Dy :=
  let e := min a.e b.e
  let s := a.intAt e + b.intAt e
  if s = 0 then { neg := if a.m = 0 ∧ b.m = 0 ∧ a.neg = b.neg then a.neg else rdn, m := 0, e := e }
  else { neg := decide (s < 0), m := s.natAbs, e := e }

/-- The exact product. -/
def Dy.mul (a b : Dy) : Dy := { neg := a.neg != b.neg, m := a.m * b.m, e := a.e + b.e }

/-- The negated value. -/
def Dy.neg' (a : Dy) : Dy := { a with neg := !a.neg }

/-- a < b as real numbers. -/
def Dy.lt (a b : Dy) : Bool := let e := min a.e b.e; decide (a.intAt e < b.intAt e)

/-- Equal as real numbers; the two zeros are equal (R62). -/
def Dy.eqv (a b : Dy) : Bool := let e := min a.e b.e; decide (a.intAt e = b.intAt e)

/-- |a| < |b|. -/
def Dy.magLt (a b : Dy) : Bool := Dy.lt { a with neg := false } { b with neg := false }

/-! ## Floating-point formats (R61, R62) -/

/-- A floating-point element format: field widths, bias, whether exp all ones holds infinity and NaNs (`ieee`), and
whether only the all-ones magnitude is a NaN (E4M3). -/
structure Fmt where
  eb : Nat
  mb : Nat
  bias : Int
  ieee : Bool
  oneNan : Bool
  quietOnly : Bool
  deriving DecidableEq, Repr

/-- The formats to which R69 gives the IEEE 754 result of an overflow: FP64, FP32, BF16 and FP16. -/
def Fmt.inR69 (f : Fmt) : Bool := f.ieee && !f.quietOnly

def fp64 : Fmt := ⟨11, 52, 1023, true, false, false⟩
def fp32 : Fmt := ⟨8, 23, 127, true, false, false⟩
def bf16 : Fmt := ⟨8, 7, 127, true, false, false⟩
def fp16 : Fmt := ⟨5, 10, 15, true, false, false⟩
def e4m3 : Fmt := ⟨4, 3, 7, false, true, true⟩
def e5m2 : Fmt := ⟨5, 2, 15, true, false, true⟩
def e3m2 : Fmt := ⟨3, 2, 3, false, false, true⟩
def e2m3 : Fmt := ⟨2, 3, 1, false, false, true⟩
def e2m1 : Fmt := ⟨2, 1, 1, false, false, true⟩

/-- The sign bit of a format. -/
def Fmt.sign (f : Fmt) : Nat := 2 ^ (f.eb + f.mb)

/-- The encoding of +infinity, where the format has one. -/
def Fmt.infEnc (f : Fmt) : Nat := (2 ^ f.eb - 1) * 2 ^ f.mb

/-- The encoding of the largest finite magnitude. -/
def Fmt.maxEnc (f : Fmt) : Nat :=
  if f.ieee then f.infEnc - 1 else if f.oneNan then 2 ^ (f.eb + f.mb) - 2 else 2 ^ (f.eb + f.mb) - 1

/-- The canonical NaN (R61), where the format has NaNs. -/
def Fmt.nanEnc (f : Fmt) : Option Nat :=
  if f.ieee then some (f.infEnc + 2 ^ (f.mb - 1)) else if f.oneNan then some (2 ^ (f.eb + f.mb) - 1) else none

/-- The canonical NaN, or zero where there is none (R73). -/
def Fmt.nanOr0 (f : Fmt) : Nat := f.nanEnc.getD 0

/-- Exponent of the smallest normal. -/
def Fmt.emin (f : Fmt) : Int := 1 - f.bias

/-- Exponent of the unit of the subnormals. -/
def Fmt.qmin (f : Fmt) : Int := f.emin - f.mb

/-- An encoding with a sign. -/
def Fmt.signed (f : Fmt) (neg : Bool) (enc : Nat) : Nat := if neg then f.sign + enc else enc

/-- The value of an encoding (R62). -/
def Fmt.read (f : Fmt) (x : Nat) : Val :=
  let neg := decide (x / f.sign % 2 = 1)
  let mag := x % f.sign
  let e := mag / 2 ^ f.mb
  let m := mag % 2 ^ f.mb
  if f.ieee ∧ e = 2 ^ f.eb - 1 then
    (if m = 0 then .inf neg else .nan (!f.quietOnly && decide (m < 2 ^ (f.mb - 1))))
  else if f.oneNan ∧ mag = f.sign - 1 then .nan false
  else if e = 0 then .fin ⟨neg, m, f.qmin⟩
  else .fin ⟨neg, 2 ^ f.mb + m, f.qmin + (e - 1)⟩

/-- The largest finite value. -/
def Fmt.maxVal (f : Fmt) : Dy := match f.read f.maxEnc with | .fin d => d | _ => ⟨false, 0, 0⟩

/-! ## Rounding (R68 to R72) -/

/-- The rounding modes of RMODE.MODE (R29, R68); a stochastic rounding carries its draw. -/
inductive Rnd where
  | rne
  | rtz
  | rup
  | rdn
  | sr (u : Nat)
  deriving DecidableEq, Repr

/-- The mode of RMODE.MODE for a rounding step that is no narrowing conversion: 4 rounds to nearest even (R29). -/
def rndOf (mode : BitVec 3) : Rnd :=
  match mode.toNat with
  | 1 => .rtz
  | 2 => .rup
  | 3 => .rdn
  | _ => .rne

/-- Round m × 2^e (and a bit more where `sticky`) to a multiple of 2^q: the multiple, and whether it is inexact. -/
def roundAt (r : Rnd) (neg : Bool) (m : Nat) (e : Int) (sticky : Bool) (q : Int) : Nat × Bool :=
  if q ≤ e then (m * 2 ^ (e - q).toNat, sticky)
  else
    let d := (q - e).toNat
    let n := m / 2 ^ d
    let rem := m % 2 ^ d
    let inexact := decide (rem ≠ 0) || sticky
    let up :=
      match r with
      | .rne => decide (rem > 2 ^ (d - 1)) || (decide (rem = 2 ^ (d - 1)) && (sticky || decide (n % 2 = 1)))
      | .rtz => false
      | .rup => inexact && !neg
      | .rdn => inexact && neg
      | .sr u => decide (u < rem * 2 ^ 32 / 2 ^ d)
    (if up then n + 1 else n, inexact)

/-- The exponent of the leading bit of m × 2^e, m > 0. -/
def topExp (m : Nat) (e : Int) : Int := e + Nat.log2 m

/-- A value rounded to a format with its exponent range unbounded above: the encoding it would have, whether it is
inexact, and whether it is tiny after rounding (R64, R69). -/
def roundFmt (f : Fmt) (r : Rnd) (d : Dy) (sticky : Bool) : Nat × Bool × Bool :=
  if d.m = 0 then (0, false, false)
  else
    let qu := topExp d.m d.e - f.mb
    let q := max qu f.qmin
    let (n, nx) := roundAt r d.neg d.m d.e sticky q
    let nu := (roundAt r d.neg d.m d.e sticky qu).1
    let tiny := decide (qu < f.qmin ∧ topExp nu qu < f.emin)
    ((q - f.qmin).toNat * 2 ^ f.mb + n, nx, tiny)

/-- The IEEE result of an overflow (R69). -/
def overflowEnc (f : Fmt) (r : Rnd) (neg : Bool) : Nat :=
  let toInf := match r with | .rne => true | .rtz => false | .rup => !neg | .rdn => neg | .sr _ => true
  f.signed neg (if toInf then f.infEnc else f.maxEnc)

/-- Round an exact value to a format by an instruction that is no narrowing conversion (R69): result and conditions. -/
def roundTo (f : Fmt) (r : Rnd) (d : Dy) (sticky : Bool) : Nat × BitVec 6 :=
  let (enc, nx, tiny) := roundFmt f r d sticky
  if enc > f.maxEnc then (overflowEnc f r d.neg, flagOF ||| flagNX)
  else
    (f.signed d.neg enc, (if nx then flagNX else 0) ||| (if nx && tiny then flagUF else 0))

/-! ## Arithmetic (R118) -/

/-- Whether an operand is a signalling NaN (R63). -/
def Val.snan : Val → Bool
  | .nan s => s
  | _ => false

/-- The result of an invalid operation: the canonical NaN and NV. -/
def invalid (f : Fmt) : Nat × BitVec 6 := (f.nanOr0, flagNV)

/-- A NaN result from NaN operands: canonical, NV only where one signals (R63). -/
def nanFrom (f : Fmt) (vs : List Val) : Nat × BitVec 6 :=
  (f.nanOr0, if vs.any Val.snan then flagNV else 0)

/-- Whether any operand is a NaN. -/
def anyNan (vs : List Val) : Bool := vs.any (fun v => match v with | .nan _ => true | _ => false)

/-- The exact product of two values, none where it is invalid or a NaN. -/
def Val.mul : Val → Val → Option Val
  | .fin a, .fin b => some (.fin (a.mul b))
  | .inf s, .fin a => if a.m = 0 then none else some (.inf (s != a.neg))
  | .fin a, .inf s => if a.m = 0 then none else some (.inf (s != a.neg))
  | .inf s, .inf t => some (.inf (s != t))
  | _, _ => none

/-- The exact sum of two values that are no NaNs, none where it is invalid. -/
def Val.add (rdn : Bool) : Val → Val → Option Val
  | .fin a, .fin b => some (.fin (a.add b rdn))
  | .inf s, .fin _ => some (.inf s)
  | .fin _, .inf s => some (.inf s)
  | .inf s, .inf t => if s = t then some (.inf s) else none
  | _, _ => none

/-- The negated value. -/
def Val.negate : Val → Val
  | .fin d => .fin d.neg'
  | .inf s => .inf (!s)
  | .nan s => .nan s

/-- A value that needs no rounding in exponent terms rounded to a format: infinities and NaNs go through. -/
def Val.round (f : Fmt) (r : Rnd) : Val → Nat × BitVec 6
  | .fin d => roundTo f r d false
  | .inf s => (f.signed s f.infEnc, 0)
  | .nan _ => (f.nanOr0, 0)

/-- a + b, rounded once. -/
def fAdd (f : Fmt) (r : Rnd) (a b : Val) : Nat × BitVec 6 :=
  if anyNan [a, b] then nanFrom f [a, b]
  else match Val.add (r = .rdn) a b with
    | some v => v.round f r
    | none => invalid f

/-- a × b, rounded once. -/
def fMul (f : Fmt) (r : Rnd) (a b : Val) : Nat × BitVec 6 :=
  if anyNan [a, b] then nanFrom f [a, b]
  else match Val.mul a b with
    | some v => v.round f r
    | none => invalid f

/-- a × b + c, rounded once. 0 × ∞ is invalid also where c is a NaN (R118). -/
def fFma (f : Fmt) (r : Rnd) (a b c : Val) : Nat × BitVec 6 :=
  if anyNan [a, b] then nanFrom f [a, b, c]
  else match Val.mul a b with
    | none => invalid f
    | some p =>
      if anyNan [c] then nanFrom f [c]
      else match Val.add (r = .rdn) p c with
        | some v => v.round f r
        | none => invalid f

/-- a ÷ b for finite nonzero operands, with enough bits that one more decides nothing but stickiness. -/
def divDy (a b : Dy) (bits : Nat) : Dy × Bool :=
  let k := bits + Nat.log2 b.m + 3
  let num := a.m * 2 ^ k
  (⟨a.neg != b.neg, num / b.m, a.e - b.e - k⟩, decide (num % b.m ≠ 0))

/-- a ÷ b, rounded once (R118). -/
def fDiv (f : Fmt) (r : Rnd) (a b : Val) : Nat × BitVec 6 :=
  match a, b with
  | .nan _, _ => nanFrom f [a, b]
  | _, .nan _ => nanFrom f [a, b]
  | .inf _, .inf _ => invalid f
  | .inf s, .fin y => (f.signed (s != y.neg) f.infEnc, 0)
  | .fin x, .inf s => (f.signed (x.neg != s) 0, 0)
  | .fin x, .fin y =>
    if y.m = 0 then
      (if x.m = 0 then invalid f else (f.signed (x.neg != y.neg) f.infEnc, flagDZ))
    else if x.m = 0 then (f.signed (x.neg != y.neg) 0, 0)
    else
      let (q, sticky) := divDy x y (f.mb + 2)
      roundTo f r q sticky

/-- √a, rounded once (R118). -/
def fSqrt (f : Fmt) (r : Rnd) (a : Val) : Nat × BitVec 6 :=
  match a with
  | .nan _ => nanFrom f [a]
  | .inf s => if s then invalid f else (f.infEnc, 0)
  | .fin x =>
    if x.m = 0 then (f.signed x.neg 0, 0)
    else if x.neg then invalid f
    else
      let up := 2 * (f.mb + 4) + (if (x.e.toNat + (-x.e).toNat) % 2 = 1 then 1 else 0)
      let m := x.m * 2 ^ up
      let e := x.e - up
      let q := Nat.sqrt m
      roundTo f r ⟨false, q, e / 2⟩ (decide (q * q ≠ m))

/-- 1 ÷ √a, rounded once (R118). -/
def fRsq (f : Fmt) (r : Rnd) (a : Val) : Nat × BitVec 6 :=
  match a with
  | .nan _ => nanFrom f [a]
  | .inf s => if s then invalid f else (0, 0)
  | .fin x =>
    if x.m = 0 then (f.signed x.neg f.infEnc, flagDZ)
    else if x.neg then invalid f
    else
      let odd := decide ((x.e.toNat + (-x.e).toNat) % 2 = 1)
      let m := if odd then x.m * 2 else x.m
      let e := if odd then x.e - 1 else x.e
      let k := f.mb + 4 + Nat.log2 m
      let num := 2 ^ (2 * k)
      let q := Nat.sqrt (num / m)
      roundTo f r ⟨false, q, -(e / 2) - k⟩ (decide (q * q * m ≠ num))

/-- The order of IEEE 754 minimum and maximum, −0 below +0 (R119). -/
def ordLt : Val → Val → Bool
  | .fin a, .fin b => a.lt b || (decide (a.m = 0 ∧ b.m = 0) && a.neg && !b.neg)
  | .inf s, .inf t => s && !t
  | .inf s, _ => s
  | _, .inf t => !t
  | _, _ => false

/-- VMIN and VMAX on encodings (R119): exact encodings, a NaN loses to a number. -/
def fMinMax (f : Fmt) (mx : Bool) (x y : Nat) : Nat × BitVec 6 :=
  let a := f.read x
  let b := f.read y
  let nv := if a.snan || b.snan then flagNV else 0
  match a, b with
  | .nan _, .nan _ => (f.nanOr0, nv)
  | .nan _, _ => (y, nv)
  | _, .nan _ => (x, nv)
  | _, _ => (if ordLt b a != mx then y else x, nv)

/-- The relations of VCMP on values (R124): equal, less, and whether NV is raised. -/
def fCompare (a b : Val) : Bool × Bool × BitVec 6 :=
  let nv := if a.snan || b.snan then flagNV else 0
  match a, b with
  | .nan _, _ => (false, false, nv)
  | _, .nan _ => (false, false, nv)
  | .fin x, .fin y => (x.eqv y, x.lt y, nv)
  | .inf s, .inf t => (decide (s = t), s && !t, nv)
  | .inf s, _ => (false, s, nv)
  | _, .inf t => (false, !t, nv)

/-! ## Tags (R58 to R60, R65) -/

/-- Element width of a tag; RAW is read as 32-bit lanes. -/
def tagBits (t : Nat) : Nat :=
  match t with
  | 1 => 64 | 23 => 64
  | 3 => 16 | 4 => 16 | 14 => 16
  | 5 => 8 | 6 => 8 | 10 => 8 | 11 => 8 | 15 => 8 | 16 => 8 | 20 => 8
  | 7 => 6 | 8 => 6 | 17 => 6 | 18 => 6
  | 9 => 4 | 12 => 4 | 13 => 4 | 19 => 4 | 21 => 4
  | _ => 32

/-- Elements per v register (R58). -/
def tagCount (t : Nat) : Nat := if tagBits t = 6 then 160 else 1024 / tagBits t

/-- Codes 15–21 are block-scaled. -/
def isBlock (t : Nat) : Bool := decide (15 ≤ t ∧ t ≤ 21)

/-- The floating-point element format of a tag, block-scaled ones included (R61, R66). -/
def tagFmt (t : Nat) : Option Fmt :=
  match t with
  | 1 => some fp64 | 2 => some fp32 | 3 => some bf16 | 4 => some fp16
  | 5 => some e4m3 | 15 => some e4m3
  | 6 => some e5m2 | 16 => some e5m2
  | 7 => some e3m2 | 17 => some e3m2
  | 8 => some e2m3 | 18 => some e2m3
  | 9 => some e2m1 | 19 => some e2m1
  | _ => none

/-- The integer range of a tag (R65). -/
def tagInt (t : Nat) : Option (Int × Int) :=
  match t with
  | 10 => some (-128, 127) | 11 => some (0, 255) | 12 => some (-8, 7) | 13 => some (0, 15)
  | 14 => some (-32768, 32767) | 22 => some (-2 ^ 31, 2 ^ 31 - 1) | 23 => some (-2 ^ 63, 2 ^ 63 - 1)
  | _ => none

/-- The bit position of element `j` in a v register or a tile row (R59). -/
def elemPos (t j : Nat) : Nat := if tagBits t = 6 then 32 * (j / 5) + 6 * (j % 5) else j * tagBits t

/-- Element `j` of 1,024 bits under a tag. -/
def elemAt (t : Nat) (data : Nat) (j : Nat) : Nat := data / 2 ^ elemPos t j % 2 ^ tagBits t

/-- The lane that holds element `j` (the even lane of its pair for 64-bit elements, R59). -/
def elemLane (t j : Nat) : Nat := elemPos t j / 32

/-- 1,024 bits from their elements (R59): bits [31:30] of every lane are zero for the 6-bit tags. -/
def packElems (t : Nat) (es : List Nat) : Nat :=
  (es.zipIdx.map (fun p => p.1 % 2 ^ tagBits t * 2 ^ elemPos t p.2)).sum

/-- A value of `w` bits read as signed. -/
def signedOf (w x : Nat) : Int := if x % 2 ^ w < 2 ^ (w - 1) then (x % 2 ^ w : Nat) else (x % 2 ^ w : Nat) - (2 ^ w : Nat)

/-- A two's complement encoding of `w` bits. -/
def wrapInt (w : Nat) (i : Int) : Nat := (i % (2 ^ w : Nat)).toNat

/-- The integer an element of an I or N tag reads as (R65). -/
def readInt (t x : Nat) : Int :=
  if t = 11 ∨ t = 13 then (x % 2 ^ tagBits t : Nat) else signedOf (tagBits t) x

/-! ## Block scales (R66, R67) -/

/-- The magnitudes of the float–integer hybrid kind. -/
def hybrid (m : Nat) : Nat := [0, 1, 2, 3, 4, 6, 8, 12].getD m 0

/-- A Q4S code under a kind, with S = 1 (R67). -/
def q4Code (kind c : Nat) : Dy :=
  match kind with
  | 0 => Dy.ofInt ((c : Int) - 8)
  | 1 => match e2m1.read c with | .fin d => d | _ => ⟨false, 0, 0⟩
  | 2 => if c % 8 = 0 then ⟨decide (c ≥ 8), 0, 0⟩ else ⟨decide (c ≥ 8), 1, (c % 8 : Nat) - 4⟩
  | _ => ⟨decide (c ≥ 8), hybrid (c % 8), 0⟩

/-- What an element reads as, block scale included (R58, R62, R65 to R67). -/
def readElem (t : Nat) (data side j : Nat) : Val :=
  let x := elemAt t data j
  let scale := side / 2 ^ (8 * (j / 32)) % 256
  if t = 21 then
    if scale % 64 = 63 then .nan false
    else
      let d := q4Code (scale / 64) x
      .fin { d with e := d.e + ((scale % 64 : Nat) : Int) - 32 }
  else if 15 ≤ t ∧ t ≤ 20 then
    if scale = 255 then .nan false
    else
      let k : Int := (scale : Int) - 127
      if t = 20 then
        let d := Dy.ofInt (signedOf 8 x)
        .fin { d with e := d.e - 6 + k }
      else match tagFmt t with
        | some f => match f.read x with
          | .fin d => .fin { d with e := d.e + k }
          | v => v
        | none => .nan false
  else match tagFmt t with
    | some f => f.read x
    | none => .fin (Dy.ofInt (readInt t x))

/-! ## Conversions (R72 to R77) -/

/-- A value converted to a floating-point format by a narrowing conversion (R73): encoding and conditions. Under
stochastic rounding overflow is judged on the exact value. -/
def narrowFloat (f : Fmt) (r : Rnd) (nan : Bool) (v : Val) : Nat × BitVec 6 :=
  match v with
  | .nan s =>
    match f.nanEnc with
    | some c => (c, if s then flagNV else 0)
    | none => (0, flagNV)
  | .inf s =>
    if f.ieee then (f.signed s f.infEnc, 0)
    else if f.oneNan && nan then (f.nanOr0, 0)
    else (f.signed s f.maxEnc, flagSAT)
  | .fin d =>
    let (enc, nx, tiny) := roundFmt f r d false
    let ovf := match r with | .sr _ => f.maxVal.magLt d | _ => decide (enc > f.maxEnc)
    if ovf then
      if nan && f.ieee then (overflowEnc f r d.neg, flagOF ||| flagNX)
      else if nan && f.oneNan then (f.nanOr0, flagOF ||| flagNX)
      else (f.signed d.neg f.maxEnc, flagSAT ||| flagNX)
    else
      (f.signed d.neg enc, (if nx then flagNX else 0) ||| (if nx && tiny then flagUF else 0))

/-- A value converted to an integer format (R73, R75): nearest bound with SAT and NX, NV for an infinity, +0 and NV for a
NaN. DEDUCED (log entry 25): under stochastic rounding a value overflows when it lies beyond the bound of its sign. -/
def narrowInt (lo hi : Int) (r : Rnd) (v : Val) : Int × BitVec 6 :=
  match v with
  | .nan _ => (0, flagNV)
  | .inf s => (if s then lo else hi, flagNV)
  | .fin d =>
    let (n, nx) := roundAt r d.neg d.m d.e false 0
    let i : Int := if d.neg then -(n : Int) else n
    let ovf := match r with
      | .sr _ => (Dy.ofInt (if d.neg then lo else hi)).magLt d
      | _ => decide (i < lo ∨ hi < i)
    if ovf then (if d.neg then lo else hi, flagSAT ||| flagNX) else (i, if nx then flagNX else 0)

/-- A widening conversion (R74): exact but for a scaled value that the target does not hold, which rounds, overflows and underflows; NV
for a signalling NaN. R74 excludes saturation and R69 gives an overflow result for FP64, FP32, BF16 and FP16 only, so in any other format,
E5M2 among them, that one value is free (log entry 26). DEDUCED (log entry 26): the NaN of a NaN block in a target without NaNs is +0 with
NV, as R73 states for narrowing. -/
def widenFloat (f : Fmt) (r : Rnd) (v : Val) : Nat × BitVec 6 :=
  match v with
  | .nan s =>
    match f.nanEnc with
    | some c => (c, if s then flagNV else 0)
    | none => (0, flagNV)
  | .inf s => (f.signed s f.infEnc, 0)
  | .fin d =>
    if !f.inR69 && decide ((roundFmt f r d false).1 > f.maxEnc) then
      ((Config.widenOverflow f.eb f.mb d.neg).toNat % (2 * f.sign), flagOF ||| flagNX)
    else roundTo f r d false

/-- One element converted to a tag that is not block-scaled. -/
def convElem (t : Nat) (narrow : Bool) (r : Rnd) (nan : Bool) (v : Val) : Nat × BitVec 6 :=
  match tagFmt t with
  | some f => if narrow then narrowFloat f r nan v else widenFloat f r v
  | none =>
    match tagInt t with
    | some (lo, hi) => let (i, fl) := narrowInt lo hi r v; (wrapInt (tagBits t) i, fl)
    | none => (0, 0)

/-- The largest finite magnitude of a block. -/
def blockMax (vs : List Val) : Dy :=
  vs.foldl (fun a v => match v with | .fin d => if a.magLt d then { d with neg := false } else a | _ => a) ⟨false, 0, 0⟩

/-- emax of R76 step 3. -/
def mxEmax (t : Nat) : Int :=
  match t with
  | 15 => 8 | 16 => 15 | 17 => 4 | 18 => 2 | 19 => 2 | _ => 0

/-- A block encoded in a microscaling format (R76): scale byte, elements, and each element's conditions; those of the block
as a whole are its first element's (R114). -/
def encodeMx (t : Nat) (rs : List Rnd) (nan : Bool) (vs : List Val) : Nat × List Nat × List (BitVec 6) :=
  let bad := vs.any (fun v => match v with | .fin _ => false | _ => true)
  if (t ≠ 15 ∧ t ≠ 16) ∧ bad then
    (255, vs.map (fun _ => 0), vs.zipIdx.map (fun p => if p.2 = 0 ∧ anyNan vs then flagNV else 0))
  else
    let a := blockMax vs
    let x : Int := if a.m = 0 then -127 else max (-127) (min 127 (topExp a.m a.e - mxEmax t))
    let one := fun (v : Val) (r : Rnd) =>
      match v with
      | .fin d =>
        if a.m = 0 then
          ((match tagFmt t with | some f => f.signed d.neg 0 | none => 0), (0 : BitVec 6))
        else if t = 20 then
          let (i, fl) := narrowInt (-128) 127 r (.fin { d with e := d.e - (x - 6) })
          (wrapInt 8 i, fl)
        else match tagFmt t with
          | some f => narrowFloat f r nan (.fin { d with e := d.e - x })
          | none => (0, 0)
      | v => match tagFmt t with
        | some f => narrowFloat f r nan v
        | none => (0, 0)
    let es := List.zipWith one vs rs
    ((x + 127).toNat, es.map Prod.fst, es.map Prod.snd)

/-- The magnitudes of a Q4S kind with their codes, in increasing order; kind 00 on the given side. -/
def q4Mags (kind : Nat) (neg : Bool) : List (Dy × Nat) :=
  match kind with
  | 0 => if neg then (List.range 9).map (fun i => (⟨true, i, 0⟩, 8 - i)) else (List.range 8).map (fun i => (⟨false, i, 0⟩, 8 + i))
  | k => (List.range 8).map (fun i => let c := if neg then 8 + i else i; (q4Code k c, c))

/-- The candidates around a value: the largest magnitude not above it and the next one. -/
def q4Around (v : Dy) : List (Dy × Nat) → (Dy × Nat) × Option (Dy × Nat)
  | [] => ((⟨false, 0, 0⟩, 0), none)
  | [a] => (a, none)
  | a :: b :: r => if v.magLt b.1 then (a, some b) else q4Around v (b :: r)

/-- A value encoded as a code of a kind with exponent `e` (R67, R68, R77): beyond the range the extreme code, with SAT
and NX; ties go to the even code. DESIGN CHOICE (log entry 68): a positive value of kind 00 above 7 × S is beyond the range
before it is rounded. -/
def q4Encode (kind : Nat) (e : Int) (r : Rnd) (v : Dy) : Nat × BitVec 6 :=
  let y : Dy := { v with e := v.e - (e - 32) }
  let (t, n) := q4Around y (q4Mags kind v.neg)
  match n with
  | none => if t.1.magLt y then (t.2, flagSAT ||| flagNX) else (t.2, 0)
  | some t' =>
    if !(t.1.magLt y) then (t.2, 0)
    else
      let lo : Dy := { y with neg := false }
      let low := lo.add { t.1 with neg := true } false
      let gap := ({ t'.1 with neg := false } : Dy).add { t.1 with neg := true } false
      let twice : Dy := { low with e := low.e + 1 }
      let up :=
        match r with
        | .rne => gap.magLt twice || (gap.eqv twice && decide (t.2 % 2 = 1))
        | .rtz => false
        | .rup => !v.neg
        | .rdn => v.neg
        | .sr u =>
          let q := min low.e gap.e
          decide (u < (low.intAt q).toNat * 2 ^ 32 / (gap.intAt q).toNat)
      (if up then t'.2 else t.2, flagNX)

/-- The exponent of a kind for a block of largest magnitude A (R77 step 3): ceil(log2(A ÷ K)) + 32, clamped. -/
def q4Exp (a : Dy) (kmax : Nat) : Int :=
  if a.m = 0 then 0
  else
    let base := topExp a.m a.e - Nat.log2 kmax
    let fits := fun (x : Int) => !(Dy.magLt ⟨false, kmax, x⟩ a)
    let c := if fits (base - 1) then base - 1 else if fits base then base else base + 1
    max 0 (min 62 (c + 32))

/-- The largest magnitude of a kind (R77 step 2). -/
def q4Kmax (kind : Nat) : Nat := [8, 6, 8, 12].getD kind 8

/-- The exact absolute error of one value under a kind with RNE (R77 steps 4 and 5). -/
def q4Error (kind : Nat) (e : Int) (v : Dy) : Dy :=
  let c := (q4Encode kind e .rne v).1
  let d := q4Code kind c
  let d' : Dy := { d with e := d.e + e - 32 }
  let diff := v.add { d' with neg := !d'.neg } false
  { diff with neg := false }

/-- A block encoded in Q4S (R77): scale byte, codes, each code's conditions. -/
def encodeQ4 (rs : List Rnd) (vs : List Val) : Nat × List Nat × List (BitVec 6) :=
  let fins := vs.filterMap (fun v => match v with | .fin d => some d | _ => none)
  if fins.length ≠ vs.length then
    (0x3F, vs.map (fun _ => 0), vs.zipIdx.map (fun p => if p.2 = 0 ∧ anyNan vs then flagNV else 0))
  else
    let a := blockMax vs
    let cost := fun k => fins.foldl (fun (s : Dy) v => s.add (q4Error k (q4Exp a (q4Kmax k)) v) false) ⟨false, 0, 0⟩
    let best := [1, 2, 3].foldl (fun b k => if (cost k).lt (cost b) then k else b) 0
    let e := q4Exp a (q4Kmax best)
    let cs := List.zipWith (fun v r => q4Encode best e r v) fins rs
    (best * 64 + e.toNat, cs.map Prod.fst, cs.map Prod.snd)

/-! ## Narrowing and widening (R126) -/

/-- Whether every value of a source tag's element format is exact in the target's (R126); block scales do not count. -/
def holdsAll (src dst : Nat) : Bool :=
  match tagFmt dst, tagInt dst with
  | some g, _ =>
    if src = 21 then decide (2 ≤ g.mb ∧ g.qmin ≤ -3) && !(g.maxVal.lt ⟨false, 12, 0⟩)
    else match tagFmt src with
      | some f =>
        decide (f.mb ≤ g.mb) && decide (g.qmin ≤ f.qmin) && !(g.maxVal.lt f.maxVal)
          && (!f.ieee || g.ieee) && (!f.oneNan || g.nanEnc.isSome)
      | none =>
        match (if src = 20 then some ((-128 : Int), (127 : Int), (-6 : Int)) else (tagInt src).map (fun r => (r.1, r.2, (0 : Int)))) with
        | some (lo, hi, e) =>
          let bits := Nat.log2 (max hi.toNat (if lo < 0 then lo.natAbs - 1 else 0)) + 1
          decide (bits ≤ g.mb + 1) && decide (g.qmin ≤ e) && !(g.maxVal.magLt ⟨false, max hi.natAbs lo.natAbs, e⟩)
        | none => false
  | none, some (lo, hi) =>
    match tagFmt src, tagInt src with
    | none, some (l, h) => src ≠ 21 && decide (lo ≤ l ∧ h ≤ hi)
    | _, _ => false
  | none, none => false

/-- A conversion is narrowing when some value is not exact in the target, and always to codes 15–21 (R126). -/
def isNarrowing (src dst : Nat) : Bool := isBlock dst || !holdsAll src dst

/-! ## Sums of the matrix unit (R79 to R81) -/

/-- K-group length of an operand tag (R79). -/
def groupLen (t : Nat) : Nat :=
  match tagBits t with
  | 4 => 32 | 6 => 32 | 8 => 16 | 16 => 8 | 32 => 4 | _ => 1

/-- One exact sum of an accumulator and products, rounded once (R79, R80). `none` stands for an invalid product. -/
def sumRound (f : Fmt) (acc : Val) (terms : List (Option Val)) : Nat × BitVec 6 :=
  let ts := some acc :: terms
  let vals := ts.filterMap id
  let posInf := vals.any (fun v => v == .inf false)
  let negInf := vals.any (fun v => v == .inf true)
  if ts.any (fun t => t.isNone) || anyNan vals || (posInf && negInf) then invalid f
  else if posInf then (f.infEnc, 0)
  else if negInf then (f.signed true f.infEnc, 0)
  else
    let fins := vals.filterMap (fun v => match v with | .fin d => some d | _ => none)
    let sum := fins.foldl (fun (s : Dy) d => s.add d false) ⟨true, 0, 0⟩
    roundTo f .rne sum false

/-- The chain of groups of R79 over a list of products, G at a time; an omitted product is none (R222). A group of omitted
products still rounds its accumulator, and so meets a NaN in it (R80). -/
def sumGroups (f : Fmt) (g : Nat) : Nat → Nat → List (Option (Option Val)) → BitVec 6 → Nat × BitVec 6
  | 0, acc, _, fl => (acc, fl)
  | _ + 1, acc, [], fl => (acc, fl)
  | n + 1, acc, t :: ts, fl =>
    let here := ((t :: ts).take g).filterMap id
    let (a, x) := sumRound f (f.read acc) here
    sumGroups f g n a ((t :: ts).drop g) (fl ||| x)

/-- A product as a term of R79. -/
def product (a b : Val) : Option Val := if anyNan [a, b] then none else Val.mul a b

/-- The sum of R79 from an accumulator encoding. -/
def sum79 (f : Fmt) (g acc : Nat) (terms : List (Option (Option Val))) : Nat × BitVec 6 :=
  sumGroups f (max g 1) terms.length acc terms 0

end Sys2Proof.Machine
end

