-- ==== Sys2Proof/Machine/Generators.lean ====
section
/-! DEFINITION. The stochastic-rounding generators: one step of a generator and the load from a seed (R70, R71). -/

namespace Sys2Proof.Machine

/-- One step of the Galois LFSR of R70. -/
def genStep (g : Lane) : Lane :=
  if g.getLsbD 0 then (g >>> 1) ^^^ 0x80200003#32 else g >>> 1

/-- The generator of lane `i` loaded from a seed (R71). -/
def genSeed (seed : Word) (i : Nat) : Lane :=
  let g := seed.extractLsb' 0 32 ^^^ seed.extractLsb' 32 32 ^^^ BitVec.ofNat 32 ((i + 1) * 0x9E3779B9)
  if g = 0 then 1 else g

/-- The 32 generators of a strand loaded from a seed (R71). -/
def genSeeds (seed : Word) : List Lane := (List.range 32).map (genSeed seed)

end Sys2Proof.Machine
end

