-- ==== Sys2Proof/Machine/State.lean ====
section
/-! DEFINITION. The state of one package as plain data, and its reset value. Register files, memories and tables are
sparse (Sparse.lean). A reset value the manual does not state is a DESIGN CHOICE of log entry 4. -/

namespace Sys2Proof.Machine

/-! ## Registers and results in flight -/

/-- A register of a strand (R25). -/
inductive RegId where
  | s (n : Nat)
  | k (n : Nat)
  | v (n : Nat)
  | m (n : Nat)
  | t (n : Nat)
  | ox (n : Nat)
  deriving DecidableEq, Repr

/-- A v register: data, side field and tag as one unit (R26); lane i is bits [32i + 31 : 32i] (R59). -/
structure VReg where
  data : BitVec 1024
  side : BitVec 64
  tag : BitVec 5
  deriving DecidableEq, Repr

/-- A v register at dispatch (R25): data 0, side 0, tag RAW. -/
def VReg.zero : VReg := { data := 0, side := 0, tag := 0 }

/-- A tile register (R215): row i is bits [1024i + 1023 : 1024i]. -/
structure Tile where
  data : BitVec 32768
  tag : BitVec 5
  deriving DecidableEq, Repr

def Tile.zero : Tile := { data := 0, tag := 0 }

/-- The value of a fixed-latency result. -/
inductive PVal where
  | word (x : Word)
  | vec (x : VReg)
  | mask (x : Lane)
  deriving DecidableEq, Repr

/-- A pending fixed-latency write (R35): its register, value, landing step, and the PC of its producer (R36). -/
structure Pend where
  reg : RegId
  val : PVal
  land : Nat
  pc : Word
  deriving DecidableEq, Repr

/-- What a stream that cannot issue waits for (R14, R20 to R23, R32, R38, R97, R111, R169, R185, R193, R210). `coupling`
names its case: 0 a pop, 1 a push, 2 a push on the branch-outcome queue. `accept` waits for the home of an access (R95), `align`
holds the core's cycle at which it began and the w of its ALIGN. `reply` is an AMRET that has sent its reply (R178), `gate` a GCALL or
GRET that drains (R149, R152). `accept`, `drain`, `gate`, and `pfree` with its frame and window, are waits that complete first in the
sense of R185. -/
inductive Wait where
  | none
  | score
  | coupling (k : Nat)
  | flag (n : Nat) (since : Nat)
  | vend
  | fin
  | reply
  | gate
  | inbox
  | send
  | oldest
  | accept
  | align (since w : Nat)
  | interrupt
  | bell
  | window
  | revoke (asid dest w : Nat)
  | drain
  | pfree (frame : Nat) (win : Option Nat)
  deriving DecidableEq, Repr

/-- The C-stream's own state: PC, s and ox registers (R25), its step count and pending writes (R34, R35), the steps of a w count
it has still to idle (R34), its wait. -/
structure CStr where
  pc : Word
  s : Tbl Word
  ox : Tbl Word
  step : Nat
  idle : Nat
  pend : List Pend
  wait : Wait
  deriving DecidableEq, Repr

/-- The V-stream's own state: PC; k, v, m and tile registers (R25); the 32
generators (R70); MCFG and MGB (R217); its step count, pending writes, idle steps and wait. -/
structure VStr where
  pc : Word
  k : Tbl Word
  v : Tbl VReg
  m : Tbl Lane
  t : Tbl Tile
  gen : List Lane
  mcfg : Word
  mgb : Word
  step : Nat
  idle : Nat
  pend : List Pend
  wait : Wait
  deriving DecidableEq, Repr

/-- The system registers (R27 to R30, R153, R182). STATUS.SLOT and STATUS.GATED are computed from the slot and from
DSDEPTH (R28). -/
structure Sys where
  vrun : Bool
  pri : BitVec 2
  timed : Bool
  pm : Bool
  ie : Bool
  chk : Bool
  tcause : Word
  taddr : Word
  tpc : Word
  tvpc : Word
  tvec : Word
  quant : Word
  gstat : BitVec 8
  dsdepth : Nat
  rmode : BitVec 3
  srseed : Word
  flags : BitVec 6
  fenable : BitVec 6
  deriving DecidableEq, Repr

/-- The coupling state (R19). Queues hold their oldest entry first. -/
structure Coupling where
  c2v : List Word
  v2c : List Word
  flags : BitVec 8
  bq : List Bool
  deriving DecidableEq, Repr

/-- A domain-stack frame (R149, R155). `regs` holds s9–s31, lowest number first. -/
structure Frame where
  callerGen : Nat
  calleeGen : Nat
  callee : Nat
  caller : Nat
  vpol : BitVec 2
  kind : BitVec 2
  pm : Bool
  ret : Word
  window : Word
  cleanup : Word
  budget : Nat
  rmode : BitVec 3
  flags : BitVec 6
  fenable : BitVec 6
  srseed : Word
  handle : Word
  regs : List Word
  deriving DecidableEq, Repr

/-- An unwind in progress (R157): the frame k, whether the innermost frame's cleanup is running and the cycles it has
left, whether the unwind kills, the error word's BUDGET and FORCED bits, and whether its frames are popped without cleanup
(R190). -/
structure Unwind where
  k : Nat
  dom : Nat
  clean : Bool
  left : Nat
  killing : Bool
  budget : Bool
  forced : Bool
  skip : Bool
  deriving DecidableEq, Repr

/-- A trap to be entered: cause, subcode, the value of TADDR (R183), and the trapping stream (R182). -/
structure Trap where
  cause : Nat
  sub : Nat
  addr : Word
  strm : Stream
  deriving DecidableEq, Repr

/-- What is due at a strand's next boundary: a page-fault park whose access is already held (R95), or a trap that is not
precise (R95, R229). -/
inductive Due where
  | park (t : Trap)
  | trap (t : Trap)
  deriving DecidableEq, Repr

/-- An arrival at a bell channel whose phase its strand waits for (R205, R210). -/
structure BellWait where
  chan : Nat
  phase : Nat
  dest : Nat
  deriving DecidableEq, Repr

/-- The open Tutor region record of a strand (R311): cluster, slot, configuration generation, inputs. -/
structure Record where
  cluster : Nat
  slot : Nat
  gen : Nat
  inputs : List Lane
  deriving DecidableEq, Repr

/-- States of a strand slot (R31). -/
inductive SlotState where
  | free
  | active
  | parked
  deriving DecidableEq, Repr

/-- What a slot runs (R18, R177, R180, R298, R304, R307, R345). -/
inductive Job where
  | none
  | task (id : Nat)
  | actor (n : Nat)
  | handler
  | overflow
  | restore
  | thread
  | firmware
  deriving DecidableEq, Repr

/-- What came back for an access: its value, its result (0 done, 1 a fault its requester holds, otherwise a trap cause) and the
STATE of its frame, as the frame table encodes it (R258, R351). -/
structure Ack where
  v : Word
  res : Nat
  state : Nat
  deriving DecidableEq, Repr

/-- An access of the instruction a strand is inside (R95, R340, R350): its identity, the physical address, and what came back. -/
structure Got where
  id : Nat
  pa : Nat
  ans : Option Ack
  deriving DecidableEq, Repr

/-- One strand slot (R18) with everything it owns. `gid` is the task group of its firing; `dom` the current domain and `base` the domain
the firing started in (R142, R149, R154); `spec` says that the firing is speculative (R97); `await` lists registers awaiting a
scoreboarded result with the identity of its source (R38); `res` is the reservation of R103: granule and the cycle of the LR, `resAt` the
directory agent that holds it; `entry` says that a trap or park has been taken and what had issued before it has still to complete (R33,
R229); `frames` are those held in the slot, innermost first, `tops` the callee stack top and the callee of every frame, which a frame
record does not keep (R149, R157); `nest` counts the handlers that the running one interrupted (R184); `aligned` holds the PCs of ALIGNs
whose wait an entry has ended, which are complete when they execute again (R185, R193); `replied` says that an AMRET has sent its reply
(R178); `got` holds the accesses of the instruction it is inside. -/
structure Strand where
  st : SlotState
  job : Job
  gid : Option Nat
  dom : Nat
  base : Nat
  spec : Bool
  c : CStr
  v : VStr
  sys : Sys
  q : Coupling
  await : List (RegId × Nat)
  res : Option (Nat × Nat)
  resAt : Nat
  frames : List Frame
  tops : List (Word × Nat)
  seg : Word
  unw : Option Unwind
  inTrap : Bool
  nest : Nat
  entry : Bool
  aligned : List Word
  replied : Bool
  got : List Got
  due : List Due
  bell : Option BellWait
  region : Option Record
  parks : Nat
  podWin : Option Nat
  preempt : Bool
  deriving DecidableEq, Repr

/-! ## Messages -/

/-- A message (R167, R168): the group it belongs to, the header the receiver sees, its payload, for an active message the
handler's entry PC (R173), and the accesses of its sender that a LOOPB found open: its release (R175). -/
structure Msg where
  gid : Nat
  hdr : Word
  payload : List Word
  entry : Option Word
  after : List Nat := []
  deriving DecidableEq, Repr

/-- A message in a send buffer (R169): target core and message. -/
structure OutMsg where
  target : Nat
  msg : Msg
  deriving DecidableEq, Repr

/-- The operands of an atomic (R102): operation, width in bytes, b and the comparison value, each with its upper half
for ACAS2. -/
structure AtomicArgs where
  op : Nat
  size : Nat
  b : Word
  cmp : Word
  b2 : Word
  cmp2 : Word
  deriving DecidableEq, Repr

/-- An atomic on a scratchpad word, served by slot 6 of the owning core (R177, R179): the issuing strand, the byte
offset, the operands, the register that receives the old value, and the identity the register awaits. -/
structure HwAtomic where
  six : Nat
  off : Nat
  args : AtomicArgs
  dest : Nat
  acq : Bool
  id : Nat
  deriving DecidableEq, Repr

/-- An entry of the handler queue (R177). -/
inductive HandlerEntry where
  | message (m : Msg)
  | atomic (a : HwAtomic)
  deriving DecidableEq, Repr

/-- One FIFO of an actor (R303): enabled, tokens per firing, capacity, base offset, and the ring's first entry and
count; the entries themselves lie in the scratchpad. -/
structure Fifo where
  en : Bool
  rate : Nat
  cap : Nat
  base : Nat
  head : Nat
  count : Nat
  deriving DecidableEq, Repr

/-- A declared actor (R303, R304). -/
structure Actor where
  gid : Nat
  dom : Nat
  domGen : Nat
  entry : Word
  pri : BitVec 2
  ins : List Fifo
  outs : List Fifo
  dests : List Word
  busy : Bool
  fired : Nat
  deriving DecidableEq, Repr

/-- One core (R159 to R181, R381, R303): round-robin pointers by sequencer and priority, the YIELD records, aged streams, by slot and
stream (2 × slot, plus 1 for the V-stream) the cycles it has requested in a row without a grant (R161, at most 1,024), inbox, request
port, handler queue, send buffers, messages waiting in the reply network, actor table, pending interrupts (subcode and source, R183), the
tenant last hosted (R288), the cycles that have passed at it, and the slots whose C-stream requested when its C-sequencer last granted
(R160). -/
structure Core where
  rrC : Tbl Nat
  rrV : Tbl Nat
  yield : List (Nat × List Nat)
  aged : List (Nat × Stream)
  ages : Tbl Nat
  inbox : List Msg
  port : List HandlerEntry
  hq : List HandlerEntry
  reqBuf : List OutMsg
  repBuf : List OutMsg
  repNet : List Msg
  actors : Tbl (Option Actor)
  intr : List (Nat × Nat)
  tenant : Option Nat
  cycle : Nat
  reqs : List Nat
  deriving DecidableEq, Repr

/-! ## Engine, matrix unit, pool, Tutor engine -/

/-- A space named by an instruction (R46). -/
inductive Space where
  | g
  | c
  | p
  | l
  | d
  deriving DecidableEq, Repr

/-- A hull of R203: space, the core or domain that gives the address its meaning (the issuing core for P, the die for D,
the ASID for G), first byte and the byte past the last. -/
structure Hull where
  space : Space
  owner : Nat
  lo : Nat
  hi : Nat
  deriving DecidableEq, Repr

/-- The operations of the matrix unit (R216). -/
inductive MxOp where
  | mma
  | mmaz
  | mtcx
  | mldt
  | mzt
  | mcvt
  | mtrn
  | tmovOut
  | tmovIn
  deriving DecidableEq, Repr

/-- A matrix command with all it captured at issue (R217, R225): the encoding it was issued by, operation, destination tile, source tile,
operand specs or conversion or move word (TMOV's v register in `specB`), registers of a run, MCFG, MGB, ASID, privilege and window, the
rounding draws taken at issue (R233), hulls, whether it has begun (R226), its shadow, whether a translation fault holds it and where
(R229, R248), and the frame depth of its issue (R150). -/
structure MxCmd where
  id : Nat
  six : Nat
  enc : Nat
  op : MxOp
  td : Nat
  ta : Nat
  specA : Word
  specB : Word
  runA : List VReg
  runB : List VReg
  mcfg : Word
  mgb : Word
  asid : Nat
  pm : Bool
  mode : BitVec 3
  gen : List Lane
  reads : List Hull
  begun : Bool
  shadow : Option Tile
  held : Bool
  depth : Nat := 0
  heldAt : Nat × Word := (0, 0)
  deriving DecidableEq, Repr

/-- The kinds of engine and message-unit commands (R176, R197, R203). -/
inductive CmdKind where
  | copy
  | copymm
  | bpref
  | rget
  | rput
  deriving DecidableEq, Repr

/-- An engine or message-unit command with all it captured at issue (R51, R199, R176). `tag` is the TGT and TAG word of RGET and RPUT;
`follow` the follow-on of COPYMM, with the state of its copy; `depth` the frame depth of its issue (R150); `heldAt` the domain and address
whose translation it waits for (R248); of a copy from or into another package `part` holds the words read so far, `buf` all of them and
what stopped the reading; `done` the positions it has moved and `sent` its word on the way to another package (R200, R351). -/
structure Cmd where
  id : Nat
  six : Nat
  gid : Option Nat
  kind : CmdKind
  token : Nat
  ssp : Space
  src : Word
  dsp : Space
  dst : Word
  rows : Nat
  spl : Nat
  dpl : Nat
  len : Nat
  asid : Nat
  pm : Bool
  tag : Nat
  reads : List Hull
  writes : List Hull
  follow : Option MxCmd
  begun : Bool
  copied : Option Word
  held : Bool
  depth : Nat := 0
  heldAt : Nat × Word := (0, 0)
  part : List Nat := []
  buf : Option (List Nat × Nat) := none
  done : Nat := 0
  sent : Option Got := none
  deriving DecidableEq, Repr

/-- An entry of the iteration pool (R196). -/
structure PoolEntry where
  gid : Nat
  key : Nat
  lo : Nat
  hi : Nat
  deriving DecidableEq, Repr

/-- A region slot of the Tutor engine (R308, R309, R313, R322). -/
structure TutorSlot where
  asid : Nat
  ogen : Nat
  conf : Bool
  mode : BitVec 2
  impure : Bool
  diverged : Bool
  fbcnt : Nat
  gen : Nat
  start : Word
  stop : Word
  word2 : Word
  lrate : Lane
  thresh : Lane
  hard : Lane
  weights : List Lane
  samples : List (List Lane × List Lane)
  err : Lane
  calls : Nat
  served : Nat
  taken : Nat
  updates : Nat
  sinceTrain : Nat
  frames : List Nat
  deriving DecidableEq, Repr

/-- A sample on its way to the engine (R316): the strand, slot, configuration generation, inputs and results. -/
structure Sample where
  six : Nat
  slot : Nat
  gen : Nat
  inputs : List Lane
  results : List Lane
  deriving DecidableEq, Repr

/-- The units a cluster's cores share (R191). -/
structure Cluster where
  pool : List PoolEntry
  cmds : List Cmd
  mx : List MxCmd
  migq : List Nat
  tutor : Tbl TutorSlot
  samples : List Sample
  deriving DecidableEq, Repr

/-- An arrival at a counted pod channel, as the package that made it sends it (R361): its phase, count, operation, key, value and
window. -/
structure Arrival where
  phase : Nat
  count : Nat
  rop : Option Nat
  key : List Nat
  v : Word
  win : Nat
  deriving DecidableEq, Repr

/-- A bell channel (R205 to R208): its kind once its first arrival has fixed it; for a counted channel the open phase,
its COUNT, ROP and arrivals (key and value), and the latest results; for a phased channel the front and the open phases
with COUNT, arrivals and window. Results hold phase, value and the window of the phase's last arrival (R361), newest
first; `lastWin` is that window for the open counted phase; `early` holds arrivals of other packages at phases still to open. -/
structure Bell where
  kind : Option Bool
  phase : Nat
  count : Nat
  rop : Option Nat
  arrived : Nat
  values : List (List Nat × Word)
  results : List (Nat × Word × Nat)
  done : Nat
  front : Nat
  opens : List (Nat × Nat × Nat × Nat)
  lastWin : Nat
  early : List Arrival := []
  deriving DecidableEq, Repr

/-! ## Memory system -/

/-- A translation cached by a slice or an MMU (R247, R250): page base, leaf rights and class, the leaf's address, and the
A and D record bits. -/
structure Tlb where
  pa : Nat
  user : Bool
  r : Bool
  w : Bool
  x : Bool
  cls : BitVec 2
  leaf : Nat
  a : Bool
  d : Bool
  deriving DecidableEq, Repr

/-- The memory classes of R96 and R259. -/
inductive MClass where
  | normal
  | sync
  | append
  | sealed
  | device
  deriving DecidableEq, Repr

/-- A line of a core's L1 (R252 to R254): its physical address and class, which of its 16 words are valid, which are owned
by this core, and the data of valid unowned words as fetched. Owned words read as memory does: a write is visible to
every agent at one moment (R274). `regAt` orders the registrations of its owned words, `stamp` its sharer record, oldest
lowest (R252, R254). -/
structure L1Line where
  pa : Nat
  cls : MClass
  valid : BitVec 16
  owned : BitVec 16
  data : BitVec 512
  regAt : Tbl Nat
  stamp : Nat
  deriving DecidableEq, Repr

/-- The directory's entry of a line (R255): the agent that holds it in M, O or E, whether it is dirty, and the agents
that share it. Agents 0–255 are slices, 256 the chiplet's caches. -/
structure DirLine where
  owner : Option Nat
  dirty : Bool
  sharers : List Nat
  deriving DecidableEq, Repr

/-- A scalar memory operation, complete in itself, so that a held access can replay without its core (R95). -/
inductive MemOp where
  | load (d size : Nat) (signed : Bool)
  | store (size : Nat) (v : Word)
  | atomic (d : Nat) (args : AtomicArgs)
  | lr (d size : Nat)
  | sc (d size : Nat) (v : Word)
  | appnd (d size : Nat) (v : Word)
  | tailq (d : Nat)
  | seal (d : Nat)
  | persist (d len : Nat)
  deriving DecidableEq, Repr

/-- A request held at a slice (R95, R248): its requester, domain and privilege, address, operation, the acquire bit, the
frame depth at which it was made (R249) and whether its instruction waits for its home to accept it (R95). KIND of R248 is 0
for a strand. -/
structure Held where
  id : Nat
  six : Nat
  asid : Nat
  pm : Bool
  va : Word
  op : MemOp
  acq : Bool
  rel : Bool
  depth : Nat
  write : Bool
  kind : Nat
  now : Bool
  deriving DecidableEq, Repr

/-- A SYNC store or atomic that has updated its sharers and waits for their acknowledgements (R254): its request, the domain and
address it resolved to, and the bytes it will write when it performs. -/
structure SyncStore where
  id : Nat
  six : Nat
  req : Held
  asid : Nat
  va : Word
  pa : Nat
  size : Nat
  deriving DecidableEq, Repr

/-- A window load that waits for its completion from the host (R340). -/
structure HostLoad where
  id : Nat
  six : Nat
  addr : Nat
  size : Nat
  signed : Bool
  dest : Nat
  func : Nat
  acq : Bool
  deriving DecidableEq, Repr

/-- A remote access this package has sent and that is not yet acknowledged (R350, R358); `keep` marks the fetch of a copy, `owner`, `priv`
and `cls` what its home checks (R351), `req` the request of a strand, which is held when its home refuses it; `win` the window in which
its packet has left (R358); `stale` a load that a later write or invalidation has overtaken, so that no copy of it is kept. -/
structure Remote where
  id : Nat
  six : Nat
  pkg : Nat
  addr : Nat
  op : MemOp
  seq : Nat
  win : Option Nat
  owner : Nat
  priv : Bool
  cls : Nat
  keep : Bool
  req : Option Held
  stale : Bool
  deriving DecidableEq, Repr

/-- What a forwarding slice keeps of remote bytes until the next window entry, or for good where the frame is SEALED (R350, R362): for the
owner, privilege and class that the home has checked (R351) the value, the result (0 done, 1 refused, 17 poisoned) and the frame's STATE. -/
structure Copy where
  pa : Nat
  n : Nat
  owner : Nat
  priv : Bool
  cls : Nat
  val : Word
  res : Nat
  state : Nat
  deriving DecidableEq, Repr

/-! ## Tables of the package -/

/-- States of a domain-table entry (R142). -/
inductive DomState where
  | dead
  | live
  | revoked
  deriving DecidableEq, Repr

/-- An entry of the domain table (R142). -/
structure Dom where
  gen : Nat
  owner : BitVec 16
  hold : Nat
  st : DomState
  root : Nat
  deriving DecidableEq, Repr

/-- A gate descriptor (R144). -/
structure GateDesc where
  word0 : Word
  entry : Word
  cleanup : Word
  stkbase : Word
  callers : Word
  wmax : Nat
  deriving DecidableEq, Repr

/-- An entry of the gate table (R145): OPEN when it holds a descriptor; retired when its generation is spent. -/
structure Gate where
  gen : Nat
  desc : Option GateDesc
  retired : Bool
  deriving DecidableEq, Repr

/-- States of a frame (R258). -/
inductive FrameState where
  | ordinary
  | append
  | sealed
  | scrub
  deriving DecidableEq, Repr

/-- An entry of the frame table (R258). -/
structure FrameEnt where
  st : FrameState
  owner : BitVec 16
  tail : Nat
  deriving DecidableEq, Repr

/-- An entry of the tenant table (R337); the slots and counters held are counted from the tables. -/
structure Tenant where
  tq : BitVec 32
  dq : BitVec 32
  dtvec : Word
  otag : BitVec 16
  deriving DecidableEq, Repr

/-- What a task is doing (R291, R294, R298, R301). -/
inductive TaskState where
  | attached (counter : Nat)
  | queued
  | firing (six : Nat)
  | finished
  | deferred (parent : Nat) (counter : Option Word)
  deriving DecidableEq, Repr

/-- A task held by the task unit (R294, R299): its descriptor's fields, its domain with its GEN, group, parent, and the
words a speculative firing has read (with the task it read from) and written, and the directory agent that each word is
written through (R255). -/
structure Task where
  ts : Word
  timed : Bool
  pri : BitVec 2
  pin : Option Nat
  entry : Word
  args : List Word
  dom : Nat
  domGen : Nat
  gid : Nat
  st : TaskState
  parent : Option Nat
  reads : List (Nat × Option Nat)
  writes : Tbl (Option Byte)
  homes : Tbl Nat
  deriving DecidableEq, Repr

/-- A dependence counter (R295). -/
structure Counter where
  gen : Nat
  count : Nat
  gid : Option Nat
  deriving DecidableEq, Repr

/-- A saved context of a pre-empted group (R188, R189): what its slot ran, and the domains its frames name, which go on
counting in HOLD, with their callee stack tops, the handlers it interrupted, and the ALIGNs whose wait has ended. -/
structure SavedCtx where
  job : Job
  holds : List Nat
  tops : List (Word × Nat)
  nest : Nat
  aligned : List Word
  deriving DecidableEq, Repr

/-- A task group (R287, R288): where it was launched from, its descriptor, bound cores by logical number, the allotment
each slot last held (R298), the saved contexts by logical strand 8c + k, the last committed timestamp and ID (R301),
whether pre-emption was requested, whether the group has been saved, whether it was killed; of a pre-empted group, the
declared actors by logical core and number, and the messages kept for its spill area by logical core (R187, R306). -/
structure Group where
  die : Nat
  queue : Nat
  tenant : Nat
  asid : Nat
  desc0 : Word
  stk : Word
  quantum : Word
  ovfe : Word
  ovfa : Word
  tvec : Word
  spill : Word
  seg : Word
  signal : Word
  cores : List Nat
  quant : Tbl (Option Word)
  ctxs : Tbl (Option SavedCtx)
  lastTs : Option (Nat × Nat)
  preempting : Bool
  saved : Bool
  failed : Bool
  actors : List (Nat × Nat × Actor)
  spillMsgs : List (Nat × Msg)
  deriving DecidableEq, Repr

/-- A request of a command processor that has still to perform: `use` 0 an access to a packet, 1 the decrement of a signal, 2 an
access to a spill area; where it leads, whether a translation fault holds it at its slice, and whether it is in the fault log
(R95, R248, R290). -/
structure CpReq where
  id : Nat
  use : Nat
  asid : Nat
  va : Word
  held : Bool
  logged : Bool
  deriving DecidableEq, Repr

/-- An entry of a queue table (R283): its fields, whether the command processor has been woken for it (R285), the header it has still
to write at step 5 of R286, its requests that have still to perform (R286, R290), oldest first, and what came back for its accesses
beyond the package (R340). -/
structure Queue where
  ring : Word
  mapped : Bool
  pend : Bool
  privq : Bool
  asid : Nat
  tenant : Nat
  log : Nat
  rdidx : Word
  woken : Bool
  closing : Option Word
  reqs : List CpReq
  got : List Got
  deriving DecidableEq, Repr

/-- An entry of a chip-scratchpad block table (R257): ASSIGNED and TENANT as installed, and the pair being installed. -/
structure Block where
  assigned : Bool
  tenant : Nat
  change : Option (Bool × Nat)
  deriving DecidableEq, Repr

/-- A record of a fault log (R248) with the identity of the request it is of. -/
structure FaultRec where
  id : Nat
  va : Word
  info : Word
  deriving DecidableEq, Repr

/-- One compute die: fault log, its next place and the records that wait for space in it (R248), queue table (R283), block table (R257),
and its count of task IDs (R294). -/
structure Die where
  flog : Tbl (Option FaultRec)
  flogNext : Nat
  flogWait : List FaultRec
  queues : Tbl Queue
  blocks : Tbl Block
  taskCount : Nat
  deriving DecidableEq, Repr

/-- The management block (R345, R346). -/
structure Mgmt where
  status : Nat
  cmd : Nat
  result : Nat
  operand : BitVec 256
  index : Word
  m : Tbl (BitVec 256)
  quote : BitVec 21920
  deriving DecidableEq, Repr

/-- The state arrays that the scan of the test port names (R344; the names are a DESIGN CHOICE, log entry 73). -/
inductive ScanArray where
  | mem
  | pmem
  | lmem
  | dmem
  | s (six : Nat)
  | k (six : Nat)
  | v (six : Nat)
  | m (six : Nat)
  | t (six : Nat)
  | ox (six : Nat)
  | sys (six : Nat)
  | pc (six : Nat)
  | gen (six : Nat)
  | mreg (six : Nat)
  | slot (six : Nat)
  | frame (six depth : Nat)
  | c2v (six : Nat)
  | v2c (six : Nat)
  | branch (six : Nat)
  | device
  | measure
  | gate (n : Nat)
  | dom (n : Nat)
  | task (n : Nat)
  | counter (n : Nat)
  | bell (chan : Nat)
  | group (n : Nat)
  | inbox (core n : Nat)
  | port (core n : Nat)
  | handlers (core n : Nat)
  | requests (core n : Nat)
  | replies (core n : Nat)
  | repNet (core n : Nat)
  | actor (core n : Nat)
  | interrupts (core : Nat)
  | pool (cluster n : Nat)
  | engine (cluster n : Nat)
  | matrix (cluster n : Nat)
  | migration (cluster : Nat)
  | tutor (cluster n : Nat)
  | weights (cluster n : Nat)
  | sample (cluster n : Nat)
  | l1 (key : Nat)
  | tlb (key : Nat)
  | dir (key : Nat)
  | held (n : Nat)
  | link (n : Nat)
  deriving DecidableEq, Repr

/-- What the package sends to the host and the pod (R340, R341, R350, R357). -/
inductive Output where
  | msix (func vector : Nat)
  | hostStore (func addr size : Nat) (v : Word)
  | hostLoad (func addr size id : Nat)
  | readReply (func : Nat) (v : Lane)
  | barReply (func size : Nat) (v : Word)
  | unsupported (func : Nat)
  | remote (pkg num : Nat) (op : MemOp) (addr owner : Nat) (priv : Bool) (cls : Nat) (engine : Bool)
  | podReply (pkg num seq v res state : Nat)
  | podInvalidate (pkg frame seq : Nat)
  | podInvalidated (pkg frame seq : Nat)
  | marker (pkg num n : Nat)
  | podArrival (pkg num chan : Nat) (phased : Bool) (phase count : Nat) (rop : Option Nat) (key : List Nat) (v : Word) (win : Nat)
  | tap (v : Nat)
  | ack (link : Nat)
  | failure (gid : Nat)
  deriving DecidableEq, Repr

/-- One link (R352 to R354, R360). `replay` holds the SEQ and packet of each flit not yet acknowledged, oldest first; one packet
fills one flit (DESIGN CHOICE, log entry 39). -/
structure Link where
  up : Bool
  lanes : Nat
  peer : Nat
  plink : Nat
  replays : Nat
  sendSeq : Nat
  recvSeq : Nat
  replay : List (Nat × Output)
  resend : Bool
  nak : Bool
  peerOff : Bool
  off : Bool
  input : List (BitVec 2048)
  deriving DecidableEq, Repr

/-- The fabric block and the pod state of this package (R349 to R362). `sendNum` and `recvNum` number packets end to end by
package and class (4 × package + class); `waiting` holds packets of streams that may not send yet; `heardAt` is the window of the
clock in which each member was last heard; `master` is the grandmaster that it follows, `delay` the delay of its link. -/
structure Fabric where
  en : Bool
  pkg : Nat
  wlen : Nat
  window : Nat
  lock : Bool
  offset : BitVec 32
  time : Nat
  live : BitVec 128
  failed : BitVec 128
  links : Tbl Link
  routes : Tbl Nat
  streamHeld : List (Nat × Nat)
  sendNum : Tbl Nat
  recvNum : Tbl Nat
  waiting : List (Nat × Nat × Output)
  markers : List (Nat × Nat)
  closed : Option Nat
  remotes : List Remote
  copies : List Copy
  heardAt : Tbl Nat
  master : Option ClockSet
  delay : Nat
  podRes : List (Nat × Nat × Nat)
  deriving DecidableEq, Repr

/-- The package-wide registers (R341, R343 to R346, R335). -/
structure Pkg where
  gated : BitVec 32
  gatereq : BitVec 32
  pbudget : Word
  throt : BitVec 32
  pmark : BitVec 8
  frozen : Bool
  mgmt : Mgmt
  msix : Memory
  pending : Tbl Word
  aer : Tbl Nat
  portErr : BitVec 8
  tapIr : BitVec 6
  loads : List HostLoad
  fab : Fabric
  deriving DecidableEq, Repr

/-- What the environment does next: an event of the opcode table; a grant to a core's sequencer (R159); cycles that pass at a core (R187,
R193, R161); a completion of a host load (R340); an acknowledgement from another package (R350) with its end-to-end number, its value and
its result, 0 done, 1 refused, otherwise a trap cause; an arrival at a pod channel by a strand of another package (R361); a packet of a
stream that has been received already (R355); an interrupt from outside or from firmware (R183, R347); time that passes at the clock
(R356); a failed member that joins again after its reset (R359); the eviction of a kept copy (R362); an error of a capacity port's link,
or its end (R264); a read or write of up to eight bytes through BAR 0 or BAR 2 of a function, 64 for PF0 (R338, R339); an instruction of
the test port, and a scan of one entry of a state array (R344). -/
inductive Input where
  | event (i : Instr)
  | grant (core : Nat) (st : Stream)
  | cycles (core n : Nat)
  | hostReply (id : Nat) (v : Word) (ok : Bool)
  | podAck (num id v res state : Nat)
  | interrupt (core sub src : Nat)
  | podBell (src num chan : Nat) (phased : Bool) (phase count : Nat) (rop : Option Nat) (key : List Nat) (v : Word) (win : Nat)
  | podAgain (src cls num : Nat)
  | elapsed (ns : Nat)
  | rejoin (pkg : Nat)
  | evictCopy (pa : Nat)
  | portError (port : Nat) (on : Bool)
  | barRead (func bar addr size : Nat)
  | barWrite (func bar addr size : Nat) (v : Word)
  | tapInstr (i : BitVec 6)
  | tapScan (a : ScanArray) (index : Nat)
  deriving DecidableEq, Repr

/-- The state of one package. -/
structure State where
  cfg : Cfg
  strands : Tbl Strand
  cores : Tbl Core
  clusters : Tbl Cluster
  dies : Tbl Die
  pkg : Pkg
  mem : Memory
  pmem : Memory
  lmem : Memory
  dmem : Memory
  doms : Tbl Dom
  gates : Tbl Gate
  frames : Tbl FrameEnt
  tenants : Tbl Tenant
  groups : Tbl (Option Group)
  tasks : Tbl (Option Task)
  counters : Tbl Counter
  bells : Tbl Bell
  l1 : Tbl L1Line
  tlb : Tbl (Option Tlb)
  dir : Tbl DirLine
  held : List Held
  syncs : List SyncStore
  poison : Tbl Bool
  outputs : List Output
  inputs : List Input
  oracle : List Nat
  turn : Nat × Stream
  focus : Nat × Stream
  cycle : Nat
  nextId : Nat
  deriving DecidableEq, Repr

/-- Why the machine stops. Both are states the manual ends only by reset: the model stops where the hardware does
nothing more, which is safe. -/
inductive Fault where
  /-- Raised by `step` when FREEZE (R344) has stopped every clock and no event is left that could end it. Safe. -/
  | frozen
  /-- Raised by `step` when the boot ROM has refused the firmware (R345: reset-hold) and no event is left. Safe. -/
  | resetHold
  deriving DecidableEq, Repr

/-- Why the model gives no next state. -/
inductive Refusal where
  /-- Raised only by an arm of `exec` whose instruction has no meaning yet. Safe. -/
  | notModelled (mnemonic : String)
  deriving DecidableEq, Repr

/-! ## Reset values -/

def CStr.zero : CStr := { pc := 0, s := [], ox := [], step := 0, idle := 0, pend := [], wait := .none }

def VStr.zero : VStr :=
  { pc := 0, k := [], v := [], m := [], t := [], gen := genSeeds 0, mcfg := 0, mgb := 0, step := 0,
    idle := 0, pend := [], wait := .none }

/-- The system registers at dispatch (R27, R28) where nothing else is given. -/
def Sys.zero : Sys :=
  { vrun := false, pri := 0, timed := false, pm := false, ie := true, chk := false, tcause := 0, taddr := 0, tpc := 0,
    tvpc := 0, tvec := 0, quant := 0, gstat := 0, dsdepth := 0, rmode := 0, srseed := 0, flags := 0, fenable := 0 }

def Coupling.empty : Coupling := { c2v := [], v2c := [], flags := 0, bq := [] }

/-- A slot that has never run a firing: FREE (R347). DESIGN CHOICE (log entry 4): its registers hold zero. -/
def Strand.free : Strand :=
  { st := .free, job := .none, gid := none, dom := 0, base := 0, spec := false, c := .zero, v := .zero, sys := .zero,
    q := .empty, await := [], res := none, resAt := 0, frames := [], tops := [], seg := 0, unw := none, inTrap := false, nest := 0, entry := false,
    aligned := [], replied := false, got := [], due := [],
    bell := none, region := none, parks := 0, podWin := none, preempt := false }

def Core.idle : Core :=
  { rrC := [], rrV := [], yield := [], aged := [], ages := [], inbox := [], port := [], hq := [], reqBuf := [], repBuf := [],
    repNet := [], actors := [], intr := [], tenant := none, cycle := 0, reqs := [] }

/-- A region slot whose CONF is 0 (R308). -/
def TutorSlot.off : TutorSlot :=
  { asid := 0, ogen := 0, conf := false, mode := 0, impure := false, diverged := false, fbcnt := 0, gen := 0, start := 0, stop := 0,
    word2 := 0, lrate := 0, thresh := 0, hard := 0, weights := [], samples := [], err := 0, calls := 0,
    served := 0, taken := 0, updates := 0, sinceTrain := 0, frames := [] }

def Cluster.idle : Cluster := { pool := [], cmds := [], mx := [], migq := [], tutor := [], samples := [] }

/-- A channel at launch (R206, R208): no completed phase, so the last completed phase counts as 0xFFFF_FFFF. -/
def Bell.fresh : Bell :=
  { kind := none, phase := 0, count := 0, rop := none, arrived := 0, values := [], results := [], done := 0xFFFFFFFF,
    front := 0, opens := [], lastWin := 0 }

def Die.idle : Die := { flog := [], flogNext := 0, flogWait := [], queues := [], blocks := [], taskCount := 0 }

/-- A domain entry at reset: DEAD, GEN 0, OWNER 0, HOLD 0 (R142, R347). -/
def Dom.dead : Dom := { gen := 0, owner := 0, hold := 0, st := .dead, root := 0 }

/-- A gate entry at reset: FREE with generation 1 (R145, R347). -/
def Gate.free : Gate := { gen := 1, desc := none, retired := false }

/-- A frame-table entry at reset (R258). -/
def FrameEnt.reset : FrameEnt := { st := .ordinary, owner := 0, tail := 0 }

/-- A tenant entry at reset (R337). -/
def Tenant.reset : Tenant := { tq := 0, dq := 0, dtvec := 0, otag := 0 }

/-- A dependence counter never allocated: generation 1 (R295). -/
def Counter.free : Counter := { gen := 1, count := 0, gid := none }

/-- A queue entry at reset: unmapped (R283, R347). -/
def Queue.reset : Queue :=
  { ring := 0, mapped := false, pend := false, privq := false, asid := 0, tenant := 0, log := 0, rdidx := 0,
    woken := false, closing := none, reqs := [], got := [] }

/-- An unassigned block (R257). -/
def Block.reset : Block := { assigned := false, tenant := 0, change := none }

/-- A line that no L1 holds. -/
def L1Line.empty : L1Line := { pa := 0, cls := .normal, valid := 0, owned := 0, data := 0, regAt := [], stamp := 0 }

/-- A line that no cache holds (R255). -/
def DirLine.none : DirLine := { owner := Option.none, dirty := false, sharers := [] }

/-- A link that is down (R360). -/
def Link.down : Link :=
  { up := false, lanes := 0, peer := 0, plink := 0, replays := 0, sendSeq := 0, recvSeq := 0, replay := [],
    resend := false, nak := false, peerOff := false, off := false, input := [] }

/-- The management block at reset: booting, M0–M7 zero (R345, R346). DESIGN CHOICE (log entry 4): result 1, the rest 0. -/
def Mgmt.reset : Mgmt := { status := 0, cmd := 0, result := 1, operand := 0, index := 0, m := [], quote := 0 }

/-- The fabric block at reset (R360): EN 0, PKG 0, WLEN 3. DESIGN CHOICE (log entry 4): WINDOW and the mask 0. -/
def Fabric.reset : Fabric :=
  { en := false, pkg := 0, wlen := 3, window := 0, lock := false, offset := 0, time := 0, live := 0, failed := 0, links := [],
    routes := [], streamHeld := [], sendNum := [], recvNum := [], waiting := [], markers := [], closed := none,
    remotes := [], copies := [], heardAt := [], master := none, delay := 0, podRes := [] }

/-- The package registers at reset: PBUDGET 2,800, GATEREQ and GATED all ones, THROT 0, PMARK 0 (R335, R343, R347). -/
def Pkg.reset : Pkg :=
  { gated := BitVec.allOnes 32, gatereq := BitVec.allOnes 32, pbudget := 2800, throt := 0, pmark := 0, frozen := false,
    mgmt := .reset, msix := [], pending := [], aer := [], portErr := 0, tapIr := BitVec.allOnes 6, loads := [], fab := .reset }

/-- Strand index of chiplet core 0, slot 0, on which reset starts the boot ROM (R149, R345). -/
def bootSix : Nat := 8448

/-- The slot that the boot ROM and then the firmware runs in (log entry 5): ACTIVE, privileged, in the system domain. -/
def Strand.boot : Strand := { Strand.free with st := .active, job := .firmware, sys := { Sys.zero with pm := true } }

/-- A chiplet core other than core 0 at reset: it waits, as in WFI, in the privileged slot that an interrupt enters (R347;
log entry 5). -/
def Strand.waiting : Strand := { Strand.boot with c := { CStr.zero with wait := .interrupt } }

/-- The package right after reset (R347) in a given configuration. DESIGN CHOICE (log entry 64): no thread of an operating system
occupies a slot of a principal core (R18). -/
def State.resetOf (cfg : Cfg) : State :=
  { cfg := cfg, strands := (bootSix, .boot) :: (List.range 31).map (fun i => (bootSix + 8 * (i + 1), .waiting)),
    cores := [], clusters := [], dies := [], pkg := .reset, mem := [],
    pmem := [], lmem := [], dmem := [], doms := [], gates := [], frames := [], tenants := [], groups := [], tasks := [],
    counters := [], bells := [], l1 := [], tlb := [], dir := [], held := [], syncs := [], poison := [], outputs := [],
    inputs := [], oracle := [], turn := (1056, .c), focus := (bootSix, .c), cycle := 0, nextId := 1 }

/-- The package right after reset (R347), part and modules as log entry 6 names them. -/
def State.reset : State := State.resetOf Cfg.default

end Sys2Proof.Machine
end

