-- ==== Sys2Proof/Machine/Prog.lean ====
section
/-! DEFINITION. How a meaning is written: a program of reads of the state and of effects on its components. An instruction
either reaches its end, or stops at a check and then has no effect (R33): a trap, or a wait in which it stays unissued
(R20, R38). Every change of the state goes through `Effect.apply`, so what every step keeps is shown once. -/

namespace Sys2Proof.Machine

/-- A change of one component of the state. -/
inductive Effect where
  | strand (six : Nat) (x : Strand)
  | core (n : Nat) (x : Core)
  | cluster (n : Nat) (x : Cluster)
  | die (n : Nat) (x : Die)
  | pkg (x : Pkg)
  | mem (a n v : Nat)
  | memClear (lo hi : Nat)
  | pmem (a n v : Nat)
  | pmemClear (lo hi : Nat)
  | lmem (a n v : Nat)
  | lmemClear (lo hi : Nat)
  | dmem (a n v : Nat)
  | dmemClear (lo hi : Nat)
  | dom (n : Nat) (x : Dom)
  | gate (n : Nat) (x : Gate)
  | frame (n : Nat) (x : FrameEnt)
  | tenant (n : Nat) (x : Tenant)
  | group (n : Nat) (x : Option Group)
  | task (n : Nat) (x : Option Task)
  | counter (n : Nat) (x : Counter)
  | bell (n : Nat) (x : Bell)
  | l1 (n : Nat) (x : L1Line)
  | tlb (n : Nat) (x : Option Tlb)
  | dir (n : Nat) (x : DirLine)
  | held (x : List Held)
  | syncs (x : List SyncStore)
  | poison (n : Nat) (x : Bool)
  | output (x : Output)
  | inputs (x : List Input)
  | oracle (x : List Nat)
  | turn (core : Nat) (st : Stream)
  | focus (six : Nat) (st : Stream)
  | cycle (n : Nat)
  | fresh
  | reset
  deriving DecidableEq, Repr

/-- The state after one effect. -/
def Effect.apply (e : Effect) (s : State) : State :=
  match e with
  | .strand n x => { s with strands := tblSet .free s.strands n x }
  | .core n x => { s with cores := tblSet .idle s.cores n x }
  | .cluster n x => { s with clusters := tblSet .idle s.clusters n x }
  | .die n x => { s with dies := tblSet .idle s.dies n x }
  | .pkg x => { s with pkg := x }
  | .mem a n v => { s with mem := memWrite s.mem a n v }
  | .memClear lo hi => { s with mem := tblClear s.mem lo hi }
  | .pmem a n v => { s with pmem := memWrite s.pmem a n v }
  | .pmemClear lo hi => { s with pmem := tblClear s.pmem lo hi }
  | .lmem a n v => { s with lmem := memWrite s.lmem a n v }
  | .lmemClear lo hi => { s with lmem := tblClear s.lmem lo hi }
  | .dmem a n v => { s with dmem := memWrite s.dmem a n v }
  | .dmemClear lo hi => { s with dmem := tblClear s.dmem lo hi }
  | .dom n x => { s with doms := tblSet .dead s.doms n x }
  | .gate n x => { s with gates := tblSet .free s.gates n x }
  | .frame n x => { s with frames := tblSet .reset s.frames n x }
  | .tenant n x => { s with tenants := tblSet .reset s.tenants n x }
  | .group n x => { s with groups := tblSet none s.groups n x }
  | .task n x => { s with tasks := tblSet none s.tasks n x }
  | .counter n x => { s with counters := tblSet .free s.counters n x }
  | .bell n x => { s with bells := tblSet .fresh s.bells n x }
  | .l1 n x => { s with l1 := tblSet .empty s.l1 n x }
  | .tlb n x => { s with tlb := tblSet none s.tlb n x }
  | .dir n x => { s with dir := tblSet .none s.dir n x }
  | .held x => { s with held := x }
  | .syncs x => { s with syncs := x }
  | .poison n x => { s with poison := tblSet false s.poison n x }
  | .output x => { s with outputs := s.outputs ++ [x] }
  | .inputs x => { s with inputs := x }
  | .oracle x => { s with oracle := x }
  | .turn c st => { s with turn := (c, st) }
  | .focus n st => { s with focus := (n, st) }
  | .cycle n => { s with cycle := n }
  | .fresh => { s with nextId := s.nextId + 1 }
  | .reset => { State.resetOf s.cfg with inputs := s.inputs, oracle := s.oracle, outputs := s.outputs }

/-- The state after a list of effects, the first first. -/
def applyAll (es : List Effect) (s : State) : State := es.foldl (fun s e => e.apply s) s

/-- Why an instruction stops with no effect: a trap, precise at the instruction (R33); a wait, in which the instruction
stays unissued; or a stop of the whole machine. -/
inductive Stop where
  | trap (t : Trap)
  | wait (w : Wait)
  deriving DecidableEq, Repr

/-- A program: reads, effects, and its end. -/
inductive Prog where
  | done
  | stop (x : Stop)
  | get (k : State → Prog)
  | put (e : Effect) (k : Prog)

/-- Meanings are written in continuation form, which gives them `do` notation. -/
abbrev M := ContT Prog Id

/-- The whole state. -/
def getS : M State := fun k => Prog.get k

/-- One effect. -/
def put (e : Effect) : M Unit := fun k => Prog.put e (k ())

/-- Several effects. -/
def puts : List Effect → M Unit
  | [] => pure ()
  | e :: es => do put e; puts es

/-- Stop with no effect. -/
def halt (x : Stop) : M α := fun _ => Prog.stop x

/-- End here, keeping the effects so far. -/
def finish : M α := fun _ => Prog.done

/-- The program of a meaning. -/
def M.prog (m : M Unit) : Prog := m (fun _ => Prog.done)

/-- Run a program from a state. `onStop` says what becomes of the state in which the instruction began when the program
stops. -/
def Prog.run (onStop : Stop → State → State) (s0 : State) : Prog → State → State
  | .done, s => s
  | .stop x, _ => onStop x s0
  | .get k, s => Prog.run onStop s0 (k s) s
  | .put e k, s => Prog.run onStop s0 k (e.apply s)

end Sys2Proof.Machine
end

