-- ==== Sys2Proof/Machine/Ops.lean ====
section
/-! DEFINITION. The named operations of a strand: where it lies, its registers and pending writes, its system registers,
entering a trap and returning from one, parking, killing, and the frame every instruction is issued in. -/

namespace Sys2Proof.Machine

/-! ## Geometry (R149, R191, R333) -/

/-- The physical core of a strand index: SIX = 8 × core + slot (R149). -/
def coreOf (six : Nat) : Nat := six / 8

/-- The slot of a strand index. -/
def slotOf (six : Nat) : Nat := six % 8

/-- Physical cores 0–1,023 are compute cores. -/
def isCompute (core : Nat) : Bool := decide (core < Config.computeCores)

/-- Physical cores 1,024–1,055 are the principal cores of clusters 0–31. -/
def isPrincipal (core : Nat) : Bool := decide (Config.computeCores ≤ core ∧ core < Config.principalEnd)

/-- Physical cores 1,056–1,087 are the chiplet's. -/
def isChiplet (core : Nat) : Bool := decide (Config.principalEnd ≤ core)

/-- The cluster of a core: 32 compute cores each, one principal core each; the chiplet's cores are in none, written 32. -/
def clusterOf (core : Nat) : Nat :=
  if core < Config.computeCores then core / 32
  else if core < Config.principalEnd then core - Config.computeCores
  else 32

/-- The die of a core: eight clusters each; the chiplet is on none, written 4. -/
def dieOf (core : Nat) : Nat := clusterOf core / 8

/-- The quad of a compute core: four cores each (R191). -/
def quadOf (core : Nat) : Nat := core / 4

/-- The principal core of a cluster. -/
def principalOf (cluster : Nat) : Nat := Config.computeCores + cluster

/-! ## The state by component -/

def State.strand (s : State) (six : Nat) : Strand := tblGet .free s.strands six
def State.core (s : State) (n : Nat) : Core := tblGet .idle s.cores n
def State.cluster (s : State) (n : Nat) : Cluster := tblGet .idle s.clusters n
def State.die (s : State) (n : Nat) : Die := tblGet .idle s.dies n
def State.dom (s : State) (n : Nat) : Dom := tblGet .dead s.doms n
def State.gate (s : State) (n : Nat) : Gate := tblGet .free s.gates n
def State.frame (s : State) (n : Nat) : FrameEnt := tblGet .reset s.frames n
def State.tenant (s : State) (n : Nat) : Tenant := tblGet .reset s.tenants n
def State.group (s : State) (n : Nat) : Option Group := tblGet none s.groups n
def State.task (s : State) (n : Nat) : Option Task := tblGet none s.tasks n
def State.counter (s : State) (n : Nat) : Counter := tblGet .free s.counters n
def State.bell (s : State) (n : Nat) : Bell := tblGet .fresh s.bells n

/-- The strand that issues. -/
def State.six (s : State) : Nat := s.focus.1

/-- The stream that issues. -/
def State.stream (s : State) : Stream := s.focus.2

/-- The core that issues. -/
def State.coreNo (s : State) : Nat := coreOf s.focus.1

/-- The issuing strand's slot. -/
def State.me (s : State) : Strand := s.strand s.focus.1

/-- The issuing strand's task group. -/
def State.myGroup (s : State) : Option Group := s.me.gid.bind s.group

/-- The tenant of a strand's task group (R283). -/
def State.tenantOf (s : State) (x : Strand) : Option Nat := (x.gid.bind s.group).map Group.tenant

/-! ## Registers and pending writes -/

/-- Read an s register; s0 reads zero (R25). -/
def Strand.readS (x : Strand) (n : Nat) : Word := if n = 0 then 0 else tblGet 0 x.c.s n

/-- Read a k register. -/
def Strand.readK (x : Strand) (n : Nat) : Word := tblGet 0 x.v.k n

/-- Read an ox register. -/
def Strand.readOx (x : Strand) (n : Nat) : Word := tblGet 0 x.c.ox n

/-- Read a v register. -/
def Strand.readV (x : Strand) (n : Nat) : VReg := tblGet .zero x.v.v n

/-- Read a mask register; m0 is all ones (R25). -/
def Strand.readM (x : Strand) (n : Nat) : Lane := if n = 0 then BitVec.allOnes 32 else tblGet 0 x.v.m n

/-- Read a tile register in the matrix unit (R215). -/
def Strand.readT (x : Strand) (n : Nat) : Tile := tblGet .zero x.v.t n

/-- Store a value into a register; a write to s0 is discarded and m0 is never written (R25). -/
def Strand.setReg (x : Strand) (r : RegId) (p : PVal) : Strand :=
  match r, p with
  | .s n, .word w => if n = 0 then x else { x with c := { x.c with s := tblSet 0 x.c.s n w } }
  | .ox n, .word w => { x with c := { x.c with ox := tblSet 0 x.c.ox n w } }
  | .k n, .word w => { x with v := { x.v with k := tblSet 0 x.v.k n w } }
  | .v n, .vec y => { x with v := { x.v with v := tblSet .zero x.v.v n y } }
  | .m n, .mask y => if n = 0 then x else { x with v := { x.v with m := tblSet 0 x.v.m n y } }
  | _, _ => x

/-- Store a tile. -/
def Strand.setTile (x : Strand) (n : Nat) (y : Tile) : Strand :=
  { x with v := { x.v with t := tblSet .zero x.v.t n y } }

/-- Whether a pending write is of a C-stream register. -/
def RegId.inC : RegId → Bool
  | .s _ => true
  | .ox _ => true
  | _ => false

/-- The pending writes of a register's stream. -/
def Strand.pendOf (x : Strand) (r : RegId) : List Pend := if r.inC then x.c.pend else x.v.pend

/-- Drop the pending writes to one register. -/
def Strand.dropPend (x : Strand) (r : RegId) : Strand :=
  if r.inC then { x with c := { x.c with pend := x.c.pend.filter (fun p => p.reg != r) } }
  else { x with v := { x.v with pend := x.v.pend.filter (fun p => p.reg != r) } }

/-- A result that is in its register for the stream's next instruction: a latency of 1 (R35), or a scoreboarded result
that has arrived (R38). It supersedes older pending writes to the register, which R35 discards. -/
def Strand.write (x : Strand) (r : RegId) (p : PVal) : Strand := (x.dropPend r).setReg r p

/-- A result of latency `l` > 1 issued by an instruction of this stream (R35); `pc` is its producer (R36). -/
def Strand.later (x : Strand) (r : RegId) (p : PVal) (l : Nat) : Strand :=
  if r = .s 0 then x
  else match r.inC with
  | true => { x with c := { x.c with pend := x.c.pend ++ [⟨r, p, x.c.step + l, x.c.pc⟩] } }
  | false => { x with v := { x.v with pend := x.v.pend ++ [⟨r, p, x.v.step + l, x.v.pc⟩] } }

/-- The fixed-latency result of latency `l` (R35, R39). -/
def Strand.result (x : Strand) (r : RegId) (p : PVal) (l : Nat) : Strand :=
  if l ≤ 1 then x.write r p else x.later r p l

/-- Land, in program order, the pending writes due at a step; a write older than a landed one to the same register is
discarded (R35). -/
def landList (x : Strand) (step : Nat) : List Pend → Strand × List Pend
  | [] => (x, [])
  | p :: ps =>
    if p.land ≤ step then landList (x.setReg p.reg p.val) step ps
    else
      let superseded := ps.any (fun q => q.reg = p.reg && decide (q.land ≤ step))
      let r := landList x step ps
      (r.1, if superseded then r.2 else p :: r.2)

/-- Land what is due in the C-stream before the instruction at its step issues. -/
def Strand.landC (x : Strand) : Strand :=
  let r := landList x x.c.step x.c.pend
  { r.1 with c := { r.1.c with pend := r.2 } }

/-- Land what is due in the V-stream before the instruction at its step issues. -/
def Strand.landV (x : Strand) : Strand :=
  let r := landList x x.v.step x.v.pend
  { r.1 with v := { r.1.v with pend := r.2 } }

/-- Land every pending write of the V-stream (R37, R141). -/
def Strand.landAllV (x : Strand) : Strand :=
  let y := x.v.pend.foldl (fun y p => y.setReg p.reg p.val) x
  { y with v := { y.v with pend := [] } }

/-- Land every pending write of the C-stream (R37). -/
def Strand.landAllC (x : Strand) : Strand :=
  let y := x.c.pend.foldl (fun y p => y.setReg p.reg p.val) x
  { y with c := { y.c with pend := [] } }

/-- Land every pending write of both streams (R37). -/
def Strand.landAll (x : Strand) : Strand := x.landAllC.landAllV

/-! ## System registers -/

/-- A Boolean as a bit. -/
def bit (b : Bool) (i : Nat) : Nat := if b then 2 ^ i else 0

/-- STATUS as MFS reads it (R28). -/
def Strand.status (x : Strand) (slot : Nat) : Word :=
  BitVec.ofNat 64
    (slot * 2 ^ 21 + bit x.sys.vrun 20 + x.sys.pri.toNat * 2 ^ 18 + bit x.sys.timed 17
      + bit (decide (x.sys.dsdepth ≠ 0)) 16 + bit x.sys.pm 7 + bit x.sys.ie 6 + bit x.sys.chk 5)

/-- Load SRSEED and, with it, the generators (R71). -/
def Strand.seed (x : Strand) (w : Word) : Strand :=
  { x with sys := { x.sys with srseed := w }, v := { x.v with gen := genSeeds w } }

/-- OR raised conditions into FLAGS (R30). -/
def Strand.raise (x : Strand) (f : BitVec 6) : Strand :=
  { x with sys := { x.sys with flags := x.sys.flags ||| f } }

/-! ## Traps -/

/-- TCAUSE as a trap records it (R33, R110, R182, R184). -/
def causeWord (t : Trap) (x : Strand) : Word :=
  BitVec.ofNat 64
    (x.dom * 2 ^ 36 + bit x.sys.ie 34 + bit x.sys.pm 33 + bit (decide (t.strm = .v)) 32 + t.sub * 65536 + t.cause)

/-- What a trap records (R33): TCAUSE, TADDR, TPC, and TVPC with VRUN in bit 0. -/
def Strand.record (x : Strand) (t : Trap) : Strand :=
  { x with
    sys := { x.sys with
      tcause := causeWord t x, taddr := t.addr, tpc := x.c.pc, tvpc := if x.sys.vrun then x.v.pc ||| 1 else 0 } }

/-- An arrived BAR or BARPH whose wait ends early completes (R210): d := the phase number with bit 63 set. -/
def Strand.endBell (x : Strand) : Strand :=
  match x.bell with
  | none => x
  | some b =>
    let y := x.write (.s b.dest) (.word (BitVec.ofNat 64 (b.phase + 2 ^ 63)))
    { y with bell := none, c := { y.c with pc := y.c.pc + 4, step := y.c.step + 1 } }

/-- The PCs of the ALIGNs whose wait has ended, with that of one in which the C-stream waits, which an entry ends (R185, R193). -/
def Strand.alignEnd (x : Strand) : List Word := match x.c.wait with | .align _ _ => x.c.pc :: x.aligned.erase x.c.pc | _ => x.aligned

/-- Both streams stopped (R33, R37): every pending write landed, no stream waiting or idling any longer. -/
def Strand.stopped (x : Strand) : Strand :=
  let y := x.endBell.landAll
  { y with aligned := x.alignEnd, got := [], c := { y.c with wait := .none, idle := 0 }, v := { y.v with wait := .none, idle := 0 } }

/-- The strand after trap entry (R33, R110, R184): the records made, VRUN cleared, PM 1, IE 0, the system domain, PC at
TVEC with bits [1:0] taken as 0. The reservation is cleared (R103). The domain stack, the coupling state and the V-stream
registers are untouched. What has issued completes before the handler's first instruction (`entry`). -/
def Strand.enter (x : Strand) (t : Trap) : Strand :=
  let y := x.stopped.record t
  { y with
    sys := { y.sys with vrun := false, pm := true, ie := false },
    dom := 0, inTrap := true, nest := if y.inTrap then y.nest + 1 else 0, entry := true, res := none,
    c := { y.c with pc := y.sys.tvec &&& ~~~3#64 } }

/-- The strand parked on a page fault (R31, R33, R186): the same records, the slot PARKED, the count of parks advanced. -/
def Strand.park (x : Strand) (t : Trap) : Strand :=
  let y := x.stopped.record t
  { y with st := .parked, parks := (y.parks + 1) % 65536, entry := true, res := none }

/-- A strand's slot freed (R31, R32): nothing of its firing is left to run. What its registers held stays in them until
the next dispatch sets every one (R25). -/
def Strand.freed (x : Strand) : Strand :=
  { x with
    st := .free, job := .none, gid := none, spec := false, q := .empty, await := [], res := none, frames := [], tops := [],
    sys := { x.sys with vrun := false, dsdepth := 0 },
    c := { x.c with wait := .none, idle := 0, pend := [] }, v := { x.v with wait := .none, idle := 0, pend := [] },
    unw := none, inTrap := false, nest := 0, entry := false, aligned := [], replied := false, got := [], due := [], bell := none,
    region := none, podWin := none, preempt := false }

/-- Signal an interrupt to a principal or chiplet core: subcode and source number (R183). -/
def signal (s : State) (core sub src : Nat) : Effect :=
  let c := s.core core
  .core core { c with intr := c.intr ++ [(sub, src)] }

/-- The QUANT a slot held, kept by its group for the slot's next dispatch (R298). -/
def keepQuant (s : State) (six : Nat) (x : Strand) : List Effect :=
  match x.gid with
  | none => []
  | some g =>
    match s.group g with
    | none => []
    | some y => [.group g (some { y with quant := tblSet none y.quant six (some x.sys.quant) })]

/-- Free a slot. -/
def freeSlot (s : State) (six : Nat) (x : Strand) : List Effect := keepQuant s six x ++ [.strand six x.freed]

/-- The HOLD of a domain less one (R142, R157): a REVOKED domain whose HOLD reaches 0 becomes DEAD. -/
def unhold (d : Dom) : Dom :=
  let h := d.hold - 1
  { d with hold := h, st := if h = 0 ∧ d.st = .revoked then .dead else d.st }

/-- A region slot invalidated (R320, R321): CONF 0, contents discarded, the configuration generation advanced. -/
def TutorSlot.invalidated (t : TutorSlot) : TutorSlot := { TutorSlot.off with gen := t.gen + 1 }

/-- Invalidate the region slots that meet a condition (R321). -/
def invalidateSlots (p : TutorSlot → Bool) (s : State) : List Effect :=
  s.clusters.filterMap (fun c =>
    if c.2.tutor.any (fun t => t.2.conf && p t.2) then
      some (.cluster c.1 { c.2 with
        tutor := tblMap .off (fun _ t => if t.conf && p t then t.invalidated else t) c.2.tutor })
    else none)

/-- A domain's HOLD changed to what `unhold` makes it; region slots of a domain that becomes DEAD are invalidated (R321). -/
def setHold (n : Nat) (d : Dom) (s : State) : List Effect :=
  .dom n d :: (if d.st = .dead ∧ (s.dom n).st ≠ .dead then invalidateSlots (fun t => t.asid == n) s else [])

/-- Effects in sequence, each computed in the state the earlier ones leave. -/
def chain : List (State → List Effect) → State → List Effect
  | [], _ => []
  | f :: fs, s =>
    let es := f s
    es ++ chain fs (applyAll es s)

/-- Commands of a strand leave the engine and the matrix unit when it is killed (R200, R229). -/
def dropCmds (c : Cluster) (p : Nat → Bool) : Cluster :=
  { c with
    cmds := c.cmds.filter (fun x => !p x.six), mx := c.mx.filter (fun x => !p x.six), migq := c.migq.filter (fun x => !p x) }

/-- One strand of a group that is killed (R31, R157, R249): freed at once at depth 0, otherwise set to unwind with GSTAT
KILLED. Registers that await a held request, or a command that is discarded, no longer do. -/
def killStrand (s : State) (six : Nat) (x : Strand) : List Effect :=
  let c := s.cluster (clusterOf (coreOf six))
  let gone := fun (id : Nat) => s.held.any (fun h => h.id == id) || c.cmds.any (fun k => k.id == id) || c.mx.any (fun k => k.id == id)
  let y := { x with due := [], await := x.await.filter (fun a => !gone a.2) }
  if x.sys.dsdepth = 0 then freeSlot s six y
  else
    let u : Unwind :=
      match x.unw with
      | some u => { u with killing := true, k := 0 }
      | none =>
        { k := 0, dom := 0, clean := false, left := 0, killing := true, budget := false, forced := false, skip := false }
    [.strand six { y with st := .active, unw := some u, sys := { y.sys with gstat := 2 } }]

/-- The generation after one, 65,535 followed by 1 (R143; for dependence counters DEDUCED, log entry 21). -/
def nextGen (g : Nat) : Nat := if g < 65535 then g + 1 else 1

/-- The HOLD that the frames of saved contexts keep (R142, R189) given up. -/
def unholdAll (doms : List Nat) (s : State) : List Effect :=
  chain (doms.dedup.map (fun d => fun s =>
    setHold d ((List.range (doms.count d)).foldl (fun y _ => unhold y) (s.dom d)) s)) s

/-- The domains that the frames of a group's saved contexts name. -/
def Group.holds (g : Group) : List Nat := g.ctxs.flatMap (fun c => (c.2.map SavedCtx.holds).getD [])

/-- The number that stands for a strand whose slot has been freed by a kill: no strand has it. -/
def noStrand : Nat := 8704

/-- What strands that are killed have sent completes (R281), but for none: a new firing in one of their slots is not its requester. -/
def orphan (gone : Nat → Bool) (s : State) : List Effect :=
  let who := fun (six : Nat) => if gone six then noStrand else six
  let entry := fun (e : HandlerEntry) => match e with
    | .atomic a => HandlerEntry.atomic { a with six := who a.six }
    | .message m => .message m
  [.syncs (s.syncs.map (fun y => { y with six := who y.six })),
   .pkg { s.pkg with
     loads := s.pkg.loads.map (fun l => { l with six := who l.six }),
     fab := { s.pkg.fab with remotes := s.pkg.fab.remotes.map (fun r => { r with six := who r.six }) } }]
    ++ s.cores.map (fun p => .core p.1 { p.2 with hq := p.2.hq.map entry, port := p.2.port.map entry })

/-- Kill a task group (R112, R190, R281): its strands, its commands, its held requests, its messages, its actors, pool
entries, tasks and counters; atomics in flight complete (R281); the group is reported failed and stays until its last slot is free. -/
def killGroup (s : State) (g : Nat) : List Effect :=
  let mine := s.strands.filter (fun p => decide (p.2.gid = some g ∧ p.2.st ≠ .free))
  let isMine := fun six => mine.any (fun p => p.1 == six)
  chain
    [orphan (fun six => mine.any (fun p => p.1 == six && decide (p.2.sys.dsdepth = 0))),
     fun s => mine.flatMap (fun p => killStrand s p.1 p.2),
     fun s => s.clusters.map (fun p =>
       let c := dropCmds p.2 isMine
       .cluster p.1 { c with
         pool := c.pool.filter (fun e => e.gid != g), cmds := c.cmds.filter (fun k => decide (k.gid ≠ some g)) }),
     fun s => s.cores.map (fun p =>
       .core p.1 { p.2 with
         inbox := p.2.inbox.filter (fun m => m.gid != g),
         port := p.2.port.filter (fun e => match e with | .message m => m.gid != g | .atomic _ => true),
         hq := p.2.hq.filter (fun e => match e with | .message m => m.gid != g | .atomic _ => true),
         reqBuf := p.2.reqBuf.filter (fun m => m.msg.gid != g), repBuf := p.2.repBuf.filter (fun m => m.msg.gid != g),
         repNet := p.2.repNet.filter (fun m => m.gid != g),
         actors := p.2.actors.filter (fun a => match a.2 with | some y => y.gid != g | none => false) }),
     fun s => s.tasks.filterMap (fun p => match p.2 with
       | some t => if t.gid = g then some (.task p.1 none) else none
       | none => none),
     fun s => s.counters.filterMap (fun p =>
       if p.2.gid = some g then some (.counter p.1 { gen := nextGen p.2.gen, count := 0, gid := none }) else none),
     fun s => [.held (s.held.filter (fun h => !isMine h.six))],
     fun s => match s.group g with
       | some y => chain
         [unholdAll y.holds, fun _ => [.group g (some { y with failed := true, ctxs := [] }), .output (.failure g)]] s
       | none => []] s

/-- Whether a cause parks a strand of this core (R183): PAGE on a compute core. -/
def parks (core : Nat) (t : Trap) : Bool := decide (t.cause = 5) && isCompute core

/-- Containment of a machine check met by a strand of a compute core (R190): its group is killed and the cluster's
principal core is signalled; where the strand's own state holds the error, its frames are popped without cleanup. DEDUCED
(log entry 20): as source 2, subcode DEVICE. -/
def contain (s : State) (six : Nat) (x : Strand) (own : Bool) : List Effect :=
  chain
    [fun s => match x.gid with
      | some g => killGroup s g
      | none => chain [orphan (fun k => k == six), fun s => freeSlot s six x] s,
     fun s =>
       let y := s.strand six
       match y.unw with
       | some u => if own then [.strand six { y with unw := some { u with clean := false, skip := true } }] else []
       | none => [],
     fun s => [signal s (principalOf (clusterOf (coreOf six))) 4 2]] s

/-- Containment of a machine check met by the device itself in data of a group, at a core (R190). -/
def containGroup (gid core : Nat) (s : State) : List Effect :=
  chain [fun s => killGroup s gid, fun s => [signal s (principalOf (clusterOf core)) 4 2]] s

/-- A machine check that an access or a command of a strand meets outside its instruction (R190, R200, R340, R359): its group's on a
compute core, where its register awaits it no longer; a trap that is due on a principal or chiplet core. -/
def checkError (six id sub : Nat) (addr : Word) (s : State) : List Effect :=
  let x := s.strand six
  let y := { x with await := x.await.filter (fun a => a.2 ≠ id) }
  if x.st = .free then []
  else if isCompute (coreOf six) then chain [fun _ => [.strand six y], fun s => contain s six (s.strand six) false] s
  else [.strand six { y with due := y.due ++ [.trap { cause := 17, sub := sub, addr := addr, strm := .c }] }]

/-- Whether WFI's wait is over at a core (R111): an interrupt, an inbox arrival, or a pre-emption entry pending at a strand of it. -/
def awake (s : State) (core : Nat) : Bool :=
  let c := s.core core
  !c.intr.isEmpty || !c.inbox.isEmpty || (List.range 8).any (fun k => (s.strand (8 * core + k)).preempt)

/-- Whether a strand has a matrix command in the unit (R229). -/
def matrixBusy (s : State) (six : Nat) : Bool :=
  (s.cluster (clusterOf (coreOf six))).mx.any (fun k => k.six == six)

/-- Whether an access of a strand, of an identity that meets a condition, has issued and not performed, held ones apart (R98): a
SYNC access not yet validated, a remote or host load, an atomic in a handler queue. -/
def openIssued (s : State) (six : Nat) (old : Nat → Bool) : Bool :=
  s.syncs.any (fun y => y.six == six && old y.id)
    || s.pkg.loads.any (fun l => l.six == six && old l.id)
    || s.pkg.fab.remotes.any (fun r => r.six == six && old r.id && r.req.any (fun h => h.kind == 0))
    || s.cores.any (fun c => (c.2.hq ++ c.2.port).any (fun e => match e with
        | .atomic a => a.six == six && old a.id
        | _ => false))

/-- Whether the access of an identity has not performed: a held or an issued one (R98). -/
def openAccess (s : State) (id : Nat) : Bool :=
  s.held.any (fun h => h.id == id) || s.syncs.any (fun y => y.id == id) || s.pkg.loads.any (fun l => l.id == id)
    || s.pkg.fab.remotes.any (fun r => r.id == id)
    || s.cores.any (fun c => (c.2.hq ++ c.2.port).any (fun e => match e with | .atomic a => a.id == id | _ => false))

/-- The accesses of a strand that have not performed. -/
def openAccesses (s : State) (six : Nat) : List Nat :=
  (s.held.filter (fun h => h.six == six)).map Held.id ++ (s.syncs.filter (fun y => y.six == six)).map SyncStore.id
    ++ (s.pkg.loads.filter (fun l => l.six == six)).map HostLoad.id
    ++ (s.pkg.fab.remotes.filter (fun r => r.six == six && r.req.isSome)).map Remote.id
    ++ s.cores.flatMap (fun c => (c.2.hq ++ c.2.port).filterMap (fun e => match e with
        | .atomic a => if a.six = six then some a.id else none
        | _ => none))

/-- Whether what a strand has issued before it stopped has still to complete (R33, R229); a held request waits for its service. -/
def undrained (s : State) (six : Nat) : Bool := matrixBusy s six || openIssued s six (fun _ => true)

/-- A parked strand goes to the migration queue of its cluster's principal core (R186), once all it had issued is complete. -/
def parkQueue (six : Nat) (s : State) : List Effect :=
  let cl := clusterOf (coreOf six)
  let c := s.cluster cl
  if undrained s six then []
  else [.strand six { s.strand six with entry := false }, .cluster cl { c with migq := c.migq ++ [six] }, signal s (principalOf cl) 1 0]

/-- Taking a trap (R31, R33, R110, R183, R184, R186, R190), as effects on the state in which the strand stopped: a park
for PAGE on a compute core, containment for MACHINE on a compute core, and otherwise entry at TVEC. -/
def trapEffects (t : Trap) (six : Nat) (s : State) : List Effect :=
  let x := s.strand six
  let core := coreOf six
  if parks core t then chain [fun _ => [.strand six (x.park t)], parkQueue six] s
  else if t.cause = 17 ∧ isCompute core then contain s six x (decide (t.sub = 4))
  else [.strand six (x.enter t)]

/-- The state after a trap of a strand. -/
def takeTrap (t : Trap) (six : Nat) (s : State) : State := applyAll (trapEffects t six s) s

/-- The return from a trap (R33, R110, R155, R184): PM and IE from TCAUSE, pending writes landed, both streams at their recorded PCs in
the domain of TCAUSE.ASID; a handler that this one interrupted goes on. With cause PREEMPT the strand is bound to the segment in TADDR and
holds no frame in its slot. A firing restored as timed is not speculative (R189). -/
def Strand.tret (x : Strand) : Strand :=
  let y := x.landAll
  let preempt := decide (y.sys.tcause.toNat % 65536 = 18)
  { y with
    sys := { y.sys with
      pm := y.sys.tcause.getLsbD 33, ie := y.sys.tcause.getLsbD 34, vrun := y.sys.tvpc.getLsbD 0 },
    dom := y.sys.tcause.toNat / 2 ^ 36 % 4096,
    inTrap := decide (y.nest ≠ 0), nest := y.nest - 1, entry := false,
    seg := if preempt then y.sys.taddr else y.seg,
    frames := if preempt then [] else y.frames,
    spec := if preempt then false else y.spec,
    c := { y.c with pc := y.sys.tpc, wait := .none, idle := 0 },
    v := { y.v with pc := if y.sys.tvpc.getLsbD 0 then y.sys.tvpc &&& ~~~1#64 else y.v.pc, wait := .none, idle := 0 } }

/-! ## Effects of the issuing strand -/

/-- Change the issuing strand. -/
def modMe (f : Strand → Strand) : M Unit := do
  let s ← getS
  put (.strand s.six (f s.me))

/-- Trap the issuing stream (R33): precise, with no effect. -/
def trap (cause sub : Nat) (addr : Word) : M α := do
  let s ← getS
  halt (.trap { cause := cause, sub := sub, addr := addr, strm := s.stream })

/-- Wait with no effect. -/
def stall (w : Wait) : M α := halt (.wait w)

/-- Trap if a condition holds. -/
def trapIf (b : Bool) (cause sub : Nat) (addr : Word) : M Unit := if b then trap cause sub addr else pure ()

/-- Wait if a condition holds. -/
def stallIf (b : Bool) (w : Wait) : M Unit := if b then stall w else pure ()

/-- The register of the issuing stream that a scalar field names: s in the C-stream, k in the V-stream (R49). -/
def regOf (st : Stream) (n : Nat) : RegId := match st with | .c => .s n | .v => .k n

/-- Read the scalar register a field names in the issuing stream (R49). -/
def Strand.readX (x : Strand) (st : Stream) (n : Nat) : Word := match st with | .c => x.readS n | .v => x.readK n

/-- ILLEGAL for a scalar field outside its class: the V-stream has k0–k15 (R49, R56 check 2). -/
def scalarIf (n : BitVec 5) (enc : Nat) : M Unit := do
  let s ← getS
  trapIf (decide (s.stream = .v ∧ 16 ≤ n.toNat)) 1 0 (BitVec.ofNat 64 enc)

/-- Write a scoreboarded result into the scalar register a field names in the issuing stream. -/
def writeX (n : Nat) (w : Word) : M Unit := do
  let s ← getS
  modMe (fun x => x.write (regOf s.stream n) (.word w))

/-- Write a scoreboarded result into an s register. -/
def writeS (n : Nat) (w : Word) : M Unit := modMe (fun x => x.write (.s n) (.word w))

/-- A new identity for a command, request or load. -/
def newId : M Nat := do
  let s ← getS
  put .fresh
  pure s.nextId

/-- A choice the manual leaves to the device, below `n`: the next number the environment supplies, or 0 (log entry 12). -/
def choose (n : Nat) : M Nat := do
  let s ← getS
  match s.oracle with
  | [] => pure 0
  | k :: r => do
    put (.oracle r)
    pure (if k < n then k else 0)

/-! ## Issue -/

/-- What issuing needs to know of an instruction: its encoding (TADDR of R56), its length, its w field, the streams it
is legal in, whether it is privileged, and the registers it reads or writes. -/
structure Info where
  enc : Nat
  len : Nat
  w : Nat
  strms : List Stream
  priv : Bool
  uses : List RegId

/-- How an instruction ends: at the next instruction, at a target, with its PC already set, with a trap that it has taken itself (R109),
or still waiting after effects that stand (R157: GREVOKE; R206: BAR). -/
inductive Ctl where
  | next
  | jump (target : Word)
  | placed
  | taken
  | hold (w : Wait)

/-- The PC of a stream. -/
def Strand.pcOf (x : Strand) (st : Stream) : Word := match st with | .c => x.c.pc | .v => x.v.pc

/-- The strand with a stream at a new PC. -/
def Strand.setPc (x : Strand) (st : Stream) (pc : Word) : Strand :=
  match st with
  | .c => { x with c := { x.c with pc := pc } }
  | .v => { x with v := { x.v with pc := pc } }

/-- The strand with a stream waiting. -/
def Strand.setWait (x : Strand) (st : Stream) (w : Wait) : Strand :=
  match st with
  | .c => { x with c := { x.c with wait := w } }
  | .v => { x with v := { x.v with wait := w } }

/-- One issued instruction with stall count `w` (R34): its step counted, its wait over, `w` steps to idle before the next. -/
def Strand.stepped (x : Strand) (st : Stream) (w : Nat) : Strand :=
  match st with
  | .c => { x with got := [], entry := false, c := { x.c with step := x.c.step + 1, idle := w, wait := .none } }
  | .v => { x with v := { x.v with step := x.v.step + 1, idle := w, wait := .none } }

/-- The idle steps a stream has still to take. -/
def Strand.idleOf (x : Strand) (st : Stream) : Nat := match st with | .c => x.c.idle | .v => x.v.idle

/-- One step that a stream idles for a w count (R34). -/
def Strand.idled (x : Strand) (st : Stream) : Strand :=
  match st with
  | .c => { x with c := { x.c with step := x.c.step + 1, idle := x.c.idle - 1 } }
  | .v => { x with v := { x.v with step := x.v.step + 1, idle := x.v.idle - 1 } }

/-- The stop of an instruction before any effect of its own (R24, R36, R38, R56 checks 3 and 4): an instruction of the
other stream, a privileged one in user mode, a register that awaits a result, a pending write under CHK. DESIGN CHOICE (log
entry 66): where the instruction touches several pending writes, TADDR names the producer that is oldest in its stream, the
C-stream's first. -/
def issueStop (i : Info) (st : Stream) (x : Strand) : Option Stop :=
  let enc : Word := BitVec.ofNat 64 i.enc
  if !i.strms.contains st then some (.trap { cause := 2, sub := 1, addr := enc, strm := st })
  else if i.priv && !x.sys.pm then some (.trap { cause := 3, sub := 0, addr := enc, strm := st })
  else if i.uses.any (fun r => x.await.any (fun a => a.1 = r)) then some (.wait .score)
  else
    match (if x.sys.chk then (x.c.pend ++ x.v.pend).find? (fun p => i.uses.contains p.reg) else none) with
    | some p => some (.trap { cause := 12, sub := 0, addr := p.pc, strm := st })
    | none => none

/-- The strand with the writes due in the issuing stream landed. -/
def Strand.landSt (x : Strand) (st : Stream) : Strand := match st with | .c => x.landC | .v => x.landV

/-- The end of an instruction that issued. -/
def finishIssue (i : Info) (st : Stream) (c : Ctl) : M Unit := do
  let s ← getS
  let x := s.me
  match c with
  | .next => put (.strand s.six ((x.setPc st (x.pcOf st + BitVec.ofNat 64 i.len)).stepped st i.w))
  | .jump t => put (.strand s.six ((x.setPc st t).stepped st i.w))
  | .placed => put (.strand s.six (x.stepped st i.w))
  | .taken => pure ()
  | .hold w => put (.strand s.six (x.setWait st w))

/-- An instruction as a program: the checks before issue, its body, its end. -/
def issueProg (i : Info) (body : M Ctl) : Prog := M.prog do
  let s ← getS
  let x := s.me.landSt s.stream
  match issueStop i s.stream x with
  | some stop => halt stop
  | none => do
    put (.strand s.six x)
    let c ← body
    finishIssue i s.stream c

/-- The other stream. -/
def other : Stream → Stream
  | .c => .v
  | .v => .c

/-- The wait of a stream. -/
def Strand.waitOf (x : Strand) (st : Stream) : Wait := match st with | .c => x.c.wait | .v => x.v.wait

/-- Whether a wait completes before a trap of the other stream is taken (R185); a wait for acceptance, or for remote bytes, is short of
it. FIN waits for VEND and is not among them: it counts as unissued when its V-stream traps (DEDUCED, log entry 15). -/
def Wait.first : Wait → Bool
  | .drain => true
  | .gate => true
  | .accept => true
  | .pfree .. => true
  | _ => false

/-- What an instruction that stops leaves: the trap taken in the state it was issued in (R33), or its wait recorded. A trap
waits while the other stream is inside an instruction that completes first (R185). -/
def onStop (x : Stop) (s : State) : State :=
  match x with
  | .trap t =>
    if (s.me.waitOf (other t.strm)).first then applyAll [.strand s.six (s.me.setWait t.strm .score)] s
    else takeTrap t s.six s
  | .wait w => applyAll [.strand s.six (s.me.setWait s.stream w)] s

/-- What a meaning answers. -/
abbrev Out := Host.Outcome State Fault Refusal

/-- Issue an instruction: it always answers a next state. -/
def issue (i : Info) (body : M Ctl) (s : State) : Out :=
  .next (Prog.run onStop s (issueProg i body) s)

/-- An event of the device or of its surroundings: its effects, none where it stops or is not enabled. -/
def event (body : M Unit) (s : State) : Out :=
  .next (Prog.run (fun _ s => s) s (M.prog body) s)

end Sys2Proof.Machine
end

