-- ==== Sys2Proof/Machine/Spec.lean ====
section
/-! DEFINITION. Timed tasks and speculation: age, the oldest uncommitted task, what an abort undoes, and the buffered
words of a speculative firing (R97, R280, R299 to R302). -/

namespace Sys2Proof.Machine

/-- The tasks of the task unit. -/
def State.taskList (s : State) : List (Nat × Task) := s.tasks.filterMap (fun p => p.2.map (fun t => (p.1, t)))

/-- Whether a task holds a task-queue slot (R291). -/
def Task.inSlot (t : Task) : Bool := match t.st with | .finished => false | .deferred .. => false | _ => true

/-- Age: (TS, ID) in lexicographic order (R299). -/
def olderThan (a : Nat × Task) (b : Nat × Task) : Bool :=
  decide (a.2.ts.toNat < b.2.ts.toNat ∨ (a.2.ts = b.2.ts ∧ a.1 < b.1))

/-- An uncommitted timed task of a group (R301). -/
def uncommitted (g : Nat) (p : Nat × Task) : Bool :=
  p.2.timed && decide (p.2.gid = g) && (match p.2.st with | .deferred .. => false | _ => true)

/-- Whether a timed task is the oldest uncommitted task of its group. -/
def isOldest (s : State) (id : Nat) (t : Task) : Bool :=
  s.taskList.all (fun p => !(uncommitted t.gid p && olderThan p (id, t)))

/-- The task a strand's firing runs. -/
def Strand.taskId (x : Strand) : Option Nat := match x.job with | .task id => some id | _ => none

/-- The task of a strand with its ID. -/
def taskOf (s : State) (x : Strand) : Option (Nat × Task) :=
  x.taskId.bind (fun id => (s.task id).map (fun t => (id, t)))

/-- One round of what an abort reaches (R300): tasks that read a value of an undone task abort, and tasks that an undone
task spawned are discarded. -/
def abortRound (ts : List (Nat × Task)) (aborted discarded : List Nat) : List Nat × List Nat :=
  let undone := fun i => aborted.contains i || discarded.contains i
  let spawn := ts.filter (fun p => p.2.parent.any undone && !discarded.contains p.1)
  let discarded' := discarded ++ spawn.map Prod.fst
  let readers := ts.filter (fun p =>
    p.2.reads.any (fun r => r.2.any undone) && !aborted.contains p.1 && !discarded'.contains p.1)
  ((aborted ++ readers.map Prod.fst).filter (fun i => !discarded'.contains i), discarded')

/-- Everything an abort reaches. -/
def abortSet (ts : List (Nat × Task)) : Nat → List Nat × List Nat → List Nat × List Nat
  | 0, r => r
  | n + 1, r => abortSet ts n (abortRound ts r.1 r.2)

/-- Free the slot of a firing that is undone (R31): nothing is saved, its commands in flight are discarded (R229). -/
def undoFiring (s : State) (six : Nat) : List Effect :=
  let cl := clusterOf (coreOf six)
  chain
    [fun s => freeSlot s six (s.strand six),
     fun s => [.cluster cl (dropCmds (s.cluster cl) (fun x => x == six)), .held (s.held.filter (fun h => h.six != six))]] s

/-- Undo one task: requeued with the same TS and ID, or discarded (R300). -/
def undoTask (requeue : Bool) (id : Nat) (s : State) : List Effect :=
  match s.task id with
  | none => []
  | some t =>
    (match t.st with | .firing six => undoFiring s six | _ => [])
      ++ [.task id (if requeue then
            some { t with writes := [], homes := [], reads := [], st := (match t.st with | .attached c => .attached c | _ => .queued) }
          else none)]

/-- Abort a task (R300), requeued unless TABORT discards it. -/
def abortTask (requeue : Bool) (id : Nat) (s : State) : List Effect :=
  let ts := s.taskList
  let r := abortSet ts ts.length (if requeue then ([id], []) else ([], [id]))
  chain (r.1.map (undoTask true) ++ r.2.map (undoTask false)) s

/-- Abort every task of a list that is still there. -/
def abortTasks (ids : List Nat) (s : State) : List Effect := chain (ids.map (abortTask true)) s

/-- The words that bytes [a, a + n) touch. -/
def wordsOf (a n : Nat) : List Nat :=
  (List.range ((a + n + 3) / 4 - a / 4)).map (fun i => a / 4 + i)

/-- The tasks whose read set holds one of the words (R280). -/
def readersOf (s : State) (words : List Nat) : List Nat :=
  (s.taskList.filter (fun p => p.2.reads.any (fun r => words.contains r.1))).map Prod.fst

/-- The tasks younger than `t` that have read one of the words from a writer older than `t` or from committed memory
(R299). -/
def conflicting (s : State) (id : Nat) (t : Task) (words : List Nat) : List Nat :=
  (s.taskList.filter (fun p => uncommitted t.gid p && olderThan (id, t) p && p.2.reads.any (fun r =>
      words.contains r.1 && (match r.2 with
        | none => true
        | some w => match s.task w with
          | none => true
          | some wt => olderThan (w, wt) (id, t))))).map Prod.fst

/-- The youngest uncommitted writer of a byte that is `t` itself or older (R299). -/
def writerOf (s : State) (id : Nat) (t : Task) (a : Nat) : Option (Nat × Task) :=
  (s.taskList.filter (fun p => uncommitted t.gid p && (p.1 == id || olderThan p (id, t))
      && p.2.writes.any (fun b => b.1 == a))).foldl
    (fun best p => match best with
      | none => some p
      | some q => if olderThan q p then some p else some q) none

/-- The byte a speculative load sees; `seen` is what memory holds for it. -/
def specByte (s : State) (id : Nat) (t : Task) (seen : Nat → Nat) (a : Nat) : Nat :=
  match writerOf s id t a with
  | some (_, w) => ((tblGet none w.writes a).getD 0).toNat
  | none => seen a

/-- The value a speculative load of `n` bytes sees. -/
def specRead (s : State) (id : Nat) (t : Task) (seen : Nat → Nat) (a : Nat) : Nat → Nat
  | 0 => 0
  | n + 1 => specByte s id t seen a + 256 * specRead s id t seen (a + 1) n

/-- What a speculative load of `n` bytes adds to the read set: for each word, the writer of each of its bytes (R299; that
part of a word is kept by the byte is a DESIGN CHOICE, log entry 84). -/
def specReads (s : State) (id : Nat) (t : Task) (a n : Nat) : List (Nat × Option Nat) :=
  ((List.range n).map (fun i => ((a + i) / 4, (writerOf s id t (a + i)).map Prod.fst))).dedup

/-- Whether a task's access to some words would pass the capacity of R299: 4,096 words read, 1,024 words written. -/
def Task.full (t : Task) (isLoad : Bool) (ws : List Nat) : Bool :=
  if isLoad then decide (4096 < (t.reads.map Prod.fst ++ ws : List Nat).dedup.length)
  else decide (1024 < (t.writes.map (fun b : Nat × Option Byte => b.1 / 4) ++ ws).dedup.length)

end Sys2Proof.Machine
end

