-- ==== Sys2Proof/Machine/Device.lean ====
section
/-! DEFINITION. The DEVICE region (R336): what each table and register reads as, and what a store to it does. The events of
the opcode table that are such stores call the same functions. -/

namespace Sys2Proof.Machine

/-! ## Physical addresses (R243) -/

/-- The frame-table index of a physical address in populated HBM or capacity memory (R243, R258). -/
def frameIndex (c : Cfg) (pa : Nat) : Option Nat :=
  let st := pa / 2 ^ 36
  let f := pa % 2 ^ 36 / 65536
  if st < 12 then (if f < c.stack st then some (st * 2 ^ 20 + f) else none)
  else if 2 ^ 44 ≤ pa ∧ pa < 2 ^ 44 + 8 * 2 ^ 39 then
    let p := (pa - 2 ^ 44) / 2 ^ 39
    let g := (pa - 2 ^ 44) % 2 ^ 39 / 65536
    if g < c.port p then some (12 * 2 ^ 20 + 2 ^ 23 * p + g) else none
  else none

/-- The physical base of the frame with a frame-table index. -/
def frameBase (i : Nat) : Nat :=
  if i < 12 * 2 ^ 20 then i / 2 ^ 20 * 2 ^ 36 + i % 2 ^ 20 * 65536
  else 2 ^ 44 + (i - 12 * 2 ^ 20) / 2 ^ 23 * 2 ^ 39 + (i - 12 * 2 ^ 20) % 2 ^ 23 * 65536

/-- Whether a frame-table index names a populated frame. -/
def frameExists (c : Cfg) (i : Nat) : Bool := frameIndex c (frameBase i) == some i

/-- Populated HBM or capacity memory. -/
def populated (c : Cfg) (pa : Nat) : Bool := (frameIndex c pa).isSome

/-- The DEVICE region. -/
def inDevice (pa : Nat) : Bool := decide (Config.deviceBase ≤ pa ∧ pa < Config.deviceEnd)

/-- The PCIe windows onto host memory (R336, R340). -/
def inHostWindow (pa : Nat) : Bool := decide (Config.windowBase ≤ pa ∧ pa < Config.deviceEnd)

/-- The pod range of a package in a pod (R349). -/
def inPod (s : State) (pa : Nat) : Bool := s.pkg.fab.en && decide (Config.podBase ≤ pa ∧ pa < 2 ^ 52)

/-- A pod address that counts as populated (R349): a live member other than this package, within its HBM. PRESUMED (log
entry 22): every member's stacks are populated as this package's are. -/
def podPopulated (s : State) (pa : Nat) : Bool :=
  let p := pa / 2 ^ 44 % 128
  let a := pa % 2 ^ 44
  inPod s pa && decide (p ≠ s.pkg.fab.pkg) && s.pkg.fab.live.getLsbD p
    && decide (a / 2 ^ 36 < 12 ∧ a % 2 ^ 36 / 65536 < s.cfg.stack (a / 2 ^ 36))

/-! ## Loads -/

/-- Word 0 of a domain-table entry (R142). -/
def domWord (n : Nat) (d : Dom) : Nat :=
  d.gen * 2 ^ 48 + d.owner.toNat * 2 ^ 32 + d.hold * 2 ^ 14
    + (match d.st with | .dead => 0 | .live => 1 | .revoked => 2) * 2 ^ 12 + n

/-- A frame-table entry (R258). -/
def frameWord (f : FrameEnt) : Nat :=
  (match f.st with | .ordinary => 0 | .append => 1 | .sealed => 2 | .scrub => 3) * 2 ^ 62
    + f.owner.toNat * 2 ^ 32 + f.tail

/-- Word 1 of a queue-table entry (R283). -/
def queueWord (q : Queue) : Nat :=
  bit q.mapped 63 + bit q.pend 62 + bit q.privq 61 + q.asid * 2 ^ 32 + q.tenant * 2 ^ 24 + q.log

/-- A block-table entry (R257). -/
def blockWord (b : Block) : Nat := bit b.assigned 7 + b.tenant

/-- Word 0 of a capacity port's control block (R335). -/
def portWord (s : State) (p : Nat) : Nat :=
  bit (s.cfg.portPresent p) 63 + bit (s.cfg.portPcap p) 62 + bit (s.pkg.pmark.getLsbD p) 61 + s.cfg.port p

/-- A link's status doubleword (R360); links the part lacks read zero. -/
def linkWord (s : State) (l : Nat) : Nat :=
  if s.cfg.links ≤ l then 0
  else
    let k := tblGet .down s.pkg.fab.links l
    bit k.up 63 + k.lanes * 2 ^ 59 + k.peer * 2 ^ 52 + k.plink * 2 ^ 48 + min k.replays (2 ^ 32 - 1)

/-- WINCFG (R360). -/
def wincfgWord (f : Fabric) : Nat := bit f.en 63 + f.pkg * 2 ^ 56 + f.wlen * 2 ^ 52

/-- Task-queue slots and counters a tenant holds now (R291, R337). -/
def slotsHeld (s : State) (t : Nat) : Nat :=
  (s.taskList.filter (fun p => (s.group p.2.gid).any (fun g => g.tenant == t) && p.2.inSlot)).length

/-- The task-queue slots of the package in use, of 65,536 (R291). -/
def slotsInUse (s : State) : Nat := (s.taskList.filter (fun p => p.2.inSlot)).length

def countersHeld (s : State) (t : Nat) : Nat :=
  (s.counters.filter (fun p => (p.2.gid.bind s.group).any (fun g => g.tenant == t))).length

/-- A doubleword of the management block (R346). -/
def mgmtWord (m : Mgmt) (off : Nat) : Nat :=
  if off = 8 then m.status
  else if off = 16 then m.cmd
  else if off = 24 then m.result
  else if off < 32 then 0
  else if off < 64 then m.operand.toNat / 2 ^ (8 * (off - 32)) % 2 ^ 64
  else if off = 64 then m.index.toNat
  else if off < 256 then 0
  else if off < 512 then
    (tblGet 0 m.m ((off - 256) / 32)).toNat / 2 ^ (8 * ((off - 256) % 32)) % 2 ^ 64
  else if off < 3252 then m.quote.toNat / 2 ^ (8 * (off - 512)) % 2 ^ 64
  else 0

/-- The part of the DEVICE region that belongs to a die (R336): offset from its base. -/
def dieWord (s : State) (d off : Nat) : Nat :=
  let x := s.die d
  if off < 0x10000 then
    let q := tblGet .reset x.queues (off / 64)
    if off % 64 = 0 then q.ring.toNat else if off % 64 = 8 then queueWord q else if off % 64 = 16 then q.rdidx.toNat else 0
  else if off < 0x20000 then 0
  else if off < 0x30000 then
    match tblGet none x.flog ((off - 0x20000) / 16) with
    | some r => if off % 16 = 0 then r.va.toNat else r.info.toNat
    | none => 0
  else if off < 0x30200 then blockWord (tblGet .reset x.blocks ((off - 0x30000) / 8))
  else if 0x100000 ≤ off ∧ off < 0x200000 then (Config.faultSpill d ((off - 0x100000) / 8)).toNat
  else 0

/-- The doubleword that a load of an aligned DEVICE address sees (R336); an address that is not listed reads zero. -/
def deviceWord (s : State) (pa : Nat) : Nat :=
  if pa < Config.deviceBase + 0x20000 then
    let o := pa - Config.deviceBase
    let d := s.dom (o / 32)
    if o % 32 = 0 then domWord (o / 32) d else if o % 32 = 8 then d.root else 0
  else if Config.tenantBase ≤ pa ∧ pa < Config.tenantBase + 2048 then
    let o := pa - Config.tenantBase
    let t := s.tenant (o / 32)
    if o % 32 = 0 then t.tq.toNat * 2 ^ 32 + t.dq.toNat
    else if o % 32 = 8 then slotsHeld s (o / 32) * 2 ^ 32 + countersHeld s (o / 32)
    else if o % 32 = 16 then t.dtvec.toNat else t.otag.toNat
  else if Config.portBase ≤ pa ∧ pa < Config.portBase + 512 then
    (if (pa - Config.portBase) % 64 = 0 then portWord s ((pa - Config.portBase) / 64) else 0)
  else if pa = Config.powerBase then s.pkg.pbudget.toNat
  else if pa = Config.powerBase + 8 then s.pkg.gatereq.toNat
  else if pa = Config.powerBase + 16 then s.pkg.gated.toNat
  else if pa = Config.powerBase + 24 then s.pkg.throt.toNat
  else if Config.mgmtBase ≤ pa ∧ pa < Config.mgmtBase + 4096 then mgmtWord s.pkg.mgmt (pa - Config.mgmtBase)
  else if Config.fabricBase ≤ pa ∧ pa < Config.fabricBase + 4096 then
    let o := pa - Config.fabricBase
    let f := s.pkg.fab
    if o = 0 then wincfgWord f
    else if o = 8 then f.window
    else if o = 16 then bit f.lock 63 + f.offset.toNat
    else if o = 0x18 then f.live.toNat % 2 ^ 64
    else if o = 0x20 then f.live.toNat / 2 ^ 64
    else if 0x40 ≤ o ∧ o < 0x40 + 96 then linkWord s ((o - 0x40) / 8) else 0
  else if Config.msixBase ≤ pa ∧ pa < Config.msixBase + 0x1000 then memRead s.pkg.msix (0x10000 + pa - Config.msixBase) 8
  else if pa = Config.msixBase + 0x1000 then (tblGet 0 s.pkg.pending 64).toNat
  else if Config.dieBase ≤ pa ∧ pa < Config.dieBase + 4 * 0x1000000 then
    dieWord s ((pa - Config.dieBase) / 0x1000000) ((pa - Config.dieBase) % 0x1000000)
  else if Config.ftBase ≤ pa ∧ pa < Config.ftBase + 0x26000000 then frameWord (s.frame ((pa - Config.ftBase) / 8))
  else 0

/-- A load of `n` bytes at a DEVICE address outside the PCIe windows. -/
def deviceRead (s : State) (pa n : Nat) : Nat := deviceWord s (pa / 8 * 8) / 2 ^ (8 * (pa % 8)) % 2 ^ (8 * n)

/-! ## Stores -/

/-- A store to word 1 of a domain-table entry (R143). -/
def domRootStore (asid : Nat) (v : Word) (s : State) : List Effect :=
  let d := s.dom asid
  if d.st = .dead ∧ d.hold = 0 ∧ v.toNat % 4096 = 0 ∧ v.toNat < 2 ^ 52 then
    [.dom asid { d with root := v.toNat }]
  else []

/-- A store to word 0 of a domain-table entry (R143). -/
def domActivate (asid : Nat) (v : Word) (s : State) : List Effect :=
  let d := s.dom asid
  let owner := v.extractLsb' 32 16
  if d.st = .dead ∧ d.hold = 0 ∧ v.toNat / 4096 % 4 = 1 ∧ (owner ≠ 0 ∨ asid = 0) then
    [.dom asid { d with gen := nextGen d.gen, owner := owner, st := .live }]
  else []

/-- A store to a frame-table entry that gives an unowned ORDINARY frame an owner (R259). -/
def frameAssignOwner (i : Nat) (v : Word) (s : State) : List Effect :=
  let f := s.frame i
  let owner := v.extractLsb' 32 16
  if frameExists s.cfg i ∧ f.st = .ordinary ∧ f.owner = 0 ∧ owner ≠ 0
      ∧ v.toNat = frameWord { f with owner := owner } then
    [.frame i { f with owner := owner }]
  else []

/-- A store to a frame-table entry that makes an owned ORDINARY frame APPEND with TAIL 0 (R259). -/
def frameSetAppend (i : Nat) (v : Word) (s : State) : List Effect :=
  let f := s.frame i
  let f' : FrameEnt := { f with st := .append, tail := 0 }
  if frameExists s.cfg i ∧ f.st = .ordinary ∧ f.owner ≠ 0 ∧ v.toNat = frameWord f' then [.frame i f'] else []

/-- A store to a block-table entry (R257): ignored with a nonzero should-be-zero bit, without effect when it changes
nothing, otherwise the start of a reassignment. DESIGN CHOICE (log entry 83): one that comes while an earlier change of the block is in
progress is ignored. -/
def blockStore (d b : Nat) (v : Word) (s : State) : List Effect :=
  let x := s.die d
  let k := tblGet .reset x.blocks b
  let new : Bool × Nat := (v.getLsbD 7, v.toNat % 64)
  if v.toNat / 256 ≠ 0 ∨ v.getLsbD 6 ∨ blockWord k = v.toNat ∨ k.change.isSome then []
  else [.die d { x with blocks := tblSet .reset x.blocks b { k with change := some new } }]

/-- The end of a reassignment (R257): every byte of the block zero, the new entry installed. -/
def blockInstall (d b : Nat) (s : State) : List Effect :=
  let x := s.die d
  let k := tblGet .reset x.blocks b
  match k.change with
  | none => []
  | some new =>
    [.dmemClear (d * 2 ^ 26 + b * 2 ^ 20) (d * 2 ^ 26 + (b + 1) * 2 ^ 20),
     .die d { x with blocks := tblSet .reset x.blocks b { assigned := new.1, tenant := new.2, change := none } }]

/-- A write of a port's control block (R335): PMARK stays 0 where PCAP is 0. -/
def pmarkWrite (p : Nat) (v : Word) (s : State) : List Effect :=
  let on := v.getLsbD 61 && s.cfg.portPcap p
  let m : BitVec 8 := 1#8 <<< p
  [.pkg { s.pkg with pmark := if on then s.pkg.pmark ||| m else s.pkg.pmark &&& ~~~m }]

/-- A write of PBUDGET (R343): clamped to [600, 2,800]. -/
def pbudgetWrite (v : Word) (s : State) : List Effect :=
  [.pkg { s.pkg with pbudget := if v.toNat > 2800 then 2800 else if v.toNat < 600 then 600 else v }]

/-- A write of GATEREQ (R343). -/
def gatereqWrite (v : Word) (s : State) : List Effect := [.pkg { s.pkg with gatereq := v.extractLsb' 0 32 }]

/-- FREEZE (R344): every pending fixed-latency write lands, then every clock stops and the fabric links go down. -/
def freeze (s : State) : List Effect :=
  s.strands.map (fun p => .strand p.1 p.2.landAll)
    ++ [.pkg { s.pkg with
          frozen := true,
          fab := { s.pkg.fab with links := tblMap .down (fun _ l => { l with up := false }) s.pkg.fab.links } }]

/-- A write to the low word of doubleword 0 of the management block (R344). -/
def freezeWrite (v : Word) (s : State) : List Effect := if v.toNat % 2 ^ 32 = 0xF0F00001 then freeze s else []

/-- A write of the management command register (R346): refused while a command runs, which goes on; 1 extend and 2 quote start,
and the result is busy until the command ends. DEDUCED (log entry 23): any other command is refused. -/
def mgmtCommand (v : Word) (s : State) : List Effect :=
  let m := s.pkg.mgmt
  if m.cmd ≠ 0 then [.pkg { s.pkg with mgmt := { m with result := 2 } }]
  else if v = 1 ∨ v = 2 then [.pkg { s.pkg with mgmt := { m with cmd := v.toNat, result := 0 } }]
  else [.pkg { s.pkg with mgmt := { m with result := 2 } }]

/-- The bytes of a bit vector, least significant first. -/
def vecBytes (n : Nat) (v : Nat) : List Byte := (List.range n).map (fun i => BitVec.ofNat 8 (v / 2 ^ (8 * i)))

/-- An extend ends (R345, R346): Mi := SHA3-256(Mi ‖ x). DEDUCED (log entry 23): an index above 7 is refused. -/
def extend (s : State) : List Effect :=
  let m := s.pkg.mgmt
  if m.cmd ≠ 1 then []
  else if m.index.toNat > 7 then [.pkg { s.pkg with mgmt := { m with cmd := 0, result := 2 } }]
  else
    let i := m.index.toNat
    let d := Config.sha3_256 (vecBytes 32 (tblGet 0 m.m i).toNat ++ vecBytes 32 m.operand.toNat)
    [.pkg { s.pkg with mgmt := { m with cmd := 0, result := if m.result = 0 then 1 else m.result, m := tblSet 0 m.m i d } }]

/-- A quote ends (R346): M0–M7, the nonce and the identity digest, then their signature. -/
def quote (s : State) : List Effect :=
  let m := s.pkg.mgmt
  if m.cmd ≠ 2 then []
  else
    let body := (List.range 8).flatMap (fun i => vecBytes 32 (tblGet 0 m.m i).toNat)
      ++ vecBytes 32 m.operand.toNat ++ vecBytes 32 Config.identityDigest.toNat
    let bodyNat := body.foldr (fun b acc => b.toNat + 256 * acc) 0
    let q := BitVec.ofNat 21920 (bodyNat + (Config.signQuote body).toNat * 2 ^ 2560)
    [.pkg { s.pkg with mgmt := { m with cmd := 0, result := if m.result = 0 then 1 else m.result, quote := q } }]

/-- A write of WINCFG (R360): ignored while EN is 1, and with a nonzero should-be-zero bit. A package that joins a pod is a live
member itself. -/
def wincfgWrite (v : Word) (s : State) : List Effect :=
  let f := s.pkg.fab
  if f.en ∨ v.toNat % 2 ^ 52 ≠ 0 then []
  else
    let p := v.toNat / 2 ^ 56 % 128
    [.pkg { s.pkg with
      fab := { f with
        en := v.getLsbD 63, pkg := p, wlen := v.toNat / 2 ^ 52 % 16, live := if v.getLsbD 63 then f.live ||| (1#128 <<< p) else f.live } }]

/-- Whether MSI-X vector `k` of a function is masked: bit 0 of the entry's vector control word, as MSI-X lays it out. -/
def msixMasked (s : State) (f k : Nat) : Bool := memRead s.pkg.msix (f * 1024 + 16 * k + 12) 4 % 2 = 1

/-- A doorbell store (R341): vector bits(v)[5:0] of function f; a masked vector sets its pending bit. -/
def hostint (f : Nat) (v : Word) (s : State) : List Effect :=
  let k := v.toNat % 64
  if f > 64 then []
  else if msixMasked s f k then
    [.pkg { s.pkg with pending := tblSet 0 s.pkg.pending f (tblGet 0 s.pkg.pending f ||| (1#64 <<< k)) }]
  else [.output (.msix f k)]

/-- Vectors of a function that are unmasked with their pending bit set send their messages, and the bits are cleared (R341, as
MSI-X has it). -/
def msixSend (f : Nat) (s : State) : List Effect :=
  let p := tblGet 0 s.pkg.pending f
  let ks := (List.range 64).filter (fun k => p.getLsbD k && !msixMasked s f k)
  if ks = [] then []
  else .pkg { s.pkg with pending := tblSet 0 s.pkg.pending f (ks.foldl (fun p k => p &&& ~~~(1#64 <<< k)) p) }
    :: ks.map (fun k => .output (.msix f k))

/-- A write into a function's MSI-X table (R338, R341): 64 vectors of 16 bytes. -/
def msixWrite (f off size v : Nat) (s : State) : List Effect :=
  chain
    [fun s => [.pkg { s.pkg with msix := memWrite s.pkg.msix (f * 1024 + off) size v }],
     fun s => if f ≤ 64 then msixSend f s else []] s

/-- A notify (R285): wakes the command processor for a mapped queue, sets PEND on an unmapped one. -/
def queueNotify (d q : Nat) (s : State) : List Effect :=
  let x := s.die d
  let y := tblGet .reset x.queues q
  [.die d { x with
    queues := tblSet .reset x.queues q (if y.mapped then { y with woken := true } else { y with pend := true }) }]

/-- A queue takes a hardware slot (R285): at most 64 of a die are mapped (R283); PEND is cleared and acts as a notify. -/
def queueMap (d q : Nat) (s : State) : List Effect :=
  let x := s.die d
  let y := tblGet .reset x.queues q
  if y.mapped ∨ 64 ≤ (x.queues.filter (fun p => p.2.mapped)).length then []
  else [.die d { x with queues := tblSet .reset x.queues q { y with mapped := true, pend := false, woken := y.pend } }]

/-- A store to word 1 of a queue-table entry (R283): every field but PEND; MAPPED as `queueMap`. A notify that the command processor
has not yet acted on at the unmapping sets PEND (R285). -/
def queueWord1 (d q : Nat) (v : Word) (s : State) : List Effect :=
  chain
    [fun s =>
      let x := s.die d
      let y := tblGet .reset x.queues q
      [.die d { x with
        queues := tblSet .reset x.queues q { y with
          privq := v.getLsbD 61, asid := v.toNat / 2 ^ 32 % 4096, tenant := v.toNat / 2 ^ 24 % 64, log := v.toNat % 16,
          mapped := y.mapped && v.getLsbD 63, pend := y.pend || (y.woken && !v.getLsbD 63),
          woken := y.woken && v.getLsbD 63 } }],
     fun s => if v.getLsbD 63 then queueMap d q s else []] s

/-- The bytes [off, off + n) of a value of `w` bits replaced by `v`. -/
def patch (old off n v : Nat) : Nat :=
  old % 2 ^ (8 * off) + v % 2 ^ (8 * n) * 2 ^ (8 * off) + old / 2 ^ (8 * (off + n)) * 2 ^ (8 * (off + n))

/-- A store into a die's part of the DEVICE region. -/
def dieStore (d off size : Nat) (v : Word) (s : State) : List Effect :=
  let x := s.die d
  if off < 0x10000 then
    if size ≠ 8 then []
    else if off % 64 = 0 then
      let y := tblGet .reset x.queues (off / 64)
      [.die d { x with queues := tblSet .reset x.queues (off / 64) { y with ring := v } }]
    else if off % 64 = 8 then queueWord1 d (off / 64) v s
    else []
  else if off < 0x20000 then queueNotify d ((off - 0x10000) / 64) s
  else if 0x30000 ≤ off ∧ off < 0x30200 ∧ size = 8 then blockStore d ((off - 0x30000) / 8) v s
  else []

/-- A store of `size` bytes at a DEVICE address outside the PCIe windows (R336); a store to an address that is not listed
is ignored. The tables take doubleword stores (R143, R259). -/
def deviceStore (pa size : Nat) (v : Word) (s : State) : List Effect :=
  if pa < Config.deviceBase + 0x20000 then
    let o := pa - Config.deviceBase
    if size ≠ 8 then []
    else if o % 32 = 8 then domRootStore (o / 32) v s
    else if o % 32 = 0 then domActivate (o / 32) v s
    else []
  else if Config.tenantBase ≤ pa ∧ pa < Config.tenantBase + 2048 then
    let o := pa - Config.tenantBase
    let t := s.tenant (o / 32)
    if size ≠ 8 then []
    else if o % 32 = 0 then
      [.tenant (o / 32) { t with tq := v.extractLsb' 32 32, dq := v.extractLsb' 0 32 }]
    else if o % 32 = 16 then [.tenant (o / 32) { t with dtvec := v }]
    else if o % 32 = 24 then [.tenant (o / 32) { t with otag := v.extractLsb' 0 16 }]
    else []
  else if Config.portBase ≤ pa ∧ pa < Config.portBase + 512 then
    (if size = 8 ∧ (pa - Config.portBase) % 64 = 0 then pmarkWrite ((pa - Config.portBase) / 64) v s else [])
  else if pa = Config.powerBase then (if size = 8 then pbudgetWrite v s else [])
  else if pa = Config.powerBase + 8 then (if size = 8 then gatereqWrite v s else [])
  else if Config.mgmtBase ≤ pa ∧ pa < Config.mgmtBase + 4096 then
    let o := pa - Config.mgmtBase
    let m := s.pkg.mgmt
    if o = 0 ∧ 4 ≤ size then freezeWrite v s
    else if o = 16 ∧ size = 8 then mgmtCommand v s
    else if 32 ≤ o ∧ o < 64 then
      [.pkg { s.pkg with
        mgmt := { m with operand := BitVec.ofNat 256 (patch m.operand.toNat (o - 32) size v.toNat) } }]
    else if 64 ≤ o ∧ o < 72 then
      [.pkg { s.pkg with mgmt := { m with index := BitVec.ofNat 64 (patch m.index.toNat (o - 64) size v.toNat) } }]
    else []
  else if pa = Config.fabricBase then (if size = 8 then wincfgWrite v s else [])
  else if Config.hostIntBase ≤ pa ∧ pa < Config.hostIntBase + 1024 then
    (if size = 8 then hostint ((pa - Config.hostIntBase) / 8) v s else [])
  else if Config.msixBase ≤ pa ∧ pa < Config.msixBase + 1024 then
    msixWrite 64 (pa - Config.msixBase) size v.toNat s
  else if Config.dieBase ≤ pa ∧ pa < Config.dieBase + 4 * 0x1000000 then
    dieStore ((pa - Config.dieBase) / 0x1000000) ((pa - Config.dieBase) % 0x1000000) size v s
  else if Config.ftBase ≤ pa ∧ pa < Config.ftBase + 0x26000000 then
    let i := (pa - Config.ftBase) / 8
    if size = 8 then
      match frameAssignOwner i v s with
      | [] => frameSetAppend i v s
      | es => es
    else []
  else []

end Sys2Proof.Machine
end

