-- ==== Sys2Proof/Machine/Pod.lean ====
section
/-! DEFINITION. How a packet leaves for another package of the pod (R352 to R355): its stream, its end-to-end number, the link it
takes and the link's replay buffer. -/

namespace Sys2Proof.Machine

/-- The fabric state changed. -/
def setFab (s : State) (f : Fabric) : Effect := .pkg { s.pkg with fab := f }

/-- Another member of the pod. -/
def isMember (f : Fabric) (p : Nat) : Bool := f.en && decide (p < 128 ∧ p ≠ f.pkg)

/-- A stream of packets (R352): destination and class, 0 request, 1 reply, 2 control. -/
def streamKey (pkg cls : Nat) : Nat := 4 * pkg + cls

/-- Whether a stream's next packet cannot leave now: its path is being changed (R355), its link is down or keeps 512 flits that are
not acknowledged or has flits to resend before anything new (R353), or the peer has set OFF, which control packets pass (R354). -/
def Fabric.blocked (f : Fabric) (pkg cls : Nat) : Bool :=
  let k := tblGet .down f.links (tblGet 0 f.routes (streamKey pkg cls))
  f.streamHeld.contains (pkg, cls) || !k.up || k.resend || decide (512 ≤ k.replay.length) || (k.peerOff && decide (cls ≠ 2))

/-- Whether an operation may write memory or a frame's state. -/
def MemOp.writes : MemOp → Bool
  | .load .. => false
  | .lr .. => false
  | .tailq _ => false
  | .persist .. => false
  | _ => true

/-- The operation that stands for the invalidation of a frame (R262), which no access has. -/
def MemOp.invalidation : MemOp := .store 0 0

/-- The record of what a packet asks of another package: a request, or an invalidation. -/
def Fabric.recordOf (f : Fabric) (o : Output) : Option Remote :=
  match o with
  | .remote p n .. => f.remotes.find? (fun r => decide (r.pkg = p ∧ r.seq = n ∧ r.op ≠ .invalidation))
  | .podInvalidate p _ n => f.remotes.find? (fun r => decide (r.pkg = p ∧ r.seq = n ∧ r.op = .invalidation))
  | _ => none

/-- What a packet settles as it leaves for the first time (R358): the window in which its write is sent, which its strand's WINWAIT
follows (R100), and for an invalidation the window that its PFREE waits for (R262). -/
def leaves (o : Output) (s : State) : List Effect :=
  let f := s.pkg.fab
  match (f.recordOf o).filter (fun r => r.win.isNone) with
  | none => []
  | some r =>
    setFab s { f with remotes := f.remotes.map (fun y => if y.id = r.id then { y with win := some f.window } else y) }
      :: (match o with
        | .podInvalidate _ i _ => s.strands.filterMap (fun p => match p.2.c.wait with
          | .pfree j _ => if i = j then some (.strand p.1 { p.2 with c := { p.2.c with wait := .pfree i (some f.window) } }) else none
          | _ => none)
        | _ =>
          let y := s.strand r.six
          if r.req.any (fun h => decide (h.kind = 0) && h.op.writes) && decide (y.st ≠ .free) then
            [.strand r.six { y with podWin := some f.window }]
          else [])

/-- A packet leaves on its stream's link (R353): the link's sender keeps it until it is acknowledged. -/
def emit (pkg cls : Nat) (o : Output) (s : State) : List Effect :=
  let f := s.pkg.fab
  let l := tblGet 0 f.routes (streamKey pkg cls)
  let k := tblGet .down f.links l
  let k' : Link := { k with replay := k.replay ++ [(k.sendSeq, o)], sendSeq := (k.sendSeq + 1) % 4096 }
  chain [fun s => [setFab s { f with links := tblSet .down f.links l k' }, .output o], leaves o] s

/-- Send a packet, made from its end-to-end number, or let it wait behind its stream (R352, R355). -/
def podSend (pkg cls : Nat) (mk : Nat → Output) (s : State) : List Effect :=
  let f := s.pkg.fab
  let key := streamKey pkg cls
  let n := tblGet 0 f.sendNum key
  let f' : Fabric := { f with sendNum := tblSet 0 f.sendNum key (n + 1) }
  if f.blocked pkg cls || f.waiting.any (fun w => w.1 == pkg && w.2.1 == cls) then
    [setFab s { f' with waiting := f.waiting ++ [(pkg, cls, mk n)] }]
  else setFab s f' :: emit pkg cls (mk n) ((setFab s f').apply s)

/-- The first waiting packet whose stream may send again leaves. -/
def podSendNext (s : State) : List Effect :=
  let f := s.pkg.fab
  match f.waiting.find? (fun w => !f.blocked w.1 w.2.1) with
  | none => []
  | some w =>
    let e := setFab s { f with waiting := f.waiting.erase w }
    e :: emit w.1 w.2.1 w.2.2 (e.apply s)

/-- Every waiting packet whose stream may send again leaves, in order. -/
def podFlush (s : State) : List Effect := chain (s.pkg.fab.waiting.map (fun _ => podSendNext)) s

/-- The next end-to-end number of a stream. -/
def Fabric.nextNum (f : Fabric) (pkg cls : Nat) : Nat := tblGet 0 f.sendNum (streamKey pkg cls)

end Sys2Proof.Machine
end

