-- ==== Sys2Proof/Machine/Memory.lean ====
section
/-! DEFINITION. Where an access to space G leads: translation (R241 to R247), frames of the domain stack in memory (R155), windows
(R148, R150), the directory (R243, R255) and the L1 copies (R252 to R254); and what a write performed in memory does (R103, R274). -/

namespace Sys2Proof.Machine

/-! ## Translation -/

/-- The slice hash of R241. -/
def sliceOf (va : Nat) : Nat :=
  [6, 12, 18, 24, 30, 36, 42].foldl (fun h k => h ^^^ (va / 2 ^ k % 64)) 0

/-- Where a core's accesses are translated: its die's slices 0–255 of the package, or its own MMU (R241). -/
def unitOf (core va : Nat) : Nat :=
  if isCompute core then dieOf core * 64 + sliceOf va else 256 + (core - Config.computeCores)

/-- The directory agent that a core's accesses go through (R255): a slice, or the chiplet's caches. -/
def agentOf (core va : Nat) : Nat := if isChiplet core then 256 else dieOf core * 64 + sliceOf va

/-- The directory agent of an engine or processor of a die. -/
def dieAgent (die va : Nat) : Nat := die * 64 + sliceOf va

/-- The directory die of a physical address (R243). -/
def dirDie (pa : Nat) : Nat :=
  if pa / 2 ^ 36 < 12 then pa / 2 ^ 36 / 3
  else if 2 ^ 44 ≤ pa ∧ pa < 2 ^ 44 + 8 * 2 ^ 39 then (pa - 2 ^ 44) / 2 ^ 39 / 2
  else 0

/-- The slice where a physical address's directory entry lives, its directory home (R255). -/
def dirHome (pa : Nat) : Nat := dirDie pa * 64 + sliceOf (pa % 2 ^ 48)

/-- The key of a line's directory entry: its home slice and the line. -/
def dirKey (pa : Nat) : Nat := dirHome pa * 2 ^ 46 + pa / 64

/-- The line of a directory entry's key. -/
def dirLine (key : Nat) : Nat := key % 2 ^ 46

/-- An agent holds a line shared, at least, before it serves a load (R255). -/
def shareLine (agent pa : Nat) (s : State) : List Effect :=
  let d := tblGet .none s.dir (dirKey pa)
  if d.owner = some agent ∨ d.sharers.contains agent then []
  else [.dir (dirKey pa) { d with sharers := d.sharers ++ [agent] }]

/-- The key of a cached translation: unit, ASID, 64 KiB page. -/
def tlbKey (unit asid page : Nat) : Nat := (unit * 4096 + asid) * 2 ^ 32 + page

/-- Whether a leaf's target may be mapped with a class (R243, R246, R349): DEVICE exactly inside the DEVICE region, any
other class in populated memory or in a populated pod address. -/
def leafTarget (s : State) (cls pa : Nat) : Bool :=
  if cls = 3 then inDevice pa else populated s.cfg pa || podPopulated s pa

/-- The cached form of a leaf for one 64 KiB page (R245). -/
def leafTlb (e pa leaf : Nat) : Tlb :=
  { pa := pa, user := decide (e / 4 % 2 = 1), r := decide (e / 8 % 2 = 1), w := decide (e / 16 % 2 = 1),
    x := decide (e / 32 % 2 = 1), cls := BitVec.ofNat 2 (e / 2 ^ 58), leaf := leaf, a := false, d := false }

/-- Poison keys: words of HBM and capacity memory, core scratchpads, chip scratchpads, lane slices. -/
def poisonMem : Nat := 0
def poisonP : Nat := 2 ^ 60
def poisonD : Nat := 2 ^ 61
def poisonL : Nat := 2 ^ 62

/-- Whether a read meets a poisoned word. -/
def poisoned (s : State) (base a n : Nat) : Bool := (wordsOf a n).any (fun w => tblGet false s.poison (base + w))

/-- Whether an address is served by a capacity port whose link is in error (R264). -/
def portDown (s : State) (pa : Nat) : Bool :=
  decide (2 ^ 44 ≤ pa ∧ pa < 2 ^ 44 + 8 * 2 ^ 39) && s.pkg.portErr.getLsbD ((pa - 2 ^ 44) / 2 ^ 39)

/-- The machine check that an access to memory meets (R264, R334): the subcode, LINK or POISON; a poisoned word only where it
reads. -/
def memCheck (s : State) (reads : Bool) (pa n : Nat) : Option Nat :=
  if portDown s pa then some 2 else if reads && poisoned s poisonMem pa n then some 3 else none

/-- A pod address of a member that has failed (R359). -/
def podFailed (s : State) (pa : Nat) : Bool := inPod s pa && s.pkg.fab.failed.getLsbD (pa / 2 ^ 44 % 128)

/-- What a walk comes to: a leaf, a translation failure, or a machine check with its subcode and physical address. -/
inductive Walk where
  | leaf (t : Tlb)
  | fail
  | check (sub pa : Nat)
  deriving DecidableEq, Repr

/-- One level of a walk and the levels below it (R244 to R246): shift of the index, entries, whether a leaf is allowed. -/
def walkFrom (s : State) (va : Nat) : List (Nat × Nat × Bool) → Nat → Walk
  | [], _ => .fail
  | (shift, count, leafOk) :: below, base =>
    let addr := base + 8 * (va / 2 ^ shift % count)
    let e := memRead s.mem addr 8
    let pa := e / 256 % 2 ^ 44 * 256
    let cls := e / 2 ^ 58 % 4
    if !populated s.cfg addr then .fail
    else match memCheck s true addr 8 with
    | some u => .check u addr
    | none =>
    if e % 2 = 0 ∨ e / 2 ^ 60 ≠ 0 ∨ e / 2 ^ 52 % 64 ≠ 0 then .fail
    else if e / 2 % 2 = 1 then
      let page := pa + va % 2 ^ shift / 65536 * 65536
      if !leafOk ∨ pa % 2 ^ shift ≠ 0 ∨ (cls = 2 ∧ shift ≠ 16) then .fail
      else if podFailed s page then .check 2 page
      else if !leafTarget s cls page then .fail
      else .leaf (leafTlb e page addr)
    else
      match below with
      | [] => .fail
      | (sh, _, _) :: _ =>
        if e % 256 ≠ 1 ∨ cls ≠ 0 ∨ pa % (if sh = 16 then 256 else 4096) ≠ 0 ∨ !populated s.cfg pa then .fail
        else walkFrom s va below pa

/-- The addresses of the entries that a walk reads (R244), each as a load of a slice. -/
def walkReads (s : State) (va : Nat) : List (Nat × Nat × Bool) → Nat → List Nat
  | [], _ => []
  | (shift, count, _) :: below, base =>
    let addr := base + 8 * (va / 2 ^ shift % count)
    let e := memRead s.mem addr 8
    addr :: (if e % 4 = 1 then walkReads s va below (e / 256 % 2 ^ 44 * 256) else [])

/-- The four levels of a domain's page table (R244). -/
def levels : List (Nat × Nat × Bool) := [(39, 512, false), (30, 512, true), (21, 512, true), (16, 32, true)]

/-- A 48-bit virtual address: bits [63:47] all equal (R242). -/
def canonical (va : Word) : Bool := decide (va.toNat / 2 ^ 47 = 0 ∨ va.toNat / 2 ^ 47 = 2 ^ 17 - 1)

/-- Whether an address lies in the reserved window range (R150). -/
def inWindow (va : Word) : Bool := decide (Config.winva ≤ va.toNat ∧ va.toNat < Config.winEnd)

/-- The rights an access needs (R246): load or TAILQ; store; SEAL; atomic, SC or APPND; LR; fetch. -/
inductive Need where
  | r
  | w
  | seal
  | rw
  | lr
  | x
  deriving DecidableEq, Repr

/-- Whether a leaf grants what is needed. -/
def Need.ok (n : Need) (t : Tlb) : Bool :=
  match n with
  | .r => t.r
  | .w => t.w
  | .seal => t.w
  | .rw => t.r && t.w
  | .lr => t.r && t.w
  | .x => t.x

/-- Whether the need is of an access that writes, or that the rules treat as a write (R94, R150). -/
def Need.writes : Need → Bool
  | .r => false
  | .x => false
  | _ => true

/-- Whether an accepted access of this need is a store, an atomic or an APPND, which set D (R250). -/
def Need.dirties : Need → Bool
  | .w => true
  | .rw => true
  | _ => false

/-- A successful translation: physical address, class, whether it names another package, and the record it leaves. -/
structure Xl where
  pa : Nat
  cls : MClass
  pod : Bool
  fx : List Effect

/-- The class of a page by leaf class and frame state; none where the translation fails (R259). -/
def classOf (cls : Nat) (f : FrameState) : Option MClass :=
  match cls, f with
  | 0, .ordinary => some .normal
  | 1, .ordinary => some .sync
  | 2, .append => some .append
  | 2, .sealed => some .sealed
  | _, _ => none

/-- `shareLine` for a load of a class: a line of a SEALED frame has no directory entry (R261). -/
def shareFor (cls : MClass) (agent pa : Nat) (s : State) : List Effect := if cls = .sealed then [] else shareLine agent pa s

/-- The class of a remote page by its leaf; its frame is checked at its home (R351). -/
def podClass (cls : Nat) : MClass := if cls = 1 then .sync else if cls = 2 then .append else .normal

/-- The leaf class that a class comes from, as R245 encodes it. -/
def MClass.leaf : MClass → Nat
  | .normal => 0
  | .sync => 1
  | .append => 2
  | .sealed => 2
  | .device => 3

/-- The translation of a page: a cached one or a walk (R247), with the directory records of the entries read. -/
def lookup (s : State) (core asid : Nat) (v : Nat) : Walk × List Effect :=
  match tblGet none s.tlb (tlbKey (unitOf core v) asid (v / 65536)) with
  | some t => (.leaf t, [])
  | none =>
    (walkFrom s v levels (s.dom asid).root,
     chain ((walkReads s v levels (s.dom asid).root).map (shareLine (agentOf core v))) s)

/-- Translate a virtual address (R241 to R247, R259): a cached translation or a walk, then permission, U or PM, and the
frame checks. None is a failure. The reserved window range maps nothing. -/
def translate (s : State) (core asid : Nat) (pm : Bool) (va : Word) (need : Need) : Option Xl :=
  if !canonical va || inWindow va then none
  else
    let v := va.toNat % 2 ^ 48
    match lookup s core asid v with
    | (.leaf t, es) =>
      let pa := t.pa + v % 65536
      let key := tlbKey (unitOf core v) asid (v / 65536)
      let fx := es ++ [Effect.tlb key (some { t with a := true, d := t.d || need.dirties })]
      if !need.ok t || !(t.user || pm) then none
      else if t.cls = 3 then some ⟨pa, .device, false, fx⟩
      else if inPod s pa then some ⟨pa, podClass t.cls.toNat, true, fx⟩
      else
        match frameIndex s.cfg pa with
        | none => none
        | some i =>
          let f := s.frame i
          if f.owner ≠ (s.dom asid).owner ∧ !pm then none
          else (classOf t.cls.toNat f.st).map (fun c => ⟨pa, c, false, fx⟩)
    | _ => none

/-- Why an access does not perform: a translation or permission failure, a precise trap, a machine check with its subcode and
physical address, a wait, an access that leaves for its home and whose instruction waits for the answer (R95), or remote bytes of
which no copy has arrived: class, address and width of each. -/
inductive Fail where
  | page
  | trap (cause sub : Nat)
  | machine (sub pa : Nat)
  | wait (w : Wait)
  | send (es : List Effect)
  | fetch (asid : Nat) (pm : Bool) (words : List (Nat × Nat × Nat))
  deriving DecidableEq, Repr

/-- Why an address does not translate: a machine check that its walk met (R334, R359), or else a PAGE failure. -/
def pageFail (s : State) (core asid : Nat) (va : Word) : Fail :=
  if !canonical va || inWindow va then .page
  else match lookup s core asid (va.toNat % 2 ^ 48) with
    | (.check u pa, _) => .machine u pa
    | _ => .page

/-! ## L1 copies (R252 to R254) -/

/-- The key of an L1 line: core, ASID, line address. -/
def l1Key (core asid : Nat) (va : Word) : Nat := (core * 4096 + asid) * 2 ^ 48 + va.toNat % 2 ^ 48 / 64 * 64

/-- The core and the slice, or the chiplet's caches, of an L1 line's key. -/
def l1Core (key : Nat) : Nat := key / 2 ^ 60
def l1Agent (key : Nat) : Nat := agentOf (l1Core key) (key % 2 ^ 48)

/-- The words of a line that bytes [off, off + n) touch, as a mask. -/
def wordMask (off n : Nat) : BitVec 16 :=
  BitVec.ofNat 16 (2 ^ ((off + n + 3) / 4) - 2 ^ (off / 4))

/-- The words of the doublewords that a mask touches. -/
def pairMask (m : BitVec 16) : BitVec 16 :=
  m ||| ((m &&& 0x5555#16) <<< 1) ||| ((m &&& 0xAAAA#16) >>> 1)

/-- The byte at a physical address as a load of that class sees it in memory: at or above the tail of an APPEND or SEALED
page it is zero (R260). -/
def byteSeen (s : State) (cls : MClass) (pa : Nat) : Nat :=
  match cls with
  | .append | .sealed =>
    match frameIndex s.cfg pa with
    | some i => if (s.frame i).tail ≤ pa % 65536 then 0 else (memGet s.mem pa).toNat
    | none => 0
  | _ => (memGet s.mem pa).toNat

/-- `n` bytes as a load of that class sees them in memory. -/
def bytesSeen (s : State) (cls : MClass) (pa : Nat) : Nat → Nat
  | 0 => 0
  | n + 1 => byteSeen s cls pa + 256 * bytesSeen s cls (pa + 1) n

/-- `n` bytes of a line: an owned word from memory, an unowned one from the copy. -/
def lineBytes (s : State) (l : L1Line) (off : Nat) : Nat → Nat
  | 0 => 0
  | n + 1 =>
    (if l.owned.getLsbD (off / 4) then byteSeen s l.cls (l.pa + off) else l.data.toNat / 2 ^ (8 * off) % 256)
      + 256 * lineBytes s l (off + 1) n

/-- A line with its owned words only. -/
def L1Line.kept (l : L1Line) : L1Line := if l.owned = 0 then .empty else { l with valid := l.owned }

/-- A line without some of its words. -/
def L1Line.without (l : L1Line) (m : BitVec 16) : L1Line :=
  let l' := { l with valid := l.valid &&& ~~~m, owned := l.owned &&& ~~~m }
  if l'.valid = 0 then .empty else l'

/-- What a core has read of a line at its home, or through another virtual address, its other copies of the line must not hide
(R269): their unowned words leave. SYNC copies are current and SEALED ones fixed. -/
def l1Forget (core key base : Nat) (s : State) : List Effect :=
  (s.l1.filter (fun p => decide (l1Core p.1 = core ∧ p.1 ≠ key ∧ p.2.pa = base) && (p.2.cls == .normal || p.2.cls == .append))).map
    (fun p => .l1 p.1 p.2.kept)

/-- The copies of a core that hold words of bytes [pa, pa + n) lose the unowned ones (R269). -/
def l1Read (core pa n : Nat) (s : State) : List Effect :=
  let m := pairMask (wordMask (pa % 64) n)
  (s.l1.filter (fun p => decide (l1Core p.1 = core ∧ p.2.pa = pa / 64 * 64) && (p.2.cls == .normal || p.2.cls == .append))).map
    (fun p => .l1 p.1 (p.2.without (m &&& ~~~p.2.owned)))

/-- The age of the sharer record of a SYNC line at a slice, where there is one (R254). -/
def sharerRecord (s : State) (agent base : Nat) : Option Nat :=
  (s.l1.find? (fun p => decide (p.2.cls = .sync ∧ p.2.pa = base ∧ l1Agent p.1 = agent))).map (fun p => p.2.stamp)

/-- The lines of which a slice keeps a sharer record, with the record's age. -/
def sharerRecords (s : State) (agent : Nat) : List (Nat × Nat) :=
  ((s.l1.filter (fun p => decide (p.2.cls = .sync ∧ l1Agent p.1 = agent))).map (fun p => (p.2.pa, p.2.stamp))).dedup

/-- The oldest of some stamped things. -/
def oldest (xs : List (Nat × Nat)) : Option Nat :=
  (xs.foldl (fun (b : Option (Nat × Nat)) x => match b with
    | none => some x
    | some y => if x.2 < y.2 then some x else some y) none).map Prod.fst

/-- A slice whose 4,096 sharer records are all in use drops its oldest and invalidates that line's copies (R254). -/
def dropSharer (agent base : Nat) (s : State) : List Effect :=
  if s.l1.length < 4096 ∨ (sharerRecord s agent base).isSome ∨ (sharerRecords s agent).length < 4096 then []
  else match oldest (sharerRecords s agent) with
    | none => []
    | some pa => (s.l1.filter (fun p => decide (p.2.cls = .sync ∧ p.2.pa = pa ∧ l1Agent p.1 = agent))).map (fun p => .l1 p.1 .empty)

/-- A load through the L1 (R253): a word found there, owned or valid, is returned; a miss fetches the line. SYNC lines are
kept current by write update, so they read as memory; their sharers are recorded (R254). A line of a SEALED frame has no directory
entry (R261). -/
def l1Load (s : State) (core asid : Nat) (va : Word) (x : Xl) (n : Nat) : Nat × List Effect :=
  let key := l1Key core asid va
  let off := x.pa % 64
  let base := x.pa - off
  let l := tblGet .empty s.l1 key
  let m := wordMask off n
  let agent := agentOf core (va.toNat % 2 ^ 48)
  if l.pa = base ∧ l.valid &&& m = m ∧ l.cls = x.cls then
    -- A SYNC copy is current, so the core's other copies of the line must not hide what is read (R269, R276).
    if x.cls = .sync then (bytesSeen s x.cls x.pa n, l1Forget core key base s) else (lineBytes s l off n, [])
  else
    let stamp := (sharerRecord s agent base).getD s.nextId
    (bytesSeen s x.cls x.pa n,
      chain
        [shareFor x.cls agent x.pa,
         fun s => if x.cls = .sync then .fresh :: dropSharer agent base s else [],
         l1Forget core key base,
         fun s => [.l1 key { pa := base, cls := x.cls, valid := BitVec.allOnes 16, owned := if l.pa = base then l.owned else 0,
                             data := BitVec.ofNat 512 (bytesSeen s x.cls base 64), regAt := if l.pa = base then l.regAt else [],
                             stamp := if x.cls = .sync then stamp else 0 }]] s)

/-- The data of a line with the words of a mask as memory holds them. -/
def refreshed (s : State) (l : L1Line) (m : BitVec 16) : BitVec 512 :=
  BitVec.ofNat 512 (((List.range 16).map (fun i =>
    (if m.getLsbD i then bytesSeen s l.cls (l.pa + 4 * i) 4 else l.data.toNat / 2 ^ (32 * i) % 2 ^ 32) * 2 ^ (32 * i))).sum)

/-- A line that gives up its ownership of the words of a mask: it keeps them as unowned copies of what memory holds (R252). -/
def L1Line.recalled (s : State) (l : L1Line) (m : BitVec 16) : L1Line :=
  { l with owned := l.owned &&& ~~~m, data := refreshed s l (l.owned &&& m) }

/-- The words registered at a slice (R252): the key of their line, their place in it, and the order of their registration. -/
def registered (s : State) (agent : Nat) : List ((Nat × Nat) × Nat) :=
  (s.l1.filter (fun p => decide (p.2.owned ≠ 0 ∧ l1Agent p.1 = agent))).flatMap (fun p =>
    ((List.range 16).filter (fun i => p.2.owned.getLsbD i)).map (fun i => ((p.1, i), tblGet 0 p.2.regAt i)))

/-- The oldest registration of a slice. -/
def oldestWord (xs : List ((Nat × Nat) × Nat)) : Option (Nat × Nat) :=
  (xs.foldl (fun (b : Option ((Nat × Nat) × Nat)) x => match b with
    | none => some x
    | some y => if x.2 < y.2 then some x else some y) none).map Prod.fst

/-- A slice that tracks 65,536 registered words recalls its oldest registration before it grants another (R252). -/
def recallOldest (agent : Nat) (s : State) : List Effect :=
  if s.l1.length < 4096 ∨ (registered s agent).length < 65536 then []
  else match oldestWord (registered s agent) with
    | none => []
    | some (k, i) => let l := tblGet .empty s.l1 k; [.l1 k (l.recalled s (1#16 <<< i))]

/-- A core's line takes the registration of a word that it does not own, the slice's oldest registration recalled first where it tracks as
many as it can (R252): the word is owned and reads as memory does. -/
def registerWord (k base : Nat) (cls : MClass) (i : Nat) (s : State) : List Effect :=
  let line := fun (s : State) =>
    let l := tblGet .empty s.l1 k
    if l.pa = base then l else { L1Line.empty with pa := base, cls := cls }
  if (line s).owned.getLsbD i then []
  else chain
    [recallOldest (l1Agent k),
     fun s =>
       let l := line s
       let b := 1#16 <<< i
       [.l1 k { l with valid := l.valid ||| b, owned := l.owned ||| b, regAt := tblSet 0 l.regAt i s.nextId }, .fresh]] s

/-- A core's line takes the registration of some words (R252), and once more of any that has been recalled for another of them. An unowned
word of a doubleword that it takes half of leaves, so that no load mixes the two halves of one access (R267). -/
def registerWords (k base : Nat) (cls : MClass) (m : BitVec 16) (s : State) : List Effect :=
  let l := tblGet .empty s.l1 k
  let new := m &&& ~~~(if l.pa = base then l.owned else 0)
  let words := (List.range 16).filter (fun i => m.getLsbD i)
  chain
    ((words ++ words).map (registerWord k base cls)
      ++ [fun s =>
           let l := tblGet .empty s.l1 k
           let part := pairMask new &&& ~~~m &&& ~~~l.owned
           if l.valid &&& part = 0 then [] else [.l1 k (l.without part)]]) s

/-- What a write about to perform on bytes [pa, pa + n) does to the L1s: copies of other cores lose ownership and keep the old
value as unowned (R252, R274); the writer's core `core` keeps no other copy of the words (R269); where the writer takes ownership
its line is `key`, and otherwise the write performs at home (R253, R256). -/
def l1Write (s : State) (core : Option Nat) (key : Option Nat) (cls : MClass) (pa n : Nat) : List Effect :=
  let base := pa / 64 * 64
  let m := wordMask (pa % 64) n
  let touched := s.l1.filter (fun p => decide (p.2.pa = base ∧ some p.1 ≠ key))
  chain
    [fun _ => touched.map (fun p => Effect.l1 p.1
       (if some (l1Core p.1) = core ∧ p.2.cls ≠ .sync then p.2.without (pairMask m &&& (m ||| ~~~p.2.owned)) else p.2.recalled s m)),
     fun s => match key with
       | none => []
       | some k => registerWords k base cls m s] s

/-- An acquire of a core (R98, R253): every valid unowned word of a NORMAL or APPEND page leaves its L1. -/
def acquire (core : Nat) (s : State) : List Effect :=
  (s.l1.filter (fun p => decide (l1Core p.1 = core) && (p.2.cls == .normal || p.2.cls == .append))).map (fun p =>
    .l1 p.1 p.2.kept)

/-- The number of the frame of an address, of this package or another, as a region slot records it (R314). -/
def frameKey (s : State) (pa : Nat) : Option Nat :=
  if inPod s pa then some (2 ^ 40 + (pa - Config.podBase) / 65536) else frameIndex s.cfg pa

/-! ## Writes to physical memory -/

/-- The agent that a strand of another package is at this package, its home (R103, R350). -/
def podAgent (src six : Nat) : Nat := 2 ^ 20 + src * 2 ^ 14 + six

/-- Reservations of strands of other packages that are cleared. -/
def dropPodRes (gone : Nat × Nat × Nat → Bool) (s : State) : List Effect :=
  let f := s.pkg.fab
  if f.podRes.any gone then [.pkg { s.pkg with fab := { f with podRes := f.podRes.filter (fun r => !gone r) } }] else []

/-- The reservations that a write clears (R103): those of other agents on its granules, and the writer's own where the directory
recalls the granule from the slice that holds it (R255, R256). -/
def clearRes (agent : Option Nat) (dirAgent pa n : Nat) (s : State) : List Effect :=
  s.strands.filterMap (fun p =>
    let y := s.strand p.1
    match y.res with
    | some (g, _) =>
      if pa / 64 ≤ g ∧ g ≤ (pa + n - 1) / 64 ∧ (agent ≠ some p.1 ∨ y.resAt ≠ dirAgent) then
        some (.strand p.1 { y with res := none }) else none
    | none => none)
    ++ dropPodRes (fun r => decide (pa / 64 ≤ r.2.1 ∧ r.2.1 ≤ (pa + n - 1) / 64 ∧ agent ≠ some r.1)) s

/-- Reservations on some lines cleared, as by a directory recall (R103). -/
def recallRes (inRange : Nat → Bool) (s : State) : List Effect :=
  s.strands.filterMap (fun p =>
    let y := s.strand p.1
    match y.res with
    | some (g, _) => if inRange g then some (.strand p.1 { y with res := none }) else none
    | none => none) ++ dropPodRes (fun r => inRange r.2.1) s

/-- An agent takes a line in M or E before an atomic, whether or not it then writes (R255, R256): the directory recalls it from every
other agent, which clears the reservations held there (R103). -/
def takeLine (agent pa : Nat) (s : State) : List Effect :=
  s.strands.filterMap (fun p =>
    let y := s.strand p.1
    match y.res with
    | some (g, _) => if g = pa / 64 ∧ y.resAt ≠ agent then some (.strand p.1 { y with res := none }) else none
    | none => none)
    ++ [.dir (dirKey pa) { tblGet .none s.dir (dirKey pa) with owner := some agent, sharers := [] }]

/-- The poison marks that a write clears: those of words it writes whole (R166, R334). -/
def unpoison (s : State) (base a n : Nat) : List Effect :=
  ((List.range (n / 4 + 1)).map (fun i => (a + 3) / 4 + i)).filterMap (fun w =>
    if 4 * w + 4 ≤ a + n ∧ tblGet false s.poison (base + w) then some (.poison (base + w) false) else none)

/-- A write performs in HBM or capacity memory (R274): the bytes, the poison it clears, the reservations, the region slots
recorded on its frame (R321), the directory (R255) and the tasks whose read sets it meets (R280). -/
def memStore (agent : Option Nat) (dirAgent pa n v : Nat) (s : State) : List Effect :=
  chain
    [fun s => [Effect.mem pa n v] ++ unpoison s poisonMem pa n,
     clearRes agent dirAgent pa n,
     fun s => match frameIndex s.cfg pa with
       | some i => invalidateSlots (fun t => t.frames.contains i) s
       | none => [],
     fun _ => [.dir (dirKey pa) { owner := some dirAgent, dirty := true, sharers := [] }],
     fun s => abortTasks (readersOf s (wordsOf pa n)) s] s

/-- A write performed at its home on behalf of a core or of none: no core registers it (R253, R256). -/
def homeStore (agent core : Option Nat) (dirAgent pa n v : Nat) (s : State) : List Effect :=
  chain [fun s => l1Write s core none .normal pa n, memStore agent dirAgent pa n v] s

/-! ## Bytes of other packages (R350, R351) -/

/-- What is kept of remote bytes for the owner, privilege and class of an access (R350, R351, R362). -/
def keptCopy (s : State) (asid : Nat) (pm : Bool) (x : Xl) (n : Nat) : Option Copy :=
  s.pkg.fab.copies.find? (fun c =>
    decide (c.pa = x.pa ∧ c.n = n ∧ c.owner = (s.dom asid).owner.toNat ∧ c.priv = pm ∧ c.cls = x.cls.leaf))

/-- The physical address here of a remote access. -/
def Remote.pa (r : Remote) : Nat := Config.podBase + r.pkg * 2 ^ 44 + r.addr

/-- Whether an access is a word of an engine or message unit. -/
def Remote.engine (r : Remote) : Bool := r.req.any (fun h => h.kind != 0)

/-- Send an access to its home package: the record of it here, and its packet. -/
def sendRemote (r : Remote) (s : State) : List Effect :=
  let r' : Remote := { r with seq := s.pkg.fab.nextNum r.pkg 0 }
  chain
    [fun s => [setFab s { s.pkg.fab with remotes := s.pkg.fab.remotes ++ [r'] }],
     podSend r.pkg 0 (fun n => .remote r.pkg n r.op r.addr r.owner r.priv r.cls r.engine)] s

/-- Fetch a copy of remote bytes for an access that then waits (R350). -/
def fetchCopy (six asid : Nat) (pm : Bool) (cls pa n : Nat) (s : State) : List Effect :=
  let op := MemOp.load 0 n false
  let owner := (s.dom asid).owner.toNat
  if s.pkg.fab.remotes.any (fun r =>
      r.keep && !r.stale && r.pa == pa && decide (r.op = op ∧ r.owner = owner ∧ r.priv = pm ∧ r.cls = cls)) then []
  else
    .fresh :: sendRemote ⟨s.nextId, six, pa / 2 ^ 44 % 128, pa % 2 ^ 44, op, 0, none, owner, pm, cls, true, none, false⟩
      (Effect.fresh.apply s)

/-- Fetch several: class, address and width of each. -/
def fetchCopies (six asid : Nat) (pm : Bool) (xs : List (Nat × Nat × Nat)) (s : State) : List Effect :=
  chain (xs.map (fun w => fetchCopy six asid pm w.1 w.2.1 w.2.2)) s

/-- The doublewords of a line from an address on of which nothing is kept: a load of a doubleword fetches them together (R350). -/
def lineLacking (s : State) (asid : Nat) (pm : Bool) (x : Xl) (n : Nat) : List (Nat × Nat × Nat) :=
  if n ≠ 8 then [(x.cls.leaf, x.pa, n)]
  else ((List.range ((64 - x.pa % 64) / 8)).filter (fun i => (keptCopy s asid pm { x with pa := x.pa + 8 * i } 8).isNone)).map
    (fun i => (x.cls.leaf, x.pa + 8 * i, 8))

/-- What a load of remote bytes by other than a scalar load instruction sees: the kept copy. -/
def podLoad (s : State) (asid : Nat) (pm : Bool) (x : Xl) (n : Nat) : Except Fail Nat :=
  if !s.pkg.fab.live.getLsbD (x.pa / 2 ^ 44 % 128) then .error (.machine 2 x.pa)
  else match keptCopy s asid pm x n with
    | some c => if c.res = 0 then .ok c.val.toNat else .error (if c.res = 17 then .machine 3 x.pa else .page)
    | none => .error (.fetch asid pm (lineLacking s asid pm x n))

/-- Copies and fetches that a write to a pod address overtakes (R350): those of its line, and of the whole page where it moves the
tail or seals. -/
def overtaken (op : MemOp) (pa other : Nat) : Bool :=
  match op with
  | .appnd .. => decide (other / 65536 = pa / 65536)
  | .seal _ => decide (other / 65536 = pa / 65536)
  | _ => op.writes && decide (other / 64 = pa / 64)

/-- The forwarding slice drops its copies of what a write changes; fetches in flight are not kept (R350). -/
def forwardWrite (op : MemOp) (pa : Nat) (s : State) : List Effect :=
  let f := s.pkg.fab
  [setFab s { f with
    copies := f.copies.filter (fun c => !overtaken op pa c.pa),
    remotes := f.remotes.map (fun r => if overtaken op pa r.pa then { r with stale := true } else r) }]

/-! ## System memory (R155, R187) -/

/-- The pieces of [va, va + n), each within one aligned doubleword: address, length, and the piece of a value. -/
def sysPieces : Nat → Word → Nat → Nat → List (Word × Nat × Nat)
  | 0, _, _, _ => []
  | _, _, 0, _ => []
  | k + 1, va, n, v =>
    let m := min n (8 - va.toNat % 8)
    (va, m, v % 2 ^ (8 * m)) :: sysPieces k (va + BitVec.ofNat 64 m) (n - m) (v / 2 ^ (8 * m))

/-- One piece of system memory read (ASID 0, privileged), as any accepted load (R155, R250, R255): its value and its effects, or why it
is not read: a machine check, STACK where it does not translate (R155, R334), or bytes of another package to be fetched. -/
def sysPiece (s : State) (core : Nat) (va : Word) (n : Nat) : Except Fail (Nat × List Effect) :=
  match translate s core 0 true va .r with
  | some x =>
    if x.cls = .device then .error (.machine 4 0)
    else if x.pod then
      match podLoad s 0 true x n with
      | .ok v => .ok (v, x.fx)
      | .error .page => .error (.machine 4 0)
      | .error e => .error e
    else match memCheck s true x.pa n with
      | some u => .error (.machine u x.pa)
      | none => .ok (bytesSeen s x.cls x.pa n, chain [fun _ => x.fx, shareFor x.cls (agentOf core (va.toNat % 2 ^ 48)) x.pa] s)
  | none => match pageFail s core 0 va with
    | .machine u pa => .error (.machine u pa)
    | _ => .error (.machine 4 0)

/-- A read of system memory and one after it: both, or why not. Bytes of other packages that the two lack are fetched together. -/
def andRead (s : State) (x : Except Fail (α × List Effect)) (next : State → Except Fail (β × List Effect)) (f : α → β → γ) :
    Except Fail (γ × List Effect) :=
  match x with
  | .ok (v, es) => (next (applyAll es s)).map (fun w => (f v w.1, es ++ w.2))
  | .error (.fetch i pm xs) =>
    match next s with
    | .error (.fetch _ _ ys) => .error (.fetch i pm (xs ++ ys))
    | .error e => .error e
    | .ok _ => .error (.fetch i pm xs)
  | .error e => .error e

/-- Pieces read and put together. -/
def sysReads (core : Nat) : List (Word × Nat × Nat) → State → Except Fail (Nat × List Effect)
  | [], _ => .ok (0, [])
  | (a, n, _) :: r, s => andRead s (sysPiece s core a n) (sysReads core r) (fun v w => v + 2 ^ (8 * n) * w)

/-- Read `n` bytes of system memory. -/
def sysRead (s : State) (core : Nat) (va : Word) (n : Nat) : Except Fail (Nat × List Effect) := sysReads core (sysPieces n va n 0) s

/-- The effects of writing one piece of system memory for a strand, performed at its home (R321: a write as any other; R350: sent to the
home package, which performs it in the order of its stream), or the machine check that it meets. -/
def sysWrite1 (six : Nat) (va : Word) (n v : Nat) (s : State) : Except Fail (List Effect) :=
  let core := coreOf six
  match translate s core 0 true va .w with
  | some x =>
    if x.pod then
      let p := x.pa / 2 ^ 44 % 128
      let op := MemOp.store n (BitVec.ofNat 64 v)
      if !s.pkg.fab.live.getLsbD p then .error (.machine 2 x.pa)
      else .ok (chain
        [fun _ => x.fx, forwardWrite op x.pa,
         fun s => sendRemote ⟨s.nextId, six, p, x.pa % 2 ^ 44, op, 0, none, (s.dom 0).owner.toNat, true, x.cls.leaf, false, none, false⟩ s,
         fun _ => [.fresh]] s)
    else if x.cls ≠ .normal ∧ x.cls ≠ .sync then .error (.machine 4 0)
    else match memCheck s false x.pa n with
      | some u => .error (.machine u x.pa)
      | none => .ok (x.fx ++ homeStore none none (agentOf core (va.toNat % 2 ^ 48)) x.pa n v s)
  | none => match pageFail s core 0 va with
    | .machine u pa => .error (.machine u pa)
    | _ => .error (.machine 4 0)

/-- The effects of a list of writes, each after those before it, or why one does not perform. -/
def writesInOrder : List (State → Except Fail (List Effect)) → State → Except Fail (List Effect)
  | [], _ => .ok []
  | w :: r, s =>
    match w s with
    | .error e => .error e
    | .ok es => (writesInOrder r (applyAll es s)).map (fun fs => es ++ fs)

/-- The effects of writing `n` bytes of system memory for a strand. -/
def sysWrite (six : Nat) (va : Word) (n v : Nat) : State → Except Fail (List Effect) :=
  writesInOrder ((sysPieces n va n v).map (fun p => sysWrite1 six p.1 p.2.1 p.2.2))

/-! ## Frames of the domain stack in memory (R155) -/

/-- A frame record as a number of 256 bytes. -/
def Frame.encode (f : Frame) : Nat :=
  let w0 := f.callerGen * 2 ^ 48 + f.calleeGen * 2 ^ 32 + f.callee * 2 ^ 20 + f.caller * 2 ^ 8 + f.vpol.toNat * 64
    + f.kind.toNat * 16 + bit f.pm 3
  let w5 := f.rmode.toNat * 4096 + f.fenable.toNat * 64 + f.flags.toNat
  ([w0, f.ret.toNat, f.window.toNat, f.cleanup.toNat, f.budget, w5, f.srseed.toNat, f.handle.toNat]
    ++ f.regs.map BitVec.toNat).foldr (fun w acc => w + 2 ^ 64 * acc) 0

/-- The frame of a 256-byte record. -/
def Frame.decode (n : Nat) : Frame :=
  let w := fun i => n / 2 ^ (64 * i) % 2 ^ 64
  { callerGen := w 0 / 2 ^ 48, calleeGen := w 0 / 2 ^ 32 % 65536, callee := w 0 / 2 ^ 20 % 4096,
    caller := w 0 / 2 ^ 8 % 4096, vpol := BitVec.ofNat 2 (w 0 / 64), kind := BitVec.ofNat 2 (w 0 / 16),
    pm := decide (w 0 / 8 % 2 = 1), ret := BitVec.ofNat 64 (w 1), window := BitVec.ofNat 64 (w 2),
    cleanup := BitVec.ofNat 64 (w 3), budget := w 4 % 2 ^ 21, rmode := BitVec.ofNat 3 (w 5 / 4096),
    flags := BitVec.ofNat 6 (w 5), fenable := BitVec.ofNat 6 (w 5 / 64), srseed := BitVec.ofNat 64 (w 6),
    handle := BitVec.ofNat 64 (w 7), regs := (List.range 23).map (fun i => BitVec.ofNat 64 (w (8 + i))) }

/-- The address of the frame record at a depth (R155): segments are system memory (DEDUCED, log entry 27). -/
def frameAddr (x : Strand) (depth : Nat) : Word := x.seg + BitVec.ofNat 64 (256 * (depth - 1))

/-- The frame at a depth, 1 the outermost: held in the slot, or refilled from the segment (R155) with the effects of reading it; or why it
cannot be read. -/
def frameRead (s : State) (core : Nat) (x : Strand) (depth : Nat) : Except Fail (Frame × List Effect) :=
  match x.frames[x.sys.dsdepth - depth]? with
  | some f => .ok (f, [])
  | none => (sysRead s core (frameAddr x depth) 256).map (fun r => (Frame.decode r.1, r.2))

/-- The frame at a depth, where there is one and it can be read. -/
def frameAt (s : State) (core : Nat) (x : Strand) (depth : Nat) : Option Frame :=
  if x.sys.dsdepth < depth ∨ depth = 0 then none
  else match frameRead s core x depth with
    | .ok f => some f.1
    | .error _ => none

/-- Frames at depths `n` down to 1, innermost first, with the effects of reading them. -/
def framesFrom (s : State) (core : Nat) (x : Strand) : Nat → Except Fail (List Frame × List Effect)
  | 0 => .ok ([], [])
  | n + 1 => andRead s (frameRead s core x (n + 1)) (fun s => framesFrom s core x n) List.cons

/-- Every frame, innermost first, or why one cannot be read. -/
def allFrames (s : State) (core : Nat) (x : Strand) : Except Fail (List Frame × List Effect) := framesFrom s core x x.sys.dsdepth

/-! ## Windows (R148, R150) -/

/-- Where an address leads through the windows of a list of frames, innermost first (R150): ASID and address. -/
def throughWindows : List Frame → Nat → Word → Bool → Except Fail (Nat × Word)
  | [], asid, va, _ => if inWindow va then .error (.trap 6 3) else .ok (asid, va)
  | f :: fs, asid, va, write =>
    if !inWindow va then .ok (asid, va)
    else if f.callee ≠ asid then .error (.trap 6 3)
    else
      let off := va.toNat - Config.winva
      let npg := f.window.toNat / 2 ^ 55
      if npg * 65536 ≤ off ∨ (write ∧ !f.window.getLsbD 48) then .error (.trap 6 3)
      else throughWindows fs f.caller (BitVec.ofNat 64 (f.window.toNat / 2 ^ 16 % 2 ^ 32 * 65536 + off)) write

/-- Where an access that a strand made in a domain at a frame depth leads (R150): calls made since change nothing, and a frame that
has been popped maps no window. A frame that cannot be read is a machine check (R155). -/
def resolveAt (s : State) (six asid depth : Nat) (va : Word) (write : Bool) : Except Fail (Nat × Word) :=
  let x := s.strand six
  if inWindow va then
    if x.sys.dsdepth < depth then .error (.trap 6 3)
    else match framesFrom s (coreOf six) x depth with
      | .error e => .error e
      | .ok fs => throughWindows fs.1 asid va write
  else .ok (asid, va)

/-- The effects of reading the frames whose windows an access of a strand goes through (R150, R155). -/
def refills (s : State) (six depth : Nat) (va : Word) : List Effect :=
  if inWindow va then
    match framesFrom s (coreOf six) (s.strand six) depth with
    | .ok fs => fs.2
    | .error _ => []
  else []

/-- What becomes of an access once the frames of the windows that it goes through have been read: the effects of that come first. -/
def throughRefills (s : State) (six depth : Nat) (va : Word) (add : List Effect → α → α) (act : State → Except Fail α) : Except Fail α :=
  if inWindow va then
    let es := refills s six depth va
    match act (applyAll es s) with
    | .ok r => .ok (add es r)
    | .error (.send fs) => .error (.send (es ++ fs))
    | .error e => .error e
  else act s

/-- An access to no window reads no frame. -/
theorem throughRefills_direct (s : State) (six depth : Nat) (va : Word) (add : List Effect → α → α) (act : State → Except Fail α)
    (h : inWindow va = false) : throughRefills s six depth va add act = act s := by simp [throughRefills, h]

/-- Where an access of a strand in a domain leads now (R150). -/
def resolveVa (s : State) (six asid : Nat) (va : Word) (write : Bool) : Except Fail (Nat × Word) :=
  resolveAt s six asid (s.strand six).sys.dsdepth va write

end Sys2Proof.Machine
end

