-- ==== Sys2Proof/Machine/Access.lean ====
section
/-! DEFINITION. Accesses to memory: the class rules (R96, R259), the effect of loads, stores, atomics and appends (R93, R101 to
R106), held requests (R95, R248), accesses of the DEVICE region (R336, R340) and of other packages (R350, R351), and the local spaces
(R92, R194, R257). -/

namespace Sys2Proof.Machine

/-! ## Operations -/

/-- The width in bytes of an operation's data. -/
def MemOp.bytes : MemOp → Nat
  | .load _ n _ => n
  | .store n _ => n
  | .atomic _ a => a.size
  | .lr _ n => n
  | .sc _ n _ => n
  | .appnd _ n _ => n
  | _ => 1

/-- The rights an operation needs (R246). -/
def MemOp.need : MemOp → Need
  | .load .. => .r
  | .tailq _ => .r
  | .persist .. => .r
  | .store .. => .w
  | .seal _ => .seal
  | .lr .. => .lr
  | .sc .. => .lr
  | _ => .rw

/-- Whether an operation is a load, which hits write hulls alone (R204). -/
def MemOp.isLoad : MemOp → Bool
  | .load .. => true
  | _ => false

/-- Whether an operation is exempt from alignment (R94). -/
def MemOp.anyAlign : MemOp → Bool
  | .appnd .. => true
  | .tailq _ => true
  | .seal _ => true
  | .persist .. => true
  | _ => false

/-- Plain loads and stores, which a timed firing makes speculatively (R97). -/
def MemOp.plain : MemOp → Bool
  | .load .. => true
  | .store .. => true
  | _ => false

/-- The registers an operation writes (R93, R101 to R106). -/
def MemOp.dests : MemOp → List Nat
  | .load d .. => [d]
  | .store .. => []
  | .atomic d a => if a.op = 13 then [d, d + 1] else [d]
  | .lr d _ => [d]
  | .sc d .. => [d]
  | .appnd d .. => [d]
  | .tailq d => [d]
  | .seal d => [d]
  | .persist d _ => [d]

/-- A loaded value extended (R84, R93). -/
def extendLoad (size : Nat) (signed : Bool) (v : Nat) : Word :=
  if signed then BitVec.ofInt 64 (signedOf (8 * size) v) else BitVec.ofNat 64 (v % 2 ^ (8 * size))

/-- The value an atomic stores, from the old one (R102); AFADD rounds by RNE and raises nothing. -/
def atomicNew (a : AtomicArgs) (old : Nat) : Nat :=
  let w := 8 * a.size
  let b := a.b.toNat % 2 ^ w
  match a.op with
  | 0 => (old + b) % 2 ^ w
  | 1 => old &&& b
  | 2 => old ||| b
  | 3 => old ^^^ b
  | 4 => if signedOf w old < signedOf w b then old else b
  | 5 => if signedOf w b < signedOf w old then old else b
  | 6 => min old b
  | 7 => max old b
  | 8 => b
  | 9 => if old = a.cmp.toNat % 2 ^ w then b else old
  | 10 =>
    let f := if a.size = 4 then fp32 else fp64
    (fAdd f .rne (f.read old) (f.read b)).1
  | _ => if old = a.cmp.toNat + 2 ^ 64 * a.cmp2.toNat then a.b.toNat + 2 ^ 64 * a.b2.toNat else old

/-- What an atomic writes to its destinations (R102): the old value, sign-extended when it is a word, but zero-extended by
AMINN, AMAXN and AFADD. -/
def atomicOld (a : AtomicArgs) (old : Nat) : List Word :=
  if a.op = 13 then [BitVec.ofNat 64 old, BitVec.ofNat 64 (old / 2 ^ 64)]
  else [extendLoad a.size (decide (a.op ≠ 6 ∧ a.op ≠ 7 ∧ a.op ≠ 10)) old]

/-- Deliver results to a strand's s registers; they no longer await the source `id` (R38). -/
def deliver (six id : Nat) (rs : List (Nat × Word)) (s : State) : List Effect :=
  let x := s.strand six
  let y := { x with await := x.await.filter (fun a => a.2 ≠ id) }
  [.strand six (rs.foldl (fun y r => y.write (.s r.1) (.word r.2)) y)]

/-- The registers of an operation await its result (R38). -/
def awaitRegs (h : Held) (s : State) : List Effect :=
  let y := s.strand h.six
  [.strand h.six { y with
    await := y.await.filter (fun w => w.2 ≠ h.id) ++ (h.op.dests.filter (fun d => d ≠ 0)).map (fun d => (RegId.s d, h.id)) }]

/-- Whether an access of a strand older than an identity has not performed (R98, R277): an issued or a held one. -/
def openBefore (s : State) (six id : Nat) : Bool :=
  s.held.any (fun h => h.six == six && h.kind == 0 && decide (h.id < id)) || openIssued s six (fun k => decide (k < id))

/-- Whether a strand has an access that has not performed (R98). -/
def outstanding (s : State) (six : Nat) : Bool :=
  s.held.any (fun h => h.six == six && h.kind == 0) || openIssued s six (fun _ => true)

/-- Whether an operation acquires, or may turn out to: a TAILQ may find its page SEALED (R105). -/
def Held.acquires (h : Held) : Bool := h.acq || (match h.op with | .tailq _ => true | _ => false)

/-- Whether an acquire of a strand has not performed, before which no later access of the strand may (R98, R101). -/
def acqPending (s : State) (six : Nat) : Bool :=
  s.held.any (fun h => h.six == six && h.kind == 0 && h.acquires) || s.syncs.any (fun y => y.six == six && y.req.acq)
    || s.pkg.loads.any (fun l => l.six == six && l.acq)
    || s.pkg.fab.remotes.any (fun r => r.six == six && r.req.any (fun h => h.kind == 0 && !h.now && h.acquires))
    || s.cores.any (fun c => (c.2.hq ++ c.2.port).any (fun e => match e with | .atomic a => a.six == six && a.acq | _ => false))

/-- Whether a load or an atomic of a strand has not performed, which an acquire fence waits for (R98). -/
def openLoads (s : State) (six : Nat) : Bool :=
  let loads := fun (h : Held) => h.kind == 0 && (match h.op with | .store .. => false | _ => true)
  s.held.any (fun h => h.six == six && loads h) || s.syncs.any (fun y => y.six == six && loads y.req)
    || s.pkg.loads.any (fun l => l.six == six)
    || s.pkg.fab.remotes.any (fun r => r.six == six && r.req.any loads)
    || s.cores.any (fun c => (c.2.hq ++ c.2.port).any (fun e => match e with | .atomic a => a.six == six | _ => false))

/-- A SYNC access waits while a SYNC store on its words is not validated, and while the strand's own is not (R254). -/
def syncWaits (s : State) (six pa n : Nat) : Bool :=
  s.syncs.any (fun y => y.six == six || decide (y.pa < pa + n ∧ pa < y.pa + y.size))

/-- Whether another L1 shares a SYNC line (R254). -/
def hasSharers (s : State) (key pa : Nat) : Bool :=
  s.l1.any (fun p => p.2.cls == .sync && p.2.pa == pa / 64 * 64 && p.1 != key)

/-- A write of a strand performs: in a pod it is visible beyond the package, so WINWAIT waits for its window (R100, R358). -/
def notePod (six : Nat) (s : State) : List Effect :=
  if s.pkg.fab.en then [.strand six { s.strand six with podWin := some s.pkg.fab.window }] else []

/-- A load of a firing that is speculative (R97, R299), through a directory agent (R255). -/
def specLoad (s : State) (id : Nat) (t : Task) (agent : Nat) (cls : MClass) (pa n : Nat) : Nat × List Effect :=
  let new := (specReads s id t pa n).filter (fun e => !t.reads.contains e)
  (specRead s id t (byteSeen s cls) pa n,
    shareFor cls agent pa s ++ (if new = [] then [] else [.task id (some { t with reads := t.reads ++ new })]))

/-- A store of a firing that is speculative (R97, R299): buffered; younger readers of an older value abort. -/
def specStore (s : State) (id : Nat) (t : Task) (agent pa n v : Nat) : List Effect :=
  let ws := (List.range n).foldl
    (fun w i => tblSet none w (pa + i) (some (BitVec.ofNat 8 (v / 256 ^ i)))) t.writes
  let hs := (wordsOf pa n).foldl (fun h w => tblSet 0 h w agent) t.homes
  chain
    [fun _ => [.task id (some { t with writes := ws, homes := hs })],
     fun s => abortTasks (conflicting s id t (wordsOf pa n)) s] s

/-! ## Operations at the home slice -/

/-- The translation that a successful SC writes through is dirty (R250). -/
def dirtyPage (core asid : Nat) (va : Word) (s : State) : List Effect :=
  let v := va.toNat % 2 ^ 48
  let key := tlbKey (unitOf core v) asid (v / 65536)
  match tblGet none s.tlb key with
  | some t => [.tlb key (some { t with d := true })]
  | none => []

/-- Results to a strand's registers; nothing for s0. -/
def give (h : Held) (rs : List (Nat × Word)) (s : State) : List Effect := deliver h.six h.id (rs.filter (fun r => r.1 ≠ 0)) s

/-- The acquire of an operation that has one. -/
def acquireFor (h : Held) (s : State) : List Effect := if h.acq then acquire (coreOf h.six) s else []

/-- A write of a strand performed at its home slice. -/
def homeWrite (h : Held) (asid : Nat) (va : Word) (pa n v : Nat) (s : State) : List Effect :=
  let core := coreOf h.six
  chain
    [homeStore (some h.six) (some core) (agentOf core (va.toNat % 2 ^ 48)) pa n v, dirtyPage core asid va, notePod h.six] s

/-- Whether a strand's reservation covers a physical address (R103). -/
def reserved (s : State) (six pa : Nat) : Bool :=
  match (s.strand six).res with
  | some (g, t) => decide (g = pa / 64 ∧ s.cycle < t + 4096)
  | none => false

/-- A store, atomic or SC performs at its home slice as one step (R101 to R103, R273). -/
def homeOp (h : Held) (asid : Nat) (va : Word) (pa : Nat) (s : State) : List Effect :=
  match h.op with
  | .store n v => homeWrite h asid va pa n (v.toNat % 2 ^ (8 * n)) s
  | .atomic d a =>
    let old := memRead s.mem pa a.size
    chain
      [homeWrite h asid va pa a.size (atomicNew a old), acquireFor h,
       give h ((h.op.dests.zip (atomicOld a old)).filter (fun _ => d ≠ 0))] s
  | .sc d n v =>
    let take := takeLine (agentOf (coreOf h.six) (va.toNat % 2 ^ 48)) pa
    let ok := reserved (applyAll (take s) s) h.six pa
    chain
      [take, fun s => if ok then homeWrite h asid va pa n (v.toNat % 2 ^ (8 * n)) s else [],
       fun s => [.strand h.six { s.strand h.six with res := none }],
       acquireFor h, give h [(d, if ok then 0 else 1)]] s
  | _ => []

/-- `homeOp` on a SYNC or NORMAL page: a SYNC word that another L1 shares first reaches its sharers, and the operation performs once
they have acknowledged (R254). -/
def homeOrSync (h : Held) (core asid : Nat) (va : Word) (x : Xl) (s : State) : Except Fail (List Effect) :=
  if x.cls = .sync ∧ syncWaits s h.six x.pa h.op.bytes then .error (.wait .score)
  else if x.cls = .sync && hasSharers s (l1Key core asid va) x.pa then
    .ok (chain [fun s => [.syncs (s.syncs ++ [⟨h.id, h.six, h, asid, va, x.pa, h.op.bytes⟩])], awaitRegs h] s)
  else .ok (homeOp h asid va x.pa s)

/-- An append at offset `t` (R104, R260): the skipped bytes written as zero, the data, the tail. -/
def appendAt (h : Held) (asid : Nat) (va : Word) (pa t n : Nat) (v : Word) (rs : List (Nat × Word)) (s : State) : List Effect :=
  let core := coreOf h.six
  let idx := (frameIndex s.cfg pa).getD 0
  let f := s.frame idx
  let page := pa / 65536 * 65536
  chain
    [fun s => if f.tail < t then
        homeStore (some h.six) (some core) (agentOf core (va.toNat % 2 ^ 48)) (page + f.tail) (t - f.tail) 0 s else [],
     homeWrite h asid va (page + t) n (v.toNat % 2 ^ (8 * n)),
     fun _ => [.frame idx { f with tail := t + n }],
     acquireFor h, give h rs] s

/-- A store to a NORMAL page (R252): the core's line takes ownership of the words. -/
def ownStore (h : Held) (core asid : Nat) (va : Word) (pa n v : Nat) (s : State) : List Effect :=
  chain
    [fun s => l1Write s (some core) (some (l1Key core asid va)) .normal pa n,
     memStore (some h.six) (agentOf core (va.toNat % 2 ^ 48)) pa n v, notePod h.six] s

/-- The class rules of check 5 (R96, R103 to R106) and the effect of an operation on a translated page. -/
def performMem (h : Held) (core asid : Nat) (va : Word) (x : Xl) (s : State) : Except Fail (List Effect) :=
  let dirAgent := agentOf core (va.toNat % 2 ^ 48)
  let y := s.strand h.six
  let spec := if y.spec then taskOf s y else none
  let idx := (frameIndex s.cfg x.pa).getD 0
  let f := s.frame idx
  let reads := !(match h.op with | .store .. => true | .sc .. => true | .appnd .. => true | _ => false)
  let err := match memCheck s reads x.pa h.op.bytes with | some u => Except.error (Fail.machine u x.pa) | none => Except.ok ()
  match h.op with
  | .load d n sg =>
    match err with
    | .error e => .error e
    | .ok _ =>
      if x.cls = .sync ∧ syncWaits s h.six x.pa n then .error (.wait .score)
      else
        let r := match spec with
          | some (id, t) => specLoad s id t dirAgent x.cls x.pa n
          | none => l1Load s core asid va x n
        .ok (chain [fun _ => r.2, acquireFor h, give h [(d, extendLoad n sg r.1)]] s)
  | .store n v =>
    match x.cls, spec with
    | .sealed, _ => .error (.trap 9 0)
    | .append, _ =>
      if x.pa % 65536 ≠ f.tail then .error (.trap 8 0)
      else match err with
        | .error e => .error e
        | .ok _ => .ok (appendAt h asid va x.pa f.tail n v [] s)
    | .sync, none => match err with
      | .error e => .error e
      | .ok _ => homeOrSync h core asid va x s
    | .sync, some (id, t) => match err with
      | .error e => .error e
      | .ok _ => if syncWaits s h.six x.pa n then .error (.wait .score) else .ok (specStore s id t dirAgent x.pa n v.toNat)
    | _, some (id, t) => match err with
      | .error e => .error e
      | .ok _ => .ok (specStore s id t dirAgent x.pa n v.toNat)
    | _, none => match err with
      | .error e => .error e
      | .ok _ => .ok (ownStore h core asid va x.pa n v.toNat s)
  | .atomic .. =>
    match x.cls with
    | .sealed => .error (.trap 9 0)
    | .append => .error (.trap 8 0)
    | _ => match err with
      | .error e => .error e
      | .ok _ => homeOrSync h core asid va x s
  | .lr d n =>
    match x.cls with
    | .sealed => .error (.trap 9 0)
    | .append => .error (.trap 8 0)
    | _ => match err with
      | .error e => .error e
      | .ok _ =>
        if x.cls = .sync ∧ syncWaits s h.six x.pa n then .error (.wait .score)
        else
          .ok (chain
            [shareLine dirAgent x.pa, l1Read core x.pa n,
             fun s => [.strand h.six { s.strand h.six with res := some (x.pa / 64, s.cycle), resAt := dirAgent }],
             acquireFor h, give h [(d, extendLoad n true (memRead s.mem x.pa n))]] s)
  | .sc .. =>
    match x.cls with
    | .sealed => .error (.trap 9 0)
    | .append => .error (.trap 8 0)
    | _ => match err with
      | .error e => .error e
      | .ok _ => homeOrSync h core asid va x s
  | .appnd d n v =>
    match x.cls with
    | .sealed => .error (.trap 9 0)
    | .append =>
      let t := (f.tail + n - 1) / n * n
      match err with
      | .error e => .error e
      | .ok _ =>
        if 65536 < t + n then .ok (chain [acquireFor h, give h [(d, BitVec.allOnes 64)]] s)
        else .ok (appendAt h asid va x.pa t n v [(d, BitVec.ofNat 64 t)] s)
    | _ => .error (.trap 6 2)
  | .tailq d =>
    match x.cls with
    | .append => .ok (chain [acquireFor h, give h [(d, BitVec.ofNat 64 f.tail)]] s)
    | .sealed => .ok (chain [acquire core, give h [(d, BitVec.ofNat 64 (2 ^ 63 + f.tail))]] s)
    | _ => .error (.trap 6 2)
  | .seal d =>
    match x.cls with
    | .append =>
      .ok (chain [fun _ => [.frame idx { f with st := .sealed }], notePod h.six, give h [(d, BitVec.ofNat 64 f.tail)]] s)
    | .sealed => .ok (give h [(d, BitVec.ofNat 64 f.tail)] s)
    | _ => .error (.trap 6 2)
  | .persist .. => .ok []

/-! ## The DEVICE region (R96, R336, R340) -/

/-- The PCIe function whose requester ID a strand's window accesses carry (R340): 64 is PF0. -/
def requester (s : State) (six : Nat) : Nat :=
  let x := s.strand six
  if x.dom = 0 ∨ isChiplet (coreOf six) then 64 else (s.tenantOf x).getD 64

/-- A notify register of a die (R285, R336). -/
def isNotify (pa : Nat) : Bool :=
  decide (Config.dieBase ≤ pa ∧ pa < Config.dieBase + 4 * 0x1000000)
    && decide (0x10000 ≤ (pa - Config.dieBase) % 0x1000000 ∧ (pa - Config.dieBase) % 0x1000000 < 0x20000)

/-- A host interrupt doorbell (R341). -/
def isDoorbell (pa : Nat) : Bool := decide (Config.hostIntBase ≤ pa ∧ pa < Config.hostIntBase + 1024)

/-- The blocks that only privileged code reaches (R346, R360). -/
def privReach (pa : Nat) : Bool :=
  decide (Config.mgmtBase ≤ pa ∧ pa < Config.mgmtBase + 4096) || decide (Config.fabricBase ≤ pa ∧ pa < Config.fabricBase + 4096)

/-- Whether a DEVICE access of a strand older than an identity is, or may turn out to be, still to perform (R96): a window load, or a
held access. -/
def devicePending (s : State) (six id : Nat) : Bool :=
  s.pkg.loads.any (fun l => l.six == six && decide (l.id < id))
    || s.held.any (fun k => k.six == six && k.kind == 0 && decide (k.id < id))

/-- What a load of a device register outside the windows sees: user code reads as zero what only privileged code reaches (DESIGN
CHOICE, log entry 75). -/
def deviceBytes (s : State) (pm : Bool) (pa n : Nat) : Nat := if !pm && privReach pa then 0 else deviceRead s pa n

/-- A DEVICE access waits for the strand's earlier DEVICE accesses (R96), and a notify or a doorbell for every earlier access of it
(R285, R341). -/
def deviceWaits (s : State) (h : Held) (pa : Nat) : Bool :=
  devicePending s h.six h.id || ((isNotify pa || isDoorbell pa) && openBefore s h.six h.id)

/-- An operation on a DEVICE page: scalar loads and stores; anything else traps ACCESS CLASS. A load of a host window waits for its
completion; a store to one is posted. A store of user code to what only privileged code writes is ignored, and a load of user code of
what only privileged code reaches reads zero (DESIGN CHOICE, log entry 75). -/
def performDevice (h : Held) (x : Xl) (s : State) : Except Fail (List Effect) :=
  match h.op with
  | .load d n sg =>
    if deviceWaits s h x.pa then .error (.wait .score)
    else if inHostWindow x.pa then
      let a := x.pa - Config.windowBase
      let f := requester s h.six
      .ok (chain
        [fun s => [.pkg { s.pkg with loads := s.pkg.loads ++ [⟨h.id, h.six, a, n, sg, d, f, h.acq⟩] }, .output (.hostLoad f a n h.id)],
         awaitRegs h] s)
    else
      .ok (chain [acquireFor h, give h [(d, extendLoad n sg (deviceBytes s h.pm x.pa n))]] s)
  | .store n v =>
    if deviceWaits s h x.pa then .error (.wait .score)
    else if inHostWindow x.pa then
      .ok [.output (.hostStore (requester s h.six) (x.pa - Config.windowBase) n v)]
    else if !h.pm && !isNotify x.pa then .ok []
    else .ok (deviceStore x.pa n v s)
  | _ => .error (.trap 6 2)

/-! ## Other packages (R350, R351) -/

/-- The values a strand's registers receive from an answer. -/
def ackRegs (op : MemOp) (v : Nat) : List (Nat × Word) :=
  let vals : List Word := match op with
    | .load _ n sg => [extendLoad n sg v]
    | .atomic _ a => atomicOld a v
    | .lr _ n => [extendLoad n true v]
    | _ => [BitVec.ofNat 64 v]
  (op.dests.zip vals).filter (fun r => r.1 ≠ 0)

/-- An access that its home package has performed: an acquire, by a TAILQ too that finds the page SEALED (R105); the reservation of an
LR; the registers. -/
def ackDone (h : Held) (pa v : Nat) (rs : List (Nat × Word)) (s : State) : List Effect :=
  let acq := h.acq || (match h.op with | .tailq _ => decide (2 ^ 63 ≤ v) | _ => false)
  chain
    [fun s => if acq then acquire (coreOf h.six) s else [],
     fun s => match h.op with
       | .lr .. => [.strand h.six { s.strand h.six with res := some (pa / 64, s.cycle), resAt := 257 + pa / 2 ^ 44 % 128 }]
       | .sc .. => [.strand h.six { s.strand h.six with res := none }]
       | _ => [],
     deliver h.six h.id rs] s

/-- What the answer of its home makes of an access whose instruction waits for it (R95, R351); 18 stands for a home that will not
answer (R359). -/
def ackAnswer (h : Held) (pa : Nat) (a : Ack) (s : State) : Except Fail (List Effect) :=
  if a.res = 0 then .ok (ackDone h pa a.v.toNat (ackRegs h.op a.v.toNat) s)
  else if a.res = 1 then .error .page
  else if a.res = 17 then .error (.machine 3 0)
  else if a.res = 18 then .error (.machine 2 pa)
  else .error (.trap a.res (if a.res = 6 then 2 else 0))

/-- An operation on a pod address (R350, R351): served by a kept copy, or sent to its home package; an instruction that waits for
acceptance waits for its answer (R95). -/
def performPod (h : Held) (asid : Nat) (x : Xl) (s : State) : Except Fail (List Effect) :=
  let pkg := x.pa / 2 ^ 44 % 128
  let kept : Option Word := match h.op with
    | .load _ n _ => ((keptCopy s asid h.pm x n).filter (fun c => decide (c.res = 0))).map Copy.val
    | _ => none
  -- A strand keeps the granule of an LR that its home has answered; an SC without it stores nothing.
  let unreserved : Bool := match h.op with
    | .sc .. => !(s.strand h.six).res.any (fun r => r.1 == x.pa / 64)
    | _ => false
  if !s.pkg.fab.live.getLsbD pkg then .error (.machine 2 x.pa)
  else match kept with
  | some w => .ok (ackDone h x.pa w.toNat (ackRegs h.op w.toNat) s)
  | none =>
    if unreserved then .ok (ackDone h x.pa 1 (ackRegs h.op 1) s)
    else
      let r : Remote :=
        ⟨h.id, h.six, pkg, x.pa % 2 ^ 44, h.op, 0, none, (s.dom asid).owner.toNat, h.pm, x.cls.leaf, false, some h, false⟩
      let es := chain
        [forwardWrite h.op x.pa, sendRemote r,
         fun s => if h.kind ≠ 0 then []
           else if h.now then let y := s.strand h.six; [.strand h.six { y with got := y.got ++ [⟨h.id, x.pa, none⟩] }]
           else awaitRegs h s] s
      if h.now then .error (.send es) else .ok es

/-! ## PERSIST (R99, R265) -/

/-- The pages of a range of a domain, from its first byte to the end of the address space at most (R99): the physical
address of each page, or the failing address and why. -/
def pagesOf (s : State) (six asid depth : Nat) (pm : Bool) (need : Need) (stop : Nat) :
    Nat → Nat → Except (Word × Fail) (List Xl)
  | _, 0 => .ok []
  | va, n + 1 =>
    if stop ≤ va then .ok []
    else
      let w : Word := BitVec.ofNat 64 va
      match resolveAt s six asid depth w need.writes with
      | .error e => .error (w, e)
      | .ok (asid', va') =>
        match translate s (coreOf six) asid' pm va' need with
        | none => .error (w, pageFail s (coreOf six) asid' va')
        | some x =>
          match pagesOf s six asid depth pm need stop ((va / 65536 + 1) * 65536) n with
          | .error e => .error e
          | .ok xs => .ok (x :: xs)

/-- The pages of [a, a + len). -/
def rangePages (s : State) (six asid depth : Nat) (pm : Bool) (need : Need) (a len : Nat) : Except (Word × Fail) (List Xl) :=
  let stop := min (a + len) (2 ^ 64)
  pagesOf s six asid depth pm need stop a ((stop + 65535) / 65536 - a / 65536)

/-- Whether a page is served by a capacity port configured as persistent (R99, R335). -/
def persistentPage (s : State) (x : Xl) : Bool :=
  !x.pod && decide (x.cls ≠ .device ∧ 2 ^ 44 ≤ x.pa ∧ x.pa < 2 ^ 44 + 8 * 2 ^ 39)
    && s.pkg.pmark.getLsbD ((x.pa - 2 ^ 44) / 2 ^ 39)

/-- Whether a physical line meets a range that starts at `start` and is mapped by pages. -/
def lineOf (xs : List Xl) (start len line : Nat) : Bool :=
  xs.zipIdx.any (fun p =>
    let base := p.1.pa / 65536 * 65536
    decide (base / 64 ≤ line ∧ line < base / 64 + 1024
      ∧ start % 65536 < (line * 64 - base) + 64 + p.2 * 65536
      ∧ (line * 64 - base) + p.2 * 65536 < start % 65536 + len))

/-- PERSIST (R99, R265): every page translates, owned L1 words are recalled and dirty lines written back, the status goes to d. A line
is dirty until written back; memory itself always holds its latest bytes here. -/
def performPersist (h : Held) (d len : Nat) (s : State) : Except Fail (List Effect) :=
  match rangePages s h.six h.asid h.depth h.pm .r h.va.toNat len with
  | .error e => .error e.2
  | .ok xs =>
    let status : Word := if xs.all (persistentPage s) then 0 else 1
    let inRange := lineOf xs h.va.toNat len
    .ok (chain
      [fun _ => xs.flatMap Xl.fx,
       fun s => (s.l1.filter (fun p => decide (p.2.owned ≠ 0) && inRange (p.2.pa / 64))).map (fun p =>
         .l1 p.1 (p.2.recalled s p.2.owned)),
       fun s => (s.dir.filter (fun p => p.2.dirty && inRange (dirLine p.1))).map (fun p => .dir p.1 { p.2 with dirty := false }),
       deliver h.six h.id (if d = 0 then [] else [(d, status)])] s)

/-! ## Held requests (R95, R248) -/

/-- The address a held request waits for: its own, or the first failing one of a PERSIST. -/
def heldVa (h : Held) (s : State) : Word :=
  match h.op with
  | .persist _ len =>
    match rangePages s h.six h.asid h.depth h.pm .r h.va.toNat len with
    | .error e => e.1
    | .ok _ => h.va
  | _ => h.va

/-- The domain and address whose translation a held request waits for: through a window, the caller's (R150). -/
def heldTarget (h : Held) (s : State) : Nat × Word :=
  match resolveAt s h.six h.asid h.depth (heldVa h s) h.write with
  | .ok r => r
  | .error _ => (h.asid, heldVa h s)

/-- Whether an earlier request held at the slices is for one of an access's words, which the access is ordered after (R95). -/
def behindHeld (s : State) (id asid : Nat) (va : Word) (n : Nat) : Bool :=
  s.held.any (fun k =>
    let t := heldTarget k s
    decide (k.id < id ∧ t.1 = asid ∧ t.2.toNat / 4 ≤ (va.toNat + n - 1) / 4 ∧ va.toNat / 4 ≤ (t.2.toNat + k.op.bytes - 1) / 4))

/-- Perform an operation at the home slice: windows, check 4, check 5, and its effect (R94 to R96). -/
def performHere (h : Held) (s : State) : Except Fail (List Effect) :=
  let core := coreOf h.six
  match resolveAt s h.six h.asid h.depth h.va h.op.need.writes with
  | .error e => .error e
  | .ok (asid, va) =>
    match translate s core asid h.pm va h.op.need with
    | none => .error (pageFail s core asid va)
    | some x =>
      if behindHeld s h.id asid va h.op.bytes then .error (.wait .score)
      else
        let s' := applyAll x.fx s
        match (if x.cls = .device then performDevice h x s'
               else if x.pod then performPod h asid x s'
               else performMem h core asid va x s') with
        | .error (.send es) => .error (.send (x.fx ++ es))
        | .error e => .error e
        | .ok es => .ok (x.fx ++ es)

/-- Perform an operation, the frames of the windows that it goes through read first (R150, R155). -/
def performOne (h : Held) (s : State) : Except Fail (List Effect) := throughRefills s h.six h.depth h.va List.append (performHere h)

/-- Perform an operation: PERSIST over its range, any other at its one address. -/
def performOp (h : Held) (s : State) : Except Fail (List Effect) :=
  match h.op with
  | .persist d len => throughRefills s h.six h.depth h.va List.append (performPersist h d len)
  | _ => performOne h s

/-- Whether the request that a fault-log record is of is still held (log entry 24). -/
def recordHeld (s : State) (id : Nat) : Bool :=
  s.held.any (fun h => h.id == id)
    || s.dies.any (fun d => d.2.queues.any (fun q => q.2.reqs.any (fun r => r.id == id)))
    || s.clusters.any (fun c => c.2.cmds.any (fun k => k.id == id && k.held) || c.2.mx.any (fun k => k.id == id && k.held))

/-- The cluster whose principal core a fault-log record is signalled to. -/
def FaultRec.cluster (r : FaultRec) : Nat :=
  let src := r.info.toNat % 65536
  if r.info.toNat / 2 ^ 48 % 16 = 0 then clusterOf (coreOf src) else src

/-- A record joins a die's fault log, a ring, and its principal core is signalled; one that finds its place taken by a request still
held waits (R248; when a place is free: DESIGN CHOICE, log entry 24). -/
def logFault (die : Nat) (r : FaultRec) (s : State) : List Effect :=
  let d := s.die die
  let taken := match tblGet none d.flog d.flogNext with | some o => recordHeld s o.id | none => false
  if taken || !d.flogWait.isEmpty then [.die die { d with flogWait := d.flogWait ++ [r] }]
  else [.die die { d with flog := tblSet none d.flog d.flogNext (some r), flogNext := (d.flogNext + 1) % 4096 },
        signal s (principalOf r.cluster) 1 1]

/-- Records that waited for space join the fault log, in order (R248). -/
def flushFaults (die : Nat) (s : State) : List Effect :=
  let ws := (s.die die).flogWait
  if ws = [] then []
  else chain ((fun s => [.die die { s.die die with flogWait := [] }]) :: ws.map (logFault die)) s

/-- A fault-log record (R248). -/
def faultRecord (h : Held) (s : State) : FaultRec :=
  let t := heldTarget h s
  { id := h.id, va := t.2,
    info := BitVec.ofNat 64 (t.1 * 2 ^ 52 + h.kind * 2 ^ 48 + bit h.write 32
      + (if h.kind = 0 then h.six else clusterOf (coreOf h.six))) }

/-- The addresses of the requests held at the slices of a die (R248): of strands, of engine, message-unit and matrix commands, and of
command processors. -/
def heldAtDie (s : State) (die : Nat) : List Word :=
  (s.held.filter (fun h => dieOf (coreOf h.six) == die)).map (fun h => (heldTarget h s).2)
    ++ (s.clusters.filter (fun c => decide (c.1 / 8 = die))).flatMap (fun c =>
      (c.2.cmds.filter Cmd.held).map (fun k => k.heldAt.2) ++ (c.2.mx.filter MxCmd.held).map (fun k => k.heldAt.2))
    ++ (s.die die).queues.flatMap (fun q => (q.2.reqs.filter CpReq.held).map CpReq.va)

/-- Whether the fault spill area of a die is full: its slices hold 65,536 requests beyond the 256 of each (R248, R336). -/
def spillFull (s : State) (die : Nat) : Bool :=
  let vas := heldAtDie s die
  !decide (vas.length < 65536)
    && decide (65536 ≤ ((List.range 64).map (fun k => (vas.filter (fun a => sliceOf (a.toNat % 2 ^ 48) == k)).length - 256)).sum)

/-- Hold a request: the queue entry and its record in the die's fault log. -/
def holdRequest (h : Held) (s : State) : List Effect :=
  let die := dieOf (coreOf h.six)
  chain [fun s => [.held (s.held ++ [{ h with now := false }])], flushFaults die, fun s => logFault die (faultRecord h s) s] s

/-- The strand that waits for its held access (R95): its destinations pending, the park due at once. -/
def awaitHeld (h : Held) (s : State) : List Effect :=
  let y := s.strand h.six
  let regs := (h.op.dests.filter (fun d => d ≠ 0)).map (fun d => (RegId.s d, h.id))
  [.strand h.six { y with
    await := y.await ++ regs,
    due := y.due ++ [.park { cause := 5, sub := 3, addr := heldVa h s, strm := .c }] }]

/-- The number that stands for the command processor of a queue where a strand's would stand: no strand has it. -/
def queueSix (die q : Nat) : Nat := 2 ^ 20 + 1024 * die + q

/-- What has come back for an access beyond the package reaches its requester: a strand that is inside an instruction, or the command
processor of a queue. -/
def answerGot (six id : Nat) (a : Ack) (s : State) : List Effect :=
  let fill := fun (gs : List Got) => gs.map (fun g => if g.id = id then { g with ans := some a } else g)
  if 2 ^ 20 ≤ six then
    let d := (six - 2 ^ 20) / 1024
    let x := s.die d
    let q := six % 1024
    let y := tblGet .reset x.queues q
    [.die d { x with queues := tblSet .reset x.queues q { y with got := fill y.got } }]
  else
    let y := s.strand six
    [.strand six { y with got := fill y.got }]

/-- A held request leaves its queue. -/
def unhold1 (h : Held) (s : State) : List Effect := [.held (s.held.filter (fun k => k.id ≠ h.id))]

/-- A request that will not perform: its registers no longer pending, its strand due a trap (R95). -/
def failHeld (h : Held) (cause sub : Nat) (addr : Word) (s : State) : List Effect :=
  let y := s.strand h.six
  [.strand h.six { y with
    await := y.await.filter (fun a => a.2 ≠ h.id),
    due := if h.kind = 0 then y.due ++ [.trap { cause := cause, sub := sub, addr := addr, strm := .c }] else y.due }]

/-- Retry one held request (R95, R248): it performs, stays held, or fails check 5 and is discarded, its register keeping
its old value and its strand due a trap. -/
def retryHeld (h : Held) (s : State) : List Effect :=
  match performOp h s with
  | .ok es => chain [fun _ => es, unhold1 h] s
  | .error (.trap c u) => chain [unhold1 h, failHeld h c u h.va] s
  | .error (.machine u pa) => chain [unhold1 h, failHeld h 17 u (BitVec.ofNat 64 pa)] s
  | .error _ => []

/-! ## Range locks (R94 check 3, R203, R204) -/

/-- Whether two spans of bytes meet. -/
def meets (lo hi lo' hi' : Nat) : Bool := decide (lo < hi' ∧ lo' < hi ∧ lo < hi ∧ lo' < hi')

/-- Whether a hull and a span of the same space and owner meet. -/
def Hull.meets (h : Hull) (space : Space) (owner lo hi : Nat) : Bool :=
  h.space == space && h.owner == owner && Machine.meets h.lo h.hi lo hi

/-- Whether an access hits a registered hull of its cluster: a load a write hull, anything else either kind. -/
def rangeHit (s : State) (core : Nat) (space : Space) (owner lo hi : Nat) (isLoad : Bool) : Bool :=
  let c := s.cluster (clusterOf core)
  let hit := fun (h : Hull) => h.meets space owner lo hi
  c.cmds.any (fun k => k.kind != .bpref && (k.writes.any hit || (!isLoad && k.reads.any hit)))
    || (!isLoad && c.mx.any (fun k => k.reads.any hit))

/-! ## Local spaces (R92, R194, R257) -/

/-- The physical core of logical core `j` of a strand's group in the cluster of a core (R13, R191, R194); a principal core has no
number in space C. -/
def cCore (s : State) (gid : Option Nat) (core j : Nat) : Option Nat :=
  (gid.bind s.group).bind (fun g =>
    (g.cores.zipIdx.find? (fun p => decide (p.2 % 32 = j ∧ clusterOf p.1 = clusterOf core) && isCompute p.1)).map Prod.fst)

/-- Whether the bytes [ea, ea + n) of a die's chip scratchpad lie in blocks assigned to the tenant (R257). -/
def blocksOk (s : State) (die : Nat) (tenant : Option Nat) (ea n : Nat) : Bool :=
  tenant.isSome && (List.range ((ea + n + 2 ^ 20 - 1) / 2 ^ 20 - ea / 2 ^ 20)).all (fun i =>
    let b := tblGet .reset (s.die die).blocks (ea / 2 ^ 20 + i)
    b.assigned && some b.tenant == tenant && b.change.isNone)

/-- A place in a local memory: a byte of a core's scratchpad or of a die's chip scratchpad. -/
inductive Loc where
  | p (core off : Nat)
  | d (die off : Nat)
  deriving DecidableEq, Repr

/-- Check 2 of R94: where a local address of a strand lies, none outside the legal range of R92. -/
def localLoc (s : State) (six : Nat) (space : Space) (ea : Word) (n : Nat) : Option Loc :=
  let core := coreOf six
  let x := s.strand six
  let a := ea.toNat
  match space with
  | .p => if a + n ≤ 2 ^ 19 then some (.p core a) else none
  | .c => if a + n ≤ 2 ^ 24 then (cCore s x.gid core (a / 2 ^ 19)).map (fun p => .p p (a % 2 ^ 19)) else none
  | .d =>
    if a + n ≤ 2 ^ 26 ∧ dieOf core < 4 ∧ blocksOk s (dieOf core) (s.tenantOf x) a n then some (.d (dieOf core) a)
    else none
  | _ => none

/-- The address of a place in its memory. -/
def Loc.addr : Loc → Nat
  | .p core off => core * 2 ^ 19 + off
  | .d die off => die * 2 ^ 26 + off

/-- The space, owner and offset a place has for range comparisons (R194, R203). -/
def Loc.span : Loc → Space × Nat × Nat
  | .p core off => (.p, core, off)
  | .d die off => (.d, die, off)

/-- Bytes read at a place. -/
def Loc.read (l : Loc) (s : State) (n : Nat) : Nat :=
  match l with
  | .p .. => memRead s.pmem l.addr n
  | .d .. => memRead s.dmem l.addr n

/-- Bytes written at a place. -/
def Loc.write (l : Loc) (n v : Nat) (s : State) : List Effect :=
  match l with
  | .p .. => .pmem l.addr n v :: unpoison s poisonP l.addr n
  | .d .. => .dmem l.addr n v :: unpoison s poisonD l.addr n

/-- Whether a read at a place meets a poisoned word. -/
def Loc.poisoned (l : Loc) (s : State) (n : Nat) : Bool :=
  match l with
  | .p .. => Machine.poisoned s poisonP l.addr n
  | .d .. => Machine.poisoned s poisonD l.addr n

/-- Whether an entry of the request port is for the handler queue (R177, R381). -/
def HandlerEntry.forHandler : HandlerEntry → Bool
  | .message m => m.entry.isSome
  | .atomic _ => true

/-! ## Issue of an access -/

/-- Stay unissued, keeping the effects so far. -/
def holdNow (w : Wait) : M α := do
  let s ← getS
  put (.strand s.six (s.me.setWait s.stream w))
  finish

/-- Perform a timed firing's buffered writes as one step (R280, R301), other groups' readers aborting; the task keeps no
read or write set. -/
def commitWrites (id : Nat) (t : Task) (six : Option Nat) (s : State) : List Effect :=
  let words := (t.writes.map (fun b : Nat × Option Byte => b.1 / 4)).dedup
  let whole := words.filter (fun w => (List.range 4).all (fun i => (tblGet none t.writes (4 * w + i)).isSome))
  chain
    (words.map (fun w => fun s => l1Write s (six.map coreOf) none .normal (4 * w) 4)
     ++ [fun _ => t.writes.map (fun b => Effect.mem b.1 1 (b.2.getD 0).toNat),
      fun s => whole.flatMap (fun w => unpoison s poisonMem (4 * w) 4)]
     ++ words.map (fun w => clearRes six (tblGet 0 t.homes w) (4 * w) 4)
     ++ [fun s => invalidateSlots (fun y => t.writes.any (fun b => (frameIndex s.cfg b.1).any (fun i => y.frames.contains i))) s,
         fun _ => words.map (fun w => Effect.dir (dirKey (4 * w)) { owner := some (tblGet 0 t.homes w), dirty := true, sharers := [] }),
         fun s => if words = [] then [] else (six.map (fun k => notePod k s)).getD [],
         fun s => abortTasks ((readersOf s words).filter (fun i =>
           match s.task i with | some u => decide (u.gid ≠ t.gid) | none => false)) s,
         fun s => match s.task id with
           | some u => [.task id (some { u with writes := [], homes := [], reads := [] })]
           | none => []]) s

/-- The first word that a task has written at a capacity port whose link is in error, with the slice that holds the write (R264). -/
def commitError (t : Task) (s : State) : Option (Nat × Nat) :=
  ((t.writes.map (fun b : Nat × Option Byte => b.1)).find? (portDown s)).map (fun pa => (pa, tblGet 0 t.homes (pa / 4)))

/-- A speculative firing that has become the oldest uncommitted task goes on without speculation (R97, R148, R299): its writes are
performed, and it acquires what was committed before it (R270). A write that meets an error on a port link raises MACHINE (R264). -/
def unspeculate (id : Nat) (t : Task) (six : Nat) (s : State) : List Effect :=
  match commitError t s with
  | some (pa, _) => checkError six 0 2 (BitVec.ofNat 64 pa) s
  | none => chain
    [commitWrites id t (some six), fun s => [.strand six { s.strand six with spec := false }], acquire (coreOf six)] s

/-- In a speculative firing, wait to become the oldest uncommitted task (R97, R148, R170, R297); then the firing is no longer
speculative, whatever comes of the instruction, which is issued after that. -/
def beOldest : M Unit := do
  let s ← getS
  if s.me.spec then
    match taskOf s s.me with
    | none => pure ()
    | some (id, t) =>
      if isOldest s id t then do
        puts (unspeculate id t s.six s)
        holdNow .oldest
      else stall .oldest

/-- The physical words that accesses of `n` bytes of the issuing domain touch, pod addresses apart. -/
def physWords (s : State) (need : Need) (n : Nat) (eas : List Word) : List Nat :=
  eas.flatMap (fun ea => match resolveVa s s.six s.me.dom ea need.writes with
    | .error _ => []
    | .ok (asid, va) => match translate s s.coreNo asid s.me.sys.pm va need with
      | none => []
      | some y => if y.pod ∨ y.cls = .device then [] else wordsOf y.pa n)

/-- Whether a speculative firing's accesses would pass the capacity of R299. -/
def specFull (s : State) (need : Need) (n : Nat) (eas : List Word) : Bool :=
  match (if s.me.spec then taskOf s s.me else none) with
  | none => false
  | some (_, t) => t.full (decide (need = .r)) (physWords s need n eas)

/-- A release (R98) in an instruction whose wait is `w`: every earlier access of the strand has performed. -/
def releaseIn (w : Wait) : M Unit := do
  let s ← getS
  stallIf (outstanding s s.six) w

/-- A release (R98). -/
def release : M Unit := releaseIn .drain

/-- The acquire of the issuing core. -/
def acquireHere : M Unit := do
  let s ← getS
  puts (acquire s.coreNo s)

/-- An impure act of the issuing V-stream (R311): an open region record is discarded, and its slot, where it is still the
slot's configuration, becomes OFF. -/
def impure : M Unit := do
  let s ← getS
  match s.stream, s.me.region with
  | .v, some r => do
    modMe (fun x => { x with region := none })
    let c := s.cluster r.cluster
    let t := tblGet .off c.tutor r.slot
    if t.conf && t.gen == r.gen then
      put (.cluster r.cluster { c with tutor := tblSet .off c.tutor r.slot { t with mode := 0, impure := true } })
    else pure ()
  | _, _ => pure ()

/-- Wait, in a wait of a kind, for remote bytes to be fetched. -/
def awaitCopyIn (w : Wait) (asid : Nat) (pm : Bool) (xs : List (Nat × Nat × Nat)) : M α := do
  let s ← getS
  puts (fetchCopies s.six asid pm xs s)
  holdNow w

/-- Wait for remote bytes to be fetched. -/
def awaitCopy (asid : Nat) (pm : Bool) (xs : List (Nat × Nat × Nat)) : M α := awaitCopyIn .accept asid pm xs

/-- What the issuing strand does where a segment access does not perform (R155): MACHINE, or it waits for bytes of another package. -/
def segmentFail (w : Wait) : Fail → M α
  | .machine u pa => trap 17 u (BitVec.ofNat 64 pa)
  | .fetch i pm xs => awaitCopyIn w i pm xs
  | _ => trap 17 4 0

/-- What comes of an operation at its home: it performs, traps, waits, leaves for another package, or is held (R95); the MMU of a
principal or chiplet core holds nothing. -/
def finishAccess (h : Held) (r : Except Fail (List Effect)) : M Unit := do
  let s ← getS
  match r with
  | .ok es => puts es
  | .error (.trap c u) => trap c u h.va
  | .error (.machine u pa) => trap 17 u (BitVec.ofNat 64 pa)
  | .error (.wait w) => stall w
  | .error (.send es) => do puts es; holdNow .accept
  | .error (.fetch a pm xs) => awaitCopy a pm xs
  | .error .page =>
    if !isCompute s.coreNo then trap 5 5 (heldVa h s)
    else if spillFull s (dieOf s.coreNo) then stall .score
    else do
      puts (holdRequest h s)
      let s ← getS
      puts (awaitHeld h s)

/-- Send an operation to its home slice. -/
def submit (h : Held) : M Unit := do
  let s ← getS
  finishAccess h (performOp h s)

/-- A request of the issuing strand. -/
def request (op : MemOp) (va : Word) (acq rel : Bool) : M Held := do
  let id ← newId
  let s ← getS
  let x := s.me
  pure { id := id, six := s.six, asid := x.dom, pm := x.sys.pm, va := va, op := op, acq := acq, rel := rel,
         depth := x.sys.dsdepth, write := op.need.writes, kind := 0, now := true }

/-- The access of the instruction that the issuing strand is inside, where its home package has still to accept it or has answered
(R95, R350). -/
def State.sent (s : State) : Option Got := if s.stream = .c then s.me.got.head? else none

/-- An access that has left for another package: it waits, and is what its answer makes of it. -/
def answered (g : Got) (op : MemOp) (va : Word) (acq rel : Bool) : M Unit := do
  let s ← getS
  match g.ans with
  | none => stall .accept
  | some a => do
    let h ← request op va acq rel
    finishAccess { h with id := g.id } (ackAnswer { h with id := g.id } g.pa a s)

/-- Whether an access stalls a speculative firing until it is the oldest (R97, R260, R299, R350): it is not a plain load or store, it
stores to an APPEND or SEALED page, it is to a DEVICE or pod address, or it would pass the capacity of R299. -/
def accessOldest (s : State) (op : MemOp) (va : Word) : Bool :=
  !op.plain
    || (match resolveVa s s.six s.me.dom va op.need.writes with
        | .error _ => false
        | .ok (asid, va') => match translate s s.coreNo asid s.me.sys.pm va' op.need with
          | none => false
          | some y => y.pod || y.cls == .device || (op.need.writes && (y.cls == .append || y.cls == .sealed)))
    || specFull s op.need op.bytes [va]

/-- A scalar access to space G (R94, R95, R97): alignment, range locks, the strand's pending acquires and releases, speculation, then
the home slice. -/
def accessG (op : MemOp) (va : Word) (acq rel : Bool) : M Unit := do
  let s ← getS
  match s.sent with
  | some g => answered g op va acq rel
  | none => do
    trapIf (!op.anyAlign && decide (va.toNat % op.bytes ≠ 0)) 4 0 va
    trapIf (rangeHit s s.coreNo .g s.me.dom va.toNat (va.toNat + op.bytes) op.isLoad) 7 0 va
    stallIf (acqPending s s.six) .score
    if rel then release
    if s.me.spec && accessOldest s op va then beOldest
    let h ← request op va acq rel
    submit h

/-- Whether a request port holds the 16 arrivals of the request network that it can (R381); completions have space of their own (R169). -/
def portFull (c : Core) : Bool :=
  decide (16 ≤ c.port.length)
    && decide (16 ≤ (c.port.filter (fun e => match e with | .message m => decide (m.hdr.toNat / 2 ^ 32 % 4 = 0) | .atomic _ => true)).length)

/-- Whether an atomic of a strand on a word of a place has not performed (R179): a later load or store of the word follows it in program
order (R269, R271). -/
def bankPending (s : State) (six : Nat) (l : Loc) (n : Nat) : Bool :=
  match l with
  | .d .. => false
  | .p core off => ((s.core core).hq ++ (s.core core).port).any (fun e => match e with
    | .atomic a => decide (a.six = six ∧ a.off / 4 ≤ (off + n - 1) / 4 ∧ off / 4 ≤ (a.off + a.args.size - 1) / 4)
    | .message _ => false)

/-- What an access of a local space waits for: the strand's acquires, and before a load or store its atomics on the word. -/
def localWaits (s : State) (op : MemOp) (l : Loc) : Bool :=
  acqPending s s.six || ((match op with | .atomic .. => false | _ => true) && bankPending s s.six l op.bytes)

/-- A scalar load or store in a local space (R92, R94, R164): checks 1 to 3, then the bank directly; a word that an earlier atomic of the
strand has still to reach waits for it. -/
def accessLocal (space : Space) (op : MemOp) (ea : Word) (acq rel : Bool) : M Unit := do
  let s ← getS
  let n := op.bytes
  trapIf (decide (ea.toNat % n ≠ 0)) 4 0 ea
  match localLoc s s.six space ea n with
  | none => trap 6 1 ea
  | some l => do
    let (sp, owner, lo) := l.span
    trapIf (rangeHit s s.coreNo sp owner lo (lo + n) op.isLoad) 7 0 ea
    stallIf (localWaits s op l) .score
    if rel then release
    beOldest
    let s ← getS
    match op with
    | .load d n sg => do
      trapIf (l.poisoned s n) 17 (match l with | .p .. => 1 | .d .. => 3) 0
      if d ≠ 0 then writeS d (extendLoad n sg (l.read s n))
    | .store n v => puts (l.write n v.toNat s)
    | .atomic d a =>
      match l with
      | .d .. => do
        trapIf (l.poisoned s n) 17 3 0
        let old := l.read s n
        puts (l.write n (atomicNew a old) s)
        if d ≠ 0 then
          match op.dests, atomicOld a old with
          | [d0, d1], [w0, w1] => do writeS d0 w0; writeS d1 w1
          | _, w0 :: _ => writeS d w0
          | _, _ => pure ()
      | .p core off => do
        let id ← newId
        let c := s.core core
        let e := HandlerEntry.atomic { six := s.six, off := off, args := a, dest := d, acq := acq, id := id }
        if portFull c then stall .send
        else if c.hq.length < 16 ∧ !c.port.any HandlerEntry.forHandler then put (.core core { c with hq := c.hq ++ [e] })
        else put (.core core { c with port := c.port ++ [e] })
        if d ≠ 0 then modMe (fun x => { x with await := x.await ++ op.dests.map (fun r => (RegId.s r, id)) })
    | _ => pure ()
    match op, l with
    | .atomic .., .p .. => pure ()
    | _, _ => if acq then acquireHere

/-- A scalar access to any space. -/
def access (space : Space) (op : MemOp) (ea : Word) (acq rel : Bool) : M Unit :=
  match space with
  | .g => accessG op ea acq rel
  | sp => accessLocal sp op ea acq rel

/-- A table or descriptor load of a PCIe window (R90, R340): the request leaves, and its instruction waits for the completion. -/
def windowLoad (s : State) (six pa n : Nat) (fx : List Effect) : Except Fail (Nat × List Effect) :=
  let x := s.strand six
  match x.got.find? (fun g => g.pa == pa) with
  | some g => match g.ans with
    | some a => if a.res = 0 then .ok (a.v.toNat % 2 ^ (8 * n), fx) else .error (.machine 2 pa)
    | none => .error (.wait .accept)
  | none =>
    if devicePending s six s.nextId then .error (.wait .score)
    else
      let a := pa - Config.windowBase
      let f := requester s six
      .error (.send (fx ++
        [.pkg { s.pkg with loads := s.pkg.loads ++ [⟨s.nextId, six, a, n, false, 0, f, false⟩] },
         .strand six { x with got := x.got ++ [⟨s.nextId, pa, none⟩] }, .output (.hostLoad f a n s.nextId), .fresh]))

/-- The effects and value of an ordinary load of `n` bytes in the issuing domain whose fault is not held, or why it does
not perform (R90). -/
def plainLoadHere (six asid : Nat) (pm : Bool) (va : Word) (n : Nat) (s : State) : Except Fail (Nat × List Effect) :=
  match resolveVa s six asid va false with
  | .error e => .error e
  | .ok (asid', va') =>
    match translate s (coreOf six) asid' pm va' .r with
    | none => .error (pageFail s (coreOf six) asid' va')
    | some x =>
      if behindHeld s s.nextId asid' va' n then .error (.wait .score)
      else if x.cls = .device then
        if inHostWindow x.pa then windowLoad s six x.pa n x.fx
        else if devicePending s six s.nextId then .error (.wait .score)
        else .ok (deviceBytes s pm x.pa n, x.fx)
      else if x.pod then (podLoad s asid' pm x n).map (fun v => (v, x.fx))
      else match memCheck s true x.pa n with
      | some u => .error (.machine u x.pa)
      | none =>
        if x.cls = .sync ∧ syncWaits s six x.pa n then .error (.wait .score)
        else
          let s' := applyAll x.fx s
          let y := s.strand six
          let r := match (if y.spec then taskOf s y else none) with
            | some (id, t) => specLoad s' id t (agentOf (coreOf six) (va'.toNat % 2 ^ 48)) x.cls x.pa n
            | none => l1Load s' (coreOf six) asid' va' x n
          .ok (r.1, x.fx ++ r.2)

/-- An ordinary load, the frames of the windows that it goes through read first (R90, R150, R155). -/
def plainLoad (s : State) (six asid : Nat) (pm : Bool) (va : Word) (n : Nat) : Except Fail (Nat × List Effect) :=
  throughRefills s six (s.strand six).sys.dsdepth va (fun es r => (r.1, es ++ r.2)) (plainLoadHere six asid pm va n)

/-- What comes of a load that an instruction makes beside a scalar one; `sub` is the subcode of its page fault (R90, R95, R134). -/
def finishLoad (va : Word) (sub : Nat) (r : Except Fail (Nat × List Effect)) : M Nat := do
  let s ← getS
  match r with
  | .ok (v, fx) => do puts fx; pure v
  | .error (.trap c u) => trap c u va
  | .error (.machine u pa) => trap 17 u (BitVec.ofNat 64 pa)
  | .error (.wait w) => stall w
  | .error (.send es) => do puts es; holdNow .accept
  | .error (.fetch a pm xs) => awaitCopy a pm xs
  | .error .page => trap 5 (if isCompute s.coreNo then sub else 5) va

/-- Whether a table or descriptor load stalls a speculative firing until it is the oldest (R299, R350). -/
def loadOldest (s : State) (n : Nat) (eas : List Word) : Bool :=
  eas.any (fun va => match resolveVa s s.six s.me.dom va false with
    | .error _ => false
    | .ok (asid, va') => match translate s s.coreNo asid s.me.sys.pm va' .r with
      | none => false
      | some y => y.pod || y.cls == .device)
    || specFull s .r n eas

/-- A table or descriptor load (R90): a fault traps PAGE with subcode TABLE, precisely. On a principal or chiplet core
every page fault has subcode MMU (R95). -/
def loadTable (va : Word) (n : Nat) : M Nat := do
  let s ← getS
  trapIf (rangeHit s s.coreNo .g s.me.dom va.toNat (va.toNat + n) true) 7 0 va
  stallIf (acqPending s s.six) .score
  if s.me.spec && loadOldest s n [va] then beOldest
  let s ← getS
  finishLoad va 2 (plainLoad s s.six s.me.dom s.me.sys.pm va n)

/-- A descriptor of `n` doublewords, lowest address first. -/
def loadWords (va : Word) : Nat → M (List Word)
  | 0 => pure []
  | n + 1 => do
    let w ← loadTable va 8
    let ws ← loadWords (va + 8) n
    pure (BitVec.ofNat 64 w :: ws)

end Sys2Proof.Machine
end

