-- ==== Sys2Proof/Machine/Operands.lean ====
section
/-! DEFINITION. Operand forms: what an instruction's word holds beside its operands (R44, R47, R53, R54), immediates and
displacements (R43, R45), addresses and spaces (R46, R92, R101), and the issue data each format gives. -/

namespace Sys2Proof.Machine

/-! ## Instruction words without their operands (R44, R54) -/

/-- Format A: major and fn; format V has fn at bit 25, format X at bit 20, format B has cc at bit 17. -/
def opA (major fn : Nat) : Nat := fn * 2 ^ 22 + major * 2 + 1
def opV (major fn : Nat) : Nat := fn * 2 ^ 25 + major * 2 + 1
def opX (major fn : Nat) : Nat := fn * 2 ^ 20 + major * 2 + 1
def opB (major cc : Nat) : Nat := cc * 2 ^ 17 + major * 2 + 1

/-- Formats without a function value: I, J, U. -/
def opJ (major : Nat) : Nat := major * 2 + 1

/-- Format I with a kind (majors 0x05 and 0x14): the kind lies at bit `lo` of the word. -/
def opK (major kind lo : Nat) : Nat := kind * 2 ^ lo + major * 2 + 1

/-- Format M with ord; `hi` is off[9] of major 0x0B. -/
def opM (major ord hi : Nat) : Nat := hi * 2 ^ 31 + ord * 2 ^ 20 + major * 2 + 1

/-- Atomics: the operation in fn[6:3]; the acquire and release bits belong to the operands (R54). -/
def opAt (operation : Nat) : Nat := operation * 2 ^ 25 + 0x0C * 2 + 1

/-- 16-bit forms: op and the f bit (R47). -/
def opC (op f : Nat) : Nat := f * 2 ^ 15 + op * 2

/-! ## Immediates, displacements, addresses -/

/-- A sign-extended immediate (R45, R84). -/
def sx (v : BitVec n) : Word := v.signExtend 64

/-- A zero-extended immediate (R84). -/
def zx (v : BitVec n) : Word := v.setWidth 64

/-- A PC-relative target: the displacement counts halfwords from the instruction's own address (R43). -/
def target (pc : Word) (disp : BitVec n) : Word := pc + sx disp * 2

/-- EA = base + off × size (R92). -/
def effAddr (base : Word) (off : BitVec n) (size : Nat) : Word := base + sx off * BitVec.ofNat 64 size

/-- The space codes of format M (R46). -/
def spaceOf (n : Nat) : Space :=
  match n with
  | 0 => .g | 1 => .c | 2 => .p | 3 => .l | _ => .d

/-- The space codes of the atomics (R54). -/
def atomSpace (n : BitVec 2) : Space :=
  match n.toNat with
  | 0 => .g | 1 => .c | 2 => .p | _ => .d

/-- The size of a size bit: a word or a doubleword (R54). -/
def sizeOf (z : BitVec 1) : Nat := if z = 0 then 4 else 8

/-! ## Issue data -/

/-- A C-stream instruction of 32 bits. -/
def infoC (enc w : Nat) (uses : List RegId) : Info :=
  { enc := enc, len := 4, w := w, strms := [.c], priv := false, uses := uses }

/-- A V-stream instruction. -/
def infoV (enc w : Nat) (uses : List RegId) : Info :=
  { enc := enc, len := 4, w := w, strms := [.v], priv := false, uses := uses }

/-- An instruction of both streams. -/
def infoB (enc w : Nat) (uses : List RegId) : Info :=
  { enc := enc, len := 4, w := w, strms := [.c, .v], priv := false, uses := uses }

/-- A privileged C-stream instruction. -/
def infoP (enc w : Nat) (uses : List RegId) : Info :=
  { enc := enc, len := 4, w := w, strms := [.c], priv := true, uses := uses }

/-- A 16-bit instruction: a C-stream one with w = 0 (R48). -/
def info16 (enc : Nat) (uses : List RegId) : Info :=
  { enc := enc, len := 2, w := 0, strms := [.c], priv := false, uses := uses }

/-- A load or store: space L exists in the V-stream only, and format M in the C-stream only (R13, R24, R53). -/
def infoM (enc : Nat) (space : Nat) (uses : List RegId) : Info :=
  { enc := enc, len := 4, w := 0, strms := if space = 3 then [] else [.c], priv := false, uses := uses }

/-- The registers that format A's fields name in the C-stream. -/
def usesDAB (d a b : BitVec 5) : List RegId := [.s d.toNat, .s a.toNat, .s b.toNat]
def usesDA (d a : BitVec 5) : List RegId := [.s d.toNat, .s a.toNat]

/-- A run of s registers from `n`. -/
def sRun (n count : Nat) : List RegId := (List.range count).map (fun i => .s (n + i))

/-- A run of v registers from `n`. -/
def vRun (n count : Nat) : List RegId := (List.range count).map (fun i => .v (n + i))

/-! ## Reading operands of the issuing strand -/

def getX (n : Nat) : M Word := do let s ← getS; pure (s.me.readX s.stream n)
def getSr (n : BitVec 5) : M Word := do let s ← getS; pure (s.me.readS n.toNat)
def getK (n : Nat) : M Word := do let s ← getS; pure (s.me.readK n)
def getOx (n : Nat) : M Word := do let s ← getS; pure (s.me.readOx n)
def getV (n : BitVec 5) : M VReg := do let s ← getS; pure (s.me.readV n.toNat)
def getM (n : Nat) : M Lane := do let s ← getS; pure (s.me.readM n)

/-- The PC of the instruction. -/
def getPc : M Word := do let s ← getS; pure (s.me.pcOf s.stream)

/-- Write a result of fixed latency. -/
def land (r : RegId) (p : PVal) (latency : Nat) : M Unit := modMe (fun x => x.result r p latency)

/-- Write a scoreboarded result into a register. -/
def scored (r : RegId) (p : PVal) : M Unit := modMe (fun x => x.write r p)

/-- Write a scoreboarded result into an s register a field names. -/
def giveS (d : BitVec 5) (w : Word) : M Unit := scored (.s d.toNat) (.word w)

/-- A jump to a target; bit 0 of a target traps ALIGN (R42). -/
def jumpTo (t : Word) : M Ctl := do
  trapIf (t.getLsbD 0) 4 0 t
  pure (.jump t)

end Sys2Proof.Machine
end

