-- ==== Sys2Proof/Machine/Integer.lean ====
section
/-! DEFINITION. Integer instructions of majors 0x00 to 0x07 (R45, R85 to R87) and their 16-bit forms (R48). -/

namespace Sys2Proof.Machine

/-! ## The functions of R85 to R87 -/

/-- Left rotation by bits [5:0] of a count. -/
def rotWord (a b : Word) : Word := a.rotateLeft (b.toNat % 64)

/-- Shifts by bits [5:0] of a count. -/
def shlWord (a b : Word) : Word := a <<< (b.toNat % 64)
def shrWord (a b : Word) : Word := a >>> (b.toNat % 64)
def shraWord (a b : Word) : Word := a.sshiftRight (b.toNat % 64)

/-- A truth value as a word. -/
def truth (b : Bool) : Word := if b then 1 else 0

/-- Counts of leading and trailing zero bits, 64 for zero, and of one bits. -/
def clzWord (a : Word) : Word := if a = 0 then 64 else BitVec.ofNat 64 (63 - Nat.log2 a.toNat)
def ctzWord (a : Word) : Word := BitVec.ofNat 64 (((List.range 64).find? (fun i => a.getLsbD i)).getD 64)
def popcWord (a : Word) : Word := BitVec.ofNat 64 ((List.range 64).filter (fun i => a.getLsbD i)).length

/-- The bytes in reverse order. -/
def bswapWord (a : Word) : Word :=
  BitVec.ofNat 64 ((List.range 8).foldl (fun acc i => acc * 256 + a.toNat / 256 ^ i % 256) 0)

/-- The upper half of a signed and of a natural product. -/
def mulhWord (a b : Word) : Word := BitVec.ofInt 64 (a.toInt * b.toInt / 2 ^ 64)
def mulhnWord (a b : Word) : Word := BitVec.ofNat 64 (a.toNat * b.toNat / 2 ^ 64)

/-- Division toward zero that never traps (R86). -/
def divWord (a b : Word) : Word := if b = 0 then BitVec.allOnes 64 else BitVec.ofInt 64 (a.toInt.tdiv b.toInt)
def divnWord (a b : Word) : Word := if b = 0 then BitVec.allOnes 64 else BitVec.ofNat 64 (a.toNat / b.toNat)
def remWord (a b : Word) : Word := if b = 0 then a else BitVec.ofInt 64 (a.toInt.tmod b.toInt)
def remnWord (a b : Word) : Word := if b = 0 then a else BitVec.ofNat 64 (a.toNat % b.toNat)

/-- A bit field extracted, and one replaced (R87). -/
def bfxWord (a : Word) (pos width : Nat) : Word := BitVec.ofNat 64 (a.toNat / 2 ^ pos % 2 ^ width)
def bfiWord (d a : Word) (pos width : Nat) : Word :=
  let m : Word := BitVec.ofNat 64 ((2 ^ width - 1) * 2 ^ pos)
  (d &&& ~~~m) ||| ((a <<< pos) &&& m)

/-! ## Shared forms -/

/-- Two operands and the old d to a result of fixed latency. -/
def aluProg (d a b : BitVec 5) (latency : Nat) (f : Word → Word → Word → Word) : M Ctl := do
  let x ← getSr a
  let y ← getSr b
  let z ← getSr d
  land (.s d.toNat) (.word (f x y z)) latency
  pure .next

/-- One operand to a result of latency 1. -/
def aluOne (d a : BitVec 5) (f : Word → Word) : M Ctl := do
  let x ← getSr a
  land (.s d.toNat) (.word (f x)) 1
  pure .next

/-- Two operands to a scoreboarded result. -/
def aluScored (d a b : BitVec 5) (f : Word → Word → Word) : M Ctl := do
  let x ← getSr a
  let y ← getSr b
  giveS d (f x y)
  pure .next

/-- Register-register forms with fn value `fn` (R85). -/
def alu (fn : Nat) (o : A3) (latency : Nat) (f : Word → Word → Word → Word) (s : State) : Out :=
  issue (infoC (opA 0x00 fn + o.bits) o.w.toNat (usesDAB o.d o.a o.b)) (aluProg o.d o.a o.b latency f) s

def aluSb (fn : Nat) (o : A3) (f : Word → Word → Word) (s : State) : Out :=
  issue (infoC (opA 0x00 fn + o.bits) o.w.toNat (usesDAB o.d o.a o.b)) (aluScored o.d o.a o.b f) s

def alu1 (fn : Nat) (o : A2) (f : Word → Word) (s : State) : Out :=
  issue (infoC (opA 0x00 fn + o.bits) o.w.toNat (usesDA o.d o.a)) (aluOne o.d o.a f) s

/-- Immediate forms of majors 0x01 to 0x04 (R87). -/
def aluImm (major : Nat) (o : Imm) (f : Word → Word → Word) (s : State) : Out :=
  issue (infoC (opJ major + o.bits) 0 [.s o.d.toNat, .s o.a.toNat]) (aluOne o.d o.a (fun x => f x (sx o.imm))) s

/-- Shift forms of major 0x05 (R54, R87). -/
def aluShift (kind : Nat) (o : Shift) (f : Word → Word → Word) (s : State) : Out :=
  issue (infoC (opK 0x05 kind 29 + o.bits) 0 [.s o.d.toNat, .s o.a.toNat]) (aluOne o.d o.a (fun x => f x (zx o.c))) s

/-- 16-bit forms on d and a (R48). -/
def alu16 (op f : Nat) (o : CR) (g : Word → Word → Word) (s : State) : Out :=
  issue (info16 (opC op f + o.bits) [.s o.d.toNat, .s o.a.toNat]) (aluProg o.d o.d o.a 1 (fun x y _ => g x y)) s

/-- 16-bit forms on d and an immediate (R48). -/
def alu16i (op : Nat) (o : CI) (g : Word → Word) (s : State) : Out :=
  issue (info16 (opC op 0 + o.bits) [.s o.d.toNat]) (aluOne o.d o.d g) s

/-! ## Register-register instructions -/

/-- ADD (R85). -/
def execAdd (o : A3) (s : State) : Out := alu 0 o 1 (fun a b _ => a + b) s

/-- SUB (R85). -/
def execSub (o : A3) (s : State) : Out := alu 1 o 1 (fun a b _ => a - b) s

/-- AND (R85). -/
def execAnd (o : A3) (s : State) : Out := alu 2 o 1 (fun a b _ => a &&& b) s

/-- OR (R85). -/
def execOr (o : A3) (s : State) : Out := alu 3 o 1 (fun a b _ => a ||| b) s

/-- XOR (R85). -/
def execXor (o : A3) (s : State) : Out := alu 4 o 1 (fun a b _ => a ^^^ b) s

/-- ANDN (R85). -/
def execAndn (o : A3) (s : State) : Out := alu 5 o 1 (fun a b _ => a &&& ~~~b) s

/-- ORN (R85). -/
def execOrn (o : A3) (s : State) : Out := alu 6 o 1 (fun a b _ => a ||| ~~~b) s

/-- XNOR (R85). -/
def execXnor (o : A3) (s : State) : Out := alu 7 o 1 (fun a b _ => ~~~(a ^^^ b)) s

/-- SHL (R85). -/
def execShl (o : A3) (s : State) : Out := alu 8 o 1 (fun a b _ => shlWord a b) s

/-- SHR (R85). -/
def execShr (o : A3) (s : State) : Out := alu 9 o 1 (fun a b _ => shrWord a b) s

/-- SHRA (R85). -/
def execShra (o : A3) (s : State) : Out := alu 10 o 1 (fun a b _ => shraWord a b) s

/-- ROT (R85). -/
def execRot (o : A3) (s : State) : Out := alu 11 o 1 (fun a b _ => rotWord a b) s

/-- MIN (R85). -/
def execMin (o : A3) (s : State) : Out := alu 12 o 1 (fun a b _ => if a.slt b then a else b) s

/-- MAX (R85). -/
def execMax (o : A3) (s : State) : Out := alu 13 o 1 (fun a b _ => if a.slt b then b else a) s

/-- MINN (R85). -/
def execMinn (o : A3) (s : State) : Out := alu 14 o 1 (fun a b _ => if a.ult b then a else b) s

/-- MAXN (R85). -/
def execMaxn (o : A3) (s : State) : Out := alu 15 o 1 (fun a b _ => if a.ult b then b else a) s

/-- CMPEQ (R85). -/
def execCmpeq (o : A3) (s : State) : Out := alu 16 o 1 (fun a b _ => truth (a == b)) s

/-- CMPLT (R85). -/
def execCmplt (o : A3) (s : State) : Out := alu 17 o 1 (fun a b _ => truth (a.slt b)) s

/-- CMPLTN (R85). -/
def execCmpltn (o : A3) (s : State) : Out := alu 18 o 1 (fun a b _ => truth (a.ult b)) s

/-- CMPLE (R85). -/
def execCmple (o : A3) (s : State) : Out := alu 19 o 1 (fun a b _ => truth (a.sle b)) s

/-- CMPLEN (R85). -/
def execCmplen (o : A3) (s : State) : Out := alu 20 o 1 (fun a b _ => truth (a.ule b)) s

/-- SEL (R85): the condition is the old d. -/
def execSel (o : A3) (s : State) : Out := alu 21 o 1 (fun a b d => if d ≠ 0 then a else b) s

/-- MUL (R85), latency 3 (R39). -/
def execMul (o : A3) (s : State) : Out := alu 24 o 3 (fun a b _ => a * b) s

/-- MULH (R85), latency 3 (R39). -/
def execMulh (o : A3) (s : State) : Out := alu 25 o 3 (fun a b _ => mulhWord a b) s

/-- MULHN (R85), latency 3 (R39). -/
def execMulhn (o : A3) (s : State) : Out := alu 26 o 3 (fun a b _ => mulhnWord a b) s

/-- DIV (R85, R86), scoreboarded (R38). -/
def execDiv (o : A3) (s : State) : Out := aluSb 28 o divWord s

/-- DIVN (R85, R86), scoreboarded (R38). -/
def execDivn (o : A3) (s : State) : Out := aluSb 29 o divnWord s

/-- REM (R85, R86), scoreboarded (R38). -/
def execRem (o : A3) (s : State) : Out := aluSb 30 o remWord s

/-- REMN (R85, R86), scoreboarded (R38). -/
def execRemn (o : A3) (s : State) : Out := aluSb 31 o remnWord s

/-- CLZ (R85). -/
def execClz (o : A2) (s : State) : Out := alu1 32 o clzWord s

/-- CTZ (R85). -/
def execCtz (o : A2) (s : State) : Out := alu1 33 o ctzWord s

/-- POPC (R85). -/
def execPopc (o : A2) (s : State) : Out := alu1 34 o popcWord s

/-- BSWAP (R85). -/
def execBswap (o : A2) (s : State) : Out := alu1 35 o bswapWord s

/-- SEXTB (R85). -/
def execSextb (o : A2) (s : State) : Out := alu1 36 o (fun a => sx (a.setWidth 8)) s

/-- SEXTH (R85). -/
def execSexth (o : A2) (s : State) : Out := alu1 37 o (fun a => sx (a.setWidth 16)) s

/-- SEXTW (R85). -/
def execSextw (o : A2) (s : State) : Out := alu1 38 o (fun a => sx (a.setWidth 32)) s

/-! ## Immediate instructions -/

/-- ADDI (R87). -/
def execAddi (o : Imm) (s : State) : Out := aluImm 0x01 o (fun a b => a + b) s

/-- ANDI (R87). -/
def execAndi (o : Imm) (s : State) : Out := aluImm 0x02 o (fun a b => a &&& b) s

/-- ORI (R87). -/
def execOri (o : Imm) (s : State) : Out := aluImm 0x03 o (fun a b => a ||| b) s

/-- XORI (R87). -/
def execXori (o : Imm) (s : State) : Out := aluImm 0x04 o (fun a b => a ^^^ b) s

/-- SHLI (R87). -/
def execShli (o : Shift) (s : State) : Out := aluShift 0 o shlWord s

/-- SHRI (R87). -/
def execShri (o : Shift) (s : State) : Out := aluShift 1 o shrWord s

/-- SHRAI (R87). -/
def execShrai (o : Shift) (s : State) : Out := aluShift 2 o shraWord s

/-- ROTI (R87). -/
def execRoti (o : Shift) (s : State) : Out := aluShift 3 o rotWord s

/-- BFX (R87): the field at p of width n + 1, zero-extended. -/
def execBfx (o : Field) (s : State) : Out :=
  issue (infoC (opK 0x05 4 29 + o.bits) 0 [.s o.d.toNat, .s o.a.toNat])
    (aluOne o.d o.a (fun x => bfxWord x o.p.toNat (o.n.toNat + 1))) s

/-- BFI (R87): the old d with its field at p of width n + 1 replaced by the low bits of a. -/
def execBfi (o : Field) (s : State) : Out :=
  issue (infoC (opK 0x05 5 29 + o.bits) 0 [.s o.d.toNat, .s o.a.toNat])
    (aluProg o.d o.a o.a 1 (fun x _ d => bfiWord d x o.p.toNat (o.n.toNat + 1))) s

/-- LUI (R45). -/
def execLui (o : Upper) (s : State) : Out :=
  issue (infoC (opJ 0x06 + o.bits) 0 [.s o.d.toNat])
    (do land (.s o.d.toNat) (.word (sx (o.imm ++ 0#12))) 1; pure .next) s

/-- LEA (R45). -/
def execLea (o : Upper) (s : State) : Out :=
  issue (infoC (opJ 0x07 + o.bits) 0 [.s o.d.toNat])
    (do let pc ← getPc; land (.s o.d.toNat) (.word (pc + sx o.imm)) 1; pure .next) s

/-! ## 16-bit forms (R48) -/

/-- C_ADD (R48). -/
def execCAdd (o : CR) (s : State) : Out := alu16 1 0 o (fun a b => a + b) s

/-- C_SUB (R48). -/
def execCSub (o : CR) (s : State) : Out := alu16 1 1 o (fun a b => a - b) s

/-- C_MOV (R48). -/
def execCMov (o : CR) (s : State) : Out := alu16 2 0 o (fun _ b => b) s

/-- C_AND (R48). -/
def execCAnd (o : CR) (s : State) : Out := alu16 2 1 o (fun a b => a &&& b) s

/-- C_OR (R48). -/
def execCOr (o : CR) (s : State) : Out := alu16 3 0 o (fun a b => a ||| b) s

/-- C_XOR (R48). -/
def execCXor (o : CR) (s : State) : Out := alu16 3 1 o (fun a b => a ^^^ b) s

/-- C_ADDI (R48). -/
def execCAddi (o : CI) (s : State) : Out := alu16i 4 o (fun a => a + sx o.imm) s

/-- C_LI (R48). -/
def execCLi (o : CI) (s : State) : Out := alu16i 5 o (fun _ => sx o.imm) s

/-- C_SHLI (R48). -/
def execCShli (o : CI) (s : State) : Out := alu16i 6 o (fun a => shlWord a (zx o.imm)) s

/-- C_SHRI (R48). -/
def execCShri (o : CI) (s : State) : Out := alu16i 7 o (fun a => shrWord a (zx o.imm)) s

/-- C_SHRAI (R48). -/
def execCShrai (o : CI) (s : State) : Out := alu16i 8 o (fun a => shraWord a (zx o.imm)) s

end Sys2Proof.Machine
end

