-- ==== Sys2Proof/Machine/Control.lean ====
section
/-! DEFINITION. Control transfer (R42, R43, R88 to R91), the end of a firing (R32), YIELD (R91, R160) and ALIGN (R193),
with the 16-bit forms (R48). -/

namespace Sys2Proof.Machine

/-! ## Branches (R88) -/

/-- A branch on two registers. -/
def branchBody (a b : Nat) (disp : Word) (cond : Word → Word → Bool) : M Ctl := do
  let s ← getS
  let pc ← getPc
  if cond (s.me.readS a) (s.me.readS b) then jumpTo (pc + disp) else pure .next

/-- B.cc: major 0x10 (R54). -/
def branch (cc : Nat) (o : Br) (cond : Word → Word → Bool) (s : State) : Out :=
  issue (infoC (opB 0x10 cc + o.bits) 0 [.s o.a.toNat, .s o.b.toNat])
    (branchBody o.a.toNat o.b.toNat (sx o.disp * 2) cond) s

/-- B_EQ (R88). -/
def execBEq (o : Br) (s : State) : Out := branch 0 o (fun a b => a == b) s

/-- B_NE (R88). -/
def execBNe (o : Br) (s : State) : Out := branch 1 o (fun a b => a != b) s

/-- B_LT (R88). -/
def execBLt (o : Br) (s : State) : Out := branch 2 o (fun a b => a.slt b) s

/-- B_GE (R88). -/
def execBGe (o : Br) (s : State) : Out := branch 3 o (fun a b => b.sle a) s

/-- B_LTN (R88). -/
def execBLtn (o : Br) (s : State) : Out := branch 4 o (fun a b => a.ult b) s

/-- B_GEN (R88). -/
def execBGen (o : Br) (s : State) : Out := branch 5 o (fun a b => b.ule a) s

/-- C_BZ (R48): B.EQ s(8 + a), s0. -/
def execCBz (o : CB) (s : State) : Out :=
  issue (info16 (opC 9 0 + o.bits) [.s (8 + o.a.toNat)]) (branchBody (8 + o.a.toNat) 0 (sx o.disp * 2) (fun a b => a == b)) s

/-- C_BNZ (R48): B.NE s(8 + a), s0. -/
def execCBnz (o : CB) (s : State) : Out :=
  issue (info16 (opC 10 0 + o.bits) [.s (8 + o.a.toNat)])
    (branchBody (8 + o.a.toNat) 0 (sx o.disp * 2) (fun a b => a != b)) s

/-! ## Jumps (R89, R90) -/

/-- JMP and CALL (R89): the link has latency 1 (R39). -/
def execJmp (o : Jmp) (s : State) : Out :=
  issue (infoC (opJ 0x11 + o.bits) 0 [.s o.link.toNat]) (do
    let pc ← getPc
    land (.s o.link.toNat) (.word (pc + 4)) 1
    jumpTo (target pc o.disp)) s

/-- JR (R89): a is read before the link is written. `len` bytes follow to the return address. -/
def jumpReg (link a len : Nat) : M Ctl := do
  let s ← getS
  let pc ← getPc
  let t := s.me.readS a
  trapIf (t.getLsbD 0) 4 0 t
  writeS link (pc + BitVec.ofNat 64 len)
  pure (.jump t)

/-- JR (R89). -/
def execJr (o : A2) (s : State) : Out :=
  issue (infoC (opA 0x12 0 + o.bits) o.w.toNat (usesDA o.d o.a)) (jumpReg o.d.toNat o.a.toNat 4) s

/-- C_JR (R48): JR s0, a. -/
def execCJr (o : CA) (s : State) : Out :=
  issue (info16 (opC 13 0 + o.bits) [.s o.a.toNat]) (jumpReg 0 o.a.toNat 2) s

/-- C_RET (R48): JR s0, s29. -/
def execCRet (s : State) : Out := issue (info16 (opC 13 1) [.s 29]) (jumpReg 0 29 2) s

/-- JTAB (R90). -/
def execJtab (o : AB) (s : State) : Out :=
  issue (infoC (opA 0x12 1 + o.bits) o.w.toNat [.s o.a.toNat, .s o.b.toNat]) (do
    let i ← getSr o.a
    let t ← getSr o.b
    trapIf (decide (t.toNat % 4 ≠ 0)) 4 0 t
    let n ← loadTable t 4
    if n ≤ i.toNat then pure .next
    else do
      let d ← loadTable (t + 4 + 4 * i) 4
      jumpTo (t + sx (BitVec.ofNat 32 d))) s

/-! ## The end of a firing (R32) -/

/-- The logical strand 8c + k of a slot in its group (R287). -/
def logicalStrand (g : Group) (six : Nat) : Option Nat :=
  (g.cores.zipIdx.find? (fun p => p.1 == coreOf six)).map (fun p => 8 * p.2 + slotOf six)

/-- A firing that has passed steps 1 to 3 of R32 ends: an untimed task is over, a timed one finished (R301), an actor free
to fire again (R304); every pending write lands (R37) and the slot is freed. -/
def endFiring (six : Nat) (s : State) : List Effect :=
  let x := s.strand six
  let core := coreOf six
  chain
    [fun s => match x.job with
      | .task id => (match s.task id with
        | some t => [.task id (if t.timed then some { t with st := .finished } else none)]
        | none => [])
      | .actor n =>
        let c := s.core core
        (match tblGet none c.actors n with
        | some a => [.core core { c with actors := tblSet none c.actors n (some { a with busy := false, fired := a.fired + 1 }) }]
        | none => [])
      | _ => [],
     fun s => freeSlot s six x.landAll] s

/-- The save routine's FIN (R188): the slot is freed, its firing kept as a saved context of its group. -/
def saveFiring (six : Nat) (s : State) : List Effect :=
  let x := s.strand six
  chain
    [fun s => match x.gid with
      | none => []
      | some g => match s.group g with
        | none => []
        | some y => match logicalStrand y six with
          | none => []
          | some k =>
            -- A group that has been killed meanwhile keeps no context, and the frames give up their HOLD (R157).
            if y.failed then unholdAll (x.tops.map Prod.snd) s
            else [.group g (some { y with ctxs := tblSet none y.ctxs k (some
              { job := x.job, holds := x.tops.map Prod.snd, tops := x.tops, nest := x.nest, aligned := x.aligned }) })],
     fun s => freeSlot s six x.landAll] s

/-- Whether a strand's save routine runs (R188). -/
def Strand.saving (x : Strand) : Bool := x.sys.pm && decide (x.sys.tcause.toNat % 65536 = 18)

/-- Whether steps 1 to 3 of R32 are over at once. -/
def finReady (s : State) : Bool := !s.me.sys.vrun && s.me.await.isEmpty && !outstanding s s.six

/-- Steps 1 to 3 of R32: the V-stream idle, every token written, every access performed. -/
def finWaits (skipV : Bool) : M Unit := do
  let s ← getS
  stallIf (!skipV && s.me.sys.vrun) .fin
  stallIf (decide (s.me.await ≠ [])) .fin
  stallIf (outstanding s s.six) .fin

/-- FIN (R32, R154, R178, R188). -/
def finBody : M Ctl := do
  let s ← getS
  let x := s.me
  trapIf (!x.saving && decide (x.sys.dsdepth ≠ 0)) 13 10 0
  finWaits x.saving
  let s ← getS
  puts (if x.saving then saveFiring s.six s else endFiring s.six s)
  pure .placed

/-- FIN. -/
def execFin (o : A0) (s : State) : Out := issue (infoC (opA 0x13 0 + o.bits) o.w.toNat []) finBody s

/-- C_FIN (R48). -/
def execCFin (s : State) : Out := issue (info16 (opC 14 0) []) finBody s

/-! ## YIELD and ALIGN -/

/-- YIELD (R91, R160): the other general slots of its priority whose C-stream requests at that moment are recorded. -/
def yieldBody : M Ctl := do
  let s ← getS
  let me := s.six
  let core := s.coreNo
  let c := s.core core
  let set := c.reqs.filter (fun k => decide (k < 6 ∧ 8 * core + k ≠ me ∧ (s.strand (8 * core + k)).sys.pri = s.me.sys.pri))
  let rest := c.yield.filter (fun r => r.1 != slotOf me)
  if slotOf me < 6 ∧ set ≠ [] then put (.core core { c with yield := rest ++ [(slotOf me, set)] }) else pure ()
  pure .next

/-- YIELD. -/
def execYield (o : A0) (s : State) : Out := issue (infoC (opA 0x13 1 + o.bits) o.w.toNat []) yieldBody s

/-- C_YIELD (R48). -/
def execCYield (s : State) : Out := issue (info16 (opC 14 1) []) yieldBody s

/-- The alignment set of a strand (R193): the same slot of the quad's other cores, running firings of the same group. -/
def alignSet (s : State) (six : Nat) : List Nat :=
  let core := coreOf six
  ((List.range 4).map (fun i => 8 * (quadOf core * 4 + i) + slotOf six)).filter (fun k =>
    let y := s.strand k
    decide (k ≠ six ∧ y.st ≠ .free ∧ y.gid = (s.strand six).gid ∧ y.gid ≠ none))

/-- Whether a strand waits in an ALIGN. -/
def Strand.aligning (y : Strand) : Bool := match y.c.wait with | .align _ _ => true | _ => false

/-- The waits of an alignment set end, each strand continuing after its ALIGN with the stall count of that instruction (R34, R193). -/
def alignDone (ks : List Nat) (s : State) : List Effect :=
  ks.filterMap (fun k =>
    let y := s.strand k
    match y.c.wait with
    | .align _ w => some (.strand k ((y.setPc .c (y.c.pc + 4)).stepped .c w))
    | _ => none)

/-- Whether an ALIGN has met its set (R193): each other strand waits in an ALIGN, at a different PC for nobody of the set, or is no
longer ACTIVE; on a principal or chiplet core it does at once. -/
def alignMet (s : State) (six : Nat) : Bool :=
  !isCompute (coreOf six) || (alignSet s six).all (fun k => decide ((s.strand k).st ≠ .active) || (s.strand k).aligning)

/-- ALIGN (R91, R193): a wait that an entry has ended is complete when the instruction executes again (R185); 256 of its core's
cycles end it too. -/
def execAlign (o : A0) (s : State) : Out :=
  issue (infoC (opA 0x13 2 + o.bits) o.w.toNat []) (do
    let s ← getS
    let now := (s.core s.coreNo).cycle
    let since := match s.me.c.wait with | .align t _ => t | _ => now
    if alignMet s s.six then puts (alignDone (alignSet s s.six) s)
    else stallIf (!s.me.aligned.contains s.me.c.pc && decide (now < since + 256)) (.align since o.w.toNat)
    modMe (fun x => { x with aligned := x.aligned.erase x.c.pc })
    pure .next) s

end Sys2Proof.Machine
end

