-- ==== Sys2Proof/Machine/Wide.lean ====
section
/-! DEFINITION. Accesses of many words by one instruction (R134): every word is checked before any takes effect, in the
order of R94, and then each performs as a word of its own. -/

namespace Sys2Proof.Machine

/-- A check that a word fails (R94): the number of the check, the trap's cause and subcode, and its TADDR. -/
structure WordFail where
  check : Nat
  ea : Word
  cause : Nat
  sub : Nat
  addr : Word

/-- The trap of a store to a page of another package by the STATE its home has sent (R259, R351). -/
def podStoreTrap (state : Nat) : Option Nat := if state = 1 then some 8 else if state = 2 then some 9 else none

/-- The check of R94 that a word fails, with its trap; none where it passes. TADDR is the word's address, and for MACHINE the physical
one, or 0 (R183). -/
def wordFail (s : State) (space : Space) (isLoad : Bool) (ea : Word) (n : Nat) : Option WordFail :=
  let x := s.me
  let fail := fun (k c u : Nat) => some (WordFail.mk k ea c u ea)
  let check := fun (k u pa : Nat) => some (WordFail.mk k ea 17 u (BitVec.ofNat 64 pa))
  let page := fail 4 5 (if isCompute s.coreNo then 4 else 5)
  match space with
  | .g =>
    if rangeHit s s.coreNo .g x.dom ea.toNat (ea.toNat + n) isLoad then fail 3 7 0
    else match resolveVa s s.six x.dom ea (!isLoad) with
      | .error (.machine u pa) => check 4 u pa
      | .error _ => fail 4 6 3
      | .ok (asid, va) =>
        match translate s s.coreNo asid x.sys.pm va (if isLoad then .r else .w) with
        | none => match pageFail s s.coreNo asid va with
          | .machine u pa => check 4 u pa
          | _ => page
        | some y =>
          if y.cls = .device then fail 5 6 2
          else if y.pod then
            if !s.pkg.fab.live.getLsbD (y.pa / 2 ^ 44 % 128) then check 5 2 y.pa
            else match keptCopy s asid x.sys.pm y n with
            | none => none
            | some c =>
              if c.res = 1 then page
              else if isLoad then (if c.res = 17 then check 5 3 y.pa else none)
              else (podStoreTrap c.state).bind (fun k => fail 5 k 0)
          else if !isLoad && y.cls == .append then fail 5 8 0
          else if !isLoad && y.cls == .sealed then fail 5 9 0
          else match memCheck s isLoad y.pa n with
            | some u => check 5 u y.pa
            | none => none
  | _ =>
    match localLoc s s.six space ea n with
    | none => fail 2 6 1
    | some l =>
      let (sp, owner, lo) := l.span
      if rangeHit s s.coreNo sp owner lo (lo + n) isLoad then fail 3 7 0
      else if isLoad && l.poisoned s n then check 5 (match l with | .p .. => 1 | .d .. => 3) 0
      else none

/-- The failure that decides (R134): the earliest check that some word fails, at the lowest address that fails it. -/
def worst (best : Option WordFail) (x : WordFail) : Option WordFail :=
  match best with
  | none => some x
  | some y => if x.check < y.check ∨ (x.check = y.check ∧ x.ea.toNat < y.ea.toNat) then some x else some y

/-- Check a list of words of `n` bytes, each loaded or stored. -/
def checkWords (space : Space) (isLoad : Bool) (n : Nat) (eas : List Word) : M Unit := do
  let s ← getS
  match (eas.filterMap (fun a => wordFail s space isLoad a n)).foldl worst none with
  | some f => trap f.cause f.sub f.addr
  | none => pure ()

/-- The translation of a word of the issuing domain that is a pod address. -/
def podWord (s : State) (isLoad : Bool) (ea : Word) : Option (Nat × Xl) :=
  match resolveVa s s.six s.me.dom ea (!isLoad) with
  | .error _ => none
  | .ok (asid, va) => match translate s s.coreNo asid s.me.sys.pm va (if isLoad then .r else .w) with
    | some y => if y.pod then some (asid, y) else none
    | none => none

/-- What is to be fetched from other packages before a word is checked, as domain, privilege, class, address and width: frames of the
windows that it goes through (R150, R155); where it lies in a live member and nothing of it is kept here, what its home says of it, and
for a store the STATE of its frame (R134, R351). -/
def wordLacking (s : State) (isLoad : Bool) (n : Nat) (ea : Word) : List (Nat × Bool × Nat × Nat × Nat) :=
  match resolveVa s s.six s.me.dom ea (!isLoad) with
  | .error (.fetch i pm xs) => xs.map (fun x => (i, pm, x))
  | .error _ => []
  | .ok _ => match podWord s isLoad ea with
    | none => []
    | some (asid, x) =>
      if s.pkg.fab.live.getLsbD (x.pa / 2 ^ 44 % 128) && (keptCopy s asid s.me.sys.pm x n).isNone then
        [(asid, s.me.sys.pm, x.cls.leaf, x.pa, n)]
      else []

/-- What is to be fetched before the words of an access are checked. -/
def copiesLacking (s : State) (space : Space) (isLoad : Bool) (n : Nat) (eas : List Word) : List (Nat × Bool × Nat × Nat × Nat) :=
  if space ≠ .g then [] else eas.flatMap (wordLacking s isLoad n)

/-- Wait to be the oldest where R97, R299 or R350 asks it of the words. -/
def speculationWaits (space : Space) (isLoad : Bool) (n : Nat) (eas : List Word) : M Unit := do
  let s ← getS
  if s.me.spec && (decide (space ≠ .g) || specFull s (if isLoad then .r else .w) n eas
      || eas.any (fun a => (podWord s isLoad a).isSome)) then beOldest
  else pure ()

/-- Load one word that has passed its checks. -/
def loadWord (space : Space) (n : Nat) (ea : Word) : M Nat := do
  let s ← getS
  match space with
  | .g => finishLoad ea 4 (plainLoad s s.six s.me.dom s.me.sys.pm ea n)
  | sp =>
    match localLoc s s.six sp ea n with
    | some l => pure (l.read s n)
    | none => trap 6 1 ea

/-- A word of a SYNC page that its strand stores without speculation, with its domain, address and translation. -/
def syncWord (s : State) (ea : Word) : Option (Nat × Word × Xl) :=
  match (if s.me.spec then .error .page else resolveVa s s.six s.me.dom ea true) with
  | .error _ => none
  | .ok (asid, va) => match translate s s.coreNo asid s.me.sys.pm va .w with
    | some x => if x.cls = .sync && !x.pod then some (asid, va, x) else none
    | none => none

/-- A word that the V-stream stores clears its own strand's reservation too: the two streams are two agents (R103, R140,
R266). -/
def clearOwn (ea : Word) (n : Nat) (s : State) : List Effect :=
  match s.stream, resolveVa s s.six s.me.dom ea true with
  | .v, .ok (asid, va) =>
    match translate s s.coreNo asid s.me.sys.pm va .w with
    | some x => if s.me.spec then [] else clearRes none 0 x.pa n s
    | none => []
  | _, _ => []

/-- A word of a SYNC page stored and validated at once. -/
def storeSync (h : Held) (ea : Word) (n v : Nat) (s : State) : Except Fail (List Effect) :=
  match syncWord s ea with
  | none => .error .page
  | some (asid, va, x) =>
    if behindHeld s h.id asid va n then .error (.wait .score)
    else .ok (chain [fun _ => x.fx, homeWrite h asid va x.pa n v] s)

/-- Store one word that has passed its checks. A word of a SYNC page reaches its sharers and is validated at once
(R254). -/
def storeWord (space : Space) (n : Nat) (ea : Word) (v : Nat) : M Unit := do
  match space with
  | .g => do
    let h ← request (.store n (BitVec.ofNat 64 v)) ea false false
    let s ← getS
    let r : Except Fail (List Effect) :=
      if (syncWord s ea).isSome then throughRefills s h.six h.depth ea List.append (storeSync h ea n v)
      else performOp { h with now := false } s
    match r with
    | .ok es => puts (chain [fun _ => es, clearOwn ea n] s)
    | .error (.trap c u) => trap c u ea
    | .error (.machine u pa) => trap 17 u (BitVec.ofNat 64 pa)
    | .error (.wait w) => stall w
    | .error _ => trap 5 (if isCompute s.coreNo then 4 else 5) ea
  | sp => do
    let s ← getS
    match localLoc s s.six sp ea n with
    | some l => puts (l.write n v s)
    | none => trap 6 1 ea

/-- Load a list of words in order. -/
def loadEach (space : Space) (n : Nat) : List Word → M (List Nat)
  | [] => pure []
  | a :: r => do
    let v ← loadWord space n a
    let vs ← loadEach space n r
    pure (v :: vs)

/-- Store a list of words in order. -/
def storeEach (space : Space) (n : Nat) : List (Word × Nat) → M Unit
  | [] => pure ()
  | (a, v) :: r => do
    storeWord space n a v
    storeEach space n r

/-- An access of many words waits for the strand's pending acquires (R98, R101). -/
def waitAcquires : M Unit := do
  let s ← getS
  stallIf (acqPending s s.six) .score

/-- Wait for what is to be fetched from other packages, if anything, after the strand's acquires and as a firing that is not speculative
(R350). -/
def awaitCopies (space : Space) (isLoad : Bool) (n : Nat) (eas : List Word) : M Unit := do
  let s ← getS
  if (copiesLacking s space isLoad n eas).isEmpty then pure ()
  else do
    waitAcquires
    speculationWaits space isLoad n eas
    let s ← getS
    puts (chain ((copiesLacking s space isLoad n eas).map (fun p => fetchCopies s.six p.1 p.2.1 [p.2.2])) s)
    holdNow .accept

/-- Whether an atomic of the issuing strand on one of the words of a local access has not performed (R179, R269, R270). -/
def banksPending (s : State) (space : Space) (n : Nat) (eas : List Word) : Bool :=
  eas.any (fun a => (localLoc s s.six space a n).any (fun l => bankPending s s.six l n))

/-- An access of many words of a local space waits for the strand's atomics on them. -/
def waitBanks (space : Space) (n : Nat) (eas : List Word) : M Unit := do
  let s ← getS
  stallIf (banksPending s space n eas) .score

/-- Load words: what other packages say of them, checks, waits, values. -/
def wideLoad (space : Space) (n : Nat) (eas : List Word) : M (List Nat) := do
  awaitCopies space true n eas
  checkWords space true n eas
  waitAcquires
  waitBanks space n eas
  speculationWaits space true n eas
  loadEach space n eas

/-- The waits of a store of words: the strand's acquires, speculation, and SYNC words not yet validated. -/
def storeWaits (space : Space) (n : Nat) (eas : List Word) : M Unit := do
  waitAcquires
  waitBanks space n eas
  speculationWaits space false n eas
  let s ← getS
  stallIf (decide (space = .g) && eas.any (fun a => (syncWord s a).any (fun p => syncWaits s s.six p.2.2.pa n))) .score

/-- Store words: checks, waits, effects, the first first; in the V-stream an impure act (R311). -/
def wideStore (space : Space) (n : Nat) (ws : List (Word × Nat)) : M Unit := do
  awaitCopies space false n (ws.map Prod.fst)
  checkWords space false n (ws.map Prod.fst)
  storeWaits space n (ws.map Prod.fst)
  storeEach space n ws
  impure

/-- The addresses of `count` words of `n` bytes from an address. -/
def wordAddrs (ea : Word) (n count : Nat) : List Word := (List.range count).map (fun i => ea + BitVec.ofNat 64 (n * i))

end Sys2Proof.Machine
end

