-- ==== Sys2Proof/Machine/Hulls.lean ====
section
/-! DEFINITION. Hulls of the range-overlap scoreboard and the range-lock table (R194, R203, R204). -/

namespace Sys2Proof.Machine

/-- The hulls of the bytes [lo, hi) of a space named by a strand: in C one hull for each scratchpad it runs through. An
empty range registers none. -/
def hullsOf (s : State) (six : Nat) (space : Space) (lo hi : Nat) : List Hull :=
  let x := s.strand six
  let core := coreOf six
  if hi ≤ lo then []
  else match space with
    | .g => [⟨.g, x.dom, lo, hi⟩]
    | .p => [⟨.p, core, lo, hi⟩]
    | .d => [⟨.d, dieOf core, lo, hi⟩]
    | .c =>
      (List.range ((hi - 1) / 2 ^ 19 - lo / 2 ^ 19 + 1)).filterMap (fun i =>
        let j := lo / 2 ^ 19 + i
        (cCore s x.gid core j).map (fun p =>
          (⟨.p, p, max lo (j * 2 ^ 19) - j * 2 ^ 19, min hi ((j + 1) * 2 ^ 19) - j * 2 ^ 19⟩ : Hull)))
    | .l => []

/-- Whether two lists of hulls share a location. -/
def hullsMeet (xs ys : List Hull) : Bool :=
  xs.any (fun x => ys.any (fun y => y.meets x.space x.owner x.lo x.hi))

/-- Whether an earlier command's hulls conflict with a later one's (R203). -/
def conflicts (r1 w1 r2 w2 : List Hull) : Bool := hullsMeet w1 (r2 ++ w2) || hullsMeet r1 w2

/-- Whether the scoreboard of a cluster is full (R203): 64 entries, none taken by a COPY that moves no byte (R199), one by a
BPREF only until it begins (R202), one by a matrix command that registers a hull (R225). -/
def scoreboardFull (c : Cluster) : Bool :=
  decide (64 ≤ (c.cmds.filter (fun k => (k.kind != .copy || decide (k.len ≠ 0)) && !(k.kind == .bpref && k.begun))).length
    + (c.mx.filter (fun k => !k.reads.isEmpty)).length)

end Sys2Proof.Machine
end

