-- ==== Sys2Proof/Machine/Messages.lean ====
section
/-! DEFINITION. Messages, active messages and remote transfers: the instructions of major 0x18 (R167 to R178). -/

namespace Sys2Proof.Machine

/-! ## Destination words (R167, R168) -/

def dwLen (a : Word) : Nat := a.toNat / 2 ^ 26 % 4
def dwReply (a : Word) : Bool := a.getLsbD 25
def dwFifo (a : Word) : Bool := a.getLsbD 24
def dwAct (a : Word) : Nat := a.toNat / 2 ^ 19 % 32
def dwInp (a : Word) : Nat := a.toNat / 2 ^ 17 % 4
def dwCore (a : Word) : Nat := a.toNat % 1024

/-- Whether a destination word that software supplies is illegal (R167). -/
def badDest (a : Word) : Bool :=
  decide (2 ^ 28 ≤ a.toNat) || decide (a.toNat / 2 ^ 10 % 2 ^ 7 ≠ 0)
    || (!dwFifo a && decide (dwAct a ≠ 0 ∨ dwInp a ≠ 0)) || (dwFifo a && dwReply a)

/-- The logical core number of a strand in its group. -/
def logicalCore (s : State) (six : Nat) : Nat :=
  (((s.strand six).gid.bind s.group).map (fun g => g.cores.findIdx (fun c => c == coreOf six))).getD 0

/-- The physical core of a logical number in a strand's group (R167), none where it is not bound. -/
def boundCore (s : State) (six n : Nat) : Option Nat :=
  ((s.strand six).gid.bind s.group).bind (fun g => g.cores[n]?)

/-- The header a receiver sees (R168): the sender's logical number in CORE, LEN as sent, KIND 0. -/
def headerOf (a : Word) (len core : Nat) : Word :=
  BitVec.ofNat 64 (a.toNat / 2 ^ 10 % 2 ^ 16 * 2 ^ 10 + len * 2 ^ 26 + core)

/-- The header with LEN replaced. -/
def withLen (a : Word) (len : Nat) : Word := BitVec.ofNat 64 (a.toNat % 2 ^ 26 + len * 2 ^ 26)

/-! ## Sending (R169, R170, R172) -/

/-- A run of s registers read. -/
def readRun (x : Strand) (b n : Nat) : List Word := (List.range n).map (fun i => x.readS (b + i))

/-- Checks 1 and 2 of R172: the target core. -/
def destCore (a : Word) (bad : Bool) : M Nat := do
  let s ← getS
  trapIf bad 16 1 a
  match boundCore s s.six (dwCore a) with
  | some c => pure c
  | none => trap 16 2 a

/-- Check 6 of R172: the send buffer of 8 entries (R169). -/
def checkBuffer (a : Word) (reply : Bool) : M Unit := do
  let s ← getS
  let c := s.core s.coreNo
  if reply then trapIf (decide (8 ≤ c.repBuf.length)) 15 1 a
  else if 8 ≤ c.reqBuf.length then
    if slotOf s.six = 6 then trap 15 2 a else stall .send
  else pure ()

/-- Put a message into the issuing core's send buffer. -/
def sendMsg (target : Nat) (reply : Bool) (hdr : Word) (payload : List Word) (entry : Option Word) : M Unit := do
  let s ← getS
  let n := s.coreNo
  let c := s.core n
  let m : OutMsg :=
    { target := target, msg := { gid := s.me.gid.getD 4096, hdr := hdr, payload := payload, entry := entry } }
  if reply then put (.core n { c with repBuf := c.repBuf ++ [m] }) else put (.core n { c with reqBuf := c.reqBuf ++ [m] })

/-- A send is a release (R170). -/
def sendRelease : M Unit := releaseIn .send

/-- SEND and SENDM (R172): payload b … b + LEN, or b alone. -/
def sendBody (a : Word) (b len : Nat) : M Ctl := do
  let t ← destCore a (badDest a)
  trapIf (decide (31 < b + len)) 16 3 a
  beOldest
  checkBuffer a (dwReply a)
  sendRelease
  let s ← getS
  sendMsg t (dwReply a) (headerOf (withLen a len) len (logicalCore s s.six)) (readRun s.me b (len + 1)) none
  pure .next

/-- The registers of a run whose length the destination word in `a` gives. -/
def usesRun (s : State) (a b extra : BitVec 5) : List RegId :=
  .s a.toNat :: sRun b.toNat (min (dwLen ((s.me.landSt s.stream).readS a.toNat) + 1 + extra.toNat) (32 - b.toNat))

/-- SEND (R172). -/
def execSend (o : AB) (s : State) : Out :=
  issue (infoC (opA 0x18 0 + o.bits) o.w.toNat [.s o.a.toNat, .s o.b.toNat]) (do
    let a ← getSr o.a
    sendBody a o.b.toNat 0) s

/-- SENDM (R172). -/
def execSendm (o : AB) (s : State) : Out :=
  issue (infoC (opA 0x18 1 + o.bits) o.w.toNat (usesRun s o.a o.b 0)) (do
    let a ← getSr o.a
    sendBody a o.b.toNat (dwLen a)) s

/-- AMSG (R172, R173): the handler's entry in b, its arguments from b + 1. -/
def execAmsg (o : AB) (s : State) : Out :=
  issue (infoC (opA 0x18 3 + o.bits) o.w.toNat (usesRun s o.a o.b 1)) (do
    let a ← getSr o.a
    let pc ← getSr o.b
    let t ← destCore a (badDest a || dwReply a || dwFifo a)
    trapIf (pc.getLsbD 0) 4 0 pc
    let b := o.b.toNat + 1
    trapIf (decide (31 < b + dwLen a)) 16 3 a
    beOldest
    checkBuffer a false
    sendRelease
    let s ← getS
    sendMsg t false (headerOf a (dwLen a) (logicalCore s s.six)) (readRun s.me b (dwLen a + 1)) (some pc)
    pure .next) s

/-- The reply of AMRET, sent once (R178). -/
def amretReply (a : Word) (b : Nat) : M Unit := do
  let w := a ||| 0x2000000
  let t ← destCore a (badDest w)
  trapIf (decide (31 < b + dwLen a)) 16 3 a
  beOldest
  checkBuffer a true
  sendRelease
  let s ← getS
  sendMsg t true (headerOf w (dwLen a) (logicalCore s s.six)) (readRun s.me b (dwLen a + 1)) none
  modMe (fun x => { x with replied := true })

/-- AMRET (R178): the reply where a ≠ s0, then steps 1 to 4 of R32, for which it may wait with its reply sent. -/
def execAmret (o : AB) (s : State) : Out :=
  issue (infoC (opA 0x18 4 + o.bits) o.w.toNat (if o.a = 0 then [] else usesRun s o.a o.b 0)) (do
    let a ← getSr o.a
    let s ← getS
    trapIf (decide (slotOf s.six ≠ 6)) 16 5 a
    if o.a ≠ 0 ∧ !s.me.replied then amretReply a o.b.toNat
    let s ← getS
    if finReady s then do
      puts (endFiring s.six s)
      pure .placed
    else if o.a = 0 then stall .fin
    else pure (.hold .reply)) s

/-! ## Receiving (R172, R174, R175) -/

/-- RECV (R172): the oldest inbox message; its receipt is an acquire (R170). One that a LOOPB has
deposited is received once the accesses which that released have performed (R175). -/
def execRecv (o : AD) (s : State) : Out :=
  issue (infoC (opA 0x18 2 + o.bits) o.w.toNat (sRun o.d.toNat 5)) (do
    beOldest
    let s ← getS
    let c := s.core s.coreNo
    match c.inbox with
    | [] => stall .inbox
    | m :: r => do
      stallIf (m.after.any (openAccess s)) .inbox
      put (.core s.coreNo { c with inbox := r })
      acquireHere
      modMe (fun x => (List.range 5).foldl
        (fun x i => x.write (.s (o.d.toNat + i)) (.word ((m.hdr :: m.payload).getD i 0))) x)
      pure .next) s

/-- The count MBOXQ gives for a selector (R174). -/
def mboxCount (s : State) (sel : Word) : Word :=
  let c := s.core s.coreNo
  let q := s.me.q
  match sel.toNat with
  | 0 => BitVec.ofNat 64 c.inbox.length
  | 1 => BitVec.ofNat 64 c.hq.length
  | 2 => BitVec.ofNat 64 (8 - c.repBuf.length)
  | 3 => BitVec.ofNat 64 (8 - c.reqBuf.length)
  | 8 => BitVec.ofNat 64 q.c2v.length
  | 9 => BitVec.ofNat 64 q.v2c.length
  | 10 => BitVec.ofNat 64 q.bq.length
  | 11 => zx q.flags
  | _ => BitVec.allOnes 64

/-- MBOXQ (R174). -/
def execMboxq (o : A2) (s : State) : Out :=
  issue (infoC (opA 0x18 5 + o.bits) o.w.toNat (usesDA o.d o.a)) (do
    let a ← getSr o.a
    beOldest
    let s ← getS
    giveS o.d (mboxCount s a)
    pure .next) s

/-- LOOPB (R175): into the core's own inbox where it holds fewer than 48 messages. It is a release that does not wait: the message
keeps the accesses which its receipt follows. -/
def execLoopb (o : A3) (s : State) : Out :=
  issue (infoC (opA 0x18 6 + o.bits) o.w.toNat (.s o.d.toNat :: usesRun s o.a o.b 0)) (do
    let a ← getSr o.a
    trapIf (decide (2 ^ 34 ≤ a.toNat) || decide (a.toNat / 2 ^ 28 % 16 ≠ 0) || decide (a.toNat / 2 ^ 10 % 2 ^ 7 ≠ 0)
      || dwFifo a) 16 1 a
    trapIf (decide (31 < o.b.toNat + dwLen a)) 16 3 a
    beOldest
    let s ← getS
    let c := s.core s.coreNo
    if c.inbox.length < 48 then do
      put (.core s.coreNo { c with inbox := c.inbox ++
        [{ gid := s.me.gid.getD 4096, hdr := a, payload := readRun s.me o.b.toNat (dwLen a + 1), entry := none,
           after := openAccesses s s.six }] })
      giveS o.d 0
    else giveS o.d 1
    pure .next) s

/-! ## Remote transfers (R176) -/

/-- Fields of the descriptor of RGET and RPUT. -/
def rdWords (b : Word) : Nat := b.toNat / 2 ^ 52 + 1
def rdRem (b : Word) : Bool := b.getLsbD 51
def rdLoff (b : Word) : Nat := b.toNat / 2 ^ 32 % 2 ^ 19
def rdTgt (b : Word) : Nat := b.toNat / 2 ^ 24 % 256
def rdTag (b : Word) : Nat := b.toNat % 2 ^ 16

/-- RGET and RPUT at issue (R176): the checks in order, then the command with its hulls. The remote range of a scratchpad is
registered where it lies in this cluster (R203). -/
def remoteBody (get : Bool) (a b : Word) : M Ctl := do
  let s ← getS
  let n := 4 * rdWords b
  trapIf (decide (a.toNat % 4 ≠ 0)) 4 0 a
  trapIf (decide (rdLoff b % 4 ≠ 0)) 4 0 (BitVec.ofNat 64 (rdLoff b))
  trapIf (decide (b.toNat / 2 ^ 16 % 256 ≠ 0) || decide (rdTgt b < 128 ∧ rdTgt b ≠ 0) || decide (2 ^ 19 < rdLoff b + n)
    || (rdRem b && decide (2 ^ 29 ≤ a.toNat))) 16 4 b
  let remote := boundCore s s.six (a.toNat / 2 ^ 19)
  trapIf (rdRem b && remote.isNone) 16 2 b
  trapIf (rdRem b && decide (2 ^ 19 < a.toNat % 2 ^ 19 + n)) 6 1 a
  beOldest
  let s ← getS
  let cl := clusterOf s.coreNo
  stallIf (scoreboardFull (s.cluster cl)) .send
  let near := hullsOf s s.six .p (rdLoff b) (rdLoff b + n)
  let far :=
    if rdRem b then
      match remote with
      | some c => if clusterOf c = cl then [⟨.p, c, a.toNat % 2 ^ 19, a.toNat % 2 ^ 19 + n⟩] else []
      | none => []
    else hullsOf s s.six .g a.toNat (a.toNat + n)
  let id ← newId
  let s ← getS
  let c := s.cluster cl
  put (.cluster cl { c with cmds := c.cmds ++
    [{ id := id, six := s.six, gid := s.me.gid, kind := if get then .rget else .rput, token := 0, ssp := .g, src := a,
       dsp := .p, dst := BitVec.ofNat 64 (rdLoff b), rows := 1, spl := 0, dpl := 0, len := n, asid := s.me.dom,
       pm := s.me.sys.pm, tag := b.toNat,
       reads := if get then far else near, writes := if get then near else far, follow := none, begun := false,
       copied := none, held := false, depth := s.me.sys.dsdepth }] })
  pure .next

/-- RGET (R176). -/
def execRget (o : AB) (s : State) : Out :=
  issue (infoC (opA 0x18 7 + o.bits) o.w.toNat [.s o.a.toNat, .s o.b.toNat]) (do
    let a ← getSr o.a
    let b ← getSr o.b
    remoteBody true a b) s

/-- RPUT (R176). -/
def execRput (o : AB) (s : State) : Out :=
  issue (infoC (opA 0x18 8 + o.bits) o.w.toNat [.s o.a.toNat, .s o.b.toNat]) (do
    let a ← getSr o.a
    let b ← getSr o.b
    remoteBody false a b) s

end Sys2Proof.Machine
end

