-- ==== Sys2Proof/Machine/Bells.lean ====
section
/-! DEFINITION. The bell networks (R205 to R210, R361) and the iteration pool (R195, R196). A strand of no task group uses
the channels and the pool lists of a group number that no group has (log entry 28). -/

namespace Sys2Proof.Machine

/-! ## Channels (R205) -/

def bwCount (w : Word) : Nat := w.toNat / 2 ^ 32 % 2 ^ 24
def bwRop (w : Word) : Nat := w.toNat / 2 ^ 28 % 16
def bwChan (w : Word) : Nat := w.toNat % 8

/-- The group whose channels and pool lists a strand uses. -/
def bellGroup (x : Strand) : Nat := x.gid.getD 4096

/-- The unit of a core at a scope below POD: 2 QUAD, 3 CLUSTER, 4 DIE, 5 PACKAGE. DESIGN CHOICE (log entry 63): the chiplet's cores,
which R4 and R191 place in no cluster and on no die, share one unit of CLUSTER scope and one of DIE scope. -/
def bellUnit (core scope : Nat) : Nat :=
  match scope with
  | 2 => quadOf core | 3 => clusterOf core | 4 => dieOf core | _ => 0

/-- The key of channel `ch` of a tenant at POD scope (R361). -/
def podChan (tenant ch : Nat) : Nat := 8 * tenant + ch

/-- The key of a channel of a group in a unit. -/
def groupChan (scope gid unit ch : Nat) : Nat := ((scope * 8192 + gid) * 1024 + unit) * 8 + ch

/-- The channel that a bell word names for a strand. -/
def bellChan (s : State) (six scope : Nat) (w : Word) : Nat :=
  let x := s.strand six
  if scope = 6 then podChan ((s.tenantOf x).getD 64) (bwChan w)
  else groupChan scope (bellGroup x) (bellUnit (coreOf six) scope) (bwChan w)

/-- Whether a channel lies at POD scope. -/
def isPodChan (chan : Nat) : Bool := decide (chan < 8 * 65)

/-- The malformed bell words of R205, and QUAD scope on a core of no quad. -/
def badBell (core scope : Nat) (w : Word) (value : Bool) : Bool :=
  decide (w.toNat / 2 ^ 56 ≠ 0 ∨ w.toNat / 8 % 2 ^ 25 ≠ 0 ∨ bwCount w = 0 ∨ 11 ≤ bwRop w)
    || (!value && decide (bwRop w ≠ 0)) || (decide (scope = 2) && !isCompute core)

/-- A 32-bit difference read as signed. -/
def diff32 (a b : Nat) : Int := (BitVec.ofNat 32 a - BitVec.ofNat 32 b).toInt

/-! ## Reductions (R207) -/

/-- One step of a reduction. -/
def reduceStep (rop : Nat) (a b : Word) : Word :=
  match rop with
  | 1 => a + b
  | 2 => if b.slt a then b else a
  | 3 => if a.slt b then b else a
  | 4 => if b.ult a then b else a
  | 5 => if a.ult b then b else a
  | 6 => a &&& b
  | 7 => a ||| b
  | 8 => a ^^^ b
  | 9 => BitVec.ofNat 64 (fAdd fp32 .rne (fp32.read (a.toNat % 2 ^ 32)) (fp32.read (b.toNat % 2 ^ 32))).1
  | _ => BitVec.ofNat 64 (fAdd fp64 .rne (fp64.read a.toNat) (fp64.read b.toNat)).1

/-- The reduction of a list of values in order. -/
def reduceList (rop : Nat) : List Word → Word
  | [] => 0
  | a :: r => r.foldl (reduceStep rop) (if rop = 9 then a.extractLsb' 0 32 |>.setWidth 64 else a)

/-- Lexicographic order of keys. -/
def keyLe : List Nat → List Nat → Bool
  | [], _ => true
  | _, [] => false
  | a :: r, b :: t => decide (a < b) || (decide (a = b) && keyLe r t)

/-- Insert an arrival after those with keys not above its own. -/
def insertKey (x : List Nat × Word) : List (List Nat × Word) → List (List Nat × Word)
  | [] => [x]
  | y :: r => if keyLe y.1 x.1 then y :: insertKey x r else x :: y :: r

/-- The reduction of a phase: each core sums its own values in the order of slot and arrival, then the cores' sums chain
(R82, R207). A key is package, logical core, slot. -/
def reducePhase (rop : Nat) (values : List (List Nat × Word)) : Word :=
  let sorted := values.foldl (fun l v => insertKey v l) []
  let cores := (sorted.map (fun v => v.1.take 2)).dedup
  reduceList rop (cores.map (fun c => reduceList rop ((sorted.filter (fun v => v.1.take 2 == c)).map Prod.snd)))

/-! ## Arrivals (R206, R208) -/

/-- Whether the completion of a phase has been released to its waiters (R361): outside a pod at once. -/
def released (f : Fabric) (pod : Bool) (win : Nat) : Bool := !pod || !f.en || decide (win + 2 ≤ f.window)

/-- Results to keep: the eight latest, and any not yet released. -/
def keepResults (f : Fabric) (pod : Bool) (rs : List (Nat × Word × Nat)) : List (Nat × Word × Nat) :=
  rs.take 8 ++ (rs.drop 8).filter (fun r => !released f pod r.2.2)

/-- What an arrival at the open phase of a counted channel meets: BADDESC of R205. -/
def countedBad (b : Bell) (count : Nat) (rop : Option Nat) : Bool :=
  decide (b.kind = some true) || (decide (b.arrived ≠ 0) && decide (b.count ≠ count))
    || (match b.rop, rop with | some x, some y => decide (x ≠ y) | _, _ => false)

/-- A channel after an arrival at its open counted phase. -/
def countedArrive (f : Fabric) (pod : Bool) (b : Bell) (count : Nat) (rop : Option Nat) (key : List Nat) (v : Word)
    (win : Nat) : Bell :=
  let rop' := match b.rop with | some r => some r | none => rop
  let values := if rop.isSome then b.values ++ [(key, v)] else b.values
  let last := max b.lastWin win
  if b.arrived + 1 = count then
    let r : Word := match rop' with
      | some (n + 1) => reducePhase (n + 1) values
      | _ => BitVec.ofNat 64 b.phase
    { b with
      kind := some false, phase := (b.phase + 1) % 2 ^ 32, count := 0, rop := none, arrived := 0, values := [],
      results := keepResults f pod ((b.phase, r, last) :: b.results), done := b.phase, lastWin := 0 }
  else { b with kind := some false, count := count, rop := rop', arrived := b.arrived + 1, values := values, lastWin := last }

/-- The arrivals that came before their phase opened join it once it has (R361). -/
def joinEarly (f : Fabric) (pod : Bool) : Nat → Bell → Bell
  | 0, b => b
  | n + 1, b =>
    match b.early.find? (fun a => decide (diff32 a.phase b.phase ≤ 0)) with
    | none => b
    | some a =>
      let b' := { b with early := b.early.erase a }
      joinEarly f pod n (if countedBad b' a.count a.rop then b' else countedArrive f pod b' a.count a.rop a.key a.v a.win)

/-- A channel after an arrival at its open counted phase and after those that had come early. -/
def countedJoin (f : Fabric) (pod : Bool) (b : Bell) (count : Nat) (rop : Option Nat) (key : List Nat) (v : Word) (win : Nat) : Bell :=
  joinEarly f pod b.early.length (countedArrive f pod b count rop key v win)

/-- What an arrival at a phase of a phased channel meets: BADDESC of R205 and R208. -/
def phasedBad (b : Bell) (phase count : Nat) : Bool :=
  decide (b.kind = some false) || decide (diff32 phase b.front < 0)
    || b.opens.any (fun o => decide (o.1 = phase ∧ o.2.1 ≠ count))

/-- The front passes every phase that is complete: one whose arrivals reached its count, and one at which no one arrived
while a later one is open (DEDUCED, log entry 32). -/
def advanceFront (f : Fabric) (pod : Bool) : Nat → Bell → Bell
  | 0, b => b
  | n + 1, b =>
    if b.opens = [] then b
    else
      match b.opens.find? (fun o => o.1 == b.front) with
      | some o =>
        if o.2.1 ≤ o.2.2.1 then
          advanceFront f pod n { b with
            opens := b.opens.filter (fun y => y.1 != b.front), front := (b.front + 1) % 2 ^ 32,
            results := ((b.front, BitVec.ofNat 64 b.front, o.2.2.2) :: b.results).filter (fun r => !released f pod r.2.2) }
        else b
      | none => advanceFront f pod n { b with front := (b.front + 1) % 2 ^ 32 }

/-- The front moves far enough for an arrival at `phase` that is eight or more ahead of it, over phases at which no one arrived: they
complete as they become the front (DEDUCED, log entry 32). A front phase that is open keeps it. -/
def frontFor (phase : Nat) (b : Bell) : Bell :=
  if b.opens = [] ∧ 8 ≤ diff32 phase b.front then { b with front := (phase + 2 ^ 32 - 7) % 2 ^ 32 } else b

/-- A channel after an arrival at a phase within eight of its front. -/
def phasedArrive (f : Fabric) (pod : Bool) (b : Bell) (phase count win : Nat) : Bell :=
  let opens := if b.opens.any (fun o => o.1 == phase) then
      b.opens.map (fun o => if o.1 = phase then (o.1, o.2.1, o.2.2.1 + 1, max o.2.2.2 win) else o)
    else b.opens ++ [(phase, count, 1, win)]
  advanceFront f pod 16 { b with kind := some true, opens := opens }

/-- Whether a phase is complete and released on a phased channel. -/
def phasedDone (f : Fabric) (pod : Bool) (b : Bell) (phase : Nat) : Bool :=
  decide (diff32 phase b.front < 0) && b.results.all (fun r => r.1 != phase || released f pod r.2.2)

/-- Whether a phase is complete and released on a counted channel. -/
def countedDone (f : Fabric) (pod : Bool) (b : Bell) (phase : Nat) : Bool :=
  decide (diff32 phase b.done ≤ 0) && b.results.all (fun r => r.1 != phase || released f pod r.2.2)

/-! ## Instructions (R205 to R210) -/

/-- What a counted wait or a phased wait of an arrived BAR or BARPH waits for. -/
def bellDone (s : State) (w : BellWait) : Bool :=
  let b := s.bell w.chan
  if b.kind = some true then phasedDone s.pkg.fab (isPodChan w.chan) b w.phase
  else countedDone s.pkg.fab (isPodChan w.chan) b w.phase

/-- An arrived BAR or BARPH: it completes with the phase number as an acquire (R209), or goes on waiting. -/
def bellResume (w : BellWait) : M Ctl := do
  let s ← getS
  if bellDone s w then do
    acquireHere
    modMe (fun x => { x with bell := none })
    writeS w.dest (BitVec.ofNat 64 w.phase)
    pure .next
  else pure (.hold .bell)

/-- The chain key of a strand's arrival (R207, R361). DESIGN CHOICE (log entry 51): a strand that has no logical core number, one of no
group or on a principal core, counts as core 0. -/
def bellKey (s : State) : List Nat := [s.pkg.fab.pkg, logicalCore s s.six, slotOf s.six]

/-- The common start of a bell instruction: BADDESC of a malformed word, then R209. -/
def bellStart (scope : Nat) (w : Word) (value : Bool) : M Nat := do
  let s ← getS
  trapIf (badBell s.coreNo scope w value) 16 4 w
  beOldest
  let s ← getS
  pure (bellChan s s.six scope w)

/-- The live members of the pod other than this package. -/
def Fabric.peers (f : Fabric) : List Nat := (List.range 128).filter (fun p => isMember f p && f.live.getLsbD p)

/-- The package sends an arrival at a pod channel to the other members, with all that a phase keeps of it (R361). -/
def tellPod (chan : Nat) (phased : Bool) (phase count : Nat) (rop : Option Nat) (v : Word) : M Unit := do
  let s ← getS
  if isPodChan chan && s.pkg.fab.en then
    puts (chain (s.pkg.fab.peers.map (fun p =>
      podSend p 2 (fun n => .podArrival p n chan phased phase count rop (bellKey s) v s.pkg.fab.window))) s)
  else pure ()

/-- An arrival at a counted channel, a release (R209); the phase joined. -/
def arriveCounted (chan : Nat) (w : Word) (rop : Option Nat) (v : Word) : M Nat := do
  let s ← getS
  trapIf (countedBad (s.bell chan) (bwCount w) rop) 16 4 w
  release
  let s ← getS
  let b := s.bell chan
  put (.bell chan (countedJoin s.pkg.fab (isPodChan chan) b (bwCount w) rop (bellKey s) v s.pkg.fab.window))
  tellPod chan false b.phase (bwCount w) rop v
  pure b.phase

/-- BAR. -/
def execBar (o : Sys2Proof.Bell) (s : State) : Out :=
  issue (infoC (opA 0x1D 0 + o.bits) o.w.toNat (usesDA o.d o.a)) (do
    let s ← getS
    match s.me.bell with
    | some w => bellResume w
    | none => do
      let w ← getSr o.a
      let chan ← bellStart o.c.toNat w false
      let p ← arriveCounted chan w none 0
      let wait : BellWait := { chan := chan, phase := p, dest := o.d.toNat }
      modMe (fun x => { x with bell := some wait })
      bellResume wait) s

/-- BARA. -/
def execBara (o : BellB) (s : State) : Out :=
  issue (infoC (opA 0x1D 8 + o.bits) o.w.toNat (usesDAB o.d o.a o.b)) (do
    let w ← getSr o.a
    let v ← getSr o.b
    let chan ← bellStart o.c.toNat w true
    let p ← arriveCounted chan w (some (bwRop w)) v
    giveS o.d (BitVec.ofNat 64 p)
    pure .next) s

/-- BARW: it arrives nowhere and serves both kinds of channel. DESIGN CHOICE (log entry 82): where it answers all ones, for a completed
phase whose result is no longer kept, it acquires nothing. -/
def execBarw (o : BellB) (s : State) : Out :=
  issue (infoC (opA 0x1D 16 + o.bits) o.w.toNat (usesDAB o.d o.a o.b)) (do
    let w ← getSr o.a
    let t ← getSr o.b
    let chan ← bellStart o.c.toNat w true
    let s ← getS
    let b := s.bell chan
    let pod := isPodChan chan
    let f := s.pkg.fab
    let t := t.toNat % 2 ^ 32
    match b.kind with
    | some true =>
      if phasedDone f pod b t then do
        acquireHere
        giveS o.d (BitVec.ofNat 64 t)
      else stall .bell
    | k =>
      match (b.results.take 8).find? (fun r => r.1 == t) with
      | some r =>
        if released f pod r.2.2 then do
          acquireHere
          giveS o.d r.2.1
        else stall .bell
      | none =>
        -- A channel without an arrival has no kind yet, and BARW waits for one whatever its ticket (R208).
        if k = none ∨ 0 < diff32 t b.done then stall .bell
        else giveS o.d (BitVec.allOnes 64)
    pure .next) s

/-- BARPH. -/
def execBarph (o : BellB) (s : State) : Out :=
  issue (infoC (opA 0x1D 24 + o.bits) o.w.toNat (usesDAB o.d o.a o.b)) (do
    let s ← getS
    match s.me.bell with
    | some w => bellResume w
    | none => do
      let w ← getSr o.a
      let p ← getSr o.b
      let chan ← bellStart o.c.toNat w false
      let p := p.toNat % 2 ^ 32
      let s ← getS
      trapIf (phasedBad (s.bell chan) p (bwCount w)) 16 4 w
      stallIf (decide (8 ≤ diff32 p (frontFor p (s.bell chan)).front)) .bell
      release
      let s ← getS
      put (.bell chan (phasedArrive s.pkg.fab (isPodChan chan) (frontFor p (s.bell chan)) p (bwCount w) s.pkg.fab.window))
      tellPod chan true p (bwCount w) none 0
      let wait : BellWait := { chan := chan, phase := p, dest := o.d.toNat }
      modMe (fun x => { x with bell := some wait })
      bellResume wait) s

/-! ## The iteration pool (R195, R196) -/

/-- IPDEP, a release. -/
def execIpdep (o : A3) (s : State) : Out :=
  issue (infoC (opA 0x1E 0 + o.bits) o.w.toNat (usesDAB o.d o.a o.b)) (do
    let a ← getSr o.a
    let b ← getSr o.b
    beOldest
    release
    let s ← getS
    let cl := clusterOf s.coreNo
    let c := s.cluster cl
    let lo := a.toNat % 2 ^ 32
    let hi := a.toNat / 2 ^ 32
    if hi ≤ lo then giveS o.d 0
    else if 128 ≤ c.pool.length then giveS o.d 1
    else do
      put (.cluster cl { c with
        pool := c.pool ++ [{ gid := bellGroup s.me, key := b.toNat % 65536, lo := lo, hi := hi }] })
      giveS o.d 0
    pure .next) s

/-- A pool after a draw of at most `n` from the oldest entry of a list; the range drawn, none where the list is empty. -/
def drawPool (gid key n : Nat) : List PoolEntry → Option (Nat × Nat) × List PoolEntry
  | [] => (none, [])
  | e :: r =>
    if e.gid = gid ∧ e.key = key then
      let top := if n = 0 then e.hi else min (e.lo + n) e.hi
      (some (e.lo, top), if top = e.hi then r else { e with lo := top } :: r)
    else
      let (x, r') := drawPool gid key n r
      (x, e :: r')

/-- IPDRAW: a non-empty range is an acquire. -/
def execIpdraw (o : A3) (s : State) : Out :=
  issue (infoC (opA 0x1E 1 + o.bits) o.w.toNat (usesDAB o.d o.a o.b)) (do
    let a ← getSr o.a
    let b ← getSr o.b
    beOldest
    let s ← getS
    let cl := clusterOf s.coreNo
    let c := s.cluster cl
    match drawPool (bellGroup s.me) (b.toNat % 65536) (a.toNat % 2 ^ 32) c.pool with
    | (none, _) => giveS o.d 0
    | (some (lo, top), pool) => do
      put (.cluster cl { c with pool := pool })
      acquireHere
      giveS o.d (BitVec.ofNat 64 (top * 2 ^ 32 + lo))
    pure .next) s

end Sys2Proof.Machine
end

