-- ==== Sys2Proof/Machine/Flags.lean ====
section
/-! DEFINITION. The arithmetic conditions: raising FLAGS bits and the FPE trap (R30, R114). -/

namespace Sys2Proof.Machine

/-- The lowest index of the listed conditions that raised an enabled one (R114). -/
def fpeIndex (enable : BitVec 6) : List (Nat × BitVec 6) → Option Nat
  | [] => none
  | (i, f) :: r =>
    match fpeIndex enable r with
    | none => if f &&& enable = 0 then none else some i
    | some j => if f &&& enable = 0 then some j else some (min i j)

/-- The OR of the conditions raised. -/
def allFlags (cs : List (Nat × BitVec 6)) : BitVec 6 := cs.foldl (fun f c => f ||| c.2) 0

/-- Raise the conditions of an instruction, each with its element index (R30, R114): with an enabled one among them the
instruction traps FPE with no effect and FLAGS unchanged; otherwise FLAGS accumulates them. -/
def raiseAll (cs : List (Nat × BitVec 6)) : M Unit := do
  let s ← getS
  match fpeIndex s.me.sys.fenable cs with
  | some i => trap 11 0 (BitVec.ofNat 64 i)
  | none => modMe (fun x => x.raise (allFlags cs))

end Sys2Proof.Machine
end

