-- ==== Sys2Proof/Machine/Coupling.lean ====
section
/-! DEFINITION. Stream coupling (R14, R19 to R23, R139 to R141): queues, flags, the branch-outcome queue, VSTART, VEND and
the V-stream's control transfer. -/

namespace Sys2Proof.Machine

/-- Entries a queue holds (R19). -/
def queueDepth : Nat := 16

/-- Whether the C-stream waits on something only the V-stream can provide (R23): FIN, VSTART's VEND, or an unmet coupling
wait. -/
def Strand.cBlocked (x : Strand) : Bool :=
  match x.c.wait with
  | .fin => true
  | .reply => true
  | .vend => true
  | .coupling 0 => decide (x.q.v2c = [])
  | .coupling 1 => decide (queueDepth ≤ x.q.c2v.length)
  | .coupling _ => decide (queueDepth ≤ x.q.bq.length)
  | .flag n _ => !x.q.flags.getLsbD n
  | _ => false

/-- A coupling wait (R20, R23): DEADWAIT where the other stream can never end it, otherwise a stall. -/
def couple (w : Wait) : M α := do
  let s ← getS
  let dead := match s.stream with
    | .c => !s.me.sys.vrun
    | .v => s.me.cBlocked
  if dead then trap 2 2 0 else stall w

/-- QPUSH (R14, R139). -/
def execQpush (o : AA) (s : State) : Out :=
  issue (infoB (opA 0x34 0 + o.bits) o.w.toNat [regOf s.stream o.a.toNat]) (do
    scalarIf o.a (opA 0x34 0 + o.bits)
    let a ← getX o.a.toNat
    let s ← getS
    let q := s.me.q
    match s.stream with
    | .c =>
      if queueDepth ≤ q.c2v.length then couple (.coupling 1)
      else modMe (fun x => { x with q := { x.q with c2v := x.q.c2v ++ [a] } })
    | .v =>
      if queueDepth ≤ q.v2c.length then couple (.coupling 1)
      else modMe (fun x => { x with q := { x.q with v2c := x.q.v2c ++ [a] } })
    impure
    pure .next) s

/-- QPOP (R14, R139), scoreboarded. -/
def execQpop (o : AD) (s : State) : Out :=
  issue (infoB (opA 0x34 1 + o.bits) o.w.toNat [regOf s.stream o.d.toNat]) (do
    scalarIf o.d (opA 0x34 1 + o.bits)
    let s ← getS
    let q := s.me.q
    match s.stream with
    | .c =>
      match q.v2c with
      | [] => couple (.coupling 0)
      | w :: r => do
        modMe (fun x => { x with q := { x.q with v2c := r } })
        writeX o.d.toNat w
    | .v =>
      match q.c2v with
      | [] => couple (.coupling 0)
      | w :: r => do
        modMe (fun x => { x with q := { x.q with c2v := r } })
        writeX o.d.toNat w
    pure .next) s

/-- FSET (R21). -/
def execFset (o : AA) (s : State) : Out :=
  issue (infoB (opA 0x34 2 + o.bits) o.w.toNat []) (do
    modMe (fun x => { x with q := { x.q with flags := x.q.flags ||| (1#8 <<< o.a.toNat) } })
    impure
    pure .next) s

/-- When a stream began waiting on a flag; a stream that does not wait begins now. -/
def flagSince (w : Wait) (n now : Nat) : Nat :=
  match w with
  | .flag k t => if k = n then t else now
  | _ => now

/-- Whether the other stream waits on the same flag and began first; in one cycle the C-stream did (R21). -/
def flagBehind (x : Strand) (st : Stream) (n since : Nat) : Bool :=
  match x.waitOf (other st) with
  | .flag k t => decide (k = n) && (decide (t < since) || (decide (t = since) && decide (st = .v)))
  | _ => false

/-- FWAIT (R21). -/
def execFwait (o : AA) (s : State) : Out :=
  issue (infoB (opA 0x34 3 + o.bits) o.w.toNat []) (do
    let s ← getS
    let n := o.a.toNat
    let since := flagSince (s.me.waitOf s.stream) n (s.core s.coreNo).cycle
    if !s.me.q.flags.getLsbD n then couple (.flag n since)
    else if flagBehind s.me s.stream n since then stall (.flag n since)
    else modMe (fun x => { x with q := { x.q with flags := x.q.flags &&& ~~~(1#8 <<< n) } })
    pure .next) s

/-- BQPUSH (R139). -/
def execBqpush (o : AA) (s : State) : Out :=
  issue (infoC (opA 0x34 4 + o.bits) o.w.toNat [.s o.a.toNat]) (do
    let a ← getSr o.a
    let s ← getS
    if queueDepth ≤ s.me.q.bq.length then couple (.coupling 2)
    else modMe (fun x => { x with q := { x.q with bq := x.q.bq ++ [a != 0] } })
    pure .next) s

/-- VEND (R141): waits for the V-stream's scoreboarded results and matrix commands, lands its pending writes, clears VRUN. -/
def execVend (o : A0) (s : State) : Out :=
  issue (infoV (opA 0x34 5 + o.bits) o.w.toNat []) (do
    let s ← getS
    stallIf (s.me.await.any (fun a => !a.1.inC) || matrixBusy s s.six) .drain
    modMe (fun x => let y := x.landAllV; { y with region := none, sys := { y.sys with vrun := false } })
    pure .next) s

/-- VSTART (R22): with VRUN = 1 it waits for VEND. -/
def execVstart (o : J0) (s : State) : Out :=
  issue (infoC (opJ 0x35 + o.bits) 0 []) (do
    let s ← getS
    stallIf s.me.sys.vrun .vend
    let pc ← getPc
    modMe (fun x => { x with sys := { x.sys with vrun := true }, v := { x.v with pc := target pc o.disp, idle := 0, wait := .none } })
    pure .next) s

/-- The oldest branch outcome, popped (R20). -/
def popOutcome : M Bool := do
  let s ← getS
  match s.me.q.bq with
  | [] => couple (.coupling 0)
  | b :: r => do
    modMe (fun x => { x with q := { x.q with bq := r } })
    pure b

/-- VBR (R139). -/
def execVbr (o : B0) (s : State) : Out :=
  issue (infoV (opB 0x36 0 + o.bits) 0 []) (do
    let b ← popOutcome
    let pc ← getPc
    if b then jumpTo (target pc o.disp) else pure .next) s

/-- VLOOP (R139): a taken outcome also increments ka. -/
def execVloop (o : B1) (s : State) : Out :=
  issue (infoV (opB 0x36 1 + o.bits) 0 [.k o.a.toNat]) (do
    let b ← popOutcome
    let pc ← getPc
    if b then do
      let k ← getK o.a.toNat
      scored (.k o.a.toNat) (.word (k + 1))
      jumpTo (target pc o.disp)
    else pure .next) s

/-- VJMP (R139): the link, k0 included, is scoreboarded. -/
def execVjmp (o : Jmp) (s : State) : Out :=
  issue (infoV (opJ 0x37 + o.bits) 0 [.k o.link.toNat]) (do
    let pc ← getPc
    scored (.k o.link.toNat) (.word (pc + 4))
    jumpTo (target pc o.disp)) s

end Sys2Proof.Machine
end

