-- ==== Sys2Proof/Machine/VImage.lean ====
section
/-! DEFINITION. Images of the vector state in memory: a v register (R138) and a frame's vector image (R155, R219). -/

namespace Sys2Proof.Machine

/-- The 144-byte image of a v register (R138): data, side field, tag. -/
def VReg.image (v : VReg) : Nat := v.data.toNat + 2 ^ 1024 * v.side.toNat + 2 ^ 1088 * v.tag.toNat

/-- The v register of an image. -/
def VReg.ofImage (n : Nat) : VReg :=
  { data := BitVec.ofNat 1024 n, side := BitVec.ofNat 64 (n / 2 ^ 1024), tag := BitVec.ofNat 5 (n / 2 ^ 1088) }

/-- The pieces of the vector image of a strand (R155, R219): offset, bytes, value. -/
def imagePieces (x : Strand) : List (Nat × Nat × Nat) :=
  (List.range 32).map (fun i => (144 * i, 144, (x.readV i).image))
    ++ (List.range 7).map (fun i => (4608 + 4 * i, 4, (x.readM (i + 1)).toNat))
    ++ (List.range 16).map (fun i => (4640 + 8 * i, 8, (x.readK i).toNat))
    ++ (List.range 4).map (fun i =>
        (4768 + 4104 * i, 4104, (x.readT i).data.toNat + 2 ^ 32768 * (x.readT i).tag.toNat))
    ++ [(21184, 8, x.v.mcfg.toNat), (21192, 8, x.v.mgb.toNat)]

/-- The address of the vector image at a depth (R155). -/
def imageAddr (x : Strand) (depth : Nat) : Word := x.seg + BitVec.ofNat 64 (4096 + 21504 * (depth - 1))

/-- The effects of writing pieces from an address of system memory for a strand, or why one is not written. -/
def writePieces (six : Nat) (base : Word) (ps : List (Nat × Nat × Nat)) : State → Except Fail (List Effect) :=
  writesInOrder (ps.map (fun p => sysWrite six (base + BitVec.ofNat 64 p.1) p.2.1 p.2.2))

/-- The strand with its vector state cleared (R151 ZERO, R219). -/
def Strand.clearV (x : Strand) : Strand :=
  { x with v := { x.v with v := [], t := [], m := [], k := [], mcfg := 0, mgb := 0 } }

/-- Read an indexed set of pieces of system memory, with the effects of reading them, or why one is not read. -/
def readPieces (core : Nat) (base : Word) (n stride : Nat) : Nat → State → Except Fail (List Nat × List Effect)
  | 0, _ => .ok ([], [])
  | k + 1, s => andRead s (sysRead s core base n) (readPieces core (base + BitVec.ofNat 64 stride) n stride k) List.cons

/-- Read several sets of pieces, each given by its offset, its pieces' bytes and their number. -/
def readSets (core : Nat) (base : Word) : List (Nat × Nat × Nat) → State → Except Fail (List (List Nat) × List Effect)
  | [], _ => .ok ([], [])
  | (off, n, k) :: r, s => andRead s (readPieces core (base + BitVec.ofNat 64 off) n n k s) (readSets core base r) List.cons

/-- The strand with its vector state taken from the pieces of an image (R155, R219): v, m, k, t, then MCFG and MGB. -/
def Strand.ofPieces (x : Strand) (sets : List (List Nat)) : Strand :=
  let set := fun (i : Nat) => sets.getD i []
  let y := x.clearV
  let y := (set 0).zipIdx.foldl (fun y p => y.setReg (.v p.2) (.vec (.ofImage p.1))) y
  let y := (set 1).zipIdx.foldl (fun y p => y.setReg (.m (p.2 + 1)) (.mask (BitVec.ofNat 32 p.1))) y
  let y := (set 2).zipIdx.foldl (fun y p => y.setReg (.k p.2) (.word (BitVec.ofNat 64 p.1))) y
  let y := (set 3).zipIdx.foldl (fun y p =>
    let tag := BitVec.ofNat 5 (p.1 / 2 ^ 32768)
    y.setTile p.2 { data := BitVec.ofNat 32768 p.1, tag := tag }) y
  { y with v := { y.v with mcfg := BitVec.ofNat 64 ((set 4).getD 0 0), mgb := BitVec.ofNat 64 ((set 4).getD 1 0) } }

/-- The strand with its vector state restored from an image (R151 SAVE, R219), with the effects of reading it, or why it is not read. -/
def Strand.restoreV (x : Strand) (s : State) (core : Nat) (base : Word) : Except Fail (Strand × List Effect) :=
  (readSets core base [(0, 144, 32), (4608, 4, 7), (4640, 8, 16), (4768, 4104, 4), (21184, 8, 2)] s).map
    (fun r => (x.ofPieces r.1, r.2))

end Sys2Proof.Machine
end

