-- ==== Sys2Proof/Machine/Gates.lean ====
section
/-! DEFINITION. Gates and the domain stack: the instructions of major 0x1A (R142 to R153, R158), revocation, and the
unwinding of a strand (R157). -/

namespace Sys2Proof.Machine

/-- The issue data of major 0x1A. -/
def info1A (fn bits w : Nat) (uses : List RegId) : Info := infoC (opA 0x1A fn + bits) w uses

/-! ## Descriptors and the gate table (R144, R145, R147) -/

/-- Fields of word 0 of a gate descriptor. -/
def GateDesc.cmode (g : GateDesc) : Nat := g.word0.toNat / 2 ^ 30 % 4
def GateDesc.stklog (g : GateDesc) : Nat := g.word0.toNat / 2 ^ 26 % 16
def GateDesc.cbud (g : GateDesc) : Nat := g.word0.toNat / 2 ^ 21 % 32
def GateDesc.wrule (g : GateDesc) : Nat := g.word0.toNat / 2 ^ 17 % 4
def GateDesc.vpol (g : GateDesc) : Nat := g.word0.toNat / 2 ^ 15 % 4
def GateDesc.tdom (g : GateDesc) : Nat := g.word0.toNat % 4096

/-- The callee stack top of R149. -/
def GateDesc.stackTop (g : GateDesc) (six : Nat) : Word := g.stkbase + BitVec.ofNat 64 ((six + 1) * 2 ^ (12 + g.stklog))

/-- The valid descriptor of eight doublewords (R144). -/
def gateDescOf (ws : List Word) : Option GateDesc :=
  let w := fun (i : Nat) => ws.getD i 0
  let g : GateDesc :=
    { word0 := w 0, entry := w 1, cleanup := w 2, stkbase := w 3, callers := w 4, wmax := (w 5).toNat }
  let sbz := decide ((w 0).toNat / 2 ^ 32 ≠ 0 ∨ (w 0).toNat / 2 ^ 19 % 4 ≠ 0 ∨ (w 0).toNat / 2 ^ 12 % 8 ≠ 0
    ∨ (w 4).toNat / 2 ^ 48 ≠ 0 ∨ (w 4).toNat / 2 ^ 28 % 16 ≠ 0 ∨ (w 4).toNat / 2 ^ 12 % 16 ≠ 0
    ∨ w 6 ≠ 0 ∨ w 7 ≠ 0)
  let range := decide (g.cmode = 3 ∨ 12 < g.stklog ∨ 20 < g.cbud ∨ g.wrule = 3 ∨ g.vpol = 3 ∨ 256 < g.wmax ∨ g.tdom = 0)
  if sbz || range || g.entry.getLsbD 0 || g.cleanup.getLsbD 0
      || decide (g.stkbase.toNat % 2 ^ (12 + g.stklog) ≠ 0) then none
  else some g

/-- Whether a gate entry can be published. -/
def gateFree (s : State) (i : Nat) : Bool := decide (i < 65536) && (s.gate i).desc.isNone && !(s.gate i).retired

/-- The lowest FREE entry: one is among as many as are listed, and one more. -/
def firstFreeGate (s : State) : Option Nat := (List.range (s.gates.length + 1)).find? (gateFree s)

/-- A gate closed (R145): FREE, its generation advanced, or retired where that would pass 65,535. -/
def Gate.closed (g : Gate) : Gate :=
  if g.gen < 65535 then { gen := g.gen + 1, desc := none, retired := false } else { g with desc := none, retired := true }

/-- GPUB's publication (R147): the checks in order, then the entry. -/
def gpubOpen (d : BitVec 5) (b : Word) (ws : List Word) : M Unit := do
  let s ← getS
  let x := s.me
  match (gateDescOf ws).filter (fun g => decide ((s.dom g.tdom).st = .live)) with
  | none => giveS d stBadGate
  | some g =>
    if !x.sys.pm && decide (g.tdom ≠ x.dom) then giveS d stDenied
    else do
      let k ← choose 65536
      let pick :=
        if b = BitVec.allOnes 64 then (if gateFree s k then some k else firstFreeGate s)
        else if b.toNat < 65536 ∧ gateFree s b.toNat then some b.toNat
        else none
      match pick with
      | none => giveS d stNoEntry
      | some i => do
        put (.gate i { s.gate i with desc := some g })
        giveS d (BitVec.ofNat 64 ((s.gate i).gen * 65536 + i))
where
  stNoEntry : Word := 0x8000000000000001
  stBadGate : Word := 0x8000000000000002
  stDenied : Word := 0x8000000000000003

/-- GPUB (R147): with a = 0 it closes an entry. -/
def execGpub (o : A3) (s : State) : Out :=
  issue (info1A 3 o.bits o.w.toNat (usesDAB o.d o.a o.b)) (do
    let a ← getSr o.a
    let b ← getSr o.b
    if a = 0 then do
      let s ← getS
      let i := b.toNat % 65536
      let allowed := (s.gate i).desc.any (fun g => s.me.sys.pm || decide (g.tdom = s.me.dom))
      if allowed then do
        put (.gate i (s.gate i).closed)
        giveS o.d 0
      else giveS o.d 0x8000000000000003
    else do
      trapIf (decide (a.toNat % 64 ≠ 0)) 4 0 a
      let ws ← loadWords a 8
      gpubOpen o.d b ws
    pure .next) s

/-! ## The checks of GCALL (R148) -/

/-- Checks 3 to 5 of R148 from a domain: the subcode of the first that fails, or 0. -/
def gateCheck (s : State) (dom : Nat) (h : Word) : Nat :=
  let e := s.gate (h.toNat % 65536)
  match e.desc with
  | none => 1
  | some g =>
    if e.gen ≠ h.toNat / 65536 % 65536 then 1
    else if (s.dom g.tdom).st ≠ .live then 2
    else
      let cmask := g.callers.toNat / 2 ^ 16 % 4096
      let denied := match g.cmode with
        | 1 => decide (dom &&& cmask ≠ g.callers.toNat % 4096 &&& cmask)
        | 2 => decide ((s.dom dom).owner.toNat ≠ g.callers.toNat / 2 ^ 32 % 65536)
        | _ => false
      if denied then 3 else 0

/-- The frames of the issuing strand's domain stack, innermost first, read from its segment where they are not in the slot (R155). -/
def stackFrames : M (List Frame) := do
  let s ← getS
  match allFrames s s.coreNo s.me with
  | .ok fs => do puts fs.2; pure fs.1
  | .error e => segmentFail .accept e

/-- Whether a domain is the current one or appears on the domain stack `fs`, as callee or caller (log entry 14). -/
def onStack (x : Strand) (fs : List Frame) (dom : Nat) : Bool :=
  decide (x.dom = dom) || fs.any (fun f => decide (f.callee = dom ∨ f.caller = dom))

/-- Check 8 of R148: a window word that the gate, or the caller's own window (R150), does not allow. A strand without a
window counts as having one of no page (R150). -/
def badWindow (x : Strand) (fs : List Frame) (g : GateDesc) (w : Word) : Bool :=
  let npg := w.toNat / 2 ^ 55
  let wr := w.getLsbD 48
  let start := w.toNat / 2 ^ 16 % 2 ^ 32 * 65536
  let own : Word := ((fs.head?.filter (fun f => decide (f.callee = x.dom))).map Frame.window).getD 0
  decide (g.wrule = 0 ∨ npg = 0 ∨ g.wmax < npg ∨ w.toNat / 2 ^ 49 % 64 ≠ 0 ∨ w.toNat % 65536 ≠ 0)
    || (wr && decide (g.wrule = 1))
    || (decide (Config.winva ≤ start ∧ start < Config.winEnd)
        && (decide (Config.winva + own.toNat / 2 ^ 55 * 65536 < start + npg * 65536) || (wr && !own.getLsbD 48)))

/-! ## Draining (R149, R152) -/

/-- Pending writes landed, the reservation cleared, the coupling state discarded. -/
def Strand.quiet (x : Strand) : Strand := { x.landAll with res := none, q := .empty }

/-- A strand whose cleanup routine runs (R157). -/
def Strand.inCleanup (x : Strand) : Bool := !x.inTrap && x.unw.any Unwind.clean

/-- Whether a command of a strand issued in a domain has not completed (R152). -/
def cmdsOf (s : State) (six dom : Nat) : Bool :=
  (s.cluster (clusterOf (coreOf six))).cmds.any (fun k => k.six == six && k.asid == dom)

/-- Whether nothing that R152 waits for is left: commands of the current domain, token registers, accesses; and no matrix
command (DEDUCED, log entry 30). -/
def drained (s : State) (six : Nat) : Bool :=
  let x := s.strand six
  !cmdsOf s six x.dom && x.await.isEmpty && !outstanding s six && !matrixBusy s six

/-- The domain table's HOLD for a popped frame that names a domain (R142, R157). -/
def releaseHold (dom : Nat) (s : State) : List Effect := setHold dom (unhold (s.dom dom)) s

/-- The domain that the innermost frame of a strand names, where its record can be read or is kept. -/
def calleeOf (s : State) (six : Nat) (x : Strand) : Option Nat :=
  match frameAt s (coreOf six) x x.sys.dsdepth with
  | some f => some f.callee
  | none => x.tops.head?.map Prod.snd

/-- The strand without its innermost frame. -/
def Strand.popped (x : Strand) : Strand :=
  { x with frames := x.frames.tail, tops := x.tops.tail, sys := { x.sys with dsdepth := x.sys.dsdepth - 1 } }

/-- Pop the innermost frame without running code. -/
def popFrame (six : Nat) (s : State) : List Effect :=
  let x := s.strand six
  chain
    [fun s => match calleeOf s six x with
      | some d => releaseHold d s
      | none => [],
     fun _ => [.strand six x.popped]] s

/-- Whether a command of a strand made at a depth or deeper waits for a translation (R229, R248). -/
def Cmd.heldIn (six depth : Nat) (k : Cmd) : Bool := k.held && k.six == six && decide (depth ≤ k.depth)
def MxCmd.heldIn (six depth : Nat) (k : MxCmd) : Bool := k.held && k.six == six && decide (depth ≤ k.depth)
def Held.heldIn (six depth : Nat) (h : Held) : Bool := h.six == six && decide (depth ≤ h.depth)

/-- Whether a strand has a held request made at a depth or deeper. -/
def anyHeld (s : State) (six depth : Nat) : Bool :=
  let c := s.cluster (clusterOf (coreOf six))
  s.held.any (Held.heldIn six depth) || c.cmds.any (Cmd.heldIn six depth) || c.mx.any (MxCmd.heldIn six depth)

/-- Held requests of a strand made at a depth or deeper are discarded, with the engine and matrix commands that wait for them, and
their registers are no longer pending (R249). -/
def dropHeld (six depth : Nat) (s : State) : List Effect :=
  let x := s.strand six
  let cl := clusterOf (coreOf six)
  let c := s.cluster cl
  let ids := (s.held.filter (Held.heldIn six depth)).map Held.id ++ (c.cmds.filter (Cmd.heldIn six depth)).map Cmd.id
    ++ (c.mx.filter (MxCmd.heldIn six depth)).map MxCmd.id
  [.held (s.held.filter (fun h => !h.heldIn six depth)),
   .cluster cl { c with cmds := c.cmds.filter (fun k => !k.heldIn six depth), mx := c.mx.filter (fun k => !k.heldIn six depth) },
   .strand six { x with
     await := x.await.filter (fun a => !ids.contains a.2),
     due := x.due.filter (fun d => match d with | .park _ => false | .trap _ => true) }]

/-- A cleanup ends at an instruction of its own (R157): drained, its frame popped, the error word's bits set. -/
def leaveCleanup (mark : Unwind → Unwind) : M Ctl := do
  let s ← getS
  puts (dropHeld s.six s.me.sys.dsdepth s)
  let s ← getS
  if !drained s s.six then holdNow .gate
  acquireHere
  let s ← getS
  puts (popFrame s.six s)
  modMe (fun x =>
    let y := x.stopped.quiet
    { y with sys := { y.sys with vrun := false }, unw := y.unw.map (fun u => mark { u with clean := false }) })
  pure .placed

/-! ## GCALL (R148, R149, R151) -/

/-- The older frame that must leave the slot when it holds four (R155), written to its segment, or why it is not. -/
def spillOldest (s : State) (six : Nat) : Except Fail (List Effect) :=
  let x := s.strand six
  match x.frames[3]? with
  | none => .ok []
  | some f => sysWrite six (frameAddr x (x.sys.dsdepth - 3)) 256 f.encode s

/-- The strand inside a gate (R149), its frame pushed. -/
def Strand.called (x : Strand) (g : GateDesc) (f : Frame) (six : Nat) : Strand :=
  let y := (List.range 23).foldl (fun y i => y.setReg (.s (9 + i)) (.word 0)) x
  let y := y.setReg (.s 30) (.word (g.stackTop six))
  let y := (if g.vpol = 2 then y else y.clearV).seed 0
  { y with
    frames := (f :: y.frames).take 4, tops := (g.stackTop six, g.tdom) :: y.tops, dom := g.tdom,
    sys := { y.sys with
      rmode := 0, flags := 0, fenable := 0, pm := false, dsdepth := y.sys.dsdepth + 1, gstat := 0 },
    c := { y.c with pc := g.entry, ox := [] } }

/-- The frame that a GCALL pushes (R149, R155). -/
def newFrame (s : State) (x : Strand) (g : GateDesc) (ret h w : Word) : Frame :=
  { callerGen := (s.dom x.dom).gen, calleeGen := (s.dom g.tdom).gen, callee := g.tdom, caller := x.dom,
    vpol := BitVec.ofNat 2 g.vpol, kind := 0, pm := x.sys.pm, ret := ret, window := w, cleanup := g.cleanup,
    budget := 2 ^ g.cbud, rmode := x.sys.rmode, flags := x.sys.flags, fenable := x.sys.fenable, srseed := x.sys.srseed,
    handle := BitVec.ofNat 64 (h.toNat % 2 ^ 32), regs := (List.range 23).map (fun i => x.readS (9 + i)) }

/-- The gate a handle names. -/
def gateOf (s : State) (h : Word) : Option GateDesc := (s.gate (h.toNat % 65536)).desc

/-- What a GCALL writes to the domain-stack segment: the frame that leaves the slot, and the vector image of a SAVE gate (R151, R155). -/
def savedStack (g : GateDesc) (s : State) : Except Fail (List Effect) :=
  match spillOldest s s.six with
  | .error u => .error u
  | .ok es =>
    if g.vpol = 1 then
      (writePieces s.six (imageAddr s.me (s.me.sys.dsdepth + 1)) (imagePieces s.me) (applyAll es s)).map (fun fs => es ++ fs)
    else .ok es

/-- GCALL outside a cleanup routine. -/
def gcallBody (h w : Word) : M Ctl := do
  beOldest
  let s ← getS
  trapIf (decide (slotOf s.six = 6)) 13 8 h
  trapIf s.me.sys.vrun 13 7 h
  let sub := gateCheck s s.me.dom h
  trapIf (decide (sub ≠ 0)) 13 sub h
  match gateOf s h with
  | none => trap 13 1 h
  | some g => do
    let fs ← stackFrames
    trapIf (onStack s.me fs g.tdom) 13 6 h
    trapIf (decide (16 ≤ s.me.sys.dsdepth)) 13 5 h
    trapIf (w != 0 && badWindow s.me fs g w) 13 4 w
    stallIf (!s.me.await.isEmpty) .gate
    releaseIn .gate
    acquireHere
    modMe Strand.quiet
    let pc ← getPc
    let s ← getS
    match savedStack g s with
    | .error e => segmentFail .gate e
    | .ok es => do
      let f := newFrame s s.me g (pc + 4) h w
      puts es
      let s ← getS
      put (.dom g.tdom { s.dom g.tdom with hold := (s.dom g.tdom).hold + 1 })
      modMe (fun x => x.called g f s.six)
      pure .placed

/-- GCALL. -/
def execGcall (o : AB) (s : State) : Out :=
  issue (info1A 0 o.bits o.w.toNat [.s o.a.toNat, .s o.b.toNat]) (do
    let h ← getSr o.a
    let w ← getSr o.b
    let s ← getS
    if s.me.inCleanup then leaveCleanup (fun u => { u with forced := true }) else gcallBody h w) s

/-! ## GRET (R151, R152) -/

/-- The strand's vector state after leaving a frame at a depth (R151), with the effects of reading a saved one, or why it is not read. -/
def vpolOut (s : State) (six depth : Nat) (f : Frame) (x : Strand) : Except Fail (Strand × List Effect) :=
  match f.vpol.toNat with
  | 0 => .ok (x.clearV, [])
  | 1 => x.restoreV s (coreOf six) (imageAddr x depth)
  | _ => .ok (x, [])

/-- The saved caller state of a frame (R152, R157): s9–s31, RMODE, FLAGS, FENABLE, SRSEED, PM, the caller's domain, and the
return PC with bit 0 taken as 0 (log entry 34). -/
def Strand.returned (x : Strand) (f : Frame) : Strand :=
  let y := (f.regs.zipIdx.foldl (fun y p => y.setReg (.s (9 + p.2)) (.word p.1)) x).seed f.srseed
  let z := y.popped
  { z with
    dom := f.caller,
    sys := { z.sys with rmode := f.rmode, flags := f.flags, fenable := f.fenable, pm := f.pm },
    c := { z.c with pc := f.ret &&& ~~~1#64 } }

/-- Zero a run of s registers. -/
def Strand.zeroS (x : Strand) (first count : Nat) : Strand :=
  (List.range count).foldl (fun y i => y.setReg (.s (first + i)) (.word 0)) x

/-- GRET outside a cleanup routine. -/
def gretBody : M Ctl := do
  let s ← getS
  trapIf (decide (s.me.sys.dsdepth = 0)) 13 9 0
  trapIf s.me.sys.vrun 13 7 0
  stallIf (cmdsOf s s.six s.me.dom || !s.me.await.isEmpty) .gate
  releaseIn .gate
  acquireHere
  modMe Strand.quiet
  let s ← getS
  let depth := s.me.sys.dsdepth
  match frameRead s s.coreNo s.me depth with
  | .error e => segmentFail .gate e
  | .ok (f, es) => do
    trapIf (f.ret.getLsbD 0) 4 0 f.ret
    puts es
    let s ← getS
    match vpolOut s s.six depth f s.me with
    | .error e => segmentFail .gate e
    | .ok (y, es) => do
      puts es
      let s ← getS
      puts (releaseHold f.callee s)
      let z := (y.returned f).zeroS 5 4
      put (.strand s.six { z with sys := { z.sys with gstat := 0 } })
      pure .placed

/-- GRET. -/
def execGret (o : A0) (s : State) : Out :=
  issue (info1A 1 o.bits o.w.toNat []) (do
    let s ← getS
    if s.me.inCleanup then leaveCleanup id else gretBody) s

/-- GSTAT (R153). -/
def execGstat (o : AD) (s : State) : Out :=
  issue (info1A 2 o.bits o.w.toNat [.s o.d.toNat]) (do
    let s ← getS
    giveS o.d (zx s.me.sys.gstat)
    pure .next) s

/-! ## GREVOKE (R157) and GQRY (R158) -/

/-- What revoking a LIVE domain does, as one step against the domain table (R157). -/
def revoke (asid : Nat) (s : State) : List Effect :=
  let d := s.dom asid
  chain
    [fun _ => [.dom asid { d with st := if d.hold = 0 then .dead else .revoked }],
     fun s => s.gates.filterMap (fun p =>
       if p.2.desc.any (fun g => decide (g.tdom = asid)) then some (.gate p.1 p.2.closed) else none),
     invalidateSlots (fun t => decide (t.asid = asid))] s

/-- GREVOKE (R157). -/
def execGrevoke (o : A2) (s : State) : Out :=
  let enc := opA 0x1A 4 + o.bits
  issue (info1A 4 o.bits o.w.toNat (usesDA o.d o.a)) (do
    let a ← getSr o.a
    let s ← getS
    let t := a.toNat % 4096
    let d := s.dom t
    if t = 0 then do
      giveS o.d 1
      pure .next
    else do
      trapIf (!s.me.sys.pm && d.owner != (s.dom s.me.dom).owner) 3 0 (BitVec.ofNat 64 enc)
      let fs ← stackFrames
      trapIf (onStack s.me fs t) 13 11 0
      let waited := match s.me.c.wait with | .revoke y _ _ => decide (y = t) | _ => false
      if d.st = .live ∧ !waited then puts (revoke t s)
      let s ← getS
      if (s.dom t).st = .revoked then pure (.hold (.revoke t o.d.toNat o.w.toNat))
      else do
        giveS o.d 0
        pure .next) s

/-- GQRY (R158). -/
def execGqry (o : A3) (s : State) : Out :=
  issue (info1A 5 o.bits o.w.toNat (usesDAB o.d o.a o.b)) (do
    let a ← getSr o.a
    let b ← getSr o.b
    let s ← getS
    match b.toNat with
    | 0 => giveS o.d (BitVec.ofNat 64 (gateCheck s s.me.dom a))
    | 1 => giveS o.d (BitVec.ofNat 64 (domWord (a.toNat % 4096) (s.dom (a.toNat % 4096))))
    | 2 =>
      if a.toNat < s.me.sys.dsdepth then
        match frameRead s s.coreNo s.me (a.toNat + 1) with
        | .ok (f, es) => do
          puts es
          giveS o.d (BitVec.ofNat 64 f.encode)
        | .error e => segmentFail .accept e
      else giveS o.d (BitVec.allOnes 64)
    | _ => giveS o.d (BitVec.allOnes 64)
    pure .next) s

/-! ## Unwinding (R157) -/

/-- Whether the domain a frame entered is LIVE. -/
def frameLive (s : State) (f : Frame) : Bool := decide ((s.dom f.callee).st = .live)

/-- The least depth whose domain is not LIVE, with that domain (R157), of a stack of frames, innermost first. -/
def firstDead (s : State) (fs : List Frame) : Option (Nat × Nat) :=
  (fs.reverse.zipIdx.find? (fun p => !frameLive s p.1)).map (fun p => (p.2 + 1, p.1.callee))

/-- Whether a stream is inside an instruction that completes before an unwind (R185). -/
def Strand.mustFinish (x : Strand) : Bool :=
  x.c.wait.first || x.v.wait.first || decide (x.c.wait = .fin ∨ x.c.wait = .reply)

/-- Whether the C-stream is inside an instruction that a KILL lets complete (R185): GCALL or GRET, FIN or AMRET, PFREE. A fence or
release has nothing left to do (log entry 30). -/
def Strand.finishes (x : Strand) : Bool :=
  match x.c.wait with
  | .gate => true
  | .fin => true
  | .reply => true
  | .pfree .. => true
  | _ => false

/-- The start of an unwind (R157, RUN to STEP): both streams stop as for a trap, held requests are discarded (R249), VRUN
and the coupling state are cleared. -/
def unwindStart (six : Nat) (u : Unwind) (gstat : BitVec 8) (s : State) : List Effect :=
  chain
    [dropHeld six 0,
     fun s =>
       let y := (s.strand six).stopped
       [.strand six { y with
          due := [], res := none, q := .empty, inTrap := false, nest := 0, unw := some u,
          sys := { y.sys with vrun := false, gstat := gstat } }]] s

/-- The callee stack top of a strand's innermost frame (R149); free where software has written a DSDEPTH of frames that no GCALL
pushed (log entry 29). -/
def frameTop (s : State) (x : Strand) : Word :=
  match x.tops.head? with
  | some t => t.1
  | none => Config.lostStack s.nextId

/-- Cleanup entry (R157, R219) into the innermost frame. DESIGN CHOICE (log entry 80): under KILL, where no depth k is, s2 is 0 and s1 the
domain of the unwind under way, or 0. -/
def cleanupEnter (six : Nat) (f : Frame) (u : Unwind) (s : State) : List Effect :=
  let x0 := s.strand six
  let x := x0.clearV.seed 0
  let y := (x.zeroS 1 31).setReg (.s 1) (.word (BitVec.ofNat 64 u.dom))
  let y := (y.setReg (.s 2) (.word (BitVec.ofNat 64 u.k))).setReg (.s 30) (.word (frameTop s x0))
  [.fresh,
   .strand six { y with
    dom := f.callee, frames := { f with kind := if u.killing then 2 else 1 } :: y.frames.tail,
    unw := some { u with clean := true, left := f.budget },
    sys := { y.sys with rmode := 0, flags := 0, fenable := 0, pm := false },
    c := { y.c with pc := f.cleanup &&& ~~~1#64, ox := [], wait := .none } }]

/-- The error word of R153. -/
def errorWord (u : Unwind) : Word :=
  BitVec.ofNat 64 (bit u.forced 18 + bit u.budget 17 + u.k % 32 * 4096 + u.dom % 4096)

/-- The end of an unwind (R157, STEP with D = k): frame k popped, its caller resumed with the error word. -/
def unwindReturn (six : Nat) (f : Frame) (u : Unwind) (s : State) : List Effect :=
  let x := s.strand six
  match vpolOut s six x.sys.dsdepth f x with
  | .error (.fetch i pm xs) => fetchCopies six i pm xs s
  | .error _ => contain s six x true
  | .ok (y, es) =>
    let z := ((y.returned f).zeroS 2 7).setReg (.s 1) (.word (errorWord u))
    chain
      [fun _ => es, releaseHold f.callee,
       fun _ => [.strand six { z with unw := none, sys := { z.sys with gstat := 3 } }]] s

/-- One transition from STEP (R157), once nothing of the strand is in flight. -/
def unwindStep (six : Nat) (u : Unwind) (s : State) : List Effect :=
  let x := s.strand six
  let d := x.sys.dsdepth
  if d = 0 then (if u.killing then freeSlot s six x else [.strand six { x with unw := none }])
  else
    match frameRead s (coreOf six) x d with
    | .error (.fetch i pm xs) => fetchCopies six i pm xs s
    | .error _ =>
      if u.killing then
        -- A strand whose own frames hold the error has them popped without cleanup (R190).
        chain [popFrame six, fun s => let y := s.strand six; [.strand six { y with unw := y.unw.map (fun u => { u with skip := true }) }]] s
      else contain s six x true
    | .ok (f, es) => chain
      [fun _ => es,
       fun s =>
         if u.killing then (if frameLive s f && !u.skip then cleanupEnter six f u s else popFrame six s)
         else if d ≤ u.k then unwindReturn six f u s
         else if frameLive s f then cleanupEnter six f u s
         else popFrame six s] s

/-- A running cleanup ends at a boundary (R157): its budget is spent, or its domain is no longer LIVE. -/
def cleanupOver (s : State) (x : Strand) (u : Unwind) (six : Nat) : Option (Unwind → Unwind) :=
  match frameAt s (coreOf six) x x.sys.dsdepth with
  | none => some id
  | some f => if !frameLive s f then some id else if u.left = 0 then some (fun u => { u with budget := true }) else none

/-- A cleanup in whose unwind an outer domain is no longer LIVE: k becomes the least such depth (R157). -/
def lowerK (s : State) (fs : List Frame) (u : Unwind) : Option Unwind :=
  match firstDead s fs with
  | some (j, dom) => if j < u.k then some { u with k := j, dom := dom } else none
  | none => none

/-- What an unwind does at the boundary of a strand, whose stack of frames it is given: none where no unwind is due, no effect where it
waits. -/
def unwindAt (six : Nat) (fs : List Frame) (s : State) : Option (List Effect) :=
  let x := s.strand six
  match x.unw with
  | none =>
    if x.inTrap then none
    else (firstDead s fs).map (fun (k, dom) =>
      if x.mustFinish then []
      else unwindStart six
        { k := k, dom := dom, clean := false, left := 0, killing := false, budget := false, forced := false,
          skip := false } 1 s)
  | some u =>
    if !u.clean then
      -- A KILL of a running strand stops it first (DEDUCED, log entry 30).
      if x.finishes then some []
      else if x.inTrap || x.sys.vrun || x.c.wait != .none || x.v.wait != .none || x.res.isSome || x.q != .empty then
        some (unwindStart six u x.sys.gstat s)
      else if x.await.isEmpty && !undrained s six then some (unwindStep six u s)
      else some []
    else if x.inTrap then none
    else match lowerK s fs u with
    | some u' => some [.strand six { x with unw := some u' }]
    | none =>
      (cleanupOver s x u six).map (fun mark =>
        if x.mustFinish then []
        else if anyHeld s six x.sys.dsdepth then dropHeld six x.sys.dsdepth s
        else if !drained s six then []
        else chain
          [acquire (coreOf six), popFrame six,
           fun s =>
             let y := (s.strand six).stopped.quiet
             [.strand six { y with
                sys := { y.sys with vrun := false }, unw := some (mark { u with clean := false }) }]] s)

/-- What an unwind does at a strand's boundary. A fault of the domain-stack segment raises MACHINE for the group (R155); a strand that
is already being killed goes on popping its frames. To watch the domains of the stack is no access of the strand (DEDUCED, log entry
27). -/
def unwindBoundary (six : Nat) (s : State) : Option (List Effect) :=
  let x := s.strand six
  if x.st ≠ .active then none
  else match allFrames s (coreOf six) x with
  | .ok fs => unwindAt six fs.1 s
  | .error e =>
    if x.unw.any (fun u => u.killing && !u.clean) then unwindAt six [] s
    else if x.inTrap then none
    else match e with
    | .fetch i pm xs => some (fetchCopies six i pm xs s)
    | _ => some (contain s six x true)

end Sys2Proof.Machine
end

