-- ==== Sys2Proof/Machine/Boundary.lean ====
section
/-! DEFINITION. What reaches a strand at an instruction boundary: parks and traps that are due (R95, R229), unwinding (R157),
pre-emption entries (R187), interrupts (R184); and the events of a strand that no instruction of its own causes. -/

namespace Sys2Proof.Machine

/-- Whether a slot of a core is one of the general slots or the overflow slot, which pre-emption reaches (R187). -/
def preemptible (six : Nat) : Bool := decide (slotOf six ≠ 6)

/-! ## Parks and deferred traps (R95, R229) -/

/-- Whether what is due is taken at a boundary of its strand now: a trap of the V-stream only at a boundary of that stream, which
in a handler of the strand is stopped (R229). -/
def Due.takeable (x : Strand) : Due → Bool
  | .park _ => true
  | .trap t => decide (t.strm = .c) || (x.sys.vrun && !x.inTrap)

/-- The trap of what is due. -/
def Due.trapOf : Due → Trap
  | .park t => t
  | .trap t => t

/-- Whether what is due waits for an instruction that completes first (R185): one of the other stream, or one of its own stream that has
issued. An instruction of its own stream that only drains is still unissued, and the trap comes before it (R95, R229). -/
def Due.blocked (x : Strand) (d : Due) : Bool :=
  let st := d.trapOf.strm
  (x.waitOf (other st)).first || (match x.waitOf st with | .accept => true | .pfree .. => true | _ => false)

/-- What is due first and can be taken at a boundary of the strand. -/
def Strand.dueNow (x : Strand) : Option Due := x.due.find? (fun d => d.takeable x && !d.blocked x)

/-- The trap that is due first at a strand's boundary, none while an instruction completes first. -/
def dueHead (s : State) (six : Nat) : Option Due :=
  let x := s.strand six
  if x.st = .active then x.dueNow else none

/-- Take what is due first. -/
def takeDue (six : Nat) (s : State) : List Effect :=
  let x := s.strand six
  match x.dueNow with
  | none => []
  | some d =>
    chain
      [fun _ => [.strand six { x with due := x.due.erase d }],
       trapEffects d.trapOf six] s

/-! ## Pre-emption (R156, R187) -/

/-- Whether a core has no handler of a group left, running or queued (R187). -/
def coreDrained (s : State) (core gid : Nat) : Bool :=
  let c := s.core core
  let h := s.strand (8 * core + 6)
  let active := fun (e : HandlerEntry) => match e with
    | .message m => m.entry.isSome && m.gid == gid
    | .atomic _ => false
  !(decide (h.st ≠ .free) && decide (h.gid = some gid)) && !(c.hq ++ c.port).any active

/-- Whether a PREEMPT entry is taken at a strand's boundary. -/
def preemptReady (s : State) (six : Nat) : Bool :=
  let x := s.strand six
  x.preempt && decide (x.st = .active) && preemptible six && x.sys.ie && x.unw.isNone && !x.mustFinish
    && x.gid.all (coreDrained s (coreOf six))

/-- Every frame in the slot written to the segment (R155, R187), or why one is not written. -/
def spillFrames (six depth : Nat) : List Frame → State → Except Fail (List Effect)
  | [], _ => .ok []
  | f :: r, s =>
    match sysWrite six (frameAddr (s.strand six) depth) 256 f.encode s with
    | .error e => .error e
    | .ok es => (spillFrames six (depth - 1) r (applyAll es s)).map (fun fs => es ++ fs)

/-- A PREEMPT entry (R187): a speculative firing is aborted and requeued; any other firing enters its save routine with its
frames in the segment. A frame that cannot be written raises MACHINE (R155). -/
def preemptEnter (six : Nat) (s : State) : List Effect :=
  let x := s.strand six
  match (if x.spec then x.taskId else none) with
  | some id => abortTask true id s
  | none =>
    match spillFrames six x.sys.dsdepth x.frames s with
    | .error (.machine u pa) => trapEffects { cause := 17, sub := u, addr := BitVec.ofNat 64 pa, strm := .c } six s
    | .error _ => trapEffects { cause := 17, sub := 4, addr := 0, strm := .c } six s
    | .ok es =>
      chain
        [fun _ => es,
         fun s => [.strand six { s.strand six with preempt := false, frames := [], region := none }],
         trapEffects { cause := 18, sub := 0, addr := x.seg, strm := .c } six] s

/-- A pre-emption request for a group (R187). -/
def requestPreempt (gid : Nat) (s : State) : List Effect :=
  match s.group gid with
  | none => []
  | some g =>
    let mine := s.strands.filter (fun p => decide (p.2.gid = some gid ∧ p.2.st ≠ .free) && preemptible p.1)
    let aborted := mine.filterMap (fun p => if p.2.spec && decide (p.2.st = .active) then p.2.taskId else none)
    chain
      ([fun _ => [Effect.group gid (some { g with preempting := true })],
        fun s => mine.map (fun p => Effect.strand p.1 { s.strand p.1 with preempt := true }),
        abortTasks aborted]) s

/-- Whether a group can be pre-empted. -/
def canPreempt (s : State) (gid : Nat) : Bool :=
  (s.group gid).any (fun g => !g.preempting && !g.saved && !g.failed)

/-! ## Interrupts (R184) -/

/-- The interrupt taken at a strand's boundary: the oldest pending one of its principal or chiplet core. -/
def interruptReady (s : State) (six : Nat) : Option (Nat × Nat) :=
  let x := s.strand six
  if x.st = .active ∧ x.sys.ie ∧ !isCompute (coreOf six) ∧ !x.mustFinish ∧ x.unw.isNone then
    (s.core (coreOf six)).intr.head?
  else none

/-- Take the oldest pending interrupt. -/
def interruptEnter (six : Nat) (s : State) : List Effect :=
  let core := coreOf six
  let c := s.core core
  match c.intr with
  | [] => []
  | (sub, src) :: r =>
    chain
      [fun _ => [.core core { c with intr := r }],
       trapEffects { cause := 19, sub := sub, addr := BitVec.ofNat 64 src, strm := .c } six] s

/-! ## The boundary -/

/-- What happens at a strand's boundary before it issues: none where nothing does, no effect where the strand waits. -/
def boundary (six : Nat) (s : State) : Option (List Effect) :=
  match dueHead s six with
  | some _ => some (takeDue six s)
  | none =>
    match unwindBoundary six s with
    | some es => some es
    | none =>
      if preemptReady s six then some (preemptEnter six s)
      else if (interruptReady s six).isSome then some (interruptEnter six s)
      else none

/-! ## Events -/

/-- Perform effects where a condition holds. -/
def whenever (b : Bool) (f : State → List Effect) : M Unit := do
  let s ← getS
  if b then puts (f s) else pure ()

/-- Whether a strand is parked and not yet in a migration queue (R186). -/
def Strand.leaving (x : Strand) : Bool := decide (x.st = .parked) && x.entry

/-- STRAND_PARK (R95): a park that is due; once all that a parked strand had issued is complete (R33, R229), it joins the migration
queue. -/
def execStrandPark (six : Nat) (s : State) : Out :=
  event (do
    whenever (match dueHead s six with | some (.park _) => true | _ => false) (takeDue six)
    whenever (s.strand six).leaving (parkQueue six)) s

/-- REPLAY_CLASS_TRAP (R95). -/
def execReplayClassTrap (six : Nat) (s : State) : Out :=
  event (whenever (match dueHead s six with | some (.trap t) => decide (t.strm = .c) | _ => false) (takeDue six)) s

/-- MATRIX_DEFERRED_TRAP (R229). -/
def execMatrixDeferredTrap (six : Nat) (s : State) : Out :=
  event (whenever (match dueHead s six with | some (.trap t) => decide (t.strm = .v) | _ => false) (takeDue six)) s

/-- QUANT_EXPIRY (R187). -/
def execQuantExpiry (six : Nat) (s : State) : Out :=
  let x := s.strand six
  event (whenever (decide (x.st = .active ∧ x.sys.quant = 0) && preemptible six && x.gid.any (canPreempt s))
    (requestPreempt (x.gid.getD 0))) s

/-- PREEMPT_ORDER (R187). -/
def execPreemptOrder (gid : Nat) (s : State) : Out :=
  event (whenever (canPreempt s gid) (requestPreempt gid)) s

/-- PREEMPT_ENTRY (R187). -/
def execPreemptEntry (six : Nat) (s : State) : Out :=
  event (whenever ((dueHead s six).isNone && preemptReady s six) (preemptEnter six)) s

/-- INTERRUPT_ENTRY (R184). -/
def execInterruptEntry (six : Nat) (s : State) : Out :=
  event (whenever ((dueHead s six).isNone && (interruptReady s six).isSome) (interruptEnter six)) s

/-- The key of a stream of a slot in a core's counts of R161. -/
def ageKey (k : Nat) (st : Stream) : Nat := 2 * k + (match st with | .c => 0 | .v => 1)

/-- STREAM_AGING (R161): 1,024 cycles of requests in a row without a grant (log entry 8). -/
def execStreamAging (six : Nat) (st : Stream) (s : State) : Out :=
  let x := s.strand six
  let core := coreOf six
  let c := s.core core
  event (whenever (decide (slotOf six < 6 ∧ x.st = .active) && (decide (st = .c) || x.sys.vrun)
      && !c.aged.contains (slotOf six, st) && decide (1024 ≤ tblGet 0 c.ages (ageKey (slotOf six) st)))
    (fun _ => [.core core { c with aged := c.aged ++ [(slotOf six, st)] }])) s

/-- ALIGN_TIMEOUT (R193): 256 cycles of the strand's core. -/
def execAlignTimeout (six : Nat) (s : State) : Out :=
  event (whenever (match (s.strand six).c.wait with | .align t _ => decide (t + 256 ≤ (s.core (coreOf six)).cycle) | _ => false)
    (alignDone [six])) s

/-- RESERVATION_EXPIRY (R103). -/
def execReservationExpiry (six : Nat) (s : State) : Out :=
  event (whenever ((s.strand six).res.any (fun r => decide (r.2 + 4096 ≤ s.cycle)))
    (fun s => [.strand six { s.strand six with res := none }])) s

/-- UNWIND_START (R157). -/
def execUnwindStart (six : Nat) (s : State) : Out :=
  event (whenever ((dueHead s six).isNone && (s.strand six).unw.isNone)
    (fun s => (unwindBoundary six s).getD [])) s

/-- CLEANUP_BUDGET_EXPIRY (R157). -/
def execCleanupBudgetExpiry (six : Nat) (s : State) : Out :=
  event (whenever ((dueHead s six).isNone && (s.strand six).unw.any (fun u => u.clean && decide (u.left = 0)))
    (fun s => (unwindBoundary six s).getD [])) s

/-- GREVOKE_COMPLETE (R157). -/
def execGrevokeComplete (six : Nat) (s : State) : Out :=
  let x := s.strand six
  event (match x.c.wait with
    | .revoke t d w =>
      whenever (decide ((s.dom t).st ≠ .revoked))
        (fun _ => [.strand six (((x.write (.s d) (.word 0)).setPc .c (x.c.pc + 4)).stepped .c w)])
    | _ => pure ()) s

/-- MACHINE_CHECK (R190): an uncorrectable error in state of a group, met at a strand's core; the strand's own state where
the strand is of that group. On a principal or chiplet core the strand takes it at TVEC. -/
def execMachineCheck (gid sub six : Nat) (s : State) : Out :=
  let x := s.strand six
  event (
    if !isCompute (coreOf six) then
      whenever (decide (x.st = .active)) (trapEffects { cause := 17, sub := sub, addr := 0, strm := .c } six)
    else
      whenever (s.group gid).isSome (fun s =>
        if x.gid = some gid then contain s six x true
        else containGroup gid (coreOf six) s)) s

/-- TIMER_INTERRUPT (R183). -/
def execTimerInterrupt (core src : Nat) (s : State) : Out :=
  event (whenever (decide (core < Config.coreCount) && !isCompute core) (fun s => [signal s core 3 src])) s

end Sys2Proof.Machine
end

