-- ==== Sys2Proof/Machine/Lanes.lean ====
section
/-! DEFINITION. The vector datapath: lanes, elements and masks (R59, R60, R113), element-wise operations with their
conditions (R114), reductions (R131 to R133), conversions of whole registers (R126 to R128) and the stochastic draws
(R72). -/

namespace Sys2Proof.Machine

/-! ## Lanes, masks, side fields -/

/-- The tag of a register. -/
def VReg.t (v : VReg) : Nat := v.tag.toNat

/-- Lane `i` of 1,024 bits. -/
def laneOf (data i : Nat) : Nat := data / 2 ^ (32 * i) % 2 ^ 32

/-- 1,024 bits from their lanes. -/
def packLanes (ls : List Nat) : Nat := (ls.zipIdx.map (fun p => p.1 % 2 ^ 32 * 2 ^ (32 * p.2))).sum

/-- Whether the mask activates lane `i` of a destination of a tag: bit 2i decides both lanes of a 64-bit element (R113). -/
def laneOn (t : Nat) (m : Lane) (i : Nat) : Bool := m.getLsbD (if tagBits t = 64 then i / 2 * 2 else i)

/-- Whether element `j` is active. -/
def elemOn (t : Nat) (m : Lane) (j : Nat) : Bool := laneOn t m (elemLane t j)

/-- A lane as a tag holds it: bits [31:30] are zero for the 6-bit tags (R59). -/
def cleanLane (t x : Nat) : Nat := if tagBits t = 6 then x % 2 ^ 30 else x

/-- 1,024 bits as a tag holds them (R59). -/
def cleanData (t x : Nat) : Nat :=
  if tagBits t = 6 then packLanes ((List.range 32).map (fun i => cleanLane t (laneOf x i))) else x

/-- The active lanes new, the others old. -/
def mergeLanes (t : Nat) (m : Lane) (old new : Nat) : Nat :=
  packLanes ((List.range 32).map (fun i => if laneOn t m i then cleanLane t (laneOf new i) else laneOf old i))

/-- The side field a tag keeps (R60): bytes beyond its last block are zero, and all of it for a tag that ignores it. -/
def cleanSide (t : Nat) (side : BitVec 64) : BitVec 64 :=
  if t = 0 then side
  else if isBlock t then BitVec.ofNat 64 (side.toNat % 2 ^ (8 * (tagCount t / 32)))
  else 0

/-- A v register from its parts. -/
def vreg (data : Nat) (side : BitVec 64) (t : Nat) : VReg :=
  { data := BitVec.ofNat 1024 data, side := side, tag := BitVec.ofNat 5 t }

/-- Elements of a register. -/
def elemsOf (v : VReg) : List Nat := (List.range (tagCount v.t)).map (elemAt v.t v.data.toNat)

/-! ## Element-wise operations -/

/-- Results and conditions of the active elements of a tag, by element number. -/
def overElems (t : Nat) (m : Lane) (f : Nat → Nat × BitVec 6) : List (Nat × Nat × BitVec 6) :=
  ((List.range (tagCount t)).filter (elemOn t m)).map (fun j => (j, f j))

/-- The conditions with their element numbers. -/
def condsOf (rs : List (Nat × Nat × BitVec 6)) : List (Nat × BitVec 6) := rs.map (fun r => (r.1, r.2.2))

/-- 1,024 bits from the active elements, the others old. -/
def mergeElems (t : Nat) (m : Lane) (old : Nat) (rs : List (Nat × Nat × BitVec 6)) : Nat :=
  mergeLanes t m old ((rs.map (fun r => r.2.1 % 2 ^ tagBits t * 2 ^ elemPos t r.1)).sum)

/-- The floating-point format of a tag that takes arithmetic. -/
def fmtOf (t : Nat) : Fmt := (tagFmt t).getD fp32

/-- The tags of R118. -/
def isArith (t : Nat) : Bool := t == 1 || t == 2 || t == 3 || t == 4

/-- The tags of R122 and R123. -/
def isIntTag (t : Nat) : Bool := t == 10 || t == 11 || t == 14 || t == 22 || t == 23

/-- The float element tags of R115. -/
def isFloatTag (t : Nat) : Bool := decide (1 ≤ t ∧ t ≤ 9)

/-- An integer encoded under a tag. -/
def encInt (t : Nat) (i : Int) : Nat := wrapInt (tagBits t) i

/-- An integer saturated to the range of a tag (R65). -/
def satInt (t : Nat) (i : Int) : Nat :=
  match tagInt t with
  | some (lo, hi) => encInt t (max lo (min hi i))
  | none => encInt t i

/-- The rounding of majors 0x21 to 0x25 (R54): r is the major less 0x20. -/
def majorRnd (r : Nat) (mode : BitVec 3) : Rnd :=
  match r with
  | 1 => rndOf mode
  | 2 => .rne
  | 3 => .rtz
  | 4 => .rup
  | _ => .rdn

/-! ## VEXP2, VLOG2, VCLASS -/

/-- A finite FP32 encoding as an exact value. -/
def fin32 (x : Nat) : Dy := match fp32.read x with | .fin d => d | _ => ⟨false, 0, 0⟩

/-- p × f + c in FP32 by RNE (R120, R121). -/
def step32 (p : Nat) (f : Val) (c : Nat) : Nat := (fFma fp32 .rne (fp32.read p) f (fp32.read c)).1

/-- The coefficients of R120, c5 first, after c6. -/
def exp2Coeffs : List Nat := [0x3AAEC3EC, 0x3C1D9567, 0x3D635847, 0x3E75FDF0, 0x3F317218, 0x3F800000]

/-- The coefficients of R121, d3 first, after d4. -/
def log2Coeffs : List Nat := [0x3ED30BB1, 0x3F13BB63, 0x3F76384F, 0x4038AA3B]

/-- VEXP2 of one element (R120). An exponent beyond 1,000 decides nothing that 1,000 does not. -/
def fExp2 (r : Rnd) (v : Val) : Nat × BitVec 6 :=
  match v with
  | .nan _ => nanFrom fp32 [v]
  | .inf s => (if s then 0 else fp32.infEnc, 0)
  | .fin d =>
    let (k, _) := roundAt .rne d.neg d.m d.e false 0
    let n : Int := if d.neg then -(k : Int) else k
    let f := d.add (Dy.ofInt (-n)) false
    let p := exp2Coeffs.foldl (fun p c => step32 p (.fin f) c) 0x39218497
    let y := fin32 p
    roundTo fp32 r { y with e := y.e + max (-1000) (min 1000 n) } false

/-- VLOG2 of one element (R121). -/
def fLog2 (r : Rnd) (v : Val) : Nat × BitVec 6 :=
  match v with
  | .nan _ => nanFrom fp32 [v]
  | .inf s => if s then invalid fp32 else (fp32.infEnc, 0)
  | .fin d =>
    if d.m = 0 then (fp32.signed true fp32.infEnc, flagDZ)
    else if d.neg then invalid fp32
    else
      let e := topExp d.m d.e
      let m : Dy := ⟨false, d.m, d.e - e⟩
      let big := (fin32 0x3FB504F3).lt m
      let m' : Dy := if big then { m with e := m.e - 1 } else m
      let e' := if big then e + 1 else e
      let f := m'.add (Dy.ofInt (-1)) false
      let z := (fDiv fp32 .rne (.fin f) (.fin (f.add (Dy.ofInt 2) false))).1
      let w := (fMul fp32 .rne (fp32.read z) (fp32.read z)).1
      let q := log2Coeffs.foldl (fun q c => step32 q (fp32.read w) c) 0x3EA4258A
      let y := (fMul fp32 .rne (fp32.read z) (fp32.read q)).1
      fAdd fp32 r (.fin (Dy.ofInt e')) (fp32.read y)

/-- The class bit of an encoding (R117). -/
def classBit (f : Fmt) (x : Nat) : Nat :=
  match f.read x with
  | .nan s => if s then 256 else 512
  | .inf s => if s then 1 else 128
  | .fin d =>
    let normal := decide (x % f.sign / 2 ^ f.mb ≠ 0)
    if d.m = 0 then (if d.neg then 8 else 16)
    else if normal then (if d.neg then 2 else 64)
    else if d.neg then 4 else 32

/-! ## Reductions (R131 to R133) -/

/-- A value of a reduction in flight, with the lowest leaf index under its node. -/
structure Leaf where
  idx : Nat
  val : Val
  deriving DecidableEq, Repr

/-- One level of a tree: pairs joined, conditions collected. -/
def treeLevel (op : Val → Val → Val × BitVec 6) : List Leaf → List Leaf × List (Nat × BitVec 6)
  | a :: b :: r =>
    let (v, fl) := op a.val b.val
    let (ls, cs) := treeLevel op r
    (⟨a.idx, v⟩ :: ls, (a.idx, fl) :: cs)
  | r => (r, [])

/-- The pairwise tree of R131, `n` levels. -/
def tree (op : Val → Val → Val × BitVec 6) : Nat → List Leaf → List (Nat × BitVec 6) → Val × List (Nat × BitVec 6)
  | 0, ls, cs => ((ls.head?.map Leaf.val).getD (.nan false), cs)
  | n + 1, ls, cs =>
    let (ls', cs') := treeLevel op ls
    tree op n ls' (cs ++ cs')

/-- A float operation on values, rounded by RNE to a format and read back. -/
def readBack (f : Fmt) (r : Nat × BitVec 6) : Val × BitVec 6 := (f.read r.1, r.2)

/-- The encoding of a value that a format holds. -/
def encodeVal (f : Fmt) (v : Val) : Nat := (v.round f .rne).1

/-- The operations of reductions and scans: ADD, MIN, MAX, MINN, MAXN, AND, OR, XOR. -/
inductive RedOp where
  | add
  | min
  | max
  | minn
  | maxn
  | and
  | or
  | xor
  deriving DecidableEq, Repr

/-- The identity of an operation under a tag, as an encoding (R131). -/
def RedOp.identity (op : RedOp) (t : Nat) : Nat :=
  let w := tagBits t
  match tagFmt t, op with
  | some f, .add => f.sign
  | some f, .min => f.infEnc
  | some f, _ => f.sign + f.infEnc
  | none, .min => 2 ^ (w - 1) - 1
  | none, .max => 2 ^ (w - 1)
  | none, .minn => 2 ^ w - 1
  | none, .and => 2 ^ w - 1
  | none, _ => 0

/-- One step of a reduction on encodings (R131): floats round by RNE, integers wrap. -/
def RedOp.apply (op : RedOp) (t x y : Nat) : Nat × BitVec 6 :=
  let w := tagBits t
  match tagFmt t, op with
  | some f, .add => fAdd f .rne (f.read x) (f.read y)
  | some f, .min => fMinMax f false x y
  | some f, _ => fMinMax f true x y
  | none, .add => ((x + y) % 2 ^ w, 0)
  | none, .min => (if signedOf w y < signedOf w x then y else x, 0)
  | none, .max => (if signedOf w x < signedOf w y then y else x, 0)
  | none, .minn => (Nat.min x y, 0)
  | none, .maxn => (Nat.max x y, 0)
  | none, .and => (x &&& y, 0)
  | none, .or => (x ||| y, 0)
  | none, .xor => (x ^^^ y, 0)

/-- One level of the tree on encodings. DESIGN CHOICE (log entry 70): every condition of a node, one that a signalling NaN of a
leaf raises among them, takes the lowest leaf index under the node. -/
def redLevel (op : RedOp) (t : Nat) : List (Nat × Nat) → List (Nat × Nat) × List (Nat × BitVec 6)
  | a :: b :: r =>
    let (v, fl) := op.apply t a.2 b.2
    let (ls, cs) := redLevel op t r
    ((a.1, v) :: ls, (a.1, fl) :: cs)
  | r => (r, [])

/-- The tree of R131 on encodings, `n` levels. -/
def redTree (op : RedOp) (t : Nat) : Nat → List (Nat × Nat) → List (Nat × BitVec 6) → Nat × List (Nat × BitVec 6)
  | 0, ls, cs => ((ls.head?.map Prod.snd).getD 0, cs)
  | n + 1, ls, cs =>
    let (ls', cs') := redLevel op t ls
    redTree op t n ls' (cs ++ cs')

/-- VRED of a register (R131): leaves, identities for inactive lanes. -/
def reduce (op : RedOp) (v : VReg) (m : Lane) : Nat × List (Nat × BitVec 6) :=
  let leaves := (elemsOf v).zipIdx.map (fun p => (p.2, if elemOn v.t m p.2 then p.1 else op.identity v.t))
  redTree op v.t (if tagBits v.t = 64 then 4 else 5) leaves []

/-- The k result of a reduction (R131). -/
def widenRed (op : RedOp) (t x : Nat) : Word :=
  if t = 22 ∧ op ≠ .minn ∧ op ≠ .maxn then BitVec.ofInt 64 (signedOf 32 x) else BitVec.ofNat 64 x

/-- The inclusive scan of R133: new elements with their conditions. -/
def scan (op : RedOp) (t : Nat) (m : Lane) : List (Nat × Nat) → Nat → List (Nat × Nat × BitVec 6)
  | [], _ => []
  | (j, x) :: r, y =>
    if elemOn t m j then
      let (z, fl) := op.apply t y x
      (j, z, fl) :: scan op t m r z
    else scan op t m r y

/-- A leaf of VDOT (R132): the exact product; a NaN operand, a signalling one with NV, or an invalid product. -/
def dotLeaf (f : Fmt) (x y : Nat) : Val × BitVec 6 :=
  let a := f.read x
  let b := f.read y
  if anyNan [a, b] then (.nan false, (nanFrom f [a, b]).2)
  else match Val.mul a b with
    | some v => (v, 0)
    | none => (.nan false, flagNV)

/-- VDOT on floats (R132): the tree of sums, each node rounded by RNE to FP64 for FP64 and to FP32 otherwise. -/
def dotFloat (t : Nat) (va vb : VReg) (m : Lane) : Nat × List (Nat × BitVec 6) :=
  let f := fmtOf t
  let g := if t = 1 then fp64 else fp32
  let n := tagCount t
  let ps := (List.range n).map (fun j =>
    if elemOn t m j then dotLeaf f (elemAt t va.data.toNat j) (elemAt t vb.data.toNat j)
    else (.fin ⟨true, 0, 0⟩, 0))
  let leaves := ps.zipIdx.map (fun p => (⟨p.2, p.1.1⟩ : Leaf))
  let (v, cs) := tree (fun a b => readBack g (fAdd g .rne a b)) (Nat.log2 n) leaves []
  (encodeVal g v, ps.zipIdx.map (fun p => (p.2, p.1.2)) ++ cs)

/-- VDOT on I32 (R132): modulo 2^32. -/
def dotInt (va vb : VReg) (m : Lane) : Nat :=
  ((List.range 32).map (fun j =>
    if elemOn 22 m j then elemAt 22 va.data.toNat j * elemAt 22 vb.data.toNat j else 0)).sum % 2 ^ 32

/-! ## Conversions (R126 to R128) -/

/-- The rounding a field selects (R54): 0 RNE, 1 RTZ, 2 RUP, 3 RDN, 4 stochastic. -/
def cvtMode (field : Nat) (mode : BitVec 3) : Nat := if field = 0 then mode.toNat else field - 1

/-- A rounding by its mode number, with the draw of a stochastic one. -/
def rndWith (mode draw : Nat) : Rnd := if mode = 4 then .sr draw else rndOf (BitVec.ofNat 3 mode)

/-- The draws of the first `n` output elements of a tag (R72), and the generators after them. -/
def draws (t : Nat) : Nat → Nat → List Lane → List Nat × List Lane
  | 0, _, g => ([], g)
  | n + 1, j, g =>
    let u := genStep (g.getD (elemLane t j) 0)
    let r := draws t n (j + 1) (g.set (elemLane t j) u)
    (u.toNat :: r.1, r.2)

/-- Convert a list of values to a tag: encodings, scale bytes, conditions by position. -/
def convertList (t : Nat) (narrow nan : Bool) (rs : List Rnd) (vs : List Val) : List Nat × List Nat × List (BitVec 6) :=
  if isBlock t then
    (List.range ((vs.length + 31) / 32)).foldl (fun acc b =>
      let v := (vs.drop (32 * b)).take 32
      let r := (rs.drop (32 * b)).take 32
      let (scale, es, fl) := if t = 21 then encodeQ4 r v else encodeMx t r nan v
      (acc.1 ++ es, acc.2.1 ++ [scale], acc.2.2 ++ fl)) ([], [], [])
  else
    let es := List.zipWith (fun v r => convElem t narrow r nan v) vs rs
    (es.map Prod.fst, [], es.map Prod.snd)

/-- A conversion of the elements `first` to `first + n - 1` of a register to a tag (R126): encodings, scale bytes,
conditions, and the generators after it. -/
def convert (src : VReg) (t first n mode : Nat) (nan : Bool) (gen : List Lane) :
    List Nat × List Nat × List (BitVec 6) × List Lane :=
  let narrow := isNarrowing src.t t
  let vs := (List.range n).map (fun i => readElem src.t src.data.toNat src.side.toNat (first + i))
  if narrow && decide (mode = 4) then
    let (us, g) := draws t n 0 gen
    let (es, sc, fl) := convertList t narrow nan (us.map Rnd.sr) vs
    (es, sc, fl, g)
  else
    let (es, sc, fl) := convertList t narrow nan (vs.map (fun _ => rndOf (BitVec.ofNat 3 mode))) vs
    (es, sc, fl, gen)

/-- Scale bytes as a side field, byte 0 first. -/
def sideOf (bs : List Nat) : BitVec 64 := BitVec.ofNat 64 ((bs.zipIdx.map (fun p => p.1 % 256 * 2 ^ (8 * p.2))).sum)

/-- The encoding of +0 in a block whose scale byte is 0: code 8 in Q4S, whose kind 00 reads code 0 as −8 × S (R67). -/
def zeroCode (t : Nat) : Nat := if t = 21 then 8 else 0

/-- VCVT of a whole register (R127): data of every element, side field, conditions, generators. -/
def convertReg (src : VReg) (t mode : Nat) (nan : Bool) (gen : List Lane) :
    List Nat × BitVec 64 × List (BitVec 6) × List Lane :=
  let n := min (tagCount src.t) (tagCount t)
  let (es, sc, fl, g) := convert src t 0 n mode nan gen
  (es, sideOf sc, fl, g)

end Sys2Proof.Machine
end

