-- ==== Sys2Proof/Machine/Vector.lean ====
section
/-! DEFINITION. The vector instructions of majors 0x20 to 0x2B and the mask instructions of major 0x34 (R113 to R133). -/

namespace Sys2Proof.Machine

/-! ## Shared forms -/

/-- The registers of format V. -/
def usesV2 (o : V2) : List RegId := [.v o.d.toNat, .v o.a.toNat, .m o.m.toNat]
def usesV3 (o : V3) : List RegId := [.v o.d.toNat, .v o.a.toNat, .v o.b.toNat, .m o.m.toNat]
def usesVR2 (o : VR2) : List RegId := [.v o.d.toNat, .v o.a.toNat, .m o.m.toNat]
def usesVR3 (o : VR3) : List RegId := [.v o.d.toNat, .v o.a.toNat, .v o.b.toNat, .m o.m.toNat]

/-- Trap FORMAT with the encoding (R15, R113). -/
def formatIf (b : Bool) (enc : Nat) : M Unit := trapIf b 10 0 (BitVec.ofNat 64 enc)

/-- Trap ILLEGAL with the encoding. -/
def illegalIf (b : Bool) (enc : Nat) : M Unit := trapIf b 1 0 (BitVec.ofNat 64 enc)

/-- Write a v register after a latency. -/
def giveV (d : BitVec 5) (v : VReg) (latency : Nat) : M Unit := land (.v d.toNat) (.vec v) latency

/-- A move of whole lanes (R115): lane `i` of the result is `f i`, where the mask of the result's tag lets it. -/
def moveLanes (d : BitVec 5) (m : BitVec 3) (t : Nat) (side : BitVec 64) (latency : Nat) (f : Nat → Nat) : M Unit := do
  let old ← getV d
  let mask ← getM m.toNat
  giveV d (vreg (mergeLanes t mask old.data.toNat (packLanes ((List.range 32).map f))) side t) latency

/-- An operation on active elements (R113, R114): the conditions raised, then the result under a tag, side 0. -/
def mapElems (d : BitVec 5) (m : BitVec 3) (src t latency : Nat) (f : Nat → Nat × BitVec 6) : M Unit := do
  let old ← getV d
  let mask ← getM m.toNat
  let rs := overElems src mask f
  raiseAll (condsOf rs)
  giveV d (vreg (mergeElems src mask old.data.toNat rs) 0 t) latency

/-! ## Moves, permutes and tags (R115 to R117) -/

/-- VMOV (R115). -/
def execVmov (o : V2) (s : State) : Out :=
  let enc := opV 0x20 0 + o.bits
  issue (infoV enc o.w.toNat (usesV2 o)) (do
    let a ← getV o.a
    illegalIf (isBlock a.t && decide (o.m ≠ 0)) enc
    moveLanes o.d o.m a.t (cleanSide a.t a.side) 2 (laneOf a.data.toNat)
    pure .next) s

/-- VSEL (R115): the mask selects, every lane is written. -/
def execVsel (o : V3) (s : State) : Out :=
  let enc := opV 0x20 1 + o.bits
  issue (infoV enc o.w.toNat (usesV3 o)) (do
    let a ← getV o.a
    let b ← getV o.b
    formatIf (decide (a.t ≠ b.t) || isBlock a.t) enc
    let mask ← getM o.m.toNat
    giveV o.d (vreg (packLanes ((List.range 32).map (fun i =>
      cleanLane a.t (if laneOn a.t mask i then laneOf a.data.toNat i else laneOf b.data.toNat i)))) 0 a.t) 2
    pure .next) s

/-- VSHUF, VROT and VEXT (R115): the source lane of each lane, none for a zero. -/
def permute (fn : Nat) (pick : VReg → Nat → Option Nat) (o : V3) (s : State) : Out :=
  let enc := opV 0x20 fn + o.bits
  issue (infoV enc o.w.toNat (usesV3 o)) (do
    let a ← getV o.a
    let b ← getV o.b
    formatIf (isBlock a.t || decide (b.t ≠ 22)) enc
    moveLanes o.d o.m a.t 0 3 (fun i => match pick b i with | some j => laneOf a.data.toNat j | none => 0)
    pure .next) s

/-- VSHUF. -/
def execVshuf (o : V3) (s : State) : Out := permute 2 (fun b i => some (laneOf b.data.toNat i % 32)) o s

/-- VROT. -/
def execVrot (o : V3) (s : State) : Out := permute 3 (fun b i => some ((i + laneOf b.data.toNat 0 % 32) % 32)) o s

/-- VEXT. -/
def execVext (o : V3) (s : State) : Out :=
  permute 4 (fun b i =>
    let j : Int := (i : Int) + signedOf 6 (laneOf b.data.toNat 0)
    if 0 ≤ j ∧ j < 32 then some j.toNat else none) o s

/-- VLI (R115). -/
def execVli (o : VImm) (s : State) : Out :=
  issue (infoV (opV 0x20 5 + o.bits) o.w.toNat [.v o.d.toNat]) (do
    let x := (o.imm.signExtend 32).toNat
    giveV o.d (vreg (packLanes (List.replicate 32 x)) 0 22) 2
    pure .next) s

/-- VBCAST (R116). DESIGN CHOICE (log entry 71): the mask governs RAW as it does every other tag (R113). -/
def execVbcast (o : VT) (s : State) : Out :=
  issue (infoV (opV 0x20 6 + o.bits) o.w.toNat [.v o.d.toNat, .k o.a.toNat, .m o.m.toNat]) (do
    let k ← getK o.a.toNat
    mapElems o.d o.m o.t.toNat o.t.toNat 2 (fun _ => (k.toNat, 0))
    pure .next) s

/-- A sign operation on one register (R115): it keeps every encoding but for its sign bit. -/
def signOp (fn : Nat) (f : Fmt → Nat → Nat) (o : V2) (s : State) : Out :=
  let enc := opV 0x20 fn + o.bits
  issue (infoV enc o.w.toNat (usesV2 o)) (do
    let a ← getV o.a
    formatIf (!isFloatTag a.t) enc
    mapElems o.d o.m a.t a.t 2 (fun j => (f (fmtOf a.t) (elemAt a.t a.data.toNat j), 0))
    pure .next) s

/-- VABS. -/
def execVabs (o : V2) (s : State) : Out := signOp 7 (fun f x => x % f.sign) o s

/-- VNEG. -/
def execVneg (o : V2) (s : State) : Out := signOp 8 (fun f x => x ^^^ f.sign) o s

/-- VCPS (R115). -/
def execVcps (o : V3) (s : State) : Out :=
  let enc := opV 0x20 9 + o.bits
  issue (infoV enc o.w.toNat (usesV3 o)) (do
    let a ← getV o.a
    let b ← getV o.b
    formatIf (decide (a.t ≠ b.t) || !isFloatTag a.t) enc
    let f := fmtOf a.t
    mapElems o.d o.m a.t a.t 2 (fun j =>
      (elemAt a.t a.data.toNat j % f.sign + elemAt a.t b.data.toNat j / f.sign * f.sign, 0))
    pure .next) s

/-- VTAG (R115): the data unchanged; the side field kept for RAW and the block-scaled tags. DESIGN CHOICE (log entry 67): bits
[31:30] of a lane are copied under a 6-bit tag too. -/
def execVtag (o : VTag) (s : State) : Out :=
  issue (infoV (opV 0x20 10 + o.bits) o.w.toNat [.v o.d.toNat, .v o.a.toNat]) (do
    let a ← getV o.a
    giveV o.d { data := a.data, side := cleanSide o.t.toNat a.side, tag := o.t } 1
    pure .next) s

/-- VCLASS (R117): both lanes of an FP64 element receive its class. -/
def execVclass (o : V2) (s : State) : Out :=
  let enc := opV 0x20 11 + o.bits
  issue (infoV enc o.w.toNat (usesV2 o)) (do
    let a ← getV o.a
    formatIf (decide (a.t ≠ 1 ∧ a.t ≠ 2)) enc
    let old ← getV o.d
    let mask ← getM o.m.toNat
    let cls := fun (i : Nat) => classBit (fmtOf a.t) (elemAt a.t a.data.toNat (if a.t = 1 then i / 2 else i))
    giveV o.d (vreg (mergeLanes a.t mask old.data.toNat (packLanes ((List.range 32).map cls))) 0 22) 2
    pure .next) s

/-! ## Floating-point arithmetic (R118 to R121) -/

/-- The latency of the float forms by tag (R39). -/
def floatLat (t : Nat) : Nat := if t = 1 then 6 else 4

/-- A three-register form: format, rounding, elements of va, vb and the old vd. -/
def float3 (fn : Nat) (fused : Bool) (lat : Nat → Nat) (f : Fmt → Rnd → Val → Val → Val → Nat × BitVec 6) (o : VR3)
    (s : State) : Out :=
  let enc := opV 0x20 fn + o.bits
  issue (infoV enc o.w.toNat (usesVR3 o)) (do
    let a ← getV o.a
    let b ← getV o.b
    let d ← getV o.d
    formatIf (!isArith a.t || decide (b.t ≠ a.t) || (fused && decide (d.t ≠ a.t))) enc
    let st ← getS
    let r := majorRnd o.r.toNat st.me.sys.rmode
    let g := fmtOf a.t
    let at' := fun (v : VReg) (j : Nat) => g.read (elemAt a.t v.data.toNat j)
    mapElems o.d o.m a.t a.t (lat a.t) (fun j => f g r (at' a j) (at' b j) (at' d j))
    pure .next) s

/-- A one-operand form. -/
def float2 (fn : Nat) (ok : Nat → Bool) (lat : Nat → Nat) (f : Fmt → Rnd → Val → Nat × BitVec 6) (o : VR2) (s : State) :
    Out :=
  let enc := opV 0x20 fn + o.bits
  issue (infoV enc o.w.toNat (usesVR2 o)) (do
    let a ← getV o.a
    formatIf (!ok a.t) enc
    let st ← getS
    let r := majorRnd o.r.toNat st.me.sys.rmode
    let g := fmtOf a.t
    mapElems o.d o.m a.t a.t (lat a.t) (fun j => f g r (g.read (elemAt a.t a.data.toNat j)))
    pure .next) s

/-- VADD (R118). -/
def execVadd (o : VR3) (s : State) : Out := float3 0 false floatLat (fun f r a b _ => fAdd f r a b) o s

/-- VSUB (R118). -/
def execVsub (o : VR3) (s : State) : Out := float3 1 false floatLat (fun f r a b _ => fAdd f r a b.negate) o s

/-- VMUL (R118). -/
def execVmul (o : VR3) (s : State) : Out := float3 2 false floatLat (fun f r a b _ => fMul f r a b) o s

/-- VFMA (R118): va × vb + vd. -/
def execVfma (o : VR3) (s : State) : Out := float3 3 true floatLat fFma o s

/-- VFMS (R118): va × vb − vd. -/
def execVfms (o : VR3) (s : State) : Out := float3 4 true floatLat (fun f r a b d => fFma f r a b d.negate) o s

/-- VFNMA (R118): −(va × vb) + vd. -/
def execVfnma (o : VR3) (s : State) : Out := float3 5 true floatLat (fun f r a b d => fFma f r a.negate b d) o s

/-- VDIV (R118), scoreboarded. -/
def execVdiv (o : VR3) (s : State) : Out := float3 6 false (fun _ => 1) (fun f r a b _ => fDiv f r a b) o s

/-- VSQRT (R118), scoreboarded. -/
def execVsqrt (o : VR2) (s : State) : Out := float2 7 isArith (fun _ => 1) fSqrt o s

/-- VRCP (R118). -/
def execVrcp (o : VR2) (s : State) : Out :=
  float2 8 isArith (fun _ => 6) (fun f r a => fDiv f r (.fin (Dy.ofInt 1)) a) o s

/-- VRSQ (R118). -/
def execVrsq (o : VR2) (s : State) : Out := float2 9 isArith (fun _ => 6) fRsq o s

/-- VMIN and VMAX (R119), major 0x21 only. -/
def floatPick (fn : Nat) (mx : Bool) (o : V3) (s : State) : Out :=
  let enc := opV 0x21 fn + o.bits
  issue (infoV enc o.w.toNat (usesV3 o)) (do
    let a ← getV o.a
    let b ← getV o.b
    formatIf (!isArith a.t || decide (b.t ≠ a.t)) enc
    mapElems o.d o.m a.t a.t (floatLat a.t) (fun j =>
      fMinMax (fmtOf a.t) mx (elemAt a.t a.data.toNat j) (elemAt a.t b.data.toNat j))
    pure .next) s

/-- VMIN. -/
def execVmin (o : V3) (s : State) : Out := floatPick 10 false o s

/-- VMAX. -/
def execVmax (o : V3) (s : State) : Out := floatPick 11 true o s

/-- VEXP2 (R120). -/
def execVexp2 (o : VR2) (s : State) : Out := float2 12 (fun t => t == 2) (fun _ => 8) (fun _ r a => fExp2 r a) o s

/-- VLOG2 (R121). -/
def execVlog2 (o : VR2) (s : State) : Out := float2 13 (fun t => t == 2) (fun _ => 8) (fun _ r a => fLog2 r a) o s

/-! ## Integer arithmetic and compares (R122 to R124) -/

/-- A form of major 0x26: accepted tags, latency, the element's result from the tag and two elements. -/
def int3 (fn : Nat) (ok : Nat → Bool) (lat : Nat) (f : Nat → Nat → Nat → Nat) (o : V3) (s : State) : Out :=
  let enc := opV 0x26 fn + o.bits
  issue (infoV enc o.w.toNat (usesV3 o)) (do
    let a ← getV o.a
    let b ← getV o.b
    formatIf (!ok a.t || decide (b.t ≠ a.t)) enc
    mapElems o.d o.m a.t a.t lat (fun j => (f a.t (elemAt a.t a.data.toNat j) (elemAt a.t b.data.toNat j), 0))
    pure .next) s

/-- A bitwise form, on whole lanes (R122). -/
def bits3 (fn : Nat) (f : Nat → Nat → Nat) (o : V3) (s : State) : Out :=
  let enc := opV 0x26 fn + o.bits
  issue (infoV enc o.w.toNat (usesV3 o)) (do
    let a ← getV o.a
    let b ← getV o.b
    formatIf (isBlock a.t || decide (b.t ≠ a.t)) enc
    moveLanes o.d o.m a.t 0 2 (fun i => f (laneOf a.data.toNat i) (laneOf b.data.toNat i))
    pure .next) s

/-- The shift count: the low log2(w) bits (R122). -/
def shiftOf (t b : Nat) : Nat := b % tagBits t

/-- VIADD (R122). -/
def execViadd (o : V3) (s : State) : Out := int3 0 isIntTag 2 (fun t x y => encInt t (readInt t x + readInt t y)) o s

/-- VISUB (R122). -/
def execVisub (o : V3) (s : State) : Out := int3 1 isIntTag 2 (fun t x y => encInt t (readInt t x - readInt t y)) o s

/-- VIMUL (R122). -/
def execVimul (o : V3) (s : State) : Out := int3 2 isIntTag 4 (fun t x y => encInt t (readInt t x * readInt t y)) o s

/-- VIMULH: signed for I tags, natural for N8 (R122). -/
def execVimulh (o : V3) (s : State) : Out := int3 3 isIntTag 4 (fun t x y => encInt t (readInt t x * readInt t y / (2 ^ tagBits t : Nat))) o s

/-- VAND (R122). -/
def execVand (o : V3) (s : State) : Out := bits3 4 (fun x y => x &&& y) o s

/-- VOR (R122). -/
def execVor (o : V3) (s : State) : Out := bits3 5 (fun x y => x ||| y) o s

/-- VXOR (R122). -/
def execVxor (o : V3) (s : State) : Out := bits3 6 (fun x y => x ^^^ y) o s

/-- VSHL (R122). -/
def execVshl (o : V3) (s : State) : Out := int3 7 isIntTag 2 (fun t x y => x * 2 ^ shiftOf t y % 2 ^ tagBits t) o s

/-- VSHR (R122). -/
def execVshr (o : V3) (s : State) : Out := int3 8 isIntTag 2 (fun t x y => x / 2 ^ shiftOf t y) o s

/-- VSHRA (R122). -/
def execVshra (o : V3) (s : State) : Out := int3 9 isIntTag 2 (fun t x y => wrapInt (tagBits t) (signedOf (tagBits t) x / (2 ^ shiftOf t y : Nat))) o s

/-- VIMIN: signed (R122). -/
def execVimin (o : V3) (s : State) : Out := int3 10 isIntTag 2 (fun t x y => if signedOf (tagBits t) y < signedOf (tagBits t) x then y else x) o s

/-- VIMAX: signed (R122). -/
def execVimax (o : V3) (s : State) : Out := int3 11 isIntTag 2 (fun t x y => if signedOf (tagBits t) x < signedOf (tagBits t) y then y else x) o s

/-- VIMINN: natural (R122). -/
def execViminn (o : V3) (s : State) : Out := int3 12 isIntTag 2 (fun _ x y => min x y) o s

/-- VIMAXN: natural (R122). -/
def execVimaxn (o : V3) (s : State) : Out := int3 13 isIntTag 2 (fun _ x y => max x y) o s

/-- VSADD (R122). -/
def execVsadd (o : V3) (s : State) : Out := int3 14 isIntTag 2 (fun t x y => satInt t (readInt t x + readInt t y)) o s

/-- VSSUB (R122). -/
def execVssub (o : V3) (s : State) : Out := int3 15 isIntTag 2 (fun t x y => satInt t (readInt t x - readInt t y)) o s

/-- The absolute difference of R123 as an element: N8 for the 8-bit tags, saturated for the others. -/
def absDiff (t x y : Nat) : Nat :=
  let d := (readInt t x - readInt t y).natAbs
  if tagBits t = 8 then d else satInt t d

/-- VABSD (R123). -/
def execVabsd (o : V3) (s : State) : Out :=
  let enc := opV 0x27 0 + o.bits
  issue (infoV enc o.w.toNat (usesV3 o)) (do
    let a ← getV o.a
    let b ← getV o.b
    formatIf (!isIntTag a.t || decide (b.t ≠ a.t)) enc
    mapElems o.d o.m a.t (if tagBits a.t = 8 then 11 else a.t) 2 (fun j =>
      (absDiff a.t (elemAt a.t a.data.toNat j) (elemAt a.t b.data.toNat j), 0))
    pure .next) s

/-- The relations of VCMP, by condition code (R124). -/
def floatRel (cc : Nat) (eq lt : Bool) : Bool :=
  match cc with
  | 0 => eq
  | 1 => !eq
  | 2 => lt
  | _ => lt || eq

/-- A relation on integers of width `w` (R124). -/
def intRel (cc w x y : Nat) : Bool :=
  match cc with
  | 0 => decide (x = y)
  | 1 => decide (x ≠ y)
  | 2 => decide (signedOf w x < signedOf w y)
  | 3 => decide (signedOf w x ≤ signedOf w y)
  | 4 => decide (x < y)
  | _ => decide (x ≤ y)

/-- VCMP of one element: relation and conditions. -/
def relOf (cc t x y : Nat) : Bool × BitVec 6 :=
  if t = 22 ∨ t = 23 then (intRel cc (tagBits t) x y, 0)
  else
    let (eq, lt, fl) := fCompare ((fmtOf t).read x) ((fmtOf t).read y)
    (floatRel cc eq lt, fl)

/-- The mask VCMP writes: the bits of active elements new, the others old; both bits of a 64-bit element. -/
def cmpMask (t : Nat) (m old : Lane) (f : Nat → Bool) : Lane :=
  BitVec.ofNat 32 (((List.range 32).map (fun i =>
    bit (if laneOn t m i then f (if tagBits t = 64 then i / 2 else i) else old.getLsbD i) i)).sum)

/-- VCMP.cc (R124). -/
def compare (cc : Nat) (o : V3) (s : State) : Out :=
  let enc := opV 0x27 (cc + 1) + o.bits
  issue (infoV enc o.w.toNat [.m o.d.toNat, .v o.a.toNat, .v o.b.toNat, .m o.m.toNat]) (do
    let a ← getV o.a
    let b ← getV o.b
    let float := decide (a.t = 1 ∨ a.t = 2)
    formatIf (decide (b.t ≠ a.t) || !(decide (a.t = 22 ∨ a.t = 23) || (float && decide (cc < 4)))) enc
    let mask ← getM o.m.toNat
    let old ← getM o.d.toNat
    let rel := fun (j : Nat) => relOf cc a.t (elemAt a.t a.data.toNat j) (elemAt a.t b.data.toNat j)
    raiseAll (condsOf (overElems a.t mask (fun j => (0, (rel j).2))))
    land (.m o.d.toNat) (.mask (cmpMask a.t mask old (fun j => (rel j).1))) 2
    pure .next) s

/-- VCMP_EQ (R124). -/
def execVcmpEq (o : V3) (s : State) : Out := compare 0 o s

/-- VCMP_NE (R124). -/
def execVcmpNe (o : V3) (s : State) : Out := compare 1 o s

/-- VCMP_LT (R124). -/
def execVcmpLt (o : V3) (s : State) : Out := compare 2 o s

/-- VCMP_LE (R124). -/
def execVcmpLe (o : V3) (s : State) : Out := compare 3 o s

/-- VCMP_LTN (R124). -/
def execVcmpLtn (o : V3) (s : State) : Out := compare 4 o s

/-- VCMP_LEN (R124). -/
def execVcmpLen (o : V3) (s : State) : Out := compare 5 o s

/-! ## Conversions (R126 to R130) -/

/-- VCVT (R127). -/
def execVcvt (o : Cvt) (s : State) : Out :=
  let enc := opV 0x28 0 + o.bits
  issue (infoV enc o.w.toNat [.v o.d.toNat, .v o.a.toNat, .m o.m.toNat]) (do
    let a ← getV o.a
    let t := o.t.toNat
    formatIf (decide (a.t = 0) || (isBlock t && decide (tagCount a.t % 32 ≠ 0))) enc
    let st ← getS
    let mode := cvtMode o.r.toNat st.me.sys.rmode
    let (es, side, fl, g) := convertReg a t mode (o.nan = 1) st.me.v.gen
    let mask ← getM o.m.toNat
    let old ← getV o.d
    let rs := overElems t mask (fun j => (es.getD j (zeroCode t), fl.getD j 0))
    raiseAll (condsOf rs)
    modMe (fun x => { x with v := { x.v with gen := g } })
    giveV o.d (vreg (mergeElems t mask old.data.toNat rs) (cleanSide t side) t) 4
    pure .next) s

/-- The elements VPACK leaves in its destination (R128): the new ones, then the old ones moved up. -/
def packed (t ns : Nat) (new : List Nat) (old : Nat) : List Nat :=
  new ++ (List.range (tagCount t - ns)).map (fun j => elemAt t old j)

/-- VPACK (R128). -/
def execVpack (o : Pack) (s : State) : Out :=
  let enc := opV 0x29 0 + o.bits
  issue (infoV enc o.w.toNat [.v o.d.toNat, .v o.a.toNat]) (do
    let a ← getV o.a
    let d ← getV o.d
    let t := o.t.toNat
    let ns := tagCount a.t
    formatIf (decide (a.t = 0 ∨ tagCount t < ns ∨ (d.t ≠ t ∧ d.t ≠ 0)) || (isBlock t && decide (ns % 32 ≠ 0))) enc
    let st ← getS
    let mode := cvtMode o.r.toNat st.me.sys.rmode
    let (es, sc, fl, g) := convert a t 0 ns mode (o.nan = 1) st.me.v.gen
    raiseAll (fl.zipIdx.map (fun p => (p.2, p.1)))
    modMe (fun x => { x with v := { x.v with gen := g } })
    let side := sideOf sc ||| (d.side <<< (8 * (ns / 32)))
    giveV o.d (vreg (packElems t (packed t ns es d.data.toNat)) (if isBlock t then cleanSide t side else 0) t) 4
    pure .next) s

/-- VUNPK (R129): widening only; the part `p`. -/
def execVunpk (o : Unpk) (s : State) : Out :=
  let enc := opV 0x2B 0 + o.bits
  issue (infoV enc o.w.toNat [.v o.d.toNat, .v o.a.toNat]) (do
    let a ← getV o.a
    let t := o.t.toNat
    formatIf (decide (a.t = 0) || isNarrowing a.t t) enc
    let st ← getS
    let nd := tagCount t
    let first := o.p.toNat * nd
    let n := min nd (tagCount a.t - first)
    let mode := (if st.me.sys.rmode = 4 then 0 else st.me.sys.rmode.toNat)
    let (es, _, fl, _) := convert a t first n mode false []
    raiseAll (fl.zipIdx.map (fun p => (p.2, p.1)))
    giveV o.d (vreg (packElems t es) 0 t) 4
    pure .next) s

/-- A float scaled by a power of two (R130); an exponent beyond 10,000 decides nothing that 10,000 does not. -/
def scaleFloat (f : Fmt) (r : Rnd) (v : Val) (n : Int) : Nat × BitVec 6 :=
  match v with
  | .nan _ => nanFrom f [v]
  | .inf s => (f.signed s f.infEnc, 0)
  | .fin d => roundTo f r { d with e := d.e + max (-10000) (min 10000 n) } false

/-- A scale byte moved by n (R130): the new byte, and SAT where it was clamped. -/
def scaleByte (t x : Nat) (n : Int) : Nat × BitVec 6 :=
  let (base, e, top) := if t = 21 then (x / 64 * 64, x % 64, 62) else (0, x, 254)
  if top < e then (x, 0)
  else
    let y : Int := (e : Int) + n
    let c := max 0 (min (top : Int) y)
    (base + c.toNat, if c = y then 0 else flagSAT)

/-- VSCALE (R130). DESIGN CHOICE (log entry 72): a vb that does not carry I32 traps FORMAT before a mask on a block-scaled va is
ILLEGAL. -/
def execVscale (o : Scale) (s : State) : Out :=
  let enc := opV 0x2A 0 + o.bits
  issue (infoV enc o.w.toNat [.v o.d.toNat, .v o.a.toNat, .v o.b.toNat, .m o.m.toNat]) (do
    let a ← getV o.a
    let b ← getV o.b
    formatIf (decide (b.t ≠ 22) || !(isArith a.t || isBlock a.t)) enc
    illegalIf (isBlock a.t && decide (o.m ≠ 0)) enc
    let st ← getS
    let r := rndOf (BitVec.ofNat 3 (cvtMode o.r.toNat st.me.sys.rmode))
    let n := fun (i : Nat) => signedOf 32 (laneOf b.data.toNat i)
    if isBlock a.t then do
      let rs := (List.range (tagCount a.t / 32)).map (fun j => scaleByte a.t (a.side.toNat / 2 ^ (8 * j) % 256) (n j))
      raiseAll (rs.zipIdx.map (fun p => (32 * p.2, p.1.2)))
      giveV o.d (vreg (cleanData a.t a.data.toNat) (sideOf (rs.map Prod.fst)) a.t) 4
    else
      mapElems o.d o.m a.t a.t 4 (fun j =>
        scaleFloat (fmtOf a.t) r ((fmtOf a.t).read (elemAt a.t a.data.toNat j)) (n (elemLane a.t j)))
    pure .next) s

/-! ## Reductions and scans (R131 to R133) -/

/-- The tags a reduction takes: FP32, FP64, I32, I64; the integer ones only for MINN, MAXN and the bitwise ones. -/
def redOk (op : RedOp) (t : Nat) : Bool :=
  t == 22 || t == 23 || ((t == 1 || t == 2) && (op == .add || op == .min || op == .max))

/-- VRED (R131). -/
def redForm (fn : Nat) (op : RedOp) (o : V2) (s : State) : Out :=
  let enc := opV 0x2B fn + o.bits
  issue (infoV enc o.w.toNat [.k o.d.toNat, .v o.a.toNat, .m o.m.toNat]) (do
    let a ← getV o.a
    formatIf (!redOk op a.t) enc
    let mask ← getM o.m.toNat
    let (x, cs) := reduce op a mask
    raiseAll cs
    land (.k o.d.toNat) (.word (widenRed op a.t x)) 6
    pure .next) s

/-- VRED_ADD (R131). -/
def execVredAdd (o : V2) (s : State) : Out := redForm 1 .add o s

/-- VRED_MIN (R131). -/
def execVredMin (o : V2) (s : State) : Out := redForm 2 .min o s

/-- VRED_MAX (R131). -/
def execVredMax (o : V2) (s : State) : Out := redForm 3 .max o s

/-- VRED_MINN (R131). -/
def execVredMinn (o : V2) (s : State) : Out := redForm 4 .minn o s

/-- VRED_MAXN (R131). -/
def execVredMaxn (o : V2) (s : State) : Out := redForm 5 .maxn o s

/-- VRED_AND (R131). -/
def execVredAnd (o : V2) (s : State) : Out := redForm 6 .and o s

/-- VRED_OR (R131). -/
def execVredOr (o : V2) (s : State) : Out := redForm 7 .or o s

/-- VRED_XOR (R131). -/
def execVredXor (o : V2) (s : State) : Out := redForm 8 .xor o s

/-- VDOT (R132). -/
def execVdot (o : V3) (s : State) : Out :=
  let enc := opV 0x2B 9 + o.bits
  issue (infoV enc o.w.toNat [.k o.d.toNat, .v o.a.toNat, .v o.b.toNat, .m o.m.toNat]) (do
    let a ← getV o.a
    let b ← getV o.b
    formatIf (decide (b.t ≠ a.t) || !(isArith a.t || decide (a.t = 22))) enc
    let mask ← getM o.m.toNat
    if a.t = 22 then land (.k o.d.toNat) (.word (widenRed .add 22 (dotInt a b mask))) 6
    else do
      let (x, cs) := dotFloat a.t a b mask
      raiseAll cs
      land (.k o.d.toNat) (.word (BitVec.ofNat 64 x)) 6
    pure .next) s

/-- VSCAN (R133). -/
def scanForm (fn : Nat) (op : RedOp) (o : V2) (s : State) : Out :=
  let enc := opV 0x2B fn + o.bits
  issue (infoV enc o.w.toNat (usesV2 o)) (do
    let a ← getV o.a
    formatIf (!redOk op a.t) enc
    let mask ← getM o.m.toNat
    let old ← getV o.d
    let rs := scan op a.t mask ((elemsOf a).zipIdx.map (fun p => (p.2, p.1))) (op.identity a.t)
    raiseAll (condsOf rs)
    giveV o.d (vreg (mergeElems a.t mask old.data.toNat rs) 0 a.t) 8
    pure .next) s

/-- VSCAN_ADD (R133). -/
def execVscanAdd (o : V2) (s : State) : Out := scanForm 10 .add o s

/-- VSCAN_MIN (R133). -/
def execVscanMin (o : V2) (s : State) : Out := scanForm 11 .min o s

/-- VSCAN_MAX (R133). -/
def execVscanMax (o : V2) (s : State) : Out := scanForm 12 .max o s

/-! ## Masks (R125) -/

/-- MAND (R125). -/
def execMand (o : A3) (s : State) : Out :=
  issue (infoV (opA 0x34 8 + o.bits) o.w.toNat [.m o.d.toNat, .m o.a.toNat, .m o.b.toNat]) (do
    let a ← getM o.a.toNat
    let b ← getM o.b.toNat
    land (.m o.d.toNat) (.mask (a &&& b)) 1
    pure .next) s

/-- MOR (R125). -/
def execMor (o : A3) (s : State) : Out :=
  issue (infoV (opA 0x34 9 + o.bits) o.w.toNat [.m o.d.toNat, .m o.a.toNat, .m o.b.toNat]) (do
    let a ← getM o.a.toNat
    let b ← getM o.b.toNat
    land (.m o.d.toNat) (.mask (a ||| b)) 1
    pure .next) s

/-- MNOT (R125). -/
def execMnot (o : A2) (s : State) : Out :=
  issue (infoV (opA 0x34 10 + o.bits) o.w.toNat [.m o.d.toNat, .m o.a.toNat]) (do
    let a ← getM o.a.toNat
    land (.m o.d.toNat) (.mask (~~~a)) 1
    pure .next) s

/-- MPOP (R125). -/
def execMpop (o : A2) (s : State) : Out :=
  issue (infoV (opA 0x34 11 + o.bits) o.w.toNat [.k o.d.toNat, .m o.a.toNat]) (do
    let a ← getM o.a.toNat
    land (.k o.d.toNat) (.word (BitVec.ofNat 64 ((List.range 32).filter (fun i => a.getLsbD i)).length)) 2
    pure .next) s

/-- MFIRST (R125). -/
def execMfirst (o : A2) (s : State) : Out :=
  issue (infoV (opA 0x34 12 + o.bits) o.w.toNat [.k o.d.toNat, .m o.a.toNat]) (do
    let a ← getM o.a.toNat
    land (.k o.d.toNat) (.word (BitVec.ofNat 64 (((List.range 32).find? (fun i => a.getLsbD i)).getD 32))) 2
    pure .next) s

end Sys2Proof.Machine
end

