-- ==== Sys2Proof/Machine/VecMem.lean ====
section
/-! DEFINITION. Vector memory: majors 0x30 to 0x33 (R134 to R138). -/

namespace Sys2Proof.Machine

/-- Word `i` of a register's image: its lanes, then the two words of its side field. -/
def vecWord (v : VReg) (i : Nat) : Nat := (v.data.toNat + 2 ^ 1024 * v.side.toNat) / 2 ^ (32 * i) % 2 ^ 32

/-- The words an access of a tag names: the active lanes, and the side field of a block-scaled tag (R135). -/
def vecWords (t : Nat) (mask : Lane) : List Nat :=
  (List.range 32).filter (laneOn t mask) ++ (if isBlock t then [32, 33] else [])

/-- The address of word `i`. -/
def vecAddr (ea : Word) (i : Nat) : Word := ea + BitVec.ofNat 64 (4 * i)

/-- A register with loaded words, by word number. -/
def withWords (t : Nat) (old : Nat) (ws : List (Nat × Nat)) : Nat :=
  packLanes ((List.range 32).map (fun i =>
    match ws.find? (fun w => w.1 = i) with
    | some w => cleanLane t w.2
    | none => laneOf old i))

/-- The value of a loaded word, 0 where it is not among them. -/
def wordIn (ws : List (Nat × Nat)) (i : Nat) : Nat := ((ws.find? (fun w => w.1 = i)).map Prod.snd).getD 0

/-- VLD (R135). -/
def execVld (o : VLoad) (s : State) : Out :=
  issue (infoV (opV 0x30 0 + o.bits) o.w.toNat [.v o.d.toNat, .k o.a.toNat, .m o.m.toNat]) (do
    let ea ← getK o.a.toNat
    let mask ← getM o.m.toNat
    let t := o.t.toNat
    trapIf (decide (ea.toNat % 8 ≠ 0)) 4 0 ea
    let idx := vecWords t mask
    let vals ← wideLoad (spaceOf o.s.toNat) 4 (idx.map (vecAddr ea))
    let ws := idx.zip vals
    let old ← getV o.d
    let side := BitVec.ofNat 64 (wordIn ws 32 + 2 ^ 32 * wordIn ws 33)
    scored (.v o.d.toNat) (.vec (vreg (withWords t old.data.toNat ws) (if isBlock t then cleanSide t side else 0) t))
    pure .next) s

/-- VST (R135). -/
def execVst (o : VStore) (s : State) : Out :=
  issue (infoV (opV 0x30 8 + o.bits) o.w.toNat [.v o.d.toNat, .k o.a.toNat, .m o.m.toNat]) (do
    let ea ← getK o.a.toNat
    let mask ← getM o.m.toNat
    let v ← getV o.d
    trapIf (decide (ea.toNat % 8 ≠ 0)) 4 0 ea
    wideStore (spaceOf o.s.toNat) 4 ((vecWords v.t mask).map (fun i =>
      (vecAddr ea i, if i < 32 then cleanLane v.t (vecWord v i) else vecWord v i)))
    pure .next) s

/-- The address an index lane names (R136). -/
def indexAddr (base : Word) (b : VReg) (i : Nat) : Word := base + BitVec.ofInt 64 (4 * signedOf 32 (laneOf b.data.toNat i))

/-- VGATH (R136). -/
def execVgath (o : VIdx) (s : State) : Out :=
  let enc := opV 0x31 0 + o.bits
  issue (infoV enc o.w.toNat [.v o.d.toNat, .v o.b.toNat, .k o.a.toNat, .m o.m.toNat]) (do
    let base ← getK o.a.toNat
    let b ← getV o.b
    let mask ← getM o.m.toNat
    formatIf (decide (b.t ≠ 22)) enc
    trapIf (decide (base.toNat % 4 ≠ 0)) 4 0 base
    let idx := vecWords 0 mask
    let vals ← wideLoad (spaceOf o.s.toNat) 4 (idx.map (indexAddr base b))
    let old ← getV o.d
    scored (.v o.d.toNat) (.vec (vreg (withWords 0 old.data.toNat (idx.zip vals)) 0 0))
    pure .next) s

/-- VSCAT (R136): in increasing lane order, data only. -/
def execVscat (o : VIdx) (s : State) : Out :=
  let enc := opV 0x31 8 + o.bits
  issue (infoV enc o.w.toNat [.v o.d.toNat, .v o.b.toNat, .k o.a.toNat, .m o.m.toNat]) (do
    let base ← getK o.a.toNat
    let b ← getV o.b
    let v ← getV o.d
    let mask ← getM o.m.toNat
    formatIf (decide (b.t ≠ 22)) enc
    trapIf (decide (base.toNat % 4 ≠ 0)) 4 0 base
    wideStore (spaceOf o.s.toNat) 4 (((List.range 32).filter (laneOn v.t mask)).map (fun i =>
      (indexAddr base b i, cleanLane v.t (vecWord v i))))
    pure .next) s

/-- A word of a lane slice: core, lane, offset. -/
def sliceAddr (core lane off : Nat) : Nat := core * 65536 + lane * 2048 + off

/-- Checks 1 and 2 of a lane-slice access (R137): they are of EA alone, whatever the mask. -/
def checkSlice (ea : Word) : M Unit := do
  trapIf (decide (ea.toNat % 4 ≠ 0)) 4 0 ea
  trapIf (decide (2048 ≤ ea.toNat)) 6 1 ea

/-- VLDL (R137). -/
def execVldl (o : VT) (s : State) : Out :=
  issue (infoV (opV 0x32 0 + o.bits) o.w.toNat [.v o.d.toNat, .k o.a.toNat, .m o.m.toNat]) (do
    let ea ← getK o.a.toNat
    let mask ← getM o.m.toNat
    let t := o.t.toNat
    let lanes := (List.range 32).filter (laneOn t mask)
    checkSlice ea
    let st ← getS
    let at' := fun (i : Nat) => sliceAddr st.coreNo i ea.toNat
    trapIf (lanes.any (fun i => poisoned st poisonL (at' i) 4)) 17 1 0
    let old ← getV o.d
    let ws := lanes.map (fun i => (i, memRead st.lmem (at' i) 4))
    scored (.v o.d.toNat) (.vec (vreg (withWords t old.data.toNat ws) 0 t))
    pure .next) s

/-- VSTL (R137). -/
def execVstl (o : V2) (s : State) : Out :=
  issue (infoV (opV 0x32 8 + o.bits) o.w.toNat [.v o.d.toNat, .k o.a.toNat, .m o.m.toNat]) (do
    let ea ← getK o.a.toNat
    let mask ← getM o.m.toNat
    let v ← getV o.d
    let lanes := (List.range 32).filter (laneOn v.t mask)
    checkSlice ea
    let st ← getS
    puts (lanes.flatMap (fun i =>
      let a := sliceAddr st.coreNo i ea.toNat
      Effect.lmem a 4 (cleanLane v.t (vecWord v i)) :: unpoison st poisonL a 4))
    impure
    pure .next) s

/-- VREST (R138): an image that is not valid traps FORMAT. DESIGN CHOICE (log entry 67): the restored register holds the image's
data and side field bit for bit, those bits too that R59 and R60 have written as zero. -/
def execVrest (o : VSv) (s : State) : Out :=
  let enc := opV 0x33 0 + o.bits
  issue (infoV enc o.w.toNat [.v o.d.toNat, .k o.a.toNat]) (do
    let ea ← getK o.a.toNat
    trapIf (decide (ea.toNat % 16 ≠ 0)) 4 0 ea
    let vals ← wideLoad (spaceOf o.s.toNat) 4 (wordAddrs ea 4 36)
    let n : Nat := (vals.zipIdx.map (fun p => p.1 % 2 ^ 32 * 2 ^ (32 * p.2))).sum
    formatIf (decide (24 ≤ n / 2 ^ 1088)) enc
    scored (.v o.d.toNat) (.vec (VReg.ofImage n))
    pure .next) s

/-- VSAVE (R138): exact for every tag. -/
def execVsave (o : VSv) (s : State) : Out :=
  issue (infoV (opV 0x33 8 + o.bits) o.w.toNat [.v o.d.toNat, .k o.a.toNat]) (do
    let ea ← getK o.a.toNat
    let v ← getV o.d
    trapIf (decide (ea.toNat % 16 ≠ 0)) 4 0 ea
    wideStore (spaceOf o.s.toNat) 4 ((List.range 36).map (fun i => (vecAddr ea i, v.image / 2 ^ (32 * i) % 2 ^ 32)))
    pure .next) s

end Sys2Proof.Machine
end

