-- ==== Sys2Proof/Machine/Matrix.lean ====
section
/-! DEFINITION. The matrix unit: descriptors and panels (R220 to R222), the instructions of majors 0x38 and 0x39 at issue
(R218, R223 to R225, R230 to R235), and what a command does when it performs (R226 to R235). -/

namespace Sys2Proof.Machine

/-! ## Configuration and descriptors (R217, R220, R221) -/

def cfgATag (c : Word) : Nat := c.toNat / 2 ^ 59
def cfgBTag (c : Word) : Nat := c.toNat / 2 ^ 54 % 32
def cfgM (c : Word) : Nat := c.toNat / 2 ^ 49 % 32 + 1
def cfgN (c : Word) : Nat := c.toNat / 2 ^ 44 % 32 + 1
def cfgK (c : Word) : Nat := c.toNat / 2 ^ 34 % 1024 + 1
def cfgTN (c : Word) : Nat := c.toNat / 2 ^ 28 % 16 + 1
def cfgDim (c : Word) : Nat := c.toNat / 2 ^ 26 % 4

def dSpace (d : Word) : Space :=
  match d.toNat / 2 ^ 62 with
  | 0 => .p | 1 => .c | 2 => .d | _ => .g
def dRot (d : Word) : Nat := d.toNat / 2 ^ 57 % 32
def dVr (d : Word) : Nat := d.toNat / 2 ^ 52 % 32
def dRp (d : Word) : Nat := d.toNat / 2 ^ 42 % 1024
def dTp (d : Word) : Nat := d.toNat / 2 ^ 34 % 256
def dSo (d : Word) : Nat := d.toNat / 2 ^ 24 % 1024
def dBase (d : Word) : Nat := d.toNat % 2 ^ 24

/-- An address of a descriptor: its base and an offset, in G on top of MGB. -/
def dAddr (d mgb : Word) (off : Nat) : Word := (if dSpace d = .g then mgb else 0) + BitVec.ofNat 64 (dBase d + off)

/-- The offset of word `w` of chunk `c` of row `i` (R221). -/
def wordOff (d : Word) (i c w : Nat) : Nat := 128 * dTp d * c + 4 * dRp d * i + 4 * ((w + dRot d * i) % 32)

/-- The words that the first `n` elements of a chunk fill. -/
def usedWords (t n : Nat) : Nat := if n = 0 then 0 else elemLane t (n - 1) + (if tagBits t = 64 then 2 else 1)

/-- The words a descriptor's panel fetches, by row, chunk and word: `counts` gives each row's elements (R221, R222). -/
def panelWords (d : Word) (t : Nat) (counts : List Nat) : List (Nat × Nat × Nat) :=
  let e := tagCount t
  (counts.zipIdx.filter (fun p => decide (p.2 ≤ dVr d))).flatMap (fun p =>
    (List.range ((p.1 + e - 1) / e)).flatMap (fun c =>
      (List.range (usedWords t (min e (p.1 - c * e)))).map (fun w => (p.2, c, w))))

/-- The scale bytes a descriptor's panel fetches, by row and block (R221). -/
def panelScales (d : Word) (t : Nat) (counts : List Nat) : List (Nat × Nat) :=
  if isBlock t then
    (counts.zipIdx.filter (fun p => decide (p.2 ≤ dVr d))).flatMap (fun p =>
      (List.range ((p.1 + 31) / 32)).map (fun b => (p.2, b)))
  else []

/-- The bytes a panel fetches: space, address, size. -/
def panelFetch (d mgb : Word) (t : Nat) (counts : List Nat) : List (Space × Word × Nat) :=
  (panelWords d t counts).map (fun p => (dSpace d, dAddr d mgb (wordOff d p.1 p.2.1 p.2.2), 4))
    ++ (panelScales d t counts).map (fun p => (dSpace d, dAddr d mgb (128 * dSo d + 32 * p.1 + p.2), 1))

/-- A panel: for each row its chunks, each 1,024 bits and a side field; none for an edge row. -/
abbrev Panel := List (Option (List (Nat × Nat)))

/-- The panel of fetched values, in the order of `panelFetch`. -/
def panelOf (d : Word) (t : Nat) (counts : List Nat) (vals : List Nat) : Panel :=
  let ws := (panelWords d t counts).zip vals
  let ss := (panelScales d t counts).zip (vals.drop (panelWords d t counts).length)
  let e := tagCount t
  counts.zipIdx.map (fun p =>
    if p.2 ≤ dVr d then
      some ((List.range ((p.1 + e - 1) / e)).map (fun c =>
        (((ws.filter (fun w => w.1.1 == p.2 && w.1.2.1 == c)).map (fun w => w.2 * 2 ^ (32 * w.1.2.2))).sum,
         ((ss.filter (fun x => x.1.1 == p.2 && decide (c * (e / 32) ≤ x.1.2 ∧ x.1.2 < (c + 1) * (e / 32)))).map
           (fun x => x.2 * 2 ^ (8 * (x.1.2 - c * (e / 32))))).sum)))
    else none)

/-- The panel of a register run. -/
def panelRun (vs : List VReg) : Panel := vs.map (fun v => some [(v.data.toNat, v.side.toNat)])

/-- Element `k` of row `i`, none for an edge element. -/
def panelElem (t : Nat) (p : Panel) (i k : Nat) : Option Val :=
  match p[i]? with
  | some (some cs) =>
    let c := cs.getD (k / tagCount t) (0, 0)
    some (readElem t c.1 c.2 (k % tagCount t))
  | _ => none

/-! ## Tiles -/

/-- Row `i` of a tile. -/
def Tile.row (t : Tile) (i : Nat) : Nat := t.data.toNat / 2 ^ (1024 * i) % 2 ^ 1024

/-- A tile of 32 rows. -/
def tileOf (tag : Nat) (rows : List Nat) : Tile :=
  { data := BitVec.ofNat 32768 ((rows.zipIdx.map (fun p => p.1 % 2 ^ 1024 * 2 ^ (1024 * p.2))).sum),
    tag := BitVec.ofNat 5 tag }

/-- The accumulator tag of a pair of operand tags (R224). -/
def accTag (a b : Nat) : Option Nat :=
  let small := fun (t : Nat) => decide ((3 ≤ t ∧ t ≤ 9) ∨ (15 ≤ t ∧ t ≤ 21))
  let int := fun (t : Nat) => decide (10 ≤ t ∧ t ≤ 14)
  if a = 1 ∧ b = 1 then some 1
  else if a = 2 ∧ b = 2 then some 2
  else if small a && small b then some 2
  else if int a && int b then some 22
  else none

/-- The tag each tile of a strand holds once the commands in the unit have completed (R216); none for a tile that an MLDT in
the unit will tag from memory (log entry 31). -/
def tagAtIssue (s : State) (six n : Nat) : Option Nat :=
  let cmds := (s.cluster (clusterOf (coreOf six))).mx.filter (fun k => k.six == six)
  let start : List (Option Nat) := (List.range 4).map (fun i => some ((s.strand six).readT i).tag.toNat)
  let final := cmds.foldl (fun (tags : List (Option Nat)) k =>
    match k.op with
    | .mma | .mmaz | .mtcx => tags.set k.td (accTag (cfgATag k.mcfg) (cfgBTag k.mcfg))
    | .mzt => tags.set k.td (some k.specA.toNat)
    | .mcvt => tags.set k.td (some (k.specA.toNat % 32))
    | .mtrn => tags.set k.td (tags.getD k.ta none)
    | .mldt => tags.set k.td none
    | _ => tags) start
  final.getD n none

/-- The tag of a tile at issue; the V-stream waits for an MLDT that names it. -/
def issueTag (n : Nat) : M Nat := do
  let s ← getS
  match tagAtIssue s s.six n with
  | some t => pure t
  | none => stall .score

/-! ## Issue (R214, R225) -/

/-- Issue a matrix instruction: on a core of no quad its encoding is ILLEGAL in either stream (R56, R214). -/
def mxIssue (i : Info) (body : M Ctl) (s : State) : Out :=
  if isCompute s.coreNo then issue i body s
  else issue { i with strms := [.c, .v], uses := [] } (trap 1 0 (BitVec.ofNat 64 i.enc)) s

/-- The hull of a list of fetched bytes (R203, R222). -/
def fetchHull (s : State) (six : Nat) (fs : List (Space × Word × Nat)) : List Hull :=
  match fs with
  | [] => []
  | (sp, a, n) :: r =>
    let lo := r.foldl (fun l f => min l f.2.1.toNat) a.toNat
    let hi := r.foldl (fun h f => max h (f.2.1.toNat + f.2.2)) (a.toNat + n)
    hullsOf s six sp lo hi

/-- The lowest byte of a local list of fetched bytes outside the legal range of R92. -/
def fetchBound (s : State) (six : Nat) (fs : List (Space × Word × Nat)) : Option Word :=
  (fs.filter (fun f => f.1 != .g && (localLoc s six f.1 f.2.1 f.2.2).isNone)).foldl (fun best f =>
    match best with
    | none => some f.2.1
    | some b => if f.2.1.toNat < b.toNat then some f.2.1 else some b) none

/-- Steps 4 to 6 of R225 for descriptors with what they fetch; the hulls to register. -/
def checkDescs (ds : List (Word × List (Space × Word × Nat))) (mgb : Word) : M (List Hull) := do
  match ds.find? (fun d => decide ((dAddr d.1 mgb 0).toNat % 4 ≠ 0)) with
  | some d => trap 4 0 (dAddr d.1 mgb 0)
  | none => pure ()
  let s ← getS
  match ds.findSome? (fun d => fetchBound s s.six d.2) with
  | some a => trap 6 1 a
  | none => pure ()
  if ds.any (fun d => dSpace d.1 != .g) then beOldest
  let s ← getS
  stallIf (!ds.isEmpty && scoreboardFull (s.cluster (clusterOf s.coreNo))) .score
  pure (ds.flatMap (fun d => fetchHull s s.six d.2))

/-- A command of the issuing strand with what every command captures. -/
def newCmd (enc : Nat) (op : MxOp) (td : Nat) : M MxCmd := do
  let id ← newId
  let s ← getS
  let x := s.me
  pure { id := id, six := s.six, enc := enc, op := op, td := td, ta := td, specA := 0, specB := 0, runA := [], runB := [],
         mcfg := x.v.mcfg, mgb := x.v.mgb, asid := x.dom, pm := x.sys.pm, mode := x.sys.rmode, gen := x.v.gen, reads := [],
         begun := false, shadow := none, held := false, depth := x.sys.dsdepth }

/-- A command enters the unit. -/
def enterUnit (k : MxCmd) : M Unit := do
  let s ← getS
  let cl := clusterOf s.coreNo
  let c := s.cluster cl
  put (.cluster cl { c with mx := c.mx ++ [k] })

/-- The registers of a run of `n` from the first a spec names. -/
def runOf (x : Strand) (spec : Word) (n : Nat) : List VReg :=
  (List.range (min n (32 - spec.toNat % 32))).map (fun i => x.readV (spec.toNat % 32 + i))

/-- The elements of each row of the two panels: MMA and MMAZ take K in each; MTCX a cube of N³ nodes and N × N (R221,
R230). -/
def countsA (tensor : Bool) (c : Word) : List Nat :=
  if tensor then
    let e := tagCount (cfgATag c)
    let n := cfgTN c ^ 3
    (List.range ((n + e - 1) / e)).map (fun r => min e (n - e * r))
  else List.replicate (cfgM c) (cfgK c)
def countsB (tensor : Bool) (c : Word) : List Nat :=
  if tensor then List.replicate (cfgTN c) (cfgTN c) else List.replicate (cfgN c) (cfgK c)

/-- The registers an MMA, MMAZ or MTCX names (R216: read at issue, under R35 and R38). -/
def mmaUses (tensor : Bool) (o : X3) (x : Strand) : List RegId :=
  let c := x.v.mcfg
  let ka := x.readK o.a.toNat
  let kb := x.readK (8 + o.x.toNat)
  let run := fun (spec : Word) (n : Nat) => vRun (spec.toNat % 32) (min n (32 - spec.toNat % 32))
  [.t o.d.toNat, .k o.a.toNat, .k (8 + o.x.toNat)]
    ++ (if c.getLsbD 33 then [] else run ka (countsA tensor c).length)
    ++ (if c.getLsbD 32 then [] else run kb (countsB tensor c).length)

/-- Steps 2 and 3 of R225 on captured specs and runs: FORMAT, then ILLEGAL. `old` is the tile's tag, where it is checked. -/
def checkPair (tensor : Bool) (c specA specB : Word) (runA runB : List VReg) (old : Option Nat) : Option Nat :=
  let at' := cfgATag c
  let bt := cfgBTag c
  let acc := if tensor then (if at' = bt ∧ (at' = 1 ∨ at' = 2) then some at' else none) else accTag at' bt
  let ra := (countsA tensor c).length
  let rb := (countsB tensor c).length
  let asrc := c.getLsbD 33
  let bsrc := c.getLsbD 32
  match acc with
  | none => some 10
  | some t =>
    if old.any (fun y => decide (y ≠ t)) then some 10
    else if (!asrc && runA.any (fun v => decide (v.t ≠ at'))) || (!bsrc && runB.any (fun v => decide (v.t ≠ bt))) then some 10
    else if (!asrc && decide (32 ≤ specA.toNat)) || (!bsrc && decide (32 ≤ specB.toNat)) then some 1
    else if (!asrc && decide (32 < specA.toNat % 32 + ra)) || (!bsrc && decide (32 < specB.toNat % 32 + rb)) then some 1
    else if !tensor && ((!asrc && decide (tagCount at' < cfgK c)) || (!bsrc && decide (tagCount bt < cfgK c))) then some 1
    else if !tensor && decide (t = 1 ∧ 16 < cfgN c) then some 1
    else if tensor && decide ((t = 1 ∧ 8 < cfgTN c) ∨ 10 < cfgTN c) then some 1
    else none

/-- The descriptors among two specs, with what they fetch. -/
def descsOf (tensor : Bool) (c mgb specA specB : Word) : List (Word × List (Space × Word × Nat)) :=
  (if c.getLsbD 33 then [(specA, panelFetch specA mgb (cfgATag c) (countsA tensor c))] else [])
    ++ (if c.getLsbD 32 then [(specB, panelFetch specB mgb (cfgBTag c) (countsB tensor c))] else [])

/-- MMA, MMAZ and MTCX at issue (R225). -/
def mmaForm (fn : Nat) (op : MxOp) (o : X3) (s : State) : Out :=
  let enc := opX 0x38 fn + o.bits
  let tensor := op == .mtcx
  mxIssue (infoV enc o.w.toNat (mmaUses tensor o (s.me.landSt s.stream))) (do
    let specA ← getK o.a.toNat
    let specB ← getK (8 + o.x.toNat)
    let s ← getS
    let x := s.me
    let c := x.v.mcfg
    let runA := if c.getLsbD 33 then [] else runOf x specA (countsA tensor c).length
    let runB := if c.getLsbD 32 then [] else runOf x specB (countsB tensor c).length
    let old ← (if op = .mmaz then pure none else do
      let t ← issueTag o.d.toNat
      pure (some t))
    match checkPair tensor c specA specB runA runB old with
    | some cause => trap cause 0 (BitVec.ofNat 64 enc)
    | none => do
      let hulls ← checkDescs (descsOf tensor c x.v.mgb specA specB) x.v.mgb
      let k ← newCmd enc op o.d.toNat
      enterUnit { k with specA := specA, specB := specB, runA := runA, runB := runB, reads := hulls }
      pure .next) s

/-- MMA. -/
def execMma (o : X3) (s : State) : Out := mmaForm 0 .mma o s

/-- MMAZ. -/
def execMmaz (o : X3) (s : State) : Out := mmaForm 1 .mmaz o s

/-- MTCX (R230). -/
def execMtcx (o : X3) (s : State) : Out := mmaForm 2 .mtcx o s

/-- The rows of a tile image that MLDT and MSTT move, as words of chunk 0 (R231). -/
def imageWords (d : Word) : List (Nat × Nat) :=
  (List.range (dVr d + 1)).flatMap (fun i => (List.range 32).map (fun w => (i, w)))

/-- What a tile image covers: its words, then the two words of its tag record. -/
def imageFetch (d mgb : Word) : List (Space × Word × Nat) :=
  (imageWords d).map (fun p => (dSpace d, dAddr d mgb (wordOff d p.1 0 p.2), 4))
    ++ [(dSpace d, dAddr d mgb (128 * dSo d), 4), (dSpace d, dAddr d mgb (128 * dSo d + 4), 4)]

/-- MLDT (R231). -/
def execMldt (o : A2) (s : State) : Out :=
  let enc := opX 0x39 0 + o.bits
  mxIssue (infoV enc o.w.toNat [.t o.d.toNat, .k o.a.toNat]) (do
    let d ← getK o.a.toNat
    let s ← getS
    let mgb := s.me.v.mgb
    let hulls ← checkDescs [(d, imageFetch d mgb)] mgb
    let k ← newCmd enc .mldt o.d.toNat
    enterUnit { k with specA := d, reads := hulls }
    pure .next) s

/-- Whether a command of a strand in the unit names a tile. -/
def tileBusy (s : State) (six n : Nat) : Bool :=
  (s.cluster (clusterOf (coreOf six))).mx.any (fun k => k.six == six && (k.td == n || k.ta == n))

/-- MSTT (R231): the stores of the V-stream, once the commands on the tile and conflicting engine commands are over. -/
def execMstt (o : A2) (s : State) : Out :=
  mxIssue (infoV (opX 0x39 1 + o.bits) o.w.toNat [.t o.d.toNat, .k o.a.toNat]) (do
    let d ← getK o.a.toNat
    let s ← getS
    let mgb := s.me.v.mgb
    let fs := imageFetch d mgb
    let hulls ← checkDescs [(d, fs)] mgb
    let s ← getS
    let c := s.cluster (clusterOf s.coreNo)
    stallIf (tileBusy s s.six o.d.toNat || c.cmds.any (fun k => conflicts k.reads k.writes [] hulls)) .score
    let t := s.me.readT o.d.toNat
    let vals := (imageWords d).map (fun p => cleanLane t.tag.toNat (t.row p.1 / 2 ^ (32 * p.2) % 2 ^ 32)) ++ [t.tag.toNat, 0]
    wideStore (dSpace d) 4 ((fs.map (fun f => f.2.1)).zip vals)
    pure .next) s

/-- MZT (R232). -/
def execMzt (o : Mz) (s : State) : Out :=
  let enc := opX 0x39 2 + o.bits
  mxIssue (infoV enc o.w.toNat [.t o.d.toNat]) (do
    let k ← newCmd enc .mzt o.d.toNat
    enterUnit { k with specA := zx o.t }
    pure .next) s

/-- The rounding mode number of a conversion word (R233). -/
def mcvtMode (w : Word) (mode : BitVec 3) : Nat := cvtMode (w.toNat / 32 % 8) mode

/-- The generators after a conversion of `n` rows (R233): each row as one conversion of the elements it converts (R72). -/
def rowDraws (src t : Nat) : Nat → List Lane → List Lane
  | 0, g => g
  | n + 1, g => rowDraws src t n (draws t (min (tagCount src) (tagCount t)) 0 g).2

/-- MCVT (R233): the generators are stepped at issue. -/
def execMcvt (o : X3) (s : State) : Out :=
  let enc := opX 0x39 3 + o.bits
  mxIssue (infoV enc o.w.toNat [.t o.d.toNat, .t o.a.toNat, .k (8 + o.x.toNat)]) (do
    let w ← getK (8 + o.x.toNat)
    let t := w.toNat % 32
    illegalIf (decide (512 ≤ w.toNat ∨ 6 ≤ w.toNat / 32 % 8 ∨ t = 0 ∨ 24 ≤ t) || isBlock t) enc
    let src ← issueTag o.a.toNat
    formatIf (decide (src = 0)) enc
    let k ← newCmd enc .mcvt o.d.toNat
    enterUnit { k with ta := o.a.toNat, specA := w }
    let s ← getS
    if isNarrowing src t && decide (mcvtMode w s.me.sys.rmode = 4) then
      modMe (fun x => { x with v := { x.v with gen := rowDraws src t 32 x.v.gen } })
    pure .next) s

/-- MTRN (R234). -/
def execMtrn (o : A2) (s : State) : Out :=
  let enc := opX 0x39 4 + o.bits
  mxIssue (infoV enc o.w.toNat [.t o.d.toNat, .t o.a.toNat]) (do
    let src ← issueTag o.a.toNat
    formatIf (decide (src ≠ 0 ∧ src ≠ 2 ∧ src ≠ 22)) enc
    let k ← newCmd enc .mtrn o.d.toNat
    enterUnit { k with ta := o.a.toNat }
    pure .next) s

/-- TMOV (R235). -/
def execTmov (o : X3) (s : State) : Out :=
  let enc := opX 0x39 5 + o.bits
  mxIssue (infoV enc o.w.toNat [.v o.d.toNat, .t o.a.toNat, .k (8 + o.x.toNat)]) (do
    let w ← getK (8 + o.x.toNat)
    illegalIf (decide (64 ≤ w.toNat)) enc
    let v ← getV o.d
    if w.getLsbD 5 then do
      let t ← issueTag o.a.toNat
      formatIf (decide (v.t ≠ t)) enc
      let k ← newCmd enc .tmovIn o.a.toNat
      enterUnit { k with specA := w, runA := [v] }
    else do
      let k ← newCmd enc .tmovOut o.a.toNat
      enterUnit { k with specA := w, specB := zx o.d }
      modMe (fun x => { x with await := x.await ++ [(.v o.d.toNat, k.id)] })
    pure .next) s

/-- Whether a configuration word is ILLEGAL (R218). -/
def badConfig (c : Word) : Bool :=
  decide (c.toNat % 2 ^ 26 ≠ 0 ∨ 24 ≤ cfgATag c ∨ 24 ≤ cfgBTag c ∨ cfgDim c = 3 ∨ 10 < cfgTN c)

/-- TCFG (R218). -/
def execTcfg (o : X3) (s : State) : Out :=
  let enc := opX 0x39 6 + o.bits
  mxIssue (infoV enc o.w.toNat [.k o.d.toNat, .k (o.d.toNat + 1), .k o.a.toNat, .k (8 + o.x.toNat)]) (do
    let c ← getK o.a.toNat
    let g ← getK (8 + o.x.toNat)
    illegalIf (badConfig c) enc
    let s ← getS
    let x := s.me
    scored (.k o.d.toNat) (.word x.v.mcfg)
    scored (.k (o.d.toNat + 1)) (.word x.v.mgb)
    modMe (fun x => { x with v := { x.v with mcfg := c, mgb := g } })
    pure .next) s

/-! ## What a command computes -/

/-- MMA and MMAZ (R226): tile and conditions. -/
def mmaTile (k : MxCmd) (zero : Bool) (pa pb : Panel) (old : Tile) : Tile × BitVec 6 :=
  let at' := cfgATag k.mcfg
  let bt := cfgBTag k.mcfg
  let acc := (accTag at' bt).getD 2
  let g := min (groupLen at') (groupLen bt)
  let ks := List.range (cfgK k.mcfg)
  let cell := fun (i j : Nat) =>
    let was := if zero then 0 else elemAt acc (old.row i) j
    if i < cfgM k.mcfg ∧ j < cfgN k.mcfg then
      let terms := ks.map (fun n => match panelElem at' pa i n, panelElem bt pb j n with
        | some x, some y => some (product x y)
        | _, _ => none)
      if acc = 22 then
        let ints := terms.filterMap (fun t => match t with | some (some (.fin d)) => some (d.intAt 0) | _ => none)
        (wrapInt 32 ((was : Int) + ints.sum), (0 : BitVec 6))
      else sum79 (fmtOf acc) g was terms
    else (was, 0)
  let rows := (List.range 32).map (fun i => (List.range (tagCount acc)).map (cell i))
  (tileOf acc (rows.map (fun r => packElems acc (r.map Prod.fst))),
   rows.foldl (fun f r => r.foldl (fun f c => f ||| c.2) f) 0)

/-- Replace one index of a node (R230). -/
def nodeAt (n dim k : Nat) (node : Nat) : Nat :=
  let a := node % n
  let b := node / n % n
  let c := node / (n * n)
  match dim with
  | 0 => k + n * b + n * n * c
  | 1 => a + n * k + n * n * c
  | _ => a + n * b + n * n * k

/-- The index of a node along a dimension. -/
def nodeIndex (n dim node : Nat) : Nat :=
  match dim with
  | 0 => node % n
  | 1 => node / n % n
  | _ => node / (n * n)

/-- MTCX (R230): tile and conditions. -/
def mtcxTile (k : MxCmd) (pu pd : Panel) (old : Tile) : Tile × BitVec 6 :=
  let t := cfgATag k.mcfg
  let e := tagCount t
  let n := cfgTN k.mcfg
  let dim := cfgDim k.mcfg
  let cell := fun (i j : Nat) =>
    let node := e * i + j
    let was := elemAt t (old.row i) j
    if node < n ^ 3 then
      let terms := (List.range n).map (fun q =>
        let m := nodeAt n dim q node
        match panelElem t pd (nodeIndex n dim node) q, panelElem t pu (m / e) (m % e) with
        | some x, some y => some (product x y)
        | _, _ => none)
      sum79 (fmtOf t) (groupLen t) was terms
    else (was, (0 : BitVec 6))
  let rows := (List.range 32).map (fun i => (List.range e).map (cell i))
  (tileOf t (rows.map (fun r => packElems t (r.map Prod.fst))),
   rows.foldl (fun f r => r.foldl (fun f c => f ||| c.2) f) 0)

/-- The tile of a loaded image (R231); none where the tag record is not valid. -/
def imageTile (d : Word) (vals : List Nat) : Option Tile :=
  let ws := (imageWords d).zip vals
  let n := (imageWords d).length
  let tag := vals.getD n 0
  if 24 ≤ tag ∨ isBlock tag ∨ vals.getD (n + 1) 0 ≠ 0 then none
  else some (tileOf tag ((List.range 32).map (fun i =>
    ((ws.filter (fun w => w.1.1 == i)).map (fun w => cleanLane tag w.2 * 2 ^ (32 * w.1.2))).sum)))

/-- MCVT (R233), row by row with the captured generators. -/
def mcvtRows (src t mode : Nat) (nan : Bool) : List Nat → List Lane → List Nat × BitVec 6
  | [], _ => ([], 0)
  | r :: rs, g =>
    let (es, _, fl, g') := convertReg (vreg r 0 src) t mode nan g
    let rest := mcvtRows src t mode nan rs g'
    (packElems t es :: rest.1, fl.foldl (fun f x => f ||| x) rest.2)

/-- MTRN (R234). -/
def transposed (y : Tile) : Tile :=
  tileOf y.tag.toNat ((List.range 32).map (fun i => packLanes ((List.range 32).map (fun j => laneOf (y.row j) i))))

/-- A tile with one row replaced. -/
def Tile.setRow (y : Tile) (n : Nat) (data : Nat) : Tile :=
  tileOf y.tag.toNat ((List.range 32).map (fun i => if i = n then data else y.row i))

/-! ## Performing a command (R226 to R229) -/

/-- What a command fetches. -/
def cmdFetch (k : MxCmd) : List (Space × Word × Nat) :=
  match k.op with
  | .mma | .mmaz => (descsOf false k.mcfg k.mgb k.specA k.specB).flatMap Prod.snd
  | .mtcx => (descsOf true k.mcfg k.mgb k.specA k.specB).flatMap Prod.snd
  | .mldt => imageFetch k.specA k.mgb
  | _ => []

/-- A word or byte of a local space read by a unit. -/
def localRead (s : State) (six : Nat) (sp : Space) (a : Word) (n : Nat) : Except Fail (Nat × List Effect) :=
  match localLoc s six sp a n with
  | none => .error (.trap 6 1)
  | some l => if l.poisoned s n then .error (.machine (match l with | .p .. => 1 | .d .. => 3) 0) else .ok (l.read s n, [])

/-- A word or byte of G read by a unit of a strand's cluster: at its home slice, not through an L1 (R241); a DEVICE page is a class
failure (R200, R229). A firing that is speculative reads as its loads do (R228). -/
def unitReadHere (six asid depth : Nat) (pm : Bool) (a : Word) (n : Nat) (s : State) : Except Fail (Nat × List Effect) :=
  let core := coreOf six
  match resolveAt s six asid depth a false with
  | .error e => .error e
  | .ok (asid', va) =>
    match translate s core asid' pm va .r with
    | none => .error (pageFail s core asid' va)
    | some x =>
      if x.cls = .device then .error (.trap 6 2)
      else if x.pod then (podLoad s asid' pm x n).map (fun v => (v, x.fx))
      else match memCheck s true x.pa n with
        | some u => .error (.machine u x.pa)
        | none =>
          if x.cls = .sync ∧ syncWaits s six x.pa n then .error (.wait .score)
          else
            let s' := applyAll x.fx s
            let agent := agentOf core (va.toNat % 2 ^ 48)
            let y := s.strand six
            match (if y.spec then taskOf s y else none) with
            | some (id, t) => let r := specLoad s' id t agent x.cls x.pa n; .ok (r.1, x.fx ++ r.2)
            | none => .ok (bytesSeen s' x.cls x.pa n, x.fx ++ shareFor x.cls agent x.pa s')

/-- A word or byte of G read by a unit, the frames of the windows that it goes through read first (R150, R155). -/
def unitRead (s : State) (six asid depth : Nat) (pm : Bool) (a : Word) (n : Nat) : Except Fail (Nat × List Effect) :=
  throughRefills s six depth a (fun es r => (r.1, es ++ r.2)) (unitReadHere six asid depth pm a n)

/-- One operand read of a command (R228, R229). -/
def operandRead (k : MxCmd) (s : State) (sp : Space) (a : Word) (n : Nat) : Except Fail (Nat × List Effect) :=
  match sp with
  | .g => unitRead s k.six k.asid k.depth k.pm a n
  | _ => localRead s k.six sp a n

/-- The operand reads of a command in order, with their effects; or the first failure and its address. Bytes of other packages that are
lacking are fetched together. -/
def operandReads (k : MxCmd) :
    List (Space × Word × Nat) → State → Except (Word × Fail) (List Nat × List Effect)
  | [], _ => .ok ([], [])
  | (sp, a, n) :: r, s =>
    match operandRead k s sp a n with
    | .error (.fetch i pm xs) => match operandReads k r s with
      | .error (_, .fetch j _ ys) => .error (a, .fetch i pm (if i = j then xs ++ ys else xs))
      | _ => .error (a, .fetch i pm xs)
    | .error e => .error (a, e)
    | .ok (v, fx) =>
      match operandReads k r (applyAll fx s) with
      | .error e => .error e
      | .ok (vs, gx) => .ok (v :: vs, fx ++ gx)

/-- The panels of a command from its values. -/
def cmdPanels (tensor : Bool) (k : MxCmd) (vals : List Nat) : Panel × Panel :=
  let c := k.mcfg
  let na := if c.getLsbD 33 then (panelFetch k.specA k.mgb (cfgATag c) (countsA tensor c)).length else 0
  (if c.getLsbD 33 then panelOf k.specA (cfgATag c) (countsA tensor c) vals else panelRun k.runA,
   if c.getLsbD 32 then panelOf k.specB (cfgBTag c) (countsB tensor c) (vals.drop na) else panelRun k.runB)

/-- The tile a command leaves and the conditions it raises; none where MLDT's record is not valid. -/
def cmdResult (k : MxCmd) (x : Strand) (vals : List Nat) : Option (Tile × BitVec 6) :=
  let old := x.readT k.td
  let src := x.readT k.ta
  match k.op with
  | .mma => let p := cmdPanels false k vals; some (mmaTile k false p.1 p.2 old)
  | .mmaz => let p := cmdPanels false k vals; some (mmaTile k true p.1 p.2 old)
  | .mtcx => let p := cmdPanels true k vals; some (mtcxTile k p.1 p.2 old)
  | .mldt => (imageTile k.specA vals).map (fun t => (t, 0))
  | .mzt => some (tileOf k.specA.toNat [], 0)
  | .mcvt =>
    let t := k.specA.toNat % 32
    let (rows, fl) := mcvtRows src.tag.toNat t (mcvtMode k.specA k.mode) (k.specA.getLsbD 8)
      ((List.range 32).map src.row) k.gen
    some (tileOf t rows, fl)
  | .mtrn => some (transposed src, 0)
  | .tmovIn => some (old.setRow (k.specA.toNat % 32)
      (cleanData old.tag.toNat ((k.runA.head?.map (fun v => v.data.toNat)).getD 0)), 0)
  | .tmovOut => some (old, 0)

/-- A command leaves the engine: its entry and hulls released. -/
def dropCmd (cl : Nat) (k : Cmd) (s : State) : List Effect :=
  let c := s.cluster cl
  [.cluster cl { c with cmds := c.cmds.filter (fun y => y.id != k.id) }]

/-- An engine command ends with a token: its entry and hulls released, the token written (R200, R204). What its strand reads after the
token includes what the engine wrote (R270, R277): the core acquires with it. -/
def endCmd (cl : Nat) (k : Cmd) (tok : Word) (s : State) : List Effect :=
  chain [dropCmd cl k, acquire (coreOf k.six), deliver k.six k.id [(k.token, tok)]] s

/-- A command leaves the unit; where it is the follow-on of a COPYMM, the token of the copy is written (R201). -/
def leaveUnit (cl id : Nat) (s : State) : List Effect :=
  chain
    [fun s => let c := s.cluster cl; [.cluster cl { c with mx := c.mx.filter (fun k => k.id != id) }],
     fun s => match (s.cluster cl).cmds.find? (fun k => k.id == id) with
      | some k => endCmd cl k (k.copied.getD 0) s
      | none => []] s

/-- A deferred trap of the issuing strand at its next V-stream boundary (R229). -/
def deferTrap (six cause sub : Nat) (addr : Word) (s : State) : List Effect :=
  let x := s.strand six
  [.strand six { x with due := x.due ++ [.trap { cause := cause, sub := sub, addr := addr, strm := .v }] }]

/-- The domain and address whose translation a unit's request waits for: through a window, the caller's (R150). -/
def unitTarget (s : State) (six asid depth : Nat) (va : Word) (write : Bool) : Nat × Word :=
  match resolveAt s six asid depth va write with
  | .ok r => r
  | .error _ => (asid, va)

/-- A unit's request fails translation: its record in the die's fault log (R248). KIND 1 is the copy engine, 2 the matrix unit, 3 the
message unit. -/
def unitFault (kind cl id : Nat) (t : Nat × Word) (write : Bool) (s : State) : List Effect :=
  chain
    [flushFaults (cl / 8),
     logFault (cl / 8) { id := id, va := t.2, info := BitVec.ofNat 64 (t.1 * 2 ^ 52 + kind * 2 ^ 48 + bit write 32 + cl) }] s

/-- A matrix command in the unit. -/
def mxOf (s : State) (cl id : Nat) : Option MxCmd := (s.cluster cl).mx.find? (fun k => k.id == id)

/-- A command of the unit changed. -/
def setMx (cl : Nat) (k : MxCmd) (s : State) : List Effect :=
  let c := s.cluster cl
  [.cluster cl { c with mx := c.mx.map (fun y => if y.id = k.id then k else y) }]

/-- The translations of the G operands of a command. -/
def operandPages (k : MxCmd) (s : State) : List (Xl × Nat) :=
  (cmdFetch k).filterMap (fun f =>
    if f.1 = .g then match resolveAt s k.six k.asid k.depth f.2.1 false with
      | .error _ => none
      | .ok (asid, va) => (translate s (coreOf k.six) asid k.pm va .r).map (fun x => (x, f.2.2))
    else none)

/-- The firing of a command that must be its group's oldest uncommitted task before its operands are read: it would pass the read
capacity of R299, or reads another package (R350). -/
def mxOldest (k : MxCmd) (s : State) : Option (Nat × Task) :=
  let y := s.strand k.six
  (if y.spec then taskOf s y else none).filter (fun t =>
    let xs := operandPages k s
    xs.any (fun x => x.1.pod) || t.2.full true ((xs.filter (fun x => x.1.cls ≠ .device)).flatMap (fun x => wordsOf x.1.pa x.2)))

/-- A begun command performs (R226 to R229): its tile and conditions; a translation failure restores the tile and holds it;
a class or window failure ends it with a deferred trap; a poisoned word raises MACHINE. -/
def mxPerform (cl : Nat) (k : MxCmd) (s : State) : List Effect :=
  match mxOldest k s with
  | some (id, t) => if isOldest s id t then unspeculate id t k.six s else []
  | none =>
  match operandReads k (cmdFetch k) s with
  | .error (va, .page) =>
    let at' := unitTarget s k.six k.asid k.depth va false
    if spillFull s (cl / 8) then []
    else chain [setMx cl { k with held := true, shadow := none, heldAt := at' }, unitFault 2 cl k.id at' false] s
  | .error (_, .wait _) => []
  | .error (_, .send _) => []
  | .error (_, .fetch asid pm xs) => fetchCopies k.six asid pm xs s
  | .error (_, .machine u pa) => chain [leaveUnit cl k.id, checkError k.six k.id u (BitVec.ofNat 64 pa)] s
  | .error (va, .trap c u) => chain [leaveUnit cl k.id, deferTrap k.six c u va] s
  | .ok (vals, fx) =>
    chain
      [fun _ => fx, leaveUnit cl k.id,
       fun s =>
         let x := s.strand k.six
         match cmdResult k x vals with
         | none => deferTrap k.six 10 0 (BitVec.ofNat 64 k.enc) s
         | some (tile, fl) =>
           let y := (x.setTile k.td tile).raise fl
           if k.op = .tmovOut then
             let z := { y with await := y.await.filter (fun a => a.2 ≠ k.id) }
             [.strand k.six (z.write (.v k.specB.toNat)
               (.vec (vreg (cleanData tile.tag.toNat (tile.row (k.specA.toNat % 32))) 0 tile.tag.toNat)))]
           else [.strand k.six y]] s

/-- Whether a command may begin (R216, R228): no earlier command of its strand names one of its tiles, and no earlier
engine command writes what it reads. -/
def mxReady (c : Cluster) (k : MxCmd) : Bool :=
  let tiles := fun (y : MxCmd) => [y.td, y.ta]
  !k.begun && !k.held
    && (c.mx.takeWhile (fun y => y.id != k.id)).all (fun y =>
      y.six != k.six || !(tiles y).any (fun n => (tiles k).contains n))
    && c.cmds.all (fun e => decide (k.id ≤ e.id) || !hullsMeet e.writes k.reads)

end Sys2Proof.Machine
end

