-- ==== Sys2Proof/Machine/Engine.lean ====
section
/-! DEFINITION. The copy engine: COPY, COPYMM and BPREF at issue (R197 to R199, R201, R202, R236), and what their commands do
(R200 to R204, R277). -/

namespace Sys2Proof.Machine

/-! ## The shape word (R198) -/

def shRows (w : Word) : Nat := w.toNat / 2 ^ 52 + 1
def shSpl (w : Word) : Nat := w.toNat / 2 ^ 46 % 64
def shDpl (w : Word) : Nat := w.toNat / 2 ^ 40 % 64
def shLen (w : Word) : Nat := w.toNat / 2 ^ 8 % 2 ^ 32
def shSsp (w : Word) : Nat := w.toNat / 8 % 8
def shDsp (w : Word) : Nat := w.toNat % 8

/-- A space code that a shape word may hold. -/
def shSpaceOk (n : Nat) : Bool := decide (n ≤ 2 ∨ n = 4)

/-- Whether a shape word breaks a rule of R198. -/
def badShape (w : Word) : Bool :=
  decide (w.toNat / 64 % 4 ≠ 0) || !shSpaceOk (shSsp w) || !shSpaceOk (shDsp w)
    || (decide (shRows w = 1) && decide (shSpl w ≠ 0 ∨ shDpl w ≠ 0))
    || (decide (1 < shRows w)
        && (decide (2 ^ shSpl w < 4 ∨ 2 ^ shDpl w < 4 ∨ 2 ^ shSpl w < shLen w ∨ 2 ^ shDpl w < shLen w)))

/-- Whether the bytes [a, a + n) of a local space lie in the legal range of R92 for a strand. -/
def localRange (s : State) (six : Nat) (sp : Space) (a n : Nat) : Bool :=
  let core := coreOf six
  let x := s.strand six
  match sp with
  | .p => decide (a + n ≤ 2 ^ 19)
  | .c => decide (a + n ≤ 2 ^ 24)
      && (List.range ((a + n - 1) / 2 ^ 19 - a / 2 ^ 19 + 1)).all (fun i => (cCore s x.gid core (a / 2 ^ 19 + i)).isSome)
  | .d => decide (a + n ≤ 2 ^ 26 ∧ dieOf core < 4) && blocksOk s (dieOf core) (s.tenantOf x) a n
  | _ => true

/-- Check 3 of R199 for one side. -/
def sideLegal (s : State) (six : Nat) (sp : Space) (a : Word) (rows pl len : Nat) : Bool :=
  decide (len = 0) || (List.range rows).all (fun r => localRange s six sp (a.toNat + r * 2 ^ pl) len)

/-- The hull of one side (R203). -/
def sideHull (s : State) (six : Nat) (sp : Space) (a : Word) (rows pl len : Nat) : List Hull :=
  if len = 0 then [] else hullsOf s six sp a.toNat (a.toNat + (rows - 1) * 2 ^ pl + len)

/-! ## The follow-on word (R236) -/

def fwCmd (w : Word) : Nat := w.toNat / 2 ^ 61
def fwT (w : Word) : Nat := w.toNat / 2 ^ 59 % 4
def fwWhich (w : Word) : Bool := w.getLsbD 58
def fwOreg (w : Word) : Bool := w.getLsbD 57
def fwOvr (w : Word) : Nat := w.toNat / 2 ^ 52 % 32
def fwOoff (w : Word) : Nat := w.toNat / 2 ^ 42 % 1024

/-- Whether the issue check rejects a follow-on word. -/
def badFollow (w : Word) : Bool :=
  decide (4 ≤ fwCmd w ∨ w.toNat % 16 ≠ 0)
    || (!fwOreg w && decide (fwOvr w ≠ 0)) || (fwOreg w && decide (fwOoff w ≠ 0))
    || (decide (fwCmd w = 3) && (fwWhich w || fwOreg w || decide (fwOvr w ≠ 0 ∨ fwOoff w ≠ 0)))

/-- A panel's descriptor from the word: SP from DSP, BASE from an address, the other fields from the word. -/
def fwDesc (w : Word) (dsp : Space) (base : Nat) : Word :=
  BitVec.ofNat 64 ((match dsp with | .c => 2 ^ 62 | _ => 0) + w.toNat / 16 % 2 ^ 38 * 2 ^ 24 + base % 2 ^ 24)

/-- The other panel's spec. -/
def fwOther (w : Word) (dsp : Space) (dst : Word) : Word :=
  if fwOreg w then BitVec.ofNat 64 (fwOvr w) else fwDesc w dsp (dst.toNat + 128 * fwOoff w)

/-- The captured configuration with ASRC and BSRC as the word gives them. -/
def fwConfig (w : Word) (c : Word) : Word :=
  let other : Word := if fwOreg w then 0 else 1
  let ab : Word := if fwWhich w then 2 * other + 1 else 2 + other
  (c &&& ~~~(3#64 <<< 32)) ||| (ab <<< 32)

/-- The operation of a follow-on. -/
def fwOp (w : Word) : MxOp :=
  match fwCmd w with
  | 0 => .mma | 1 => .mmaz | 2 => .mtcx | _ => .mldt

/-- The follow-on command of a COPYMM, without its register runs. -/
def followOn (k : MxCmd) (w : Word) (dsp : Space) (dst : Word) : MxCmd :=
  let copied := fwDesc w dsp dst.toNat
  let other := fwOther w dsp dst
  { k with
    op := fwOp w, mcfg := fwConfig w k.mcfg,
    specA := if fwWhich w then other else copied, specB := if fwWhich w then copied else other }

/-- The hull of the other panel, where it is one. -/
def otherHull (s : State) (six : Nat) (w : Word) (dsp : Space) (dst : Word) (k : MxCmd) : List Hull :=
  if decide (fwCmd w = 3) || fwOreg w then []
  else
    let tensor := decide (fwCmd w = 2)
    let d := fwOther w dsp dst
    fetchHull s six (if fwWhich w then panelFetch d k.mgb (cfgATag k.mcfg) (countsA tensor k.mcfg)
      else panelFetch d k.mgb (cfgBTag k.mcfg) (countsB tensor k.mcfg))

/-! ## Issue (R199) -/

/-- A command joins its cluster's list; its token register, and a follow-on's tile, await it. DESIGN CHOICE (log entry 63): the chiplet's
cores, which are in no cluster (R191), share an engine and a scoreboard of their own. -/
def enterEngine (k : Cmd) (waits : List RegId) : M Unit := do
  let s ← getS
  let cl := clusterOf s.coreNo
  let c := s.cluster cl
  put (.cluster cl { c with cmds := c.cmds ++ [k] })
  modMe (fun x => { x with await := x.await ++ waits.map (fun r => (r, k.id)) })

/-- Checks 1 to 4 of R199 on captured operands; `bad` adds what COPYMM rejects. -/
def copyChecks (enc : Nat) (bad : Bool) (src dst shape : Word) (waits : Bool) : M Unit := do
  illegalIf (badShape shape || bad) enc
  trapIf (decide (src.toNat % 4 ≠ 0)) 4 0 src
  trapIf (decide (dst.toNat % 4 ≠ 0)) 4 0 dst
  trapIf (decide (shLen shape % 4 ≠ 0)) 4 0 (BitVec.ofNat 64 (shLen shape))
  let s ← getS
  trapIf (!sideLegal s s.six (spaceOf (shSsp shape)) src (shRows shape) (shSpl shape) (shLen shape)) 6 1 src
  trapIf (!sideLegal s s.six (spaceOf (shDsp shape)) dst (shRows shape) (shDpl shape) (shLen shape)) 6 1 dst
  stallIf (waits && scoreboardFull (s.cluster (clusterOf s.coreNo))) .score

/-- A command with the operands of a copy. -/
def copyCmd (s : State) (id : Nat) (kind : CmdKind) (d : BitVec 5) (src dst shape : Word) : Cmd :=
  let x := s.me
  let ssp := spaceOf (shSsp shape)
  let dsp := spaceOf (shDsp shape)
  { id := id, six := s.six, gid := x.gid, kind := kind, token := d.toNat, ssp := ssp, src := src, dsp := dsp, dst := dst,
    rows := shRows shape, spl := shSpl shape, dpl := shDpl shape, len := shLen shape, asid := x.dom, pm := x.sys.pm, tag := 0,
    reads := sideHull s s.six ssp src (shRows shape) (shSpl shape) (shLen shape),
    writes := sideHull s s.six dsp dst (shRows shape) (shDpl shape) (shLen shape),
    follow := none, begun := false, copied := none, held := false, depth := x.sys.dsdepth }

/-- COPY. -/
def execCopy (o : X3) (s : State) : Out :=
  let enc := opX 0x1C 0 + o.bits
  let n := o.x.toNat
  issue (infoC enc o.w.toNat [.s o.d.toNat, .s o.a.toNat, .ox n, .ox (n + 1)]) (do
    let src ← getSr o.a
    let dst ← getOx n
    let shape ← getOx (n + 1)
    beOldest
    copyChecks enc false src dst shape (decide (shLen shape ≠ 0))
    let id ← newId
    let s ← getS
    enterEngine (copyCmd s id .copy o.d src dst shape) [.s o.d.toNat]
    pure .next) s

/-- COPYMM (R201, R236). -/
def execCopymm (o : X3) (s : State) : Out :=
  let enc := opX 0x1C 1 + o.bits
  let n := o.x.toNat
  let tile := fwT ((s.me.landSt s.stream).readOx (n + 2))
  issue (infoC enc o.w.toNat [.s o.d.toNat, .s o.a.toNat, .ox n, .ox (n + 1), .ox (n + 2), .t tile]) (do
    let src ← getSr o.a
    let dst ← getOx n
    let shape ← getOx (n + 1)
    let w ← getOx (n + 2)
    beOldest
    let s ← getS
    let bad := badFollow w || !isCompute s.coreNo || !(decide (shDsp shape = 1 ∨ shDsp shape = 2))
    copyChecks enc bad src dst shape true
    let base ← newCmd enc (fwOp w) (fwT w)
    let s ← getS
    let k := followOn base w (spaceOf (shDsp shape)) dst
    let c := copyCmd s k.id .copymm o.d src dst shape
    enterEngine { c with reads := c.reads ++ otherHull s s.six w c.dsp dst k, follow := some k }
      [.s o.d.toNat, .t (fwT w)]
    pure .next) s

/-- BPREF (R202). -/
def execBpref (o : X3) (s : State) : Out :=
  let enc := opX 0x1C 2 + o.bits
  issue (infoC enc o.w.toNat [.s o.d.toNat, .s o.a.toNat, .ox o.x.toNat]) (do
    let a ← getSr o.a
    let n ← getOx o.x.toNat
    beOldest
    illegalIf (decide (2 ^ 40 ≤ n.toNat)) enc
    let s ← getS
    stallIf (scoreboardFull (s.cluster (clusterOf s.coreNo))) .score
    let id ← newId
    let s ← getS
    let k := copyCmd s id .bpref o.d a 0 0
    enterEngine { k with len := n.toNat } [.s o.d.toNat]
    pure .next) s

/-! ## Words that an engine reads and writes (R200, R266) -/

/-- One word read by an engine for a command. -/
def engineRead (k : Cmd) (s : State) (sp : Space) (a : Word) (n : Nat) : Except Fail (Nat × List Effect) :=
  match sp with
  | .g => unitRead s k.six k.asid k.depth k.pm a n
  | _ => localRead s k.six sp a n

/-- The effects of one word written by an engine for a command, or why it is refused: any write to an APPEND page is OFFTAIL. A word of
another package leaves for its home, under the identity that is next (R350). -/
def engineWriteHere (k : Cmd) (sp : Space) (a : Word) (n v : Nat) (s : State) : Except Fail (List Effect) :=
  let core := coreOf k.six
  match sp with
  | .g =>
    match resolveAt s k.six k.asid k.depth a true with
    | .error e => .error e
    | .ok (asid', va) =>
      match translate s core asid' k.pm va .w with
      | none => .error (pageFail s core asid' va)
      | some x =>
        if x.cls = .device then .error (.trap 6 2)
        else if x.pod then
          match performPod { id := s.nextId, six := k.six, asid := k.asid, pm := k.pm, va := a, op := .store n (BitVec.ofNat 64 v),
                             acq := false, rel := false, depth := k.depth, write := true, kind := 1, now := true } asid' x
                  (applyAll (x.fx ++ [.fresh]) s) with
          | .error (.send es) => .error (.send (x.fx ++ [.fresh] ++ es))
          | r => r
        else if x.cls = .append then .error (.trap 8 0)
        else if x.cls = .sealed then .error (.trap 9 0)
        else match memCheck s false x.pa n with
        | some u => .error (.machine u x.pa)
        | none =>
          if x.cls = .sync ∧ syncWaits s k.six x.pa n then .error (.wait .score)
          else .ok (x.fx ++ homeStore none none (agentOf core (va.toNat % 2 ^ 48)) x.pa n v (applyAll x.fx s))
  | _ =>
    match localLoc s k.six sp a n with
    | none => .error (.trap 6 1)
    | some l => .ok (l.write n v s)

/-- One word written by an engine, the frames of the windows that it goes through read first (R150, R155). -/
def engineWrite (k : Cmd) (s : State) (sp : Space) (a : Word) (n v : Nat) : Except Fail (List Effect) :=
  if sp = .g then throughRefills s k.six k.depth a List.append (engineWriteHere k sp a n v) else engineWriteHere k sp a n v s

/-! ## Commands (R200, R203, R277) -/

/-- Whether a command may begin (R203, R228, R277): no earlier command or matrix operand hull conflicts with its own. -/
def cmdReady (s : State) (cl : Nat) (k : Cmd) : Bool :=
  let c := s.cluster cl
  !k.begun
    && (c.cmds.takeWhile (fun y => y.id != k.id)).all (fun y => !conflicts y.reads y.writes k.reads k.writes)
    && c.mx.all (fun m => decide (k.id ≤ m.id) || !hullsMeet m.reads k.writes)
    && !openBefore s k.six k.id

/-- A command of a cluster. -/
def cmdOf (s : State) (cl id : Nat) : Option Cmd := (s.cluster cl).cmds.find? (fun k => k.id == id)

/-- A command changed. -/
def setCmd (cl : Nat) (k : Cmd) (s : State) : List Effect :=
  let c := s.cluster cl
  [.cluster cl { c with cmds := c.cmds.map (fun y => if y.id = k.id then k else y) }]

/-- The token of R200. -/
def tokenWord (stat count : Nat) : Word := BitVec.ofNat 64 (bit (decide (stat ≠ 0)) 63 + stat * 2 ^ 48 + count % 2 ^ 48)

/-- The STAT of a stop (R200). -/
def statOf (cause sub : Nat) : Nat :=
  if cause = 8 then 1 else if cause = 9 then 2 else if cause = 6 ∧ sub = 3 then 4 else 3

/-- The word positions of a copy in its order: source and destination addresses. -/
def copyPositions (k : Cmd) : List (Word × Word) :=
  (List.range k.rows).flatMap (fun r => (List.range (k.len / 4)).map (fun j =>
    (k.src + BitVec.ofNat 64 (r * 2 ^ k.spl + 4 * j), k.dst + BitVec.ofNat 64 (r * 2 ^ k.dpl + 4 * j))))

/-- The first positions of a copy whose source and destination words both pass, with their values and the records their
translations leave; the failure that ends them, with its address and whether the destination failed. DESIGN CHOICE (log entry 81): where
both words of a position fail, the source's failure is the one. -/
def copyScan (k : Cmd) (s : State) :
    List (Word × Word) → List (Word × Nat) × List Effect × Option (Fail × Word × Bool)
  | [] => ([], [], none)
  | (a, b) :: r =>
    match engineRead k s k.ssp a 4 with
    | .error e => ([], [], some (e, a, false))
    | .ok (v, fx) =>
      match engineWrite k s k.dsp b 4 v with
      | .error e => ([], [], some (e, b, true))
      | .ok _ =>
        let rest := copyScan k s r
        ((b, v) :: rest.1, fx ++ rest.2.1, rest.2.2)

/-- The first positions of a copy whose source words pass: their values, the records their translations leave, and what ends them. -/
def copyReads (k : Cmd) (s : State) : List (Word × Word) → List Nat × List Effect × Option (Fail × Word)
  | [] => ([], [], none)
  | (a, _) :: r =>
    match engineRead k s k.ssp a 4 with
    | .error e => ([], [], some (e, a))
    | .ok (v, fx) => let rest := copyReads k s r; (v :: rest.1, fx ++ rest.2.1, rest.2.2)

/-- Write the words of a copy. -/
def copyWrites (k : Cmd) (ws : List (Word × Nat)) (s : State) : List Effect :=
  chain (ws.map (fun w => fun s => match engineWrite k s k.dsp w.1 4 w.2 with
    | .ok es => es
    | .error _ => [])) s

/-- A command waits for a translation: its record in the fault log (R200, R248). Where the spill area is full it tries again (R336). -/
def holdCmd (kind cl : Nat) (k : Cmd) (va : Word) (write : Bool) (s : State) : List Effect :=
  let at' := unitTarget s k.six k.asid k.depth va write
  if spillFull s (cl / 8) then setCmd cl k s
  else chain [setCmd cl { k with held := true, heldAt := at' }, unitFault kind cl k.id at' write] s

/-- The end of the copy of a COPYMM that moved all its bytes, or of a COPY. -/
def copyEnd (cl : Nat) (k : Cmd) (count : Nat) (s : State) : List Effect :=
  match k.follow with
  | none => endCmd cl k (tokenWord 0 count) s
  | some _ => setCmd cl { k with copied := some (tokenWord 0 count) } s

/-- A command that meets a machine check ends with its group (R200). -/
def cmdCheck (cl : Nat) (k : Cmd) (sub pa : Nat) (s : State) : List Effect :=
  chain [dropCmd cl k, checkError k.six k.id sub (BitVec.ofNat 64 pa)] s

/-- What the answer of its home makes of a word that a command has sent to another package (R351): the next position, or the end with
what the home refused, at the address `va`; `stop` ends the command with a cause. -/
def wordAnswer (kind cl : Nat) (k : Cmd) (a : Ack) (va : Word) (stop : Nat → State → List Effect) (s : State) : List Effect :=
  if a.res = 0 then setCmd cl { k with sent := none, done := k.done + 1 } s
  else if a.res = 1 then holdCmd kind cl { k with sent := none } va true s
  else if 17 ≤ a.res then cmdCheck cl k (if a.res = 17 then 3 else 2) 0 s
  else stop a.res s

/-- A word on its way to another package, under the identity it left with. -/
def sentWord (s : State) (id : Nat) : Got :=
  ⟨id, ((s.pkg.fab.remotes.find? (fun r => r.id == id)).map Remote.pa).getD 0, none⟩

/-- Whether a source or destination word of a copy lies in another package. -/
def podWordOf (k : Cmd) (s : State) (sp : Space) (a : Word) (write : Bool) : Bool :=
  decide (sp = .g) && (match resolveAt s k.six k.asid k.depth a write with
    | .error _ => false
    | .ok (asid, va) => (translate s (coreOf k.six) asid k.pm va (if write then .w else .r)).any (fun x => x.pod))

/-- Whether a copy reads or writes another package. -/
def podCopy (k : Cmd) (s : State) : Bool :=
  (copyPositions k).any (fun p => podWordOf k s k.ssp p.1 false || podWordOf k s k.dsp p.2 true)

/-- Word `k.done` of a copy whose source words are read, or its end (R200). -/
def copyNext (cl : Nat) (k : Cmd) (vals : List Nat) (stat : Nat) (s : State) : List Effect :=
  let dst := ((copyPositions k).getD k.done (0, 0)).2
  let stop := fun (st : Nat) (s : State) => endCmd cl k (tokenWord st (4 * k.done)) s
  match k.sent with
  | some g => match g.ans with
    | none => []
    | some a => wordAnswer 1 cl k a dst (fun c => stop (statOf c (if c = 6 then 2 else 0))) s
  | none =>
    match vals[k.done]? with
    | none => if stat = 0 then copyEnd cl k (4 * k.done) s else stop stat s
    | some v => match engineWrite k s k.dsp dst 4 v with
      | .ok es => chain [fun _ => es, setCmd cl { k with done := k.done + 1 }] s
      | .error (.send es) => chain [fun _ => es, fun s' => setCmd cl { k with sent := some (sentWord s' s.nextId) } s'] s
      | .error .page => holdCmd 1 cl k dst true s
      | .error (.machine u pa) => cmdCheck cl k u pa s
      | .error (.trap c u) => stop (statOf c u) s
      | .error _ => []

/-- A copy from or into another package: every source word is read first, as it arrives; then the words are written one by one, each that
leaves answered before the next, so that a word which its home refuses ends the copy there (R200, R351). -/
def copyAway (cl : Nat) (k : Cmd) (s : State) : List Effect :=
  match k.buf with
  | some (vals, stat) => copyNext cl k vals stat s
  | none =>
    let (new, fx, stop) := copyReads k s ((copyPositions k).drop k.part.length)
    let vals := k.part ++ new
    let read := fun (stat : Nat) => chain [fun _ => fx, setCmd cl { k with buf := some (vals, stat) }] s
    match stop with
    | none => read 0
    | some (.trap c u, _) => read (statOf c u)
    | some (.page, va) => holdCmd 1 cl k va false s
    | some (.machine u pa, _) => cmdCheck cl k u pa s
    | some (.fetch asid pm xs, _) =>
      chain [fun _ => fx, setCmd cl { k with part := vals }, fetchCopies k.six asid pm xs] s
    | some (_, _) => []

/-- A begun copy performs (R200): its words, then its token; a position that fails ends it early; a translation failure
holds it; a poisoned word raises MACHINE. -/
def copyPerform (cl : Nat) (k : Cmd) (s : State) : List Effect :=
  if k.buf.isSome || podCopy k s then copyAway cl k s
  else
  let (ws, fx, stop) := copyScan k s (copyPositions k)
  match stop with
  | none => chain [fun _ => fx, copyWrites k ws, copyEnd cl k (4 * ws.length)] s
  | some (.page, va, write) => holdCmd 1 cl k va write s
  | some (.wait _, _, _) => []
  | some (.send _, _, _) => []
  | some (.fetch asid pm xs, _, _) => fetchCopies k.six asid pm xs s
  | some (.machine u pa, _, _) => chain [fun _ => fx, copyWrites k ws, cmdCheck cl k u pa] s
  | some (.trap c u, _, _) => chain [fun _ => fx, copyWrites k ws, endCmd cl k (tokenWord (statOf c u) (4 * ws.length))] s

/-- Bytes of a range on pages that translate (R202). -/
def prefetched (k : Cmd) (s : State) : Nat :=
  let a := k.src.toNat
  ((List.range ((a + k.len + 65535) / 65536 - a / 65536)).map (fun i =>
    let page := (a / 65536 + i) * 65536
    let lo := max a page
    let hi := min (a + k.len) (page + 65536)
    match resolveAt s k.six k.asid k.depth (BitVec.ofNat 64 lo) false with
    | .error _ => 0
    | .ok (asid, va) => if (translate s (coreOf k.six) asid k.pm va .r).isSome then hi - lo else 0)).sum

/-! ## The follow-on enters the unit (R201, R236) -/

/-- The follow-on with the register runs it captures. -/
def withRuns (s : State) (k : MxCmd) : MxCmd :=
  let x := s.strand k.six
  let tensor := k.op == .mtcx
  let c := k.mcfg
  if k.op = .mldt then k
  else { k with
    runA := if c.getLsbD 33 then [] else runOf x k.specA (countsA tensor c).length
    runB := if c.getLsbD 32 then [] else runOf x k.specB (countsB tensor c).length }

/-- Steps 2 to 4 of R225 for a follow-on: none while a tile tag is still to come. -/
def followChecks (s : State) (k : MxCmd) : Option Bool :=
  let tensor := k.op == .mtcx
  let descs := if k.op = .mldt then [(k.specA, imageFetch k.specA k.mgb)]
    else descsOf tensor k.mcfg k.mgb k.specA k.specB
  let fit := descs.all (fun d => decide ((dAddr d.1 k.mgb 0).toNat % 4 = 0) && (fetchBound s k.six d.2).isNone)
  match k.op with
  | .mldt => some fit
  | .mmaz => some (fit && (checkPair tensor k.mcfg k.specA k.specB k.runA k.runB none).isNone)
  | _ =>
    match tagAtIssue s k.six k.td with
    | none => none
    | some t => some (fit && (checkPair tensor k.mcfg k.specA k.specB k.runA k.runB (some t)).isNone)

/-- Whether a register of a follow-on's runs still awaits its result (R38, R216). -/
def runsAwaited (s : State) (k : MxCmd) : Bool :=
  let tensor := k.op == .mtcx
  let c := k.mcfg
  let run := fun (spec : Word) (n : Nat) => (List.range n).any (fun i =>
    (s.strand k.six).await.any (fun a => decide (a.1 = .v (spec.toNat % 32 + i))))
  k.op != .mldt && ((!c.getLsbD 33 && run k.specA (countsA tensor c).length) || (!c.getLsbD 32 && run k.specB (countsB tensor c).length))

/-- The engine issues the follow-on of a finished copy to the unit, once the registers it names hold their results; a failed check
ends the command with FOLLOW. -/
def followEnter (cl : Nat) (c : Cmd) (k : MxCmd) (s : State) : List Effect :=
  let k := withRuns s k
  match (if runsAwaited s k then none else followChecks s k) with
  | none => []
  | some true =>
    let y := s.cluster cl
    let x := s.strand k.six
    [.cluster cl { y with
        cmds := y.cmds.map (fun e => if e.id = c.id then { e with follow := none } else e), mx := y.mx ++ [k] },
     .strand k.six { x with await := x.await.filter (fun a => !(a.2 == c.id && decide (a.1 = .t k.td))) }]
  | some false => endCmd cl c (tokenWord 5 ((c.copied.getD 0).toNat % 2 ^ 48)) s

end Sys2Proof.Machine
end

