-- ==== Sys2Proof/Machine/Fabric.lean ====
section
/-! DEFINITION. The fabric and the pod: links (R352 to R354), streams (R355), the pod clock and its windows (R356 to R358), failed
members (R359), accesses of other packages (R350, R351) and what comes back from them. -/

namespace Sys2Proof.Machine

/-- L, in nanoseconds (R356). -/
def windowLen (f : Fabric) : Nat := (f.wlen + 1) * 1000

/-- The window that the clock is in. -/
def clockWindow (f : Fabric) : Nat := f.time / windowLen f

/-- Something arrived from a member: it is live from its first arrival on (DEDUCED, log entry 41), and was last heard now. A member
that has failed joins again only after its reset (R359). -/
def heard (p : Nat) (s : State) : List Effect :=
  let f := s.pkg.fab
  if isMember f p && !f.failed.getLsbD p then
    [setFab s { f with live := f.live ||| (1#128 <<< p), heardAt := tblSet 0 f.heardAt p (clockWindow f) }]
  else []

/-! ## Links (R352 to R354) -/

/-- One byte into the CRC-64 of the ECMA-182 polynomial (R352), most significant bit first. -/
def crcByte (crc : BitVec 64) (b : Nat) : BitVec 64 :=
  (List.range 8).foldl
    (fun c _ => if c.getLsbD 63 then (c <<< 1) ^^^ 0x42F0E1EBA9EA3693#64 else c <<< 1)
    (crc ^^^ (BitVec.ofNat 64 b <<< 56))

/-- The CRC of the first 248 bytes of a flit (R352); the order of the bits and the start value are PRESUMED (log entry 39). -/
def flitCrc (flit : BitVec 2048) : BitVec 64 :=
  (List.range 248).foldl (fun c i => crcByte c (flit.toNat / 2 ^ (8 * i) % 256)) 0

def flSeq (flit : BitVec 2048) : Nat := flit.toNat / 2 ^ 52 % 4096
def flAck (flit : BitVec 2048) : Nat := flit.toNat / 2 ^ 40 % 4096
def flNak (flit : BitVec 2048) : Bool := flit.getLsbD 39
def flOff (flit : BitVec 2048) : Bool := flit.getLsbD 38
def flKind (flit : BitVec 2048) : Nat := flit.toNat / 2 ^ 35 % 8

/-- Flits resent, saturating (R360). -/
def Link.resent (k : Link) (n : Nat) : Link := { k with replays := min (k.replays + n) (2 ^ 32 - 1) }

/-- The flits that a link has still to see acknowledged, after the ACK of a flit (R353). -/
def Link.unacked (k : Link) (ack : Nat) : List (Nat × Output) :=
  match k.replay.findIdx? (fun p => p.1 == ack) with
  | some i => k.replay.drop (i + 1)
  | none => k.replay

/-- What a flit's header tells the sender: flits up to ACK leave the replay buffer, a NAK asks for the rest again, OFF for a pause
(R353, R354). -/
def Link.acked (k : Link) (flit : BitVec 2048) : Link :=
  { k with replay := k.unacked (flAck flit), resend := k.resend || flNak flit, peerOff := flOff flit }

/-- A flit that passes its CRC, of a kind that is not reserved (R353, R354): an idle one carries only its header; a data or control
one is accepted in SEQ order or else causes a NAK. -/
def Link.take (k : Link) (flit : BitVec 2048) : Link :=
  if flKind flit = 0 then k
  else if flSeq flit ≠ k.recvSeq then { k with nak := true }
  else
    let y := { k with recvSeq := (k.recvSeq + 1) % 4096, nak := false }
    if flKind flit = 1 then { y with input := y.input ++ [flit] } else y

/-- OFF is set within 64 flits of a full input buffer, and cleared below 32 flits (R354). -/
def Link.flow (k : Link) : Link :=
  { k with off := if Config.linkBuffer ≤ k.input.length + 64 then true else if k.input.length < 32 then false else k.off }

/-- The stream of a packet: its destination and class (R352); none for what is no packet. -/
def Output.stream : Output → Option (Nat × Nat)
  | .remote pkg .. => some (pkg, 0)
  | .podReply pkg .. => some (pkg, 1)
  | .podInvalidate pkg .. => some (pkg, 2)
  | .podInvalidated pkg .. => some (pkg, 2)
  | .marker pkg .. => some (pkg, 2)
  | .podArrival pkg .. => some (pkg, 2)
  | _ => none

/-- The end-to-end number of a packet in its stream (R352). -/
def Output.num : Output → Nat
  | .remote _ n .. => n
  | .podReply _ n .. => n
  | .podInvalidate _ _ n => n
  | .podInvalidated _ _ n => n
  | .marker _ n _ => n
  | .podArrival _ n .. => n
  | _ => 0

/-- Whether a packet is one of control, whose flits are never refused (R354). -/
def Output.control (o : Output) : Bool := o.stream.any (fun k => k.2 == 2)

/-- The flits that a link has not seen acknowledged leave again, in order, and are counted (R353, R360); while the peer has set OFF, no
data flit and nothing behind it (R354). -/
def resendAll (link : Nat) (s : State) : List Effect :=
  let f := s.pkg.fab
  let k := tblGet .down f.links link
  let now := if k.peerOff then k.replay.takeWhile (fun p => p.2.control) else k.replay
  let k' : Link := { k.resent now.length with resend := decide (now.length < k.replay.length) }
  setFab s { f with links := tblSet .down f.links link k' }
    :: now.map (fun p => .output p.2)

/-- The link after a flit: one that fails its CRC causes a NAK, one of a reserved kind is discarded (R352, R353). -/
def Link.received (k : Link) (flit : BitVec 2048) : Link :=
  if flitCrc flit ≠ BitVec.ofNat 64 (flit.toNat / 2 ^ 1984) then { k with nak := true }
  else if 3 ≤ flKind flit then k
  else (k.acked flit).take flit

/-- FLIT_RECEIVE (R353, R354). How many flits have left the input buffer since is not fixed by this package's state (log entry
39). -/
def execFlitReceive (link : Nat) (flit : BitVec 2048) (s : State) : Out :=
  event (do
    let k := tblGet .down s.pkg.fab.links link
    if decide (link < s.cfg.links) && k.up && !s.pkg.frozen then do
      let d ← choose (k.input.length + 1)
      let s ← getS
      let f := s.pkg.fab
      let y := { k with input := k.input.drop d }.received flit
      put (setFab s { f with links := tblSet .down f.links link y.flow })
      put (.output (.ack link))
      let s ← getS
      puts (chain
        [fun s => if y.resend then resendAll link s else [], heard k.peer, podFlush] s)
    else pure ()) s

/-- LINK_RETRAIN (R353, R360): the link runs on 8 or 4 good lanes and resends, or is down. What lies at the far end of a link
that trains for the first time is the environment's. -/
def execLinkRetrain (link lanes : Nat) (s : State) : Out :=
  event (do
    if decide (link < s.cfg.links) && !s.pkg.frozen then do
      let p ← choose 128
      let l ← choose 16
      let s ← getS
      let f := s.pkg.fab
      let k := tblGet .down f.links link
      let up := decide (lanes = 8 ∨ lanes = 4)
      let y : Link := if k.up || !up then k else { k with peer := p, plink := l }
      put (setFab s { f with links := tblSet .down f.links link { y with up := up, lanes := if up then lanes else 0 } })
      let s ← getS
      if up then puts (chain [resendAll link, podFlush] s) else pure ()
    else pure ()) s

/-! ## Streams (R355) -/

/-- The frame-table index of the frame at a base (R258). -/
def frameNumber (a : Nat) : Nat :=
  if a < 2 ^ 44 then a / 2 ^ 36 * 2 ^ 20 + a % 2 ^ 36 / 65536 else 12 * 2 ^ 20 + (a - 2 ^ 44) / 2 ^ 39 * 2 ^ 23 + (a - 2 ^ 44) % 2 ^ 39 / 65536

/-- A remote access as its packet, or the invalidation of a frame that PFREE has sent. -/
def Remote.packet (r : Remote) : Output :=
  if r.op = .invalidation then .podInvalidate r.pkg (frameNumber r.addr) r.seq
  else .remote r.pkg r.seq r.op r.addr r.owner r.priv r.cls r.engine

/-- A packet in its place by end-to-end number. -/
def insertNum (x : Output) : List Output → List Output
  | [] => [x]
  | y :: r => if y.num ≤ x.num then y :: insertNum x r else x :: y :: r

/-- The packets of a stream that have not been acknowledged, in the order they were sent: requests and invalidations until their answer
comes, others while the old link keeps them (DEDUCED, log entry 41). -/
def openPackets (f : Fabric) (dest cls : Nat) (old : Link) : List Output :=
  let sent := (f.remotes.filter (fun r => decide (r.pkg = dest))).map Remote.packet
  let waiting := f.waiting.map (fun w => w.2.2)
  let mine := fun (o : Output) => o.stream == some (dest, cls) && !waiting.contains o
  let tracked := sent.filter mine
  (tracked ++ (old.replay.map Prod.snd).filter (fun o => mine o && !tracked.contains o)).foldl (fun l o => insertNum o l) []

/-- ROUTE_CHANGE (R355): it first holds the stream; then, once nothing sent is unacknowledged, or the old path is down and
every unacknowledged packet is sent again in order, ahead of any new one, the stream resumes on the new path. -/
def execRouteChange (dest cls link : Nat) (s : State) : Out :=
  let f := s.pkg.fab
  let key := streamKey dest cls
  let from' := tblGet 0 f.routes key
  let old := tblGet .down f.links from'
  let packets := openPackets f dest cls old
  event (
    if !isMember f dest then pure ()
    else if !f.streamHeld.contains (dest, cls) then
      whenever true (fun s => [setFab s { f with streamHeld := f.streamHeld ++ [(dest, cls)] }])
    else whenever (packets.isEmpty || !old.up) (chain
      ([fun s => [setFab s { f with
          links := tblSet .down f.links from' { old with replay := old.replay.filter (fun p => p.2.stream != some (dest, cls)) },
          streamHeld := f.streamHeld.filter (fun p => p != (dest, cls)), routes := tblSet 0 f.routes key link,
          waiting := packets.map (fun o => (dest, cls, o)) ++ f.waiting }], podFlush]))) s

/-! ## The pod clock and its windows (R356 to R358) -/

/-- Whether one clock's announcement is better than another's (R356: the best master clock algorithm; the order of the data sets is
PRESUMED from IEEE 1588, log entry 74). -/
def betterClock (a b : ClockSet) : Bool :=
  let l := fun (c : ClockSet) => [c.prio1, c.cls, c.acc, c.var, c.prio2, c.ident]
  keyLe (l a) (l b) && l a != l b

/-- What a message of the Precision Time Protocol does to the clock (R356; PRESUMED, log entry 74): an announcement of a better clock
elects it; a sync of the grandmaster gives the offset and corrects the clock; a peer delay exchange measures the delay of the
link. -/
def ptpUpdate (m : PtpMsg) (f : Fabric) : Fabric :=
  match m with
  | .announce c => if betterClock c (f.master.getD Config.ownClock) then { f with master := some c } else f
  | .sync origin receipt =>
    if f.master.isSome then
      let off : Int := (receipt : Int) - origin - f.delay
      { f with offset := BitVec.ofInt 32 off, time := (f.time - off).toNat, lock := true }
    else f
  | .pdelay t1 t2 t3 t4 => { f with delay := ((t4 - t1) - (t3 - t2)) / 2 }

/-- PTP_MESSAGE (R356). -/
def execPtpMessage (ptp : PtpMsg) (s : State) : Out :=
  event (whenever true (fun s => [setFab s (ptpUpdate ptp s.pkg.fab)])) s

/-- Time passes at the clock. -/
def timePasses (ns : Nat) (s : State) : List Effect := [setFab s { s.pkg.fab with time := s.pkg.fab.time + ns }]

/-- The live members other than this package. -/
def members (f : Fabric) : List Nat := (List.range 128).filter (fun p => f.live.getLsbD p && p != f.pkg)

/-- The window to be closed next (R357): one that the package has left. -/
def nextClose (f : Fabric) : Option Nat :=
  match f.closed with
  | some n => if n + 1 < f.window then some (n + 1) else none
  | none => none

/-- Whether every write sent in a window or before has been acknowledged, invalidations among them (R357); one that has still to leave is
not sent (R358). -/
def writesAcked (f : Fabric) (n : Nat) : Bool := f.remotes.all (fun r => !(r.op.writes && r.win.any (fun w => decide (w ≤ n))))

/-- WINDOW_CLOSE (R357). -/
def execWindowClose (s : State) : Out :=
  let f := s.pkg.fab
  event (match nextClose f with
    | some n =>
      whenever (f.en && writesAcked f n && decide ((n + 1) * windowLen f ≤ f.time)) (fun s =>
        chain ((fun s => [setFab s { s.pkg.fab with closed := some n }])
          :: (members f).map (fun p => podSend p 2 (fun m => .marker p m n))) s)
    | none => pure ()) s

/-- A packet of a stream arrives from another package (R352, R355): one that is not the next of its stream, a duplicate, is discarded. -/
def inOrder (p cls num : Nat) (act : State → List Effect) (s : State) : List Effect :=
  let key := streamKey p cls
  if isMember s.pkg.fab p && tblGet 0 s.pkg.fab.recvNum key == num then
    chain
      [fun s => [setFab s { s.pkg.fab with recvNum := tblSet 0 s.pkg.fab.recvNum key (num + 1) }], heard p, act] s
  else []

/-- The next packet of a stream arrives from another package, under the end-to-end number that the stream expects (R352). -/
def arrivesNext (p cls : Nat) (act : State → List Effect) (s : State) : List Effect :=
  inOrder p cls (tblGet 0 s.pkg.fab.recvNum (streamKey p cls)) act s

/-- A packet of a stream arrives again, under a number that has been received (R355): it is discarded, and its sender has been heard. -/
def arrivesAgain (p cls num : Nat) (s : State) : List Effect :=
  if num < tblGet 0 s.pkg.fab.recvNum (streamKey p cls) then heard p s else []

/-- CLOSE_MARKER (R357): the next packet of the member's control stream is its marker. -/
def execCloseMarker (p n : Nat) (s : State) : Out :=
  event (whenever true (arrivesNext p 2 (fun s =>
    let f := s.pkg.fab
    [setFab s { f with markers := if f.markers.contains (p, n) then f.markers else f.markers ++ [(p, n)] }]))) s

/-- Entry into a window: copies of other packages' lines are dropped but for SEALED frames (R350, R362). -/
def enterWindow (n : Nat) (f : Fabric) : Fabric :=
  { f with
    window := n, copies := f.copies.filter (fun c => c.state == 2 && c.res == 0),
    markers := f.markers.filter (fun m => decide (n ≤ m.2 + 1)) }

/-- WINDOW_ENTRY (R357): window N + 2 once its time has come and every live member has closed N, this package too (R358). The first
entry takes the window of the clock (DEDUCED, log entry 40). -/
def execWindowEntry (s : State) : Out :=
  let f := s.pkg.fab
  event (match f.closed with
    | none => whenever f.en (fun s =>
        let n := clockWindow f
        [setFab s { enterWindow n f with closed := some (n - 1) }])
    | some n =>
      whenever (f.en && decide ((f.window + 1) * windowLen f ≤ f.time ∧ f.window ≤ n + 1)
          && (members f).all (fun p => f.markers.contains (p, f.window - 1)))
        (fun s => [setFab s (enterWindow (f.window + 1) f)])) s

/-! ## Failed members (R359) -/

/-- The answer of its home reaches a command of an engine or the message unit that has sent it a word. -/
def answerCmd (id : Nat) (a : Ack) (s : State) : List Effect :=
  s.clusters.filterMap (fun c =>
    if c.2.cmds.any (fun k => k.sent.any (fun g => g.id == id)) then
      some (.cluster c.1 { c.2 with cmds := c.2.cmds.map (fun k =>
        if k.sent.any (fun g => g.id == id) then { k with sent := k.sent.map (fun g => { g with ans := some a }) } else k) })
    else none)

/-- The answer to a replayed access, which no instruction waits for: its registers, or it is held again (R95, R248), a fault of the
MMU on a principal or chiplet core, or a trap at the strand's next boundary. -/
def ackReplayed (r : Remote) (h : Held) (a : Ack) (s : State) : List Effect :=
  let x := s.strand r.six
  if x.st = .free then []
  else match ackAnswer h r.pa a s with
    | .ok _ =>
      ackDone h r.pa a.v.toNat ((ackRegs h.op a.v.toNat).filter (fun d => x.await.contains (RegId.s d.1, r.id))) s
    | .error .page => if isCompute (coreOf r.six) then holdRequest h s else failHeld h 5 5 h.va s
    | .error (.machine u pa) => checkError r.six r.id u (BitVec.ofNat 64 pa) s
    | .error (.trap c u) => failHeld h c u h.va s
    | .error _ => []

/-- What an answer is to its requester (R350, R351): nothing where it was a fetch of a copy, or a store of a segment that its home has
performed; one that it has refused is a segment access that faults (R155). -/
def remoteAnswered (r : Remote) (a : Ack) (s : State) : List Effect :=
  match r.req with
  | some h =>
    if h.kind ≠ 0 then answerCmd r.id a s
    else if h.now then answerGot r.six r.id a s
    else ackReplayed r h a s
  | none =>
    if r.keep then []
    else if r.six < 2 ^ 20 ∧ r.op.writes then 
      (if a.res = 0 then [] else if a.res = 18 then checkError r.six r.id 2 (BitVec.ofNat 64 r.pa) s else checkError r.six r.id 4 0 s)
    else answerGot r.six r.id a s

/-- An access beyond the package that will not be answered meets a MACHINE LINK (R340, R359): an instruction or a command that waits
for the answer meets it there. -/
def unanswered (r : Remote) (s : State) : List Effect :=
  let lost : Ack := { v := 0, res := 18, state := 0 }
  match r.req with
  | none => remoteAnswered r lost s
  | some h =>
    if h.kind ≠ 0 then answerCmd r.id lost s
    else if h.now then answerGot r.six r.id lost s
    else checkError r.six r.id 2 (BitVec.ofNat 64 r.pa) s

/-- MEMBER_FAILURE (R359): no flit for four windows. -/
def execMemberFailure (p : Nat) (s : State) : Out :=
  let f := s.pkg.fab
  event (whenever (isMember f p && f.live.getLsbD p && decide (tblGet 0 f.heardAt p + 5 ≤ clockWindow f)) (chain
    ([fun s => [setFab s { f with
        live := f.live &&& ~~~(1#128 <<< p), failed := f.failed ||| (1#128 <<< p), remotes := f.remotes.filter (fun r => r.pkg != p),
        waiting := f.waiting.filter (fun w => w.1 != p), markers := f.markers.filter (fun m => m.1 != p) }],
      fun s => [signal s Config.principalEnd 4 0]]
      ++ (f.remotes.filter (fun r => r.pkg == p)).map unanswered))) s

/-- A failed member joins again after its reset (R359): its streams begin anew. -/
def memberRejoin (p : Nat) (s : State) : List Effect :=
  let f := s.pkg.fab
  let anew := fun (t : Tbl Nat) => [0, 1, 2].foldl (fun t c => tblSet 0 t (streamKey p c) 0) t
  if f.failed.getLsbD p then
    [setFab s { f with failed := f.failed &&& ~~~(1#128 <<< p), sendNum := anew f.sendNum, recvNum := anew f.recvNum }]
  else []

/-! ## Accesses that arrive from another package (R350, R351) -/

/-- What an access finds at its home: 0 with a value, 1 for a fault its requester holds, or a trap cause; with its effects. -/
structure Answer where
  v : Nat
  res : Nat
  fx : List Effect

/-- The write of `n` bytes at their directory home on behalf of another package (R350). -/
def podWrite (agent : Option Nat) (pa n v : Nat) (s : State) : List Effect := homeStore agent none (dirHome pa) pa n v s

/-- An append at offset `t` of a page (R104). -/
def podAppend (i : Nat) (f : FrameEnt) (pa t n v : Nat) (s : State) : List Effect :=
  let page := pa / 65536 * 65536
  chain
    [fun s => if f.tail < t then podWrite none (page + f.tail) (t - f.tail) 0 s else [],
     podWrite none (page + t) n v, fun _ => [.frame i { f with tail := t + n }]] s

/-- An operation on a frame that has passed the owner check; a word of an engine is never at the tail (R200, R260). -/
def podPerform (r : PodReq) (i : Nat) (f : FrameEnt) (s : State) : Answer :=
  let n := r.size
  let pa := r.addr
  let cls : MClass := match f.st with | .append => .append | .sealed => .sealed | _ => .normal
  let refuse : Answer := { v := 0, res := if f.st = .sealed then 9 else 8, fx := [] }
  let bad := (memCheck s true pa n).isSome
  let poison : Answer := { v := 0, res := 17, fx := [] }
  let clsErr : Answer := { v := 0, res := 6, fx := [] }
  match r.op with
  | .load => if bad then poison else { v := bytesSeen s cls pa n, res := 0, fx := [] }
  | .store v =>
    match f.st with
    | .ordinary => { v := 0, res := 0, fx := podWrite none pa n (v.toNat % 2 ^ (8 * n)) s }
    | .append =>
      if pa % 65536 = f.tail then { v := 0, res := 0, fx := podAppend i f pa f.tail n v.toNat s } else refuse
    | _ => refuse
  | .engineWord v =>
    if f.st = .ordinary then { v := 0, res := 0, fx := podWrite none pa n (v.toNat % 2 ^ (8 * n)) s } else refuse
  | .atomic op cmp v cmp2 v2 =>
    if f.st ≠ .ordinary then refuse
    else if bad then poison
    else
      let old := memRead s.mem pa n
      let a : AtomicArgs := { op := op.toNat, size := n, b := v, cmp := cmp, b2 := v2, cmp2 := cmp2 }
      { v := old, res := 0, fx := podWrite none pa n (atomicNew a old) s }
  | .append v =>
    match f.st with
    | .append =>
      let t := (f.tail + n - 1) / n * n
      if 65536 < t + n then { v := 2 ^ 64 - 1, res := 0, fx := [] }
      else { v := t, res := 0, fx := podAppend i f pa t n v.toNat s }
    | .sealed => refuse
    | _ => clsErr
  | .seal =>
    match f.st with
    | .append => { v := f.tail, res := 0, fx := [.frame i { f with st := .sealed }] }
    | .sealed => { v := f.tail, res := 0, fx := [] }
    | _ => clsErr
  | .tailq =>
    match f.st with
    | .append => { v := f.tail, res := 0, fx := [] }
    | .sealed => { v := 2 ^ 63 + f.tail, res := 0, fx := [] }
    | _ => clsErr
  | .lr six =>
    if f.st ≠ .ordinary then refuse
    else if bad then poison
    else
      let fab := s.pkg.fab
      let key := podAgent r.src six
      { v := memRead s.mem pa n, res := 0,
        fx := [setFab s { fab with podRes := fab.podRes.filter (fun y => y.1 != key) ++ [(key, pa / 64, s.cycle)] }] }
  | .sc six v =>
    if f.st ≠ .ordinary then refuse
    else
      let key := podAgent r.src six
      let ok := s.pkg.fab.podRes.any (fun y => decide (y.1 = key ∧ y.2.1 = pa / 64 ∧ s.cycle < y.2.2 + 4096))
      { v := if ok then 0 else 1, res := 0,
        fx := chain
          [fun s => if ok then podWrite (some key) pa n (v.toNat % 2 ^ (8 * n)) s else [],
           dropPodRes (fun y => decide (y.1 = key))] s }

/-- The answer to an access, with the STATE of its frame: HBM only (R349), and the checks of R259 on the requester's behalf, the owner
and the leaf's class against STATE (R351). -/
def podAnswer (r : PodReq) (s : State) : Answer × Nat :=
  let refused : Answer := { v := 0, res := 1, fx := [] }
  match (if r.addr < 12 * 2 ^ 36 then frameIndex s.cfg r.addr else none) with
  | none => (refused, 0)
  | some i =>
    let f := s.frame i
    let st := match f.st with | .ordinary => 0 | .append => 1 | .sealed => 2 | .scrub => 3
    if (f.owner ≠ r.owner ∧ !r.priv) ∨ (classOf r.cls.toNat f.st).isNone then (refused, st) else (podPerform r i f s, st)

/-- POD_ACCESS (R350, R351, R355): an end-to-end duplicate is discarded. -/
def execPodAccess (req : PodReq) (s : State) : Out :=
  event (whenever true (inOrder req.src 0 req.seq (fun s =>
    let (a, st) := podAnswer req s
    chain [fun _ => a.fx, podSend req.src 1 (fun n => .podReply req.src n req.seq a.v a.res st)] s))) s

/-- The kept copies and the fetches in flight of a frame of another package are gone. -/
def dropFrame (base : Nat) (f : Fabric) : Fabric :=
  let hit := fun (pa : Nat) => decide (base ≤ pa ∧ pa < base + 65536)
  { f with
    copies := f.copies.filter (fun c => !hit c.pa),
    remotes := f.remotes.map (fun r => if hit r.pa then { r with stale := true } else r) }

/-- REMOTE_INVALIDATION (R362): kept copies of the frame's lines are dropped, those of a SEALED frame too, before this package closes
its window; the home package is told. It is the next packet of the member's control stream. -/
def execRemoteInvalidation (p fr : Nat) (s : State) : Out :=
  event (whenever true (arrivesNext p 2 (chain
    [fun s => [setFab s (dropFrame (Config.podBase + p * 2 ^ 44 + frameBase fr) s.pkg.fab)],
     fun s => invalidateSlots (fun t => (frameKey s (Config.podBase + p * 2 ^ 44 + frameBase fr)).any (fun i => t.frames.contains i)) s,
     podSend p 2 (fun n => .podInvalidated p fr n)]))) s

/-- A kept copy is evicted (R261, R362). -/
def copyEvicted (pa : Nat) (s : State) : List Effect :=
  [setFab s { s.pkg.fab with copies := s.pkg.fab.copies.filter (fun c => c.pa ≠ pa) }]

/-! ## What comes back (R350, R351) -/

/-- What an answer leaves as a copy: the bytes of a load, unless a write or an invalidation has overtaken it, for the window in which
it was sent or, of a SEALED frame, for good (R350, R362). -/
def keptOf (r : Remote) (a : Ack) (keep : Bool) (f : Fabric) : List Copy :=
  match r.op with
  | .load _ n _ =>
    if !r.stale && (a.state == 2 || r.win == some f.window) && (r.keep || (keep && a.res == 0)) then
      [{ pa := r.pa, n := n, owner := r.owner, priv := r.priv, cls := r.cls, val := a.v, res := a.res, state := a.state }]
    else []
  | _ => []

/-- The copies when an answer with bytes has come: older ones that overlap it go, so that no later load sees an older value than an
earlier one (R269, R350). -/
def Fabric.copiesAfter (f : Fabric) (r : Remote) (new : List Copy) : List Copy :=
  new ++ f.copies.filter (fun c => decide (c.pa + c.n ≤ r.pa ∨ r.pa + r.op.bytes ≤ c.pa))

/-- An answer of another package (R350, R351): the copy it leaves, which the forwarding slice may keep of a scalar load too, and what
it is to its requester. -/
def podAcknowledged (num id v res state : Nat) : M Unit := do
  let s ← getS
  match s.pkg.fab.remotes.find? (fun r => r.id == id) with
  | none => pure ()
  | some r => do
    let keep ← choose 2
    let s ← getS
    let a : Ack := { v := BitVec.ofNat 64 v, res := res, state := state }
    puts (inOrder r.pkg (if r.op = .invalidation then 2 else 1) num (chain
      [fun s =>
        let f := s.pkg.fab
        [setFab s { f with
          remotes := f.remotes.filter (fun y => y.id != id),
          copies := f.copiesAfter r (keptOf r a (keep == 1) f) }],
       fun s => if r.op.writes && res == 0 then invalidateSlots (fun t => (frameKey s r.pa).any (fun i => t.frames.contains i)) s else [],
       remoteAnswered r a]) s)

/-- An arrival at a pod channel by a strand of another package (R361): one at a phase still to open waits for it, and one at a phase that
other arrivals have completed here joins the open one, so that every arrival counts once (DEDUCED, log entry 79). -/
def podArrived (src num chan : Nat) (phased : Bool) (phase count : Nat) (rop : Option Nat) (key : List Nat) (v : Word) (win : Nat) :
    State → List Effect := inOrder src 2 num (fun s =>
  let b := s.bell chan
  let f := s.pkg.fab
  if !isPodChan chan then []
  else if phased then
    (if phasedBad b phase count then [] else [.bell chan (phasedArrive f true (frontFor phase b) phase count win)])
  else if 0 < diff32 phase b.phase then [.bell chan { b with early := b.early ++ [⟨phase, count, rop, key, v, win⟩] }]
  else if countedBad b count rop then []
  else [.bell chan (countedJoin f true b count rop key v win)])

end Sys2Proof.Machine
end

