-- ==== Sys2Proof/Machine/Tasks.lean ====
section
/-! DEFINITION. The task and actor instructions of major 0x19 (R291 to R297, R303, R305). DESIGN CHOICE (log entry
28): a strand of no task group has no tenant whose quota could hold a task or a counter, so TSPAWN and DCSET answer QUOTA. -/

namespace Sys2Proof.Machine

/-! ## Statuses (R293) -/

def stQuota : Word := 0x8000000000000001
def stBadDesc : Word := 0x8000000000000002
def stCounter : Word := 0x8000000000000003
def stLate : Word := 0x8000000000000004
def stFull : Word := 0x8000000000000005
def stBusy : Word := 0x8000000000000006

/-- The issue data of major 0x19. -/
def info19 (fn bits w : Nat) (uses : List RegId) : Info := infoC (opA 0x19 fn + bits) w uses

/-! ## Counters (R295) -/

/-- The index of a live counter handle of a group. -/
def counterOf (s : State) (gid : Option Nat) (h : Word) : Option Nat :=
  let i := h.toNat % 65536
  let c := s.counter i
  if h.toNat < 2 ^ 32 ∧ c.gid.isSome ∧ c.gid = gid ∧ c.gen = h.toNat / 65536 then some i else none

/-- The lowest counter that is free: one is among as many as are listed, and one more. -/
def freeCounter (s : State) : Option Nat :=
  (List.range (s.counters.length + 1)).find? (fun i => decide (i < 65536) && (s.counter i).gid.isNone)

/-- Tasks attached to a counter become ready (R295); a task enqueued at its parent's commit no longer waits for it. -/
def releaseTasks (i : Nat) (s : State) : List Effect :=
  s.taskList.filterMap (fun p =>
    match p.2.st with
    | .attached j => if j = i then some (.task p.1 (some { p.2 with st := .queued })) else none
    | _ => none)

/-- A counter freed, its generation advanced (R295). -/
def freedCounter (c : Counter) : Counter := { gen := nextGen c.gen, count := 0, gid := none }

/-- DCSET (R295); QUOTA in a strand of no task group (DESIGN CHOICE, log entry 28). -/
def execDcset (o : A2) (s : State) : Out :=
  issue (info19 6 o.bits o.w.toNat (usesDA o.d o.a)) (do
    let a ← getSr o.a
    beOldest
    if 2 ^ 32 ≤ a.toNat ∨ a = 0 then giveS o.d stBadDesc
    else do
      let s ← getS
      match s.tenantOf s.me, s.me.gid with
      | some t, some g =>
        let k ← choose 65536
        let pick := if (s.counter k).gid.isNone then some k else freeCounter s
        match pick with
        | some i =>
          if (s.tenant t).dq.toNat ≤ countersHeld s t then giveS o.d stQuota
          else do
            let c := s.counter i
            put (.counter i { c with count := a.toNat, gid := some g })
            giveS o.d (BitVec.ofNat 64 (c.gen * 65536 + i))
        | none => giveS o.d stQuota
      | _, _ => giveS o.d stQuota
    pure .next) s

/-- DCDEC (R295): a release. -/
def execDcdec (o : A2) (s : State) : Out :=
  issue (info19 7 o.bits o.w.toNat (usesDA o.d o.a)) (do
    let a ← getSr o.a
    beOldest
    release
    let s ← getS
    match counterOf s s.me.gid a with
    | none => giveS o.d stCounter
    | some i => do
      let c := s.counter i
      let n := c.count - 1
      if n = 0 then do
        puts (releaseTasks i s)
        put (.counter i (freedCounter c))
      else put (.counter i { c with count := n })
      giveS o.d (BitVec.ofNat 64 n)
    pure .next) s

/-! ## Tasks (R294, R296, R297) -/

/-- The next task ID of a die (R294): [47:46] the die, [45:0] its count, never 0. -/
def nextTaskId (die count : Nat) : Nat × Nat :=
  let n := if count + 1 < 2 ^ 46 then count + 1 else 1
  (die * 2 ^ 46 + n, n)

/-- Whether a task descriptor breaks its layout, or names an unbound core (R294). -/
def badTask (s : State) (six : Nat) (w : Nat → Word) : Bool :=
  let ctl := w 2
  let pin := ctl.getLsbD 13
  let timed := ctl.getLsbD 2
  decide (2 ^ 14 ≤ ctl.toNat) || w 7 != 0 || (w 0).getLsbD 0 || (pin && timed)
    || (!pin && decide (ctl.toNat / 8 % 1024 ≠ 0)) || (pin && (boundCore s six (ctl.toNat / 8 % 1024)).isNone)

/-- Whether (TS, ID) lies below a last committed pair (R294). -/
def isLate (ts : Word) (id : Nat) (last : Option (Nat × Nat)) : Bool :=
  match last with
  | none => false
  | some (t, i) => decide (ts.toNat < t ∨ (ts.toNat = t ∧ id < i))

/-- TSPAWN after its descriptor is read (R294): status or ID, and the task enqueued; QUOTA in a strand of no task group (DESIGN CHOICE, log
entry 28). -/
def spawnBody (d : BitVec 5) (b : Word) (ws : List Word) : M Unit := do
  let die ← choose 4
  let s ← getS
  let w := fun (i : Nat) => ws.getD i 0
  let ctl := w 2
  let timed := ctl.getLsbD 2
  let (id, n) := nextTaskId die (s.die die).taskCount
  let parent := (taskOf s s.me).filter (fun p => p.2.timed)
  if badTask s s.six w then giveS d stBadDesc
  else if b ≠ 0 ∧ (counterOf s s.me.gid b).isNone then giveS d stCounter
  else if timed && (isLate (w 1) id (s.myGroup.bind Group.lastTs)
      || parent.any (fun p => decide ((w 1).toNat < p.2.ts.toNat))) then giveS d stLate
  else
    match s.myGroup, s.me.gid with
    | some g, some gid =>
      if (s.tenant g.tenant).tq.toNat ≤ slotsHeld s g.tenant ∨ 65536 ≤ slotsInUse s then giveS d stQuota
      else do
        let st : TaskState :=
          match parent with
          | some p => if timed then (match counterOf s (some gid) b with | some i => .attached i | none => .queued)
                      else .deferred p.1 (if b = 0 then none else some b)
          | none => match counterOf s (some gid) b with | some i => .attached i | none => .queued
        put (.die die { s.die die with taskCount := n })
        put (.task id (some
          { ts := w 1, timed := timed, pri := ctl.extractLsb' 0 2,
            pin := if ctl.getLsbD 13 then boundCore s s.six (ctl.toNat / 8 % 1024) else none,
            entry := w 0, args := [w 3, w 4, w 5, w 6], dom := s.me.dom, domGen := (s.dom s.me.dom).gen, gid := gid,
            st := st, parent := parent.map Prod.fst, reads := [], writes := [], homes := [] }))
        giveS d (BitVec.ofNat 64 id)
    | _, _ => giveS d stQuota

/-- TSPAWN (R294): a release. -/
def execTspawn (o : A3) (s : State) : Out :=
  issue (info19 0 o.bits o.w.toNat (usesDAB o.d o.a o.b)) (do
    let a ← getSr o.a
    let b ← getSr o.b
    trapIf (decide (a.toNat % 64 ≠ 0)) 4 0 a
    let ws ← loadWords a 8
    release
    spawnBody o.d b ws
    pure .next) s

/-- What TSTAMP reads (R296). DESIGN CHOICE (log entry 28): a strand of no task group reads all ones for group and tenant. -/
def stampWord (s : State) (sel : Word) : Word :=
  let t := taskOf s s.me
  match sel.toNat with
  | 0 => match t with | some (_, y) => if y.timed then y.ts else BitVec.allOnes 64 | none => BitVec.allOnes 64
  | 1 => match t with | some (id, _) => BitVec.ofNat 64 id | none => 0
  | 2 => match s.me.gid with | some g => BitVec.ofNat 64 g | none => BitVec.allOnes 64
  | 3 => match s.tenantOf s.me with | some y => BitVec.ofNat 64 y | none => BitVec.allOnes 64
  | _ => BitVec.allOnes 64

/-- TSTAMP (R296). -/
def execTstamp (o : A2) (s : State) : Out :=
  issue (info19 1 o.bits o.w.toNat (usesDA o.d o.a)) (do
    let a ← getSr o.a
    let s ← getS
    giveS o.d (stampWord s a)
    pure .next) s

/-- TABORT (R297): outside a speculative firing it has no effect. -/
def execTabort (o : AA) (s : State) : Out :=
  issue (info19 2 o.bits o.w.toNat [.s o.a.toNat]) (do
    let a ← getSr o.a
    let s ← getS
    match (if s.me.spec then s.me.taskId else none) with
    | none => pure .next
    | some id => do
      puts (abortTask (decide (a = 0)) id s)
      pure .placed) s

/-! ## Actors (R303) -/

/-- A FIFO word of an actor descriptor: none where it is not valid. DESIGN CHOICE (log entry 85): one with EN = 0 is valid only where it
is zero. -/
def fifoOf (w : Word) : Option Fifo :=
  let rate := w.toNat / 2 ^ 48 % 256
  let cap := w.toNat / 2 ^ 32 % 65536
  let base := w.toNat % 2 ^ 19
  if !w.getLsbD 63 then
    if w = 0 then some { en := false, rate := 0, cap := 0, base := 0, head := 0, count := 0 } else none
  else if w.toNat / 2 ^ 56 % 128 ≠ 0 ∨ w.toNat / 2 ^ 19 % 2 ^ 13 ≠ 0 ∨ rate = 0 ∨ cap = 0 ∨ 8192 < cap ∨ cap < rate
      ∨ base % 64 ≠ 0 ∨ 2 ^ 19 < base + 64 * cap then none
  else some { en := true, rate := rate, cap := cap, base := base, head := 0, count := 0 }

/-- Whether the destination word of an enabled output is not valid (R167, R303); that of a disabled one is not looked at (DESIGN CHOICE, log
entry 85). -/
def badOutput (f : Option Fifo) (dest : Word) : Bool :=
  f.any Fifo.en && (badDest dest || !dwFifo dest || dwReply dest || decide (dwLen dest ≠ 0))

/-- The actor of a descriptor, none where it is BADDESC (R303). -/
def actorOf (s : State) (gid : Nat) (ws : List Word) : Option Actor :=
  let w := fun (i : Nat) => ws.getD i 0
  let fs := (List.range 8).map (fun i => fifoOf (w (2 + i)))
  let outs := fs.drop 4
  let dests := (List.range 4).map (fun i => w (10 + i))
  if (w 0).getLsbD 0 || decide (4 ≤ (w 1).toNat) || w 14 != 0 || w 15 != 0 || fs.any Option.isNone
      || !fs.any (fun f => f.any Fifo.en) || (outs.zip dests).any (fun p => badOutput p.1 p.2) then none
  else some
    { gid := gid, dom := s.me.dom, domGen := (s.dom s.me.dom).gen, entry := w 0, pri := (w 1).extractLsb' 0 2,
      ins := (fs.take 4).filterMap id, outs := outs.filterMap id, dests := dests, busy := false, fired := 0 }

/-- An actor of the issuing core that the issuing strand's group may use. -/
def myActor (s : State) (n : Nat) : Option Actor :=
  (tblGet none (s.core s.coreNo).actors n).filter (fun a => decide (some a.gid = s.me.gid))

/-- ADECL (R303). -/
def execAdecl (o : A3) (s : State) : Out :=
  issue (info19 8 o.bits o.w.toNat (usesDAB o.d o.a o.b)) (do
    let a ← getSr o.a
    let b ← getSr o.b
    if o.a ≠ 0 then trapIf (decide (a.toNat % 64 ≠ 0)) 4 0 a
    let ws ← (if o.a = 0 then pure [] else loadWords a 16)
    let s ← getS
    let n := b.toNat % 32
    let c := s.core s.coreNo
    match s.me.gid with
    | none => giveS o.d stBadDesc
    | some g =>
      let new := actorOf s g ws
      if o.a ≠ 0 ∧ new.isNone then giveS o.d stBadDesc
      else if (tblGet none c.actors n).any Actor.busy then giveS o.d stBusy
      else do
        put (.core s.coreNo { c with actors := tblSet none c.actors n (if o.a = 0 then none else new) })
        giveS o.d 0
    pure .next) s

/-! ## FIFOs (R303, R305) -/

/-- The scratchpad address of entry `e` of a FIFO of a core. -/
def fifoAddr (core : Nat) (f : Fifo) (e : Nat) : Nat := core * 2 ^ 19 + f.base + 64 * (e % (max f.cap 1))

/-- The effects of writing an entry (R303): header, payload doublewords, zeros to 64 bytes. -/
def entryWrite (core : Nat) (f : Fifo) (hdr : Word) (payload : List Word) (s : State) : List Effect :=
  let a := fifoAddr core f (f.head + f.count)
  let v := ((hdr :: payload).map BitVec.toNat).foldr (fun w acc => w + 2 ^ 64 * acc) 0
  Effect.pmem a 64 v :: unpoison s poisonP a 64

/-- A FIFO with one more entry, and with one fewer. -/
def Fifo.pushed (f : Fifo) : Fifo := { f with count := f.count + 1 }
def Fifo.popped (f : Fifo) : Fifo := { f with head := (f.head + 1) % (max f.cap 1), count := f.count - 1 }

/-- An actor with one FIFO changed. -/
def Actor.setIn (a : Actor) (i : Nat) (f : Fifo) : Actor := { a with ins := a.ins.set i f }
def Actor.setOut (a : Actor) (i : Nat) (f : Fifo) : Actor := { a with outs := a.outs.set i f }

/-- Put an actor back into its core's table. -/
def setActor (s : State) (core n : Nat) (a : Actor) : Effect :=
  let c := s.core core
  .core core { c with actors := tblSet none c.actors n (some a) }

/-- The enabled FIFO a selector word names (R305), none for BADDESC. -/
def selected (s : State) (sel : Word) (out : Bool) : Option (Nat × Nat × Actor × Fifo) :=
  let n := sel.toNat / 4 % 32
  let i := sel.toNat % 4
  if 1024 ≤ sel.toNat then none
  else (myActor s n).bind (fun a =>
    (((if out then a.outs else a.ins)[i]?).filter Fifo.en).map (fun f => (n, i, a, f)))

/-- The header and payload of the oldest entry of a FIFO: zero beyond LEN (R305). -/
def entryRead (s : State) (core : Nat) (f : Fifo) : List Word :=
  let a := fifoAddr core f f.head
  let hdr : Word := BitVec.ofNat 64 (memRead s.pmem a 8)
  hdr :: (List.range 4).map (fun i =>
    if i ≤ dwLen hdr then BitVec.ofNat 64 (memRead s.pmem (a + 8 + 8 * i) 8) else 0)

/-- Whether reading the oldest entry of a FIFO meets a poisoned word (R166). -/
def entryPoisoned (s : State) (core : Nat) (f : Fifo) : Bool :=
  let a := fifoAddr core f f.head
  poisoned s poisonP a (8 + 8 * (dwLen (BitVec.ofNat 64 (memRead s.pmem a 8)) + 1))

/-- FPUSH (R305): a release. -/
def execFpush (o : A3) (s : State) : Out :=
  let sel := (s.me.landSt s.stream).readS o.a.toNat
  let len := sel.toNat / 256 % 4
  issue (info19 3 o.bits o.w.toNat
      (.s o.d.toNat :: .s o.a.toNat :: sRun o.b.toNat (min (len + 1) (32 - o.b.toNat)))) (do
    let a ← getSr o.a
    let s ← getS
    trapIf ((selected s a true).isSome && decide (31 < o.b.toNat + a.toNat / 256 % 4)) 16 3 a
    beOldest
    release
    let s ← getS
    match selected s a true with
    | none => giveS o.d stBadDesc
    | some (n, i, y, f) =>
      if f.cap ≤ f.count then giveS o.d stFull
      else do
        let len := a.toNat / 256 % 4
        puts (entryWrite s.coreNo f (withLen (y.dests.getD i 0) len) (readRun s.me o.b.toNat (len + 1)) s)
        put (setActor s s.coreNo n (y.setOut i f.pushed))
        giveS o.d 0
    pure .next) s

/-- FPOP (R305): an acquire of the token. -/
def execFpop (o : A2) (s : State) : Out :=
  issue (info19 4 o.bits o.w.toNat (.s o.a.toNat :: sRun o.d.toNat 5)) (do
    let a ← getSr o.a
    beOldest
    let s ← getS
    let give := fun (ws : List Word) => modMe (fun x =>
      (List.range 5).foldl (fun x i => x.write (.s (o.d.toNat + i)) (.word (ws.getD i 0))) x)
    match selected s a false with
    | none => give [stBadDesc]
    | some (n, i, y, f) =>
      if f.count = 0 then stall .inbox
      else do
        trapIf (entryPoisoned s s.coreNo f) 17 1 0
        put (setActor s s.coreNo n (y.setIn i f.popped))
        acquireHere
        give (entryRead s s.coreNo f)
    pure .next) s

/-- FCNT (R305). -/
def execFcnt (o : A2) (s : State) : Out :=
  issue (info19 5 o.bits o.w.toNat (usesDA o.d o.a)) (do
    let a ← getSr o.a
    beOldest
    let s ← getS
    match selected s a (a.getLsbD 7) with
    | none => giveS o.d stBadDesc
    | some (_, _, _, f) => giveS o.d (BitVec.ofNat 64 f.count)
    pure .next) s

end Sys2Proof.Machine
end

