-- ==== Sys2Proof/Machine/Firings.lean ====
section
/-! DEFINITION. Firings and messages as the device moves them: dispatch of tasks, actors, handlers and overflow routines (R298,
R302, R304, R177, R180), hardware atomics (R179), message delivery (R170, R381), commit (R301). -/

namespace Sys2Proof.Machine

/-! ## Starting a firing (R25, R31, R287, R298) -/

/-- The stack top of a logical strand of a group (R287). -/
def Group.stackTop (g : Group) (k : Nat) : Word :=
  g.stk + BitVec.ofNat 64 (2 ^ (12 + g.desc0.toNat / 2 ^ 28 % 16) * (k + 1))

/-- The domain-stack segment of a logical strand (R287). -/
def Group.segment (g : Group) (k : Nat) : Word := g.seg + BitVec.ofNat 64 (Config.segBytes * k)

/-- The strand that a firing of a group starts as in a slot: base domain, entry, arguments, stack, allotment. -/
def firingOf (s : State) (gid : Nat) (g : Group) (six : Nat) (job : Job) (pc : Word) (args : List (Nat × Word)) : Strand :=
  let k := (logicalStrand g six).getD 0
  let x : Strand := { Strand.free with
    st := .active, job := job, gid := some gid, dom := g.asid, base := g.asid, seg := g.segment k,
    parks := (s.strand six).parks,
    sys := { Sys.zero with tvec := g.tvec, quant := (tblGet none g.quant six).getD g.quantum },
    c := { CStr.zero with pc := pc &&& ~~~1#64 } }
  ((30, g.stackTop k) :: args).foldl (fun y a => y.setReg (.s a.1) (.word a.2)) x

/-- Start a firing; its dispatch is an acquire of its core (R270). -/
def startFiring (six : Nat) (x : Strand) (s : State) : List Effect :=
  chain [acquire (coreOf six), fun _ => [.strand six x]] s

/-- Numbered arguments. -/
def argRegs (first : Nat) (ws : List Word) : List (Nat × Word) := ws.zipIdx.map (fun p => (first + p.2, p.1))

/-- Whether a group starts firings: it is launched, and neither being pre-empted nor killed (R187). -/
def groupRuns (g : Group) : Bool := !g.preempting && !g.saved && !g.failed

/-- A group that starts firings on a core. -/
def groupOn (s : State) (gid core : Nat) : Option Group := (s.group gid).filter (fun g => groupRuns g && g.cores.contains core)

/-! ## Tasks (R298, R302) -/

/-- Whether a task may start on a core. -/
def taskFits (s : State) (core : Nat) (p : Nat × Task) : Bool :=
  decide (p.2.st = .queued) && p.2.pin.all (fun c => c == core) && (groupOn s p.2.gid core).isSome

/-- Whether a task is taken before another (R298). -/
def taskBefore (a b : Nat × Task) : Bool :=
  decide (b.2.pri.toNat < a.2.pri.toNat) || (decide (a.2.pri = b.2.pri)
    && ((a.2.timed && !b.2.timed) || (a.2.timed && b.2.timed && olderThan a b)
      || (!a.2.timed && !b.2.timed && decide (a.1 < b.1))))

/-- The task a free slot of a core takes. -/
def chosenTask (s : State) (core : Nat) : Option (Nat × Task) :=
  (s.taskList.filter (taskFits s core)).foldl
    (fun best p => match best with
      | none => some p
      | some q => if taskBefore p q then some p else some q) none

/-- Whether a domain is still the one a task or actor was created in (R294). -/
def domainLive (s : State) (dom gen : Nat) : Bool := decide ((s.dom dom).st = .live ∧ (s.dom dom).gen = gen)

/-- Whether an actor can fire (R304). One whose domain is no longer LIVE does not (DEDUCED, log entry 42). -/
def actorReady (s : State) (core : Nat) (a : Actor) : Bool :=
  !a.busy && a.ins.all (fun f => !f.en || decide (f.rate ≤ f.count))
    && a.outs.all (fun f => !f.en || decide (f.count + f.rate ≤ f.cap))
    && domainLive s a.dom a.domGen && (groupOn s a.gid core).isSome

/-- The highest priority of a ready actor of a core. -/
def actorPri (s : State) (core : Nat) : Option Nat :=
  ((s.core core).actors.filterMap (fun p => p.2)).foldl
    (fun best a => if actorReady s core a then some (max (best.getD 0) a.pri.toNat) else best) none

/-- Start a task in a slot, or discard it where its domain is gone. -/
def startTask (six : Nat) (p : Nat × Task) (s : State) : List Effect :=
  let (id, t) := p
  if !domainLive s t.dom t.domGen then [.task id none]
  else match s.group t.gid with
    | none => []
    | some g =>
      let x := firingOf s t.gid g six (.task id) t.entry (argRegs 1 t.args)
      .task id (some { t with st := .firing six }) ::
        startFiring six { x with
          dom := t.dom, base := t.dom, spec := t.timed, sys := { x.sys with pri := t.pri, timed := t.timed } } s

/-- The oldest uncommitted task of a group. -/
def oldestTask (s : State) (gid : Nat) : Option (Nat × Task) :=
  (s.taskList.filter (uncommitted gid)).foldl
    (fun best p => match best with
      | none => some p
      | some q => if olderThan p q then some p else some q) none

/-- The youngest speculative firing of a group: its strand and task. -/
def youngestFiring (s : State) (gid : Nat) : Option (Nat × (Nat × Task)) :=
  (s.strands.filterMap (fun p =>
    if p.2.spec && decide (p.2.gid = some gid ∧ p.2.st ≠ .free) then (taskOf s p.2).map (fun t => (p.1, t)) else none)).foldl
    (fun best p => match best with
      | none => some p
      | some q => if olderThan q.2 p.2 then some p else some q) none

/-- Whether some general slot of a group's cores is free. -/
def slotFree (s : State) (g : Group) : Bool :=
  g.cores.any (fun c => (List.range 6).any (fun k => decide ((s.strand (8 * c + k)).st = .free)))

/-- The slot rule of R302: the oldest task that a slot's speculative firing makes room for. -/
def slotRule (s : State) (six : Nat) : Option (Nat × Nat × Task) :=
  (s.strand six).gid.bind (fun gid =>
    match groupOn s gid (coreOf six), oldestTask s gid, youngestFiring s gid with
    | some g, some (id, t), some (k, y) =>
      if k = six ∧ slotOf six < 6 ∧ t.st = .queued ∧ !slotFree s g ∧ olderThan (id, t) y then some (y.1, id, t) else none
    | _, _, _ => none)

/-- TASK_DISPATCH (R298, R302). -/
def execTaskDispatch (six : Nat) (s : State) : Out :=
  let core := coreOf six
  event (
    if (s.strand six).st = .free then
      match chosenTask s core with
      | none => pure ()
      | some p =>
        whenever (decide (slotOf six < 6) && isCompute core
            && (actorPri s core).all (fun n => decide (n ≤ p.2.pri.toNat)))
          (startTask six p)
    else
      match slotRule s six with
      | none => pure ()
      | some (young, id, t) =>
        whenever true (fun s => chain [abortTask true young, startTask six (id, t)] s)) s

/-- ACTOR_FIRE (R304): as an untimed task of its priority. -/
def execActorFire (six actor : Nat) (s : State) : Out :=
  let core := coreOf six
  let c := s.core core
  event (
    match tblGet none c.actors actor with
    | none => pure ()
    | some a =>
      whenever (decide ((s.strand six).st = .free ∧ slotOf six < 6) && isCompute core && actorReady s core a
          && (actorPri s core).all (fun n => decide (n ≤ a.pri.toNat))
          && (chosenTask s core).all (fun t => decide (t.2.pri.toNat < a.pri.toNat) || (decide (t.2.pri = a.pri) && !t.2.timed)))
        (fun s => match s.group a.gid with
          | none => []
          | some g =>
            let x := firingOf s a.gid g six (.actor actor) a.entry
              [(1, BitVec.ofNat 64 actor), (2, BitVec.ofNat 64 a.fired)]
            setActor s core actor { a with busy := true }
              :: startFiring six { x with dom := a.dom, base := a.dom, sys := { x.sys with pri := a.pri } } s)) s

/-! ## The handler and overflow slots (R177, R179, R180) -/

/-- HANDLER_DISPATCH (R177). DESIGN CHOICE (log entry 65): a handler belongs to no task, and R28 gives its STATUS.PRI no value: it is
dispatched with PRI 0, and so is the overflow routine. -/
def execHandlerDispatch (core : Nat) (s : State) : Out :=
  let c := s.core core
  let six := 8 * core + 6
  event (
    match (s.strand six).st, c.hq with
    | .free, .message m :: r =>
      match s.group m.gid with
      | none => whenever true (fun _ => [.core core { c with hq := r }])
      | some g =>
        let x := firingOf s m.gid g six .handler (m.entry.getD 0) (argRegs 1 m.payload ++ [(5, m.hdr)])
        whenever true (fun s => .core core { c with hq := r } :: startFiring six x s)
    | _, _ => pure ()) s

/-- Deliver results to the registers of a strand that still await their source. -/
def deliverAwaited (six id : Nat) (rs : List (Nat × Word)) (s : State) : List Effect :=
  let x := s.strand six
  deliver six id (rs.filter (fun r => x.await.contains (RegId.s r.1, id))) s

/-- A hardware atomic performed on its bank word (R179); a poisoned word raises MACHINE for the issuing strand's group
(R166). -/
def hwAtomic (core : Nat) (a : HwAtomic) (s : State) : List Effect :=
  let l := Loc.p core a.off
  if l.poisoned s a.args.size then checkError a.six a.id 1 0 s
  else
    let old := l.read s a.args.size
    let regs := if a.args.op = 13 then [a.dest, a.dest + 1] else [a.dest]
    chain
      [l.write a.args.size (atomicNew a.args old),
       fun s => if a.acq then acquire (coreOf a.six) s else [],
       deliverAwaited a.six a.id ((regs.zip (atomicOld a.args old)).filter (fun r => r.1 ≠ 0))] s

/-- The oldest atomic of a handler queue, and the queue without it. -/
def firstAtomic : List HandlerEntry → Option (HwAtomic × List HandlerEntry)
  | [] => none
  | .atomic a :: r => some (a, r)
  | .message m :: r => (firstAtomic r).map (fun p => (p.1, .message m :: p.2))

/-- The atomic that slot 6 performs next: the oldest entry, or behind a handler that occupies the slot the oldest atomic (R179). -/
def nextAtomic (core : Nat) (s : State) : Option (HwAtomic × List HandlerEntry) :=
  let q := (s.core core).hq
  match q with
  | .atomic _ :: _ => firstAtomic q
  | _ => if (s.strand (8 * core + 6)).st = .free then none else firstAtomic q

/-- What HW_ATOMIC_ENTRY does at a core; none where no atomic is to be performed. -/
def hwAtomicStep (core : Nat) (s : State) : Option (List Effect) :=
  (nextAtomic core s).map (fun p => chain [fun _ => [.core core { s.core core with hq := p.2 }], hwAtomic core p.1] s)

/-- HW_ATOMIC_ENTRY (R179). -/
def execHwAtomicEntry (core : Nat) (s : State) : Out :=
  event (whenever true (fun s => (hwAtomicStep core s).getD [])) s

/-- OVERFLOW_DISPATCH (R180): the routine of the group of the oldest message (DEDUCED, log entry 35). -/
def execOverflowDispatch (core : Nat) (s : State) : Out :=
  let c := s.core core
  let six := 8 * core + 7
  event (
    match c.inbox with
    | [] => pure ()
    | m :: _ =>
      match groupOn s m.gid core with
      | none => pure ()
      | some g =>
        whenever (decide (64 ≤ c.inbox.length ∧ (s.strand six).st = .free ∧ g.ovfe ≠ 0))
          (startFiring six (firingOf s m.gid g six .overflow g.ovfe [(1, g.ovfa), (2, 64)]))) s

/-! ## Delivery (R170, R304, R381) -/

/-- Where an arrival goes: the handler queue, an actor's input, the inbox. -/
inductive Dest where
  | handler
  | input (actor i : Nat)
  | inbox
  deriving DecidableEq, Repr

/-- The destination of a message at a core: an undeclared actor's or a disabled input's goes to the inbox (R304). -/
def destOf (c : Core) (m : Msg) : Dest :=
  if m.entry.isSome then .handler
  else if dwFifo m.hdr then
    match tblGet none c.actors (dwAct m.hdr) with
    | some a =>
      if a.gid = m.gid ∧ (a.ins[dwInp m.hdr]?).any Fifo.en then .input (dwAct m.hdr) (dwInp m.hdr) else .inbox
    | none => .inbox
  else .inbox

/-- The destination of an entry of the request port. -/
def entryDest (c : Core) : HandlerEntry → Dest
  | .message m => destOf c m
  | .atomic _ => .handler

/-- Whether a destination has room. -/
def destRoom (c : Core) : Dest → Bool
  | .handler => decide (c.hq.length < 16)
  | .inbox => decide (c.inbox.length < 64)
  | .input n i => match tblGet none c.actors n with
    | some a => (a.ins[i]?).any (fun f => decide (f.count < f.cap))
    | none => false

/-- Put an arrival at its destination. -/
def arrive (core : Nat) (e : HandlerEntry) (s : State) : List Effect :=
  let c := s.core core
  match e with
  | .atomic a => [.core core { c with hq := c.hq ++ [.atomic a] }]
  | .message m =>
    match destOf c m with
    | .handler => [.core core { c with hq := c.hq ++ [.message m] }]
    | .inbox => [.core core { c with inbox := c.inbox ++ [m] }]
    | .input n i =>
      match (tblGet none c.actors n).bind (fun a => (a.ins[i]?).map (fun f => (a, f))) with
      | some (a, f) => entryWrite core f m.hdr m.payload s ++ [setActor s core n (a.setIn i f.pushed)]
      | none => []

/-- Whether a group's messages are no longer accepted at a core (R187). -/
def closedAt (s : State) (core gid : Nat) : Bool :=
  (s.group gid).any (fun g => g.saved || (g.preempting && coreDrained s core gid))

/-- Keep a message for a group's spill area (R187). -/
def spillMsg (core : Nat) (m : Msg) (s : State) : List Effect :=
  match s.group m.gid with
  | none => []
  | some g => [.group m.gid (some { g with spillMsgs := g.spillMsgs ++ [(g.cores.findIdx (fun c => c == core), m)] })]

/-- A request-network arrival at a core: kept for the spill area, delivered, or put into the request port; none where the
network does not accept it yet, the port being full. -/
def requestArrive (core : Nat) (e : HandlerEntry) (s : State) : Option (List Effect) :=
  let c := s.core core
  let d := entryDest c e
  match (match e with | .message m => if closedAt s core m.gid then some m else none | .atomic _ => none) with
  | some m => some (spillMsg core m s)
  | none =>
    if portFull c then none
    else if destRoom c d && c.port.all (fun p => decide (entryDest c p ≠ d)) then some (arrive core e s)
    else some [.core core { c with port := c.port ++ [e] }]

/-- A list without the entry at an index. -/
def without (i : Nat) (xs : List α) : List α := xs.take i ++ xs.drop (i + 1)

/-- MESSAGE_ARRIVAL (R170, R381): the entry of a request send buffer that is the first to its target leaves. -/
def execMessageArrival (core idx : Nat) (s : State) : Out :=
  let c := s.core core
  event (
    match c.reqBuf[idx]? with
    | none => pure ()
    | some m =>
      whenever ((c.reqBuf.take idx).all (fun e => e.target != m.target)) (fun s =>
        match requestArrive m.target (.message m.msg) (applyAll [.core core { c with reqBuf := without idx c.reqBuf }] s) with
        | some es => .core core { c with reqBuf := without idx c.reqBuf } :: es
        | none => [])) s

/-- REQUEST_PORT_RELEASE (R381). -/
def execRequestPortRelease (core idx : Nat) (s : State) : Out :=
  let c := s.core core
  event (
    match c.port[idx]? with
    | none => pure ()
    | some e =>
      whenever ((c.port.take idx).all (fun p => decide (entryDest c p ≠ entryDest c e))) (fun s =>
        let out : Effect := .core core { c with port := without idx c.port }
        match (match e with | .message m => if closedAt s core m.gid then some m else none | .atomic _ => none) with
        | some m => chain [fun _ => [out], spillMsg core m] s
        | none => if destRoom c (entryDest c e) then chain [fun _ => [out], arrive core e] s else [])) s

/-- Whether a destination is an input of an actor. -/
def Dest.isInput : Dest → Bool
  | .input .. => true
  | _ => false

/-- A reply-network arrival at a core: at its destination, or while that has no room or others wait for it in the reply network (R170,
R180); for an input of an actor in the request port, behind what has come for it there (R304), in space of its own (R169). -/
def replyArrive (core : Nat) (m : Msg) (s : State) : List Effect :=
  let c := s.core core
  let d := destOf c m
  if closedAt s core m.gid then spillMsg core m s
  else if c.repNet.all (fun p => decide (destOf c p ≠ d)) && destRoom c d
      && (!d.isInput || c.port.all (fun p => decide (entryDest c p ≠ d))) then arrive core (.message m) s
  else if d.isInput then [.core core { c with port := c.port ++ [.message m] }]
  else [.core core { c with repNet := c.repNet ++ [m] }]

/-- REPLY_NETWORK_ARRIVAL (R170): an entry of the core's reply send buffer leaves; an index past the buffer names a message that
waits at this core, the oldest for its destination. -/
def execReplyNetworkArrival (core idx : Nat) (s : State) : Out :=
  let c := s.core core
  event (
    match c.repBuf[idx]? with
    | some m =>
      whenever ((c.repBuf.take idx).all (fun e => e.target != m.target)) (fun s =>
        chain [fun _ => [.core core { c with repBuf := without idx c.repBuf }], replyArrive m.target m.msg] s)
    | none =>
      let j := idx - c.repBuf.length
      match c.repNet[j]? with
      | none => pure ()
      | some m =>
        let out : Effect := .core core { c with repNet := without j c.repNet }
        if closedAt s core m.gid then whenever true (fun s => chain [fun _ => [out], spillMsg core m] s)
        else whenever ((c.repNet.take j).all (fun p => decide (destOf c p ≠ destOf c m)) && destRoom c (destOf c m))
          (fun s => chain [fun _ => [out], arrive core (.message m)] s)) s

/-- FIFO_OUTPUT_SEND (R305): the oldest entry of an output leaves as a request-network message; one whose target is not bound
is discarded (DEDUCED, log entry 42); a poisoned one raises MACHINE for the actor's group (R166). -/
def execFifoOutputSend (core actor out : Nat) (s : State) : Out :=
  let c := s.core core
  event (
    match (tblGet none c.actors actor).bind (fun a => ((a.outs[out]?).filter Fifo.en).map (fun f => (a, f))) with
    | none => pure ()
    | some (a, f) =>
      match s.group a.gid, entryRead s core f with
      | some g, hdr :: payload =>
        if 0 < f.count && entryPoisoned s core f then whenever true (containGroup a.gid core)
        else whenever (decide (0 < f.count ∧ c.reqBuf.length < 8)) (fun _ =>
          let sent : List OutMsg := match g.cores[dwCore hdr]? with
            | none => []
            | some t =>
              [{ target := t,
                 msg := { gid := a.gid, hdr := headerOf hdr (dwLen hdr) (g.cores.findIdx (fun k => k == core)),
                          payload := payload.take (dwLen hdr + 1), entry := none } }]
          [.core core { c with
            reqBuf := c.reqBuf ++ sent, actors := tblSet none c.actors actor (some (a.setOut out f.popped)) }])
      | _, _ => pure ()) s

/-! ## Commit (R301) -/

/-- A task spawned by one that commits: an untimed one is enqueued now; a timed one no longer depends on its parent. -/
def childCommitted (s : State) (t : Task) : Task :=
  match t.st with
  | .deferred _ b =>
    let st : TaskState := match b.bind (counterOf s (some t.gid)) with | some i => .attached i | none => .queued
    { t with st := st, parent := none }
  | _ => { t with parent := none }

/-- The commit of a task. A write that meets an error on a port link raises MACHINE for the group (R264), at the die of the slice that
holds it (DEDUCED, log entry 20). -/
def commitTask (id : Nat) (t : Task) (s : State) : List Effect :=
  match commitError t s with
  | some (_, agent) => containGroup t.gid (256 * (agent / 64)) s
  | none => chain
    [commitWrites id t none,
     fun s => s.taskList.filterMap (fun p =>
       if p.2.parent = some id then some (.task p.1 (some (childCommitted s p.2))) else none),
     fun s => match s.group t.gid with
       | some g => [.group t.gid (some { g with lastTs := some (t.ts.toNat, id) })]
       | none => [],
     fun _ => [.task id none]] s

/-- TASK_COMMIT (R301). -/
def execTaskCommit (gid : Nat) (s : State) : Out :=
  event (
    match oldestTask s gid with
    | some (id, t) => whenever (decide (t.st = .finished)) (commitTask id t)
    | none => pure ()) s

end Sys2Proof.Machine
end

