-- ==== Sys2Proof/Machine/Launch.lean ====
section
/-! DEFINITION. The command processors: packets (R283 to R286, R307), launch (R287, R288), completion and its signal (R289, R290),
and the spill area of a pre-empted group (R306). -/

namespace Sys2Proof.Machine

/-! ## Memory as a command processor sees it (R286, R287, R290) -/

/-- Why an access of a command processor does not perform: it is held at its slice, it waits, or it leaves for the host or another
package and waits for what comes back. -/
inductive CpStop where
  | hold (asid : Nat) (va : Word) (write : Bool) (es : List Effect)
  | wait
  | send (es : List Effect)

/-- A queue of a die. -/
def queueOf (s : State) (die q : Nat) : Queue := tblGet .reset (s.die die).queues q

/-- A queue changed. -/
def setQueue (die q : Nat) (y : Queue) (s : State) : List Effect :=
  let x := s.die die
  [.die die { x with queues := tblSet .reset x.queues q y }]

/-- Where a command processor's access leads; it waits where its walk meets a machine check (log entry 43). -/
def cpXl (s : State) (die asid : Nat) (pm : Bool) (va : Word) (need : Need) : Except CpStop Xl :=
  match translate s (die * 256) asid pm va need with
  | some x => .ok x
  | none => match pageFail s (die * 256) asid va with
    | .machine .. => .error .wait
    | _ => .error (.hold asid va need.writes [])

/-- A load of a PCIe window by a command processor, with the requester ID of PF0 (R340); one that failed is made again. -/
def cpWindow (s : State) (die q pa n : Nat) (fx : List Effect) : Except CpStop (Nat × List Effect) :=
  let y := queueOf s die q
  let again : CpStop := .send
    (setQueue die q { y with got := y.got.filter (fun g => g.pa ≠ pa) ++ [⟨s.nextId, pa, none⟩] } s
      ++ [.pkg { s.pkg with loads := s.pkg.loads ++ [⟨s.nextId, queueSix die q, pa - Config.windowBase, n, false, 0, 64, false⟩] },
          .output (.hostLoad 64 (pa - Config.windowBase) n s.nextId), .fresh])
  match y.got.find? (fun g => g.pa == pa) with
  | some ⟨_, _, some a⟩ => if a.res = 0 then .ok (a.v.toNat % 2 ^ (8 * n), fx) else .error again
  | some ⟨_, _, none⟩ => .error .wait
  | none => .error again

/-- `n` bytes read at their home. -/
def cpRead (s : State) (die q asid : Nat) (pm : Bool) (va : Word) (n : Nat) : Except CpStop (Nat × List Effect) :=
  match cpXl s die asid pm va .r with
  | .error e => .error e
  | .ok x =>
    if x.cls = .device then
      if inHostWindow x.pa then cpWindow s die q x.pa n x.fx
      else .ok (deviceBytes s pm x.pa n, x.fx)
    else if x.pod then
      match podLoad s asid pm x n with
      | .ok v => .ok (v, x.fx)
      | .error .page => .error (.hold asid va false [])
      | .error (.fetch a p xs) => .error (.send (fetchCopies (queueSix die q) a p xs s))
      | .error _ => .error .wait
    else if (memCheck s true x.pa n).isSome ∨ (x.cls = .sync ∧ syncWaits s (queueSix die q) x.pa n) then .error .wait
    else .ok (bytesSeen s x.cls x.pa n, x.fx ++ shareFor x.cls (dieAgent die (va.toNat % 2 ^ 48)) x.pa (applyAll x.fx s))

/-- `n` doublewords from an address. -/
def cpWords (s : State) (die q asid : Nat) (pm : Bool) (va : Word) : Nat → Except CpStop (List Word × List Effect)
  | 0 => .ok ([], [])
  | n + 1 => match cpRead s die q asid pm va 8 with
    | .error e => .error e
    | .ok (w, es) => match cpWords (applyAll es s) die q asid pm (va + 8) n with
      | .error e => .error e
      | .ok (ws, fs) => .ok (BitVec.ofNat 64 w :: ws, es ++ fs)

/-- A write to another package, which its command processor does not wait for. -/
def cpSend (s : State) (die q id asid : Nat) (pm : Bool) (x : Xl) (op : MemOp) : List Effect :=
  chain
    [forwardWrite op x.pa,
     sendRemote ⟨id, queueSix die q, x.pa / 2 ^ 44 % 128, x.pa % 2 ^ 44, op, 0, none, (s.dom asid).owner.toNat, pm, x.cls.leaf, false, none,
       false⟩] s

/-- A doubleword written at its home; it waits where the page takes no plain store. -/
def cpWrite (s : State) (die q asid : Nat) (pm : Bool) (va w : Word) : Except CpStop (List Effect) :=
  match cpXl s die asid pm va .w with
  | .error e => .error e
  | .ok x =>
    if x.cls = .device then
      if inHostWindow x.pa then .ok (x.fx ++ [.output (.hostStore 64 (x.pa - Config.windowBase) 8 w)])
      else .ok (x.fx ++ (if !pm && !isNotify x.pa then [] else deviceStore x.pa 8 w (applyAll x.fx s)))
    else if x.pod then
      if s.pkg.fab.live.getLsbD (x.pa / 2 ^ 44 % 128) then
        .ok (x.fx ++ .fresh :: cpSend (applyAll (x.fx ++ [.fresh]) s) die q s.nextId asid pm x (.store 8 w))
      else .error .wait
    else if x.cls = .append ∨ x.cls = .sealed ∨ (memCheck s false x.pa 8).isSome
        ∨ (x.cls = .sync ∧ syncWaits s (queueSix die q) x.pa 8) then .error .wait
    else .ok (x.fx ++ homeStore none none (dieAgent die (va.toNat % 2 ^ 48)) x.pa 8 w.toNat (applyAll x.fx s))

/-- Doublewords written in order. -/
def cpWriteAll (die q asid : Nat) (pm : Bool) : List (Word × Word) → State → Except CpStop (List Effect)
  | [], _ => .ok []
  | (va, w) :: r, s =>
    match cpWrite s die q asid pm va w with
    | .error e => .error e
    | .ok es => match cpWriteAll die q asid pm r (applyAll es s) with
      | .error e => .error e
      | .ok fs => .ok (es ++ fs)

/-! ## Requests that have still to perform (R95, R248, R286, R290) -/

/-- The fault-log record of a held request of a command processor (log entry 43). -/
def cpRecord (die id asid : Nat) (va : Word) (write : Bool) : FaultRec :=
  { id := id, va := va,
    info := BitVec.ofNat 64 (asid * 2 ^ 52 + (1 + Config.cpKind % 15) * 2 ^ 48 + bit write 32 + (8 * die + Config.cpCluster die % 8)) }

/-- A request is held at its slice: in its place among those of its queue, in the fault log when it is first held (R248); it
tries again where the spill area is full (R336). -/
def cpHold (die q use asid : Nat) (va : Word) (write : Bool) (s : State) : List Effect :=
  let y := queueOf s die q
  if spillFull s die then []
  else match y.reqs.find? (fun r => r.use == use && r.asid == asid && r.va == va) with
  | some r =>
    chain
      [setQueue die q { y with reqs := y.reqs.map (fun k => if k.id = r.id then { k with held := true, logged := true } else k) },
       fun s => if r.logged then [] else chain [flushFaults die, logFault die (cpRecord die r.id asid va write)] s] s
  | none =>
    chain
      [setQueue die q { y with reqs := y.reqs ++ [⟨s.nextId, use, asid, va, true, true⟩] }, fun _ => [.fresh],
       flushFaults die, logFault die (cpRecord die s.nextId asid va write)] s

/-- What an access that does not perform does meanwhile. -/
def CpStop.effects (die q use : Nat) (e : CpStop) (s : State) : List Effect :=
  match e with
  | .hold asid va write es => chain [fun _ => es, cpHold die q use asid va write] s
  | .wait => []
  | .send es => es

/-- The result of an access of a command processor, which otherwise goes on with it another time. -/
def cpDo (die q use : Nat) (r : Except CpStop α) : M α := do
  let s ← getS
  match r with
  | .ok a => pure a
  | .error e => do puts (e.effects die q use s); finish

/-- Read doublewords. -/
def cpLoad (die q use asid : Nat) (pm : Bool) (va : Word) (n : Nat) : M (List Word) := do
  let s ← getS
  let (ws, es) ← cpDo die q use (cpWords s die q asid pm va n)
  puts es
  pure ws

/-! ## Completion signals (R290) -/

/-- The decrement of a signal: AADD of −1 at its home slice on an aligned doubleword of a SYNC page; at a pod address its home
package performs it. -/
def signalDown (s : State) (die q asid : Nat) (pm : Bool) (va : Word) : Except CpStop (List Effect) :=
  let op := MemOp.atomic 0 { op := 0, size := 8, b := BitVec.allOnes 64, cmp := 0, b2 := 0, cmp2 := 0 }
  let y := queueOf s die q
  match cpXl s die asid pm va .rw with
  | .error e => .error e
  | .ok x =>
    if va.toNat % 8 ≠ 0 ∨ x.cls ≠ .sync then .error (.hold asid va true [])
    else if x.pod then
      let drop := setQueue die q { y with got := y.got.filter (fun g => g.pa ≠ x.pa) } s
      match y.got.find? (fun g => g.pa == x.pa) with
      | some ⟨_, _, some a⟩ => if a.res = 0 then .ok drop else .error (.hold asid va true drop)
      | some ⟨_, _, none⟩ => .error .wait
      | none =>
        if s.pkg.fab.live.getLsbD (x.pa / 2 ^ 44 % 128) then
          .error (.send (chain
            [fun _ => x.fx, fun s => let y := queueOf s die q; setQueue die q { y with got := y.got ++ [⟨s.nextId, x.pa, none⟩] } s,
             fun s => cpSend s die q s.nextId asid pm x op, fun _ => [.fresh]] s))
        else .error .wait
    else if (memCheck s true x.pa 8).isSome ∨ syncWaits s (queueSix die q) x.pa 8 then .error .wait
    else .ok (x.fx ++ homeStore none none (dieAgent die (va.toNat % 2 ^ 48)) x.pa 8
      ((memRead s.mem x.pa 8 + (2 ^ 64 - 1)) % 2 ^ 64) (applyAll x.fx s))

/-- Decrement a signal once, or leave it to the queue, which then waits. -/
def decrement (die q asid : Nat) (va : Word) (s : State) : List Effect :=
  let y := queueOf s die q
  if va = 0 then []
  else match signalDown s die q asid y.privq va with
    | .ok es => es
    | .error e =>
      chain
        [setQueue die q { y with reqs := y.reqs ++ [⟨s.nextId, 1, asid, va, false, false⟩] }, fun _ => [.fresh],
         e.effects die q 1] s

/-- A decrement left over from before, tried again. -/
def decrementAgain (die q : Nat) (r : CpReq) (s : State) : List Effect :=
  match signalDown s die q r.asid (queueOf s die q).privq r.va with
  | .ok es =>
    chain [fun _ => es, fun s => let y := queueOf s die q; setQueue die q { y with reqs := y.reqs.filter (fun k => k.id ≠ r.id) } s] s
  | .error e => e.effects die q 1 s

/-! ## Packets (R284, R286) -/

/-- The address of the packet RDIDX of a queue (R283). -/
def packetAddr (y : Queue) : Word := y.ring + BitVec.ofNat 64 (64 * (y.rdidx.toNat % 2 ^ y.log))

/-- Whether a command processor goes on with a queue: it is woken for it, no packet waits for its step 5, no decrement is left over, and
no access to a packet is held (R286, R290). -/
def served (s : State) (die q : Nat) : Bool :=
  let y := queueOf s die q
  y.mapped && y.woken && y.closing.isNone && y.reqs.all (fun r => decide (r.use ≠ 1) && !(decide (r.use = 0) && r.held))

/-- The packet RDIDX of a queue: its eight doublewords, or its header alone where VALID is 0. -/
def packetOf (s : State) (die q : Nat) : Except CpStop (List Word × List Effect) :=
  let y := queueOf s die q
  match cpWords s die q y.asid y.privq (packetAddr y) 1 with
  | .error e => .error e
  | .ok (h, es) => if (h.getD 0 0).getLsbD 63 then cpWords s die q y.asid y.privq (packetAddr y) 8 else .ok (h, es)

def pkType (w : Word) : Nat := w.toNat / 2 ^ 56 % 16
def pkBarrier (w : Word) : Bool := w.getLsbD 62
def pkCnum (w : Word) : Bool := w.getLsbD 61

/-- The header of a packet that has been dealt with. -/
def doneHeader (hdr : Word) (err : Bool) : Word := (hdr &&& ~~~(1#64 <<< 63)) ||| (if err then 1#64 <<< 60 else 0)

/-- The queue after step 5 of R286: RDIDX advanced, nothing of the packet left. -/
def Queue.advanced (y : Queue) : Queue :=
  { y with rdidx := y.rdidx + 1, closing := none, reqs := y.reqs.filter (fun r => r.use ≠ 0), got := [] }

/-- Step 5 of R286: the header written and RDIDX advanced, together (R328). -/
def stepFive (die q : Nat) (hdr : Word) : M Unit := do
  let s ← getS
  let y := queueOf s die q
  let es ← cpDo die q 0 (cpWrite s die q y.asid y.privq (packetAddr y) hdr)
  puts es
  let s ← getS
  puts (setQueue die q (queueOf s die q).advanced s)

/-- A SIGNAL packet has been acted on: step 5 follows, once its signal has been decremented (R286, R290). -/
def closePacket (die q : Nat) (hdr : Word) : M Unit := do
  let s ← getS
  puts (setQueue die q { queueOf s die q with closing := some hdr } s)
  if (queueOf s die q).reqs.any (fun r => r.use == 1) then pure () else stepFive die q hdr

/-! ## Group descriptors (R287) -/

/-- The descriptor of a LAUNCH packet. -/
def groupDesc (s : State) (die q : Nat) (ws : List Word) : Except CpStop (List Word × List Effect) :=
  let y := queueOf s die q
  cpWords s die q y.asid y.privq (ws.getD 2 0) 8

def gdCores (d : Word) : Nat := d.toNat / 2 ^ 32 % 1024 + 1
def gdSl (d : Word) : Nat := d.toNat / 2 ^ 28 % 16
def gdPri (d : Word) : BitVec 2 := d.extractLsb' 26 2
def gdSpn (d : Word) : Nat := d.toNat % 2 ^ 24

/-- The TVEC that a group's strands receive. -/
def groupTvec (s : State) (y : Queue) (d : List Word) : Word :=
  let t := d.getD 5 0
  if y.privq ∧ t ≠ 0 then t else (s.tenant y.tenant).dtvec

/-- Whether a descriptor makes its LAUNCH a rejected packet (R287, R288, R337). -/
def badDesc (s : State) (y : Queue) (d : List Word) : Bool :=
  let w := fun (i : Nat) => d.getD i 0
  let t := s.tenant y.tenant
  decide (2 ^ 42 ≤ (w 0).toNat ∨ (w 0).toNat / 2 ^ 24 % 4 ≠ 0 ∨ 8 < gdSl (w 0)
    ∨ w 2 = 0 ∨ 2 ^ 63 ≤ (w 2).toNat ∨ (w 1).toNat % 2 ^ (12 + gdSl (w 0)) ≠ 0 ∨ (w 6).toNat % 64 ≠ 0
    ∨ (w 7).toNat % 4096 ≠ 0 ∨ (w 3).getLsbD 0 ∨ groupTvec s y d = 0 ∨ t.otag = 0
    ∨ (s.dom y.asid).owner ≠ t.otag ∨ t.tq.toNat < gdCores (w 0))

/-- The group a RESUME packet names, where it has been saved (log entry 37). -/
def resumeGroup (s : State) (ws : List Word) : Option Group :=
  let n := (ws.getD 1 0).toNat
  if n < 4096 then (s.group n).filter (fun g => g.saved && !g.failed) else none

/-- Whether a valid packet is rejected at once (R286 step 2). -/
def badHeader (s : State) (die q : Nat) (ws : List Word) : Bool :=
  let w := fun (i : Nat) => ws.getD i 0
  let h := w 0
  let args := decide (w 4 ≠ 0 ∨ w 5 ≠ 0 ∨ w 6 ≠ 0 ∨ w 7 ≠ 0)
  decide (h.toNat % 2 ^ 56 ≠ 0)
    || (match pkType h with
        | 1 => false
        | 2 => args || decide (w 1 ≠ 0 ∨ w 2 ≠ 0)
        | 3 => args || !(queueOf s die q).privq
        | _ => true)

/-- Whether a packet may be acted on: its BARRIER holds it while a group of its queue has not completed (R286 step 3). -/
def pastBarrier (s : State) (die q : Nat) (h : Word) : Bool :=
  !pkBarrier h || s.groups.all (fun p => p.2.all (fun g => !(g.die == die && g.queue == q)))

/-- Whether a LAUNCH or RESUME is rejected when it is acted on (R287, R288, R307; step 4 of R286): a misaligned or unreadable
descriptor, or one that does not pass its checks. -/
def badAct (s : State) (die q : Nat) (ws : List Word) : Bool :=
  match pkType (ws.getD 0 0) with
  | 1 => decide ((ws.getD 2 0).toNat % 64 ≠ 0) || (match groupDesc s die q ws with
      | .ok (d, _) => badDesc s (queueOf s die q) d
      | .error (.hold ..) => true
      | .error _ => false)
  | 3 => (resumeGroup s ws).isNone
  | _ => false

/-- Whether a valid packet is rejected. -/
def badPacket (s : State) (die q : Nat) (ws : List Word) : Bool :=
  badHeader s die q ws || (pastBarrier s die q (ws.getD 0 0) && badAct s die q ws)

/-- The command processor finds VALID = 0 and stops. -/
def packetStop (die q : Nat) (s : State) : List Effect :=
  let y := queueOf s die q
  setQueue die q { y with woken := false, reqs := y.reqs.filter (fun r => r.use ≠ 0), got := [] } s

/-- Serve a queue: stop where its packet is not ready; act where it is of a kind. -/
def servePacket (die q : Nat) (kind : List Word → State → Bool) (act : List Word → M Unit) : M Unit := do
  let s ← getS
  if served s die q then do
    let (ws, es) ← cpDo die q 0 (packetOf s die q)
    puts es
    let s ← getS
    if !(ws.getD 0 0).getLsbD 63 then puts (packetStop die q s)
    else if kind ws s then act ws
    else pure ()
  else pure ()

/-- Decrement the signal of bytes [24, 32) of a packet. -/
def packetSignal (die q : Nat) (ws : List Word) : M Unit := do
  let s ← getS
  puts (decrement die q (queueOf s die q).asid (ws.getD 3 0) s)

/-- PACKET_REJECT (R286): the header is marked as step 5 writes it, and the signal decremented after that step (R328, R329). -/
def execPacketReject (die q : Nat) (s : State) : Out :=
  event (servePacket die q (fun ws s => badPacket s die q ws) (fun ws => do
    stepFive die q (doneHeader (ws.getD 0 0) true)
    packetSignal die q ws)) s

/-- PACKET_SIGNAL (R286, R290): what is left over from before comes first. -/
def execPacketSignal (die q : Nat) (s : State) : Out :=
  event (do
    let y := queueOf s die q
    match y.reqs.find? (fun r => r.use == 1 && !r.held), y.closing with
    | some r, _ => puts (decrementAgain die q r s)
    | none, some hdr => if y.reqs.any (fun r => decide (r.use ≤ 1) && r.held) then pure () else stepFive die q hdr
    | none, none =>
      servePacket die q
        (fun ws s => decide (pkType (ws.getD 0 0) = 2) && !badPacket s die q ws && pastBarrier s die q (ws.getD 0 0))
        (fun ws => do
          packetSignal die q ws
          closePacket die q (doneHeader (ws.getD 0 0) false))) s

/-! ## Binding (R240, R288, R343) -/

/-- Whether the groups bound to a core are all of a tenant. -/
def coreFor (s : State) (tenant core : Nat) : Bool :=
  s.groups.all (fun p => p.2.all (fun g => g.saved || !g.cores.contains core || g.tenant == tenant))

/-- The cores of a cluster that may be bound to a tenant's group: none while the cluster is gated or to be gated. -/
def freeCores (s : State) (tenant cl : Nat) : List Nat :=
  if s.pkg.gated.getLsbD cl || s.pkg.gatereq.getLsbD cl then []
  else ((List.range 32).map (fun i => 32 * cl + i)).filter (coreFor s tenant)

/-- Pick `n` of a list; which is the device's choice. -/
def pickFrom (n : Nat) (xs : List Nat) : M (List Nat) :=
  match n with
  | 0 => pure []
  | n + 1 => do
    let k ← choose xs.length
    match xs[k]? with
    | none => stall .none
    | some x => do
      let ys ← pickFrom n (without k xs)
      pure (x :: ys)

/-- Bind blocks of cores, each to a cluster of its own with as many cores to give; a launch waits where there is none. -/
def bindBlocks (tenant : Nat) : List Nat → List Nat → M (List Nat)
  | [], _ => pure []
  | n :: ns, clusters => do
    let s ← getS
    let fit := clusters.filter (fun cl => decide (n ≤ (freeCores s tenant cl).length))
    let k ← choose fit.length
    match fit[k]? with
    | none => stall .none
    | some cl => do
      let xs ← pickFrom n (freeCores s tenant cl)
      let ys ← bindBlocks tenant ns (clusters.filter (fun c => c != cl))
      pure (xs ++ ys)

/-- The cores of a group of `n`: one cluster for at most 32, otherwise one cluster for every 32. -/
def bindCores (tenant n : Nat) : M (List Nat) :=
  bindBlocks tenant (List.replicate (n / 32) 32 ++ (if n % 32 = 0 then [] else [n % 32])) (List.range 32)

/-- A core bound to a tenant (R166): before another tenant's group, its scratchpad and lane slices are written with zeros. -/
def hostTenant (tenant core : Nat) (s : State) : List Effect :=
  let c := s.core core
  if c.tenant = some tenant then []
  else
    let words := fun (base size : Nat) => (s.poison.filter (fun p =>
      decide (base + core * size / 4 ≤ p.1 ∧ p.1 < base + (core + 1) * size / 4))).map (fun p => Effect.poison p.1 false)
    [.pmemClear (core * 2 ^ 19) ((core + 1) * 2 ^ 19), .lmemClear (core * 2 ^ 16) ((core + 1) * 2 ^ 16)]
      ++ words poisonP (2 ^ 19) ++ words poisonL (2 ^ 16) ++ [.core core { c with tenant := some tenant }]

/-- The scope and group of a channel below POD. -/
def chanScope (key : Nat) : Nat := key / (8 * 1024 * 8192)
def chanGroup (key : Nat) : Nat := key / (8 * 1024) % 8192
def chanUnit (key : Nat) : Nat := key / 8 % 1024

/-- Unmap the channels of a group. -/
def dropBells (gid : Nat) (s : State) : List Effect :=
  (s.bells.filter (fun p => !isPodChan p.1 && chanGroup p.1 == gid)).map (fun p => .bell p.1 .fresh)

/-! ## LAUNCH (R288) -/

/-- The initial task of a logical core. -/
def initialTask (s : State) (gid : Nat) (y : Queue) (pri : BitVec 2) (ws : List Word) (c core : Nat) : Task :=
  let args := [ws.getD 4 0, ws.getD 5 0, ws.getD 6 0, if pkCnum (ws.getD 0 0) then BitVec.ofNat 64 c else ws.getD 7 0]
  { ts := 0, timed := false, pri := pri, pin := some core, entry := ws.getD 1 0, args := args, dom := y.asid,
    domGen := (s.dom y.asid).gen, gid := gid, st := .queued, parent := none, reads := [], writes := [], homes := [] }

/-- Enqueue the initial tasks of a group on its cores, in the order of logical core. -/
def enqueueAll (die gid : Nat) (y : Queue) (pri : BitVec 2) (ws : List Word) : List (Nat × Nat) → M Unit
  | [] => pure ()
  | (core, c) :: r => do
    let s ← getS
    let (id, n) := nextTaskId die (s.die die).taskCount
    put (.die die { s.die die with taskCount := n })
    put (.task id (some (initialTask s gid y pri ws c core)))
    enqueueAll die gid y pri ws r

/-- A free group identifier, the device's choice. -/
def newGroup : M Nat := do
  let s ← getS
  let k ← choose 4096
  let free := fun (i : Nat) => (s.group i).isNone
  match (if free k then some k else (List.range 4096).find? free) with
  | some g => pure g
  | none => stall .none

/-- The group that a LAUNCH makes. -/
def launchedGroup (s : State) (die q : Nat) (y : Queue) (ws d : List Word) (cores : List Nat) : Group :=
  let w := fun (i : Nat) => d.getD i 0
  { die := die, queue := q, tenant := y.tenant, asid := y.asid, desc0 := w 0, stk := w 1, quantum := w 2, ovfe := w 3,
    ovfa := w 4, tvec := groupTvec s y d, spill := w 6, seg := w 7, signal := ws.getD 3 0, cores := cores, quant := [],
    ctxs := [], lastTs := none, preempting := false, saved := false, failed := false, actors := [], spillMsgs := [] }

/-- The effect of a LAUNCH: it waits for slots and cores, then binds, maps and enqueues. -/
def launchBody (die q : Nat) (ws d : List Word) : M Unit := do
  let s ← getS
  let y := queueOf s die q
  let n := gdCores (d.getD 0 0)
  stallIf (decide ((s.tenant y.tenant).tq.toNat < slotsHeld s y.tenant + n ∨ 65536 < slotsInUse s + n)) .none
  let gid ← newGroup
  let cores ← bindCores y.tenant n
  let s ← getS
  puts (chain (cores.map (hostTenant y.tenant)) s)
  let s ← getS
  puts (dropBells gid s)
  put (.group gid (some (launchedGroup s die q y ws d cores)))
  enqueueAll die gid y (gdPri (d.getD 0 0)) ws cores.zipIdx

/-- PACKET_LAUNCH (R286, R288), with step 5 as one step, so that no decrement for its group precedes it (R329). -/
def execPacketLaunch (die q : Nat) (s : State) : Out :=
  event (servePacket die q
    (fun ws s => decide (pkType (ws.getD 0 0) = 1) && !badPacket s die q ws && pastBarrier s die q (ws.getD 0 0))
    (fun ws => do
      let s ← getS
      let (d, es) ← cpDo die q 0 (groupDesc s die q ws)
      puts es
      stepFive die q (doneHeader (ws.getD 0 0) false)
      launchBody die q ws d)) s

/-! ## Completion (R289) -/

/-- Whether a message of a group is on its way at a core. -/
def msgInFlight (gid : Nat) (c : Core) : Bool :=
  c.reqBuf.any (fun m => m.msg.gid == gid) || c.repBuf.any (fun m => m.msg.gid == gid) || c.repNet.any (fun m => m.gid == gid)
    || (c.port ++ c.hq).any (fun e => match e with | .message m => m.gid == gid | .atomic _ => false)

/-- Whether a firing of a group holds a slot. -/
def slotHeld (s : State) (gid : Nat) : Bool := s.strands.any (fun p => decide (p.2.gid = some gid ∧ p.2.st ≠ .free))

/-- Whether an engine or message-unit command of a group has not completed. -/
def cmdInFlight (s : State) (gid : Nat) : Bool := s.clusters.any (fun c => c.2.cmds.any (fun k => decide (k.gid = some gid)))

/-- Whether an actor of a group is ready, running, or has tokens to send. -/
def actorBusy (s : State) (gid : Nat) : Bool :=
  s.cores.any (fun c => c.2.actors.any (fun a => a.2.any (fun y => decide (y.gid = gid)
    && (y.busy || actorReady s c.1 y || y.outs.any (fun f => f.en && decide (0 < f.count))))))

/-- Whether a group is live (R289). -/
def groupLive (s : State) (gid : Nat) : Bool :=
  slotHeld s gid || cmdInFlight s gid || actorBusy s gid || s.taskList.any (fun p => decide (p.2.gid = gid))
    || s.cores.any (fun c => msgInFlight gid c.2)

/-- What leaves the cores and clusters with a group: inbox contents, actors, pool entries, channels. -/
def unbindGroup (gid : Nat) (s : State) : List Effect :=
  chain
    [fun s => s.cores.map (fun c => .core c.1 { c.2 with
       inbox := c.2.inbox.filter (fun m => m.gid != gid), repNet := c.2.repNet.filter (fun m => m.gid != gid),
       actors := c.2.actors.filter (fun a => a.2.all (fun y => y.gid != gid)) }),
     fun s => s.clusters.map (fun c => .cluster c.1 { c.2 with pool := c.2.pool.filter (fun e => e.gid != gid) }),
     dropBells gid] s

/-- The end of a group: unbound, its counters freed; the signal of one that completed is decremented. -/
def endGroup (gid : Nat) (g : Group) (s : State) : List Effect :=
  chain
    [unbindGroup gid,
     fun s => s.counters.filterMap (fun c => if c.2.gid = some gid then some (.counter c.1 (freedCounter c.2)) else none),
     fun _ => [.group gid none],
     fun s => if g.failed then [] else decrement g.die g.queue g.asid g.signal s] s

/-- GROUP_COMPLETION (R289, R290). A killed group is unbound once its last slot is free (log entry 44). -/
def execGroupCompletion (gid : Nat) (s : State) : Out :=
  event (match s.group gid with
    | none => pure ()
    | some g =>
      whenever (if g.failed then !slotHeld s gid else !g.saved && g.ctxs.isEmpty && !groupLive s gid) (endGroup gid g)) s

/-! ## The spill area (R187, R306) -/

/-- The messages of a group at a logical core, oldest first: inbox, request port, reply network, then those kept since. -/
def spilledAt (s : State) (gid : Nat) (g : Group) (c core : Nat) : List (Nat × Msg) :=
  let y := s.core core
  let mine := fun (ms : List Msg) => (ms.filter (fun m => m.gid == gid)).map (fun m => (c, m))
  mine (y.inbox ++ y.port.filterMap (fun e => match e with | .message m => some m | .atomic _ => none) ++ y.repNet)
    ++ g.spillMsgs.filter (fun p => p.1 == c)

/-- A message record: 64 bytes as a FIFO entry, the logical core in bytes [40, 48). -/
def msgRecord (p : Nat × Msg) : List Word :=
  p.2.hdr :: (List.range 4).map (fun i => p.2.payload.getD i 0) ++ [BitVec.ofNat 64 p.1, 0, 0]

/-- A pool record: key and cluster index, then the range word. -/
def poolRecord (q : Nat) (e : PoolEntry) : List Word :=
  [BitVec.ofNat 64 (q * 65536 + e.key), BitVec.ofNat 64 (e.hi * 2 ^ 32 + e.lo)]

/-- The cluster of each block of 32 logical cores of a group (R288). -/
def blockClusters (cores : List Nat) : List (Nat × Nat) :=
  (List.range ((cores.length + 31) / 32)).map (fun q => (q, clusterOf (cores.getD (32 * q) 0)))

/-- Consecutive doublewords with their addresses. -/
def placed (base : Word) (ws : List Word) : List (Word × Word) :=
  ws.zipIdx.map (fun p => (base + BitVec.ofNat 64 (8 * p.2), p.1))

/-- The doublewords of a group's spill area. -/
def spillWords (s : State) (gid : Nat) (g : Group) : List (Word × Word) :=
  let ms := g.cores.zipIdx.flatMap (fun p => spilledAt s gid g p.2 p.1)
  let ps := (blockClusters g.cores).flatMap (fun b =>
    ((s.cluster b.2).pool.filter (fun e => e.gid == gid)).map (fun e => (b.1, e)))
  placed g.spill [BitVec.ofNat 64 ms.length, BitVec.ofNat 64 ps.length]
    ++ placed (g.spill + 64) (ms.flatMap msgRecord ++ ps.flatMap (fun p => poolRecord p.1 p.2))

/-- The bytes a spill area takes. -/
def spillBytes (ws : List (Word × Word)) : Nat := 64 + 8 * (ws.length - 2)

/-- A group leaves its cores until it is resumed: declared actors stay with it (log entry 45), its messages and pool entries
are in its spill area. -/
def saveGroup (gid : Nat) (g : Group) (s : State) : List Effect :=
  let actors := g.cores.zipIdx.flatMap (fun p =>
    (s.core p.1).actors.filterMap (fun a => (a.2.filter (fun y => y.gid == gid)).map (fun y => (p.2, a.1, y))))
  chain
    [fun s => s.cores.map (fun c => .core c.1 { c.2 with
       inbox := c.2.inbox.filter (fun m => m.gid != gid), repNet := c.2.repNet.filter (fun m => m.gid != gid),
       port := c.2.port.filter (fun e => match e with | .message m => m.gid != gid | .atomic _ => true),
       actors := c.2.actors.filter (fun a => a.2.all (fun y => y.gid != gid)) }),
     fun s => s.clusters.map (fun c => .cluster c.1 { c.2 with pool := c.2.pool.filter (fun e => e.gid != gid) }),
     fun _ => [.group gid (some { g with preempting := false, saved := true, actors := actors, spillMsgs := [] })]] s

/-- SPILL_WRITE (R306): once the last slot on every core is free and no message of the group is on its way any longer. -/
def execSpillWrite (gid : Nat) (s : State) : Out :=
  event (match s.group gid with
    | none => pure ()
    | some g =>
      if g.preempting && !g.failed && !slotHeld s gid && !cmdInFlight s gid
          && s.cores.all (fun c => !c.2.reqBuf.any (fun m => m.msg.gid == gid) && !c.2.repBuf.any (fun m => m.msg.gid == gid)
            && !c.2.hq.any (fun e => match e with | .message m => m.gid == gid | .atomic _ => false)) then
        let ws := spillWords s gid g
        if 64 * gdSpn g.desc0 < spillBytes ws then puts (killGroup s gid)
        else do
          let es ← cpDo g.die g.queue 2 (cpWriteAll g.die g.queue g.asid (queueOf s g.die g.queue).privq ws s)
          puts es
          let s ← getS
          puts (saveGroup gid g s)
          let s ← getS
          let y := queueOf s g.die g.queue
          puts (setQueue g.die g.queue { y with reqs := y.reqs.filter (fun r => r.use ≠ 2) } s)
      else pure ()) s

/-! ## RESUME (R307) -/

/-- The unit that a unit of the old binding becomes: that of its first logical core (log entry 45). -/
def newUnit (scope u : Nat) (old new : List Nat) : Nat :=
  if scope = 5 then u
  else match (old.zip new).find? (fun p => bellUnit p.1 scope == u) with
    | some p => bellUnit p.2 scope
    | none => u

/-- The channels of a group moved to its new units. -/
def moveBells (gid : Nat) (old new : List Nat) (s : State) : List Effect :=
  let mine := s.bells.filter (fun p => !isPodChan p.1 && chanGroup p.1 == gid)
  dropBells gid s ++ mine.map (fun p =>
    .bell (groupChan (chanScope p.1) gid (newUnit (chanScope p.1) (chanUnit p.1) old new) (p.1 % 8)) p.2)

/-- A restored message deposited (R307): into the inbox, or behind it where it is full. -/
def depositMsg (core : Nat) (m : Msg) (s : State) : List Effect :=
  let c := s.core core
  if c.inbox.length < 64 then [.core core { c with inbox := c.inbox ++ [m] }]
  else [.core core { c with repNet := c.repNet ++ [m] }]

/-- The restored messages of a spill area. -/
def restoreMsgs (gid : Nat) (cores : List Nat) (ws : List Word) (m : Nat) (s : State) : List Effect :=
  chain ((List.range m).map (fun i =>
    let w := fun (j : Nat) => ws.getD (8 * i + j) 0
    let msg : Msg := { gid := gid, hdr := w 0, payload := (List.range (dwLen (w 0) + 1)).map (fun j => w (1 + j)), entry := none }
    match cores[(w 5).toNat]? with
    | some c => depositMsg c msg
    | none => fun _ => [])) s

/-- The restored pool entries of a spill area. -/
def restorePool (gid : Nat) (cores : List Nat) (ws : List Word) (p : Nat) (s : State) : List Effect :=
  chain ((List.range p).map (fun i => fun s =>
    let k := (ws.getD (2 * i) 0).toNat
    let r := (ws.getD (2 * i + 1) 0).toNat
    match (blockClusters cores).find? (fun b => b.1 == k / 65536 % 65536) with
    | some b =>
      let c := s.cluster b.2
      [Effect.cluster b.2 { c with pool := c.pool ++ [{ gid := gid, key := k % 65536, lo := r % 2 ^ 32, hi := r / 2 ^ 32 }] }]
    | none => [])) s

/-- Put a group's actors back, and its pinned tasks on its new cores. -/
def restoreActors (gid : Nat) (g : Group) (new : List Nat) (s : State) : List Effect :=
  chain
    (g.actors.map (fun a => fun s => match new[a.1]? with | some c => [setActor s c a.2.1 a.2.2] | none => [])
      ++ [fun s => s.taskList.filterMap (fun p =>
            match p.2.pin.bind (fun c => (g.cores.zip new).find? (fun q => q.1 == c)) with
            | some q => if p.2.gid = gid then some (Effect.task p.1 (some { p.2 with pin := some q.2 })) else none
            | none => none)]) s

/-- The restore firing of one saved strand. -/
def restoreFiring (s : State) (gid : Nat) (g : Group) (k six : Nat) (entry : Word) : Strand :=
  let job := ((tblGet none g.ctxs k).map SavedCtx.job).getD .restore
  let x := firingOf s gid g six job g.tvec [(1, entry)]
  let base := match job with
    | .task id => ((s.task id).map Task.dom).getD g.asid
    | .actor n => ((tblGet none (s.core (coreOf six)).actors n).map Actor.dom).getD g.asid
    | _ => g.asid
  { x with
    dom := 0, base := base, inTrap := true, nest := ((tblGet none g.ctxs k).map SavedCtx.nest).getD 0,
    tops := ((tblGet none g.ctxs k).map SavedCtx.tops).getD [], aligned := ((tblGet none g.ctxs k).map SavedCtx.aligned).getD [],
    c := { x.c with pc := g.tvec &&& ~~~3#64 },
    sys := { x.sys with pm := true, tcause := 18, taddr := g.segment k, quant := g.quantum } }

/-- Dispatch the restore firings of a resume table, entry by entry. -/
def restoreAll (gid : Nat) (g : Group) : List (Word × Nat) → M Unit
  | [] => pure ()
  | (entry, k) :: r => do
    let s ← getS
    if entry = 0 then restoreAll gid g r
    else match g.cores[k / 8]? with
      | none => restoreAll gid g r
      | some core => do
        let six := 8 * core + k % 8
        stallIf (decide ((s.strand six).st ≠ .free)) .none
        let x := restoreFiring s gid g k six entry
        puts (startFiring six x s)
        match x.job with
        | .task id => match s.task id with
          | some t => put (.task id (some { t with st := .firing six }))
          | none => pure ()
        | _ => pure ()
        restoreAll gid g r

/-- The group that a RESUME makes of a saved one. -/
def resumedGroup (g : Group) (cores : List Nat) (signal : Word) : Group :=
  { g with cores := cores, quant := [], saved := false, actors := [], signal := if signal = 0 then g.signal else signal }

/-- The effect of a RESUME. -/
def resumeBody (die q : Nat) (ws : List Word) (gid : Nat) (g : Group) : M Unit := do
  let s ← getS
  let y := queueOf s die q
  let n := g.cores.length
  let table ← cpLoad die q 0 y.asid y.privq (ws.getD 2 0) (8 * n)
  let counts ← cpLoad die q 0 g.asid y.privq g.spill 2
  let m := (counts.getD 0 0).toNat
  let p := (counts.getD 1 0).toNat
  stallIf (decide (64 * gdSpn g.desc0 < 64 + 64 * m + 16 * p)) .none
  let recs ← cpLoad die q 0 g.asid y.privq (g.spill + 64) (8 * m + 2 * p)
  stepFive die q (doneHeader (ws.getD 0 0) false)
  let cores ← bindCores g.tenant n
  let s ← getS
  puts (chain (cores.map (hostTenant g.tenant)) s)
  let s ← getS
  puts (chain [moveBells gid g.cores cores, restorePool gid cores (recs.drop (8 * m)) p, restoreMsgs gid cores recs m,
    restoreActors gid g cores] s)
  let g' := resumedGroup g cores (ws.getD 3 0)
  put (.group gid (some g'))
  restoreAll gid g' table.zipIdx
  put (.group gid (some { g' with ctxs := g'.ctxs.filter (fun c => decide (table.getD c.1 0 = 0)) }))

/-- PACKET_RESUME (R286, R307), with step 5 as one step (R329). -/
def execPacketResume (die q : Nat) (s : State) : Out :=
  event (servePacket die q
    (fun ws s => decide (pkType (ws.getD 0 0) = 3) && !badPacket s die q ws && pastBarrier s die q (ws.getD 0 0))
    (fun ws => do
      let s ← getS
      match resumeGroup s ws with
      | some g => resumeBody die q ws (ws.getD 1 0).toNat g
      | none => pure ())) s

end Sys2Proof.Machine
end

