-- ==== Sys2Proof/Machine/System.lean ====
section
/-! DEFINITION. System instructions: MFS, MTS and TRAP (R27 to R30, R108, R109), the operand-extension loads (R107), the
parameter tables (R111, R348), TRET (R110, R155) and WFI (R111). -/

namespace Sys2Proof.Machine

/-! ## System registers (R27 to R30) -/

/-- The value MFS reads (R27). -/
def readSys (x : Strand) (slot n : Nat) : Word :=
  match n with
  | 0 => x.status slot
  | 1 => x.sys.tcause
  | 2 => x.sys.taddr
  | 3 => x.sys.tpc
  | 4 => x.sys.tvpc
  | 5 => x.sys.tvec
  | 6 => x.sys.quant
  | 7 => zx x.sys.gstat
  | 8 => BitVec.ofNat 64 x.sys.dsdepth
  | 9 => zx x.sys.rmode
  | 10 => x.sys.srseed
  | 11 => zx x.sys.flags
  | _ => zx x.sys.fenable

/-- Registers that user mode may not read, and those it may not write (R27). -/
def sysNoRead (n : Nat) : Bool := decide (1 ≤ n ∧ n ≤ 5)
def sysNoWrite (n : Nat) : Bool := decide (1 ≤ n ∧ n ≤ 8)

/-- Whether a value breaks the field map of a register: a should-be-zero bit, a reserved MODE, a DSDEPTH above 16 (R27 to
R30, R153, R182). -/
def sysIllegal (n : Nat) (v : Word) : Bool :=
  match n with
  | 0 => decide (v &&& 0xFFFFFFFFFF00FF1F#64 ≠ 0)
  | 1 => decide (v &&& 0xFFFF000800000000#64 ≠ 0)
  | 7 => decide (256 ≤ v.toNat)
  | 8 => decide (16 < v.toNat)
  | 9 => decide (4 < v.toNat)
  | 11 => decide (64 ≤ v.toNat)
  | 12 => decide (64 ≤ v.toNat)
  | _ => false

/-- Whether an MTS of STATUS in user mode would change PM or IE (R28). -/
def statusPriv (x : Strand) (v : Word) : Bool := v.getLsbD 7 != x.sys.pm || v.getLsbD 6 != x.sys.ie

/-- The strand after an MTS (R27 to R30): STATUS takes CHK, and in privileged mode PM, IE, PRI and TIMED; SRSEED loads the
generators (R71). -/
def writeSys (x : Strand) (n : Nat) (v : Word) : Strand :=
  match n with
  | 0 =>
    if x.sys.pm then
      { x with sys := { x.sys with
          chk := v.getLsbD 5, ie := v.getLsbD 6, pm := v.getLsbD 7, timed := v.getLsbD 17, pri := v.extractLsb' 18 2 } }
    else { x with sys := { x.sys with chk := v.getLsbD 5 } }
  | 1 => { x with sys := { x.sys with tcause := v } }
  | 2 => { x with sys := { x.sys with taddr := v } }
  | 3 => { x with sys := { x.sys with tpc := v } }
  | 4 => { x with sys := { x.sys with tvpc := v } }
  | 5 => { x with sys := { x.sys with tvec := v } }
  | 6 => { x with sys := { x.sys with quant := v } }
  | 7 => { x with sys := { x.sys with gstat := v.extractLsb' 0 8 } }
  | 8 => { x with sys := { x.sys with dsdepth := v.toNat } }
  | 9 => { x with sys := { x.sys with rmode := v.extractLsb' 0 3 } }
  | 10 => x.seed v
  | 11 => { x with sys := { x.sys with flags := v.extractLsb' 0 6 } }
  | _ => { x with sys := { x.sys with fenable := v.extractLsb' 0 6 } }

/-- MFS (R108), scoreboarded. -/
def execMfs (o : SysD) (s : State) : Out :=
  let enc := opK 0x14 0 30 + o.bits
  issue (infoB enc 0 [regOf s.stream o.d.toNat]) (do
    scalarIf o.d enc
    let s ← getS
    trapIf (!s.me.sys.pm && sysNoRead o.n.toNat) 3 0 (BitVec.ofNat 64 enc)
    writeX o.d.toNat (readSys s.me (slotOf s.six) o.n.toNat)
    pure .next) s

/-- MTS (R27, R28, R108). The field map's ILLEGAL comes before the user-mode PRIV of STATUS (log entry 13). -/
def execMts (o : SysA) (s : State) : Out :=
  let enc := opK 0x14 1 30 + o.bits
  issue (infoB enc 0 [regOf s.stream o.a.toNat]) (do
    scalarIf o.a enc
    let s ← getS
    let n := o.n.toNat
    let v := s.me.readX s.stream o.a.toNat
    trapIf (!s.me.sys.pm && sysNoWrite n) 3 0 (BitVec.ofNat 64 enc)
    trapIf (sysIllegal n v) 1 0 (BitVec.ofNat 64 enc)
    trapIf (decide (n = 0) && !s.me.sys.pm && statusPriv s.me v) 3 0 (BitVec.ofNat 64 enc)
    modMe (fun x => writeSys x n v)
    pure .next) s

/-- TRAP (R109): it counts as issued, so the saved PC of its stream is the next instruction's. -/
def execTrap (o : Code) (s : State) : Out :=
  issue (infoB (opK 0x14 2 30 + o.bits) 0 []) (do
    let s ← getS
    stallIf (s.me.waitOf (other s.stream)).first .score
    modMe (fun x => x.setPc s.stream (x.pcOf s.stream + 4))
    let t ← getS
    puts (trapEffects { cause := 14, sub := 0, addr := zx o.c, strm := s.stream } s.six t)
    pure .taken) s

/-! ## Operand-extension registers (R107) -/

/-- LOXI (R107). -/
def execLoxi (o : Upper) (s : State) : Out :=
  issue (infoC (opJ 0x15 + o.bits) 0 [.ox o.d.toNat]) (do
    scored (.ox o.d.toNat) (.word (zx o.imm))
    pure .next) s

/-- LOX (R107). -/
def execLox (o : A2) (s : State) : Out :=
  issue (infoC (opA 0x16 0 + o.bits) o.w.toNat [.ox o.d.toNat, .s o.a.toNat]) (do
    let a ← getSr o.a
    scored (.ox o.d.toNat) (.word a)
    pure .next) s

/-- SOX (R107). -/
def execSox (o : A2) (s : State) : Out :=
  issue (infoC (opA 0x16 1 + o.bits) o.w.toNat [.s o.d.toNat, .ox o.a.toNat]) (do
    let x ← getOx o.a.toNat
    giveS o.d x
    pure .next) s

/-! ## FEATQ and IMPLQ (R111, R348) -/

/-- FEATQ words (R348). -/
def featWord (s : State) (n : Nat) : Word :=
  match n with
  | 0 =>
    BitVec.ofNat 64 (bit s.cfg.tutor 0 + bit s.cfg.tutor 1 + bit ((List.range 8).any s.cfg.portPcap) 2
      + bit s.pkg.fab.en 3)
  | 1 => BitVec.ofNat 64 (2 ^ s.cfg.links - 1)
  | 2 => 0x10000
  | _ => 0

/-- IMPLQ words (R348). -/
def implWord (s : State) (n : Nat) : Word :=
  if 16 ≤ n ∧ n < 28 then BitVec.ofNat 64 (s.cfg.stack (n - 16))
  else if 28 ≤ n ∧ n < 36 then BitVec.ofNat 64 (s.cfg.port (n - 28))
  else match n with
    | 0 => 4
    | 1 => 32
    | 2 => 1024
    | 3 => 1500
    | 4 => 2400
    | 5 => BitVec.ofNat 64 Config.deviceBase
    | 6 => BitVec.ofNat 64 Config.ftBase
    | 7 => BitVec.ofNat 64 (Config.dieBase + 0x10000)
    | 8 => 65536
    | 9 => 4096
    | _ => 0

/-- FEATQ (R111). -/
def execFeatq (o : A2) (s : State) : Out :=
  issue (infoC (opA 0x16 16 + o.bits) o.w.toNat (usesDA o.d o.a)) (do
    let a ← getSr o.a
    let s ← getS
    giveS o.d (featWord s (a.toNat % 256))
    pure .next) s

/-- IMPLQ (R111). -/
def execImplq (o : A2) (s : State) : Out :=
  issue (infoC (opA 0x16 17 + o.bits) o.w.toNat (usesDA o.d o.a)) (do
    let a ← getSr o.a
    let s ← getS
    giveS o.d (implWord s (a.toNat % 256))
    pure .next) s

/-! ## TRET and WFI (R110, R111) -/

/-- TRET (R33, R110, R155, R184): a resume PC with bit 0 set traps ALIGN and transfers nothing (R42). -/
def execTret (o : A0) (s : State) : Out :=
  issue (infoP (opA 0x16 24 + o.bits) o.w.toNat []) (do
    let s ← getS
    trapIf (s.me.sys.tpc.getLsbD 0) 4 0 s.me.sys.tpc
    modMe Strand.tret
    pure .placed) s

/-- WFI (R111): waits for an interrupt, an inbox arrival or a pre-emption entry pending for its core, whatever IE holds. -/
def execWfi (o : A0) (s : State) : Out :=
  issue (infoP (opA 0x16 25 + o.bits) o.w.toNat []) (do
    let s ← getS
    stallIf (!awake s s.coreNo) .interrupt
    pure .next) s

end Sys2Proof.Machine
end

