-- ==== Sys2Proof/Machine/Scan.lean ====
section
/-! DEFINITION. What the test port's scan of a frozen package reads (R344): every register and memory. DESIGN CHOICE (log entry 73): which
arrays there are, their names, and the order of the fields of an entry. -/

namespace Sys2Proof.Machine

/-- Flags as a number, the first in bit 0. -/
def flagBits (bs : List Bool) : Nat := (bs.zipIdx.map (fun p => bit p.1 p.2)).sum

/-- An optional number: 0 for none, otherwise one more. -/
def optNat (o : Option Nat) : Nat := (o.map (· + 1)).getD 0

/-- What a slot runs, as a number. -/
def Job.code : Job → List Nat
  | .none => [0, 0]
  | .task id => [1, id]
  | .actor n => [2, n]
  | .handler => [3, 0]
  | .overflow => [4, 0]
  | .restore => [5, 0]
  | .thread => [6, 0]
  | .firmware => [7, 0]

/-- The registers of a slot that no instruction reads as one of its own: state, job, group, domains, reservation, segment, unwind, flags,
steps. -/
def Strand.scanned (x : Strand) : List Nat :=
  [match x.st with | .free => 0 | .active => 1 | .parked => 2] ++ x.job.code
    ++ [optNat x.gid, x.dom, x.base, optNat (x.res.map Prod.fst), x.resAt, x.seg.toNat,
        flagBits [x.spec, x.inTrap, x.entry, x.replied, x.preempt], x.nest, x.parks, optNat x.podWin, x.q.flags.toNat,
        x.c.step, x.c.idle, x.v.step, x.v.idle, x.await.length]
    ++ (match x.unw with
        | none => [0]
        | some u => [1, u.k, u.dom, u.left, flagBits [u.clean, u.killing, u.budget, u.forced, u.skip]])

/-- A gate-table entry. -/
def Gate.scanned (g : Gate) : List Nat :=
  [g.gen, flagBits [g.desc.isSome, g.retired]]
    ++ (match g.desc with
        | none => []
        | some d => [d.word0.toNat, d.entry.toNat, d.cleanup.toNat, d.stkbase.toNat, d.callers.toNat, d.wmax])

/-- A task of the task unit. -/
def Task.scanned (t : Task) : List Nat :=
  [t.ts.toNat, flagBits [t.timed], t.pri.toNat, optNat t.pin, t.entry.toNat, t.dom, t.domGen, t.gid, optNat t.parent]
    ++ (match t.st with
        | .attached c => [0, c] | .queued => [1, 0] | .firing six => [2, six] | .finished => [3, 0] | .deferred p _ => [4, p])
    ++ t.args.map BitVec.toNat

/-- A bell channel. -/
def Bell.scanned (b : Bell) : List Nat :=
  [match b.kind with | none => 0 | some false => 1 | some true => 2, b.phase, b.count, optNat b.rop, b.arrived, b.done, b.front, b.lastWin]
    ++ b.values.map (fun v => v.2.toNat) ++ b.results.flatMap (fun r => [r.1, r.2.1.toNat, r.2.2])
    ++ b.opens.flatMap (fun o => [o.1, o.2.1, o.2.2.1, o.2.2.2])

/-- A task group. -/
def Group.scanned (g : Group) : List Nat :=
  [g.die, g.queue, g.tenant, g.asid, g.desc0.toNat, g.stk.toNat, g.quantum.toNat, g.ovfe.toNat, g.ovfa.toNat, g.tvec.toNat, g.spill.toNat,
   g.seg.toNat, g.signal.toNat, flagBits [g.preempting, g.saved, g.failed]] ++ g.cores

/-- A message. -/
def Msg.scanned (m : Msg) : List Nat := [m.gid, m.hdr.toNat, optNat (m.entry.map BitVec.toNat)] ++ m.payload.map BitVec.toNat

/-- An entry of a request port or handler queue. -/
def HandlerEntry.scanned : HandlerEntry → List Nat
  | .message m => 0 :: m.scanned
  | .atomic a => [1, a.six, a.off, a.args.op, a.args.size, a.args.b.toNat, a.args.cmp.toNat, a.args.b2.toNat, a.args.cmp2.toNat, a.dest]

/-- A FIFO of an actor. -/
def Fifo.scanned (f : Fifo) : List Nat := [flagBits [f.en], f.rate, f.cap, f.base, f.head, f.count]

/-- An entry of an actor table. -/
def Actor.scanned (a : Actor) : List Nat :=
  [a.gid, a.dom, a.domGen, a.entry.toNat, a.pri.toNat, flagBits [a.busy], a.fired] ++ (a.ins ++ a.outs).flatMap Fifo.scanned
    ++ a.dests.map BitVec.toNat

/-- A command of an engine or message unit. -/
def Cmd.scanned (k : Cmd) : List Nat :=
  [k.id, k.six, match k.kind with | .copy => 0 | .copymm => 1 | .bpref => 2 | .rget => 3 | .rput => 4, k.token, k.src.toNat, k.dst.toNat,
   k.rows, k.spl, k.dpl, k.len, k.asid, k.tag, k.depth, flagBits [k.pm, k.begun, k.held], k.done]

/-- A matrix command. -/
def MxCmd.scanned (k : MxCmd) : List Nat :=
  [k.id, k.six, k.enc, k.td, k.ta, k.specA.toNat, k.specB.toNat, k.mcfg.toNat, k.mgb.toNat, k.asid, k.depth, k.mode.toNat,
   flagBits [k.pm, k.begun, k.held]]

/-- The registers of a region slot of a Tutor engine. -/
def TutorSlot.scanned (t : TutorSlot) : List Nat :=
  [t.asid, t.ogen, t.gen, t.mode.toNat, flagBits [t.conf, t.impure, t.diverged], t.fbcnt, t.start.toNat, t.stop.toNat, t.word2.toNat,
   t.lrate.toNat, t.thresh.toNat, t.hard.toNat, t.err.toNat, t.calls, t.served, t.taken, t.updates, t.sinceTrain]

/-- The weights of a region slot, then the inputs and results of its samples. -/
def TutorSlot.sram (t : TutorSlot) : List Nat :=
  t.weights.map BitVec.toNat ++ t.samples.flatMap (fun p => (p.1 ++ p.2).map BitVec.toNat)

/-- A line of an L1. -/
def L1Line.scanned (l : L1Line) : List Nat :=
  [l.pa, match l.cls with | .normal => 0 | .sync => 1 | .append => 2 | .sealed => 3 | .device => 4, l.valid.toNat, l.owned.toNat,
   l.data.toNat, l.stamp]

/-- A cached translation. -/
def Tlb.scanned (t : Tlb) : List Nat := [t.pa, t.cls.toNat, t.leaf, flagBits [t.user, t.r, t.w, t.x, t.a, t.d]]

/-- A directory entry. -/
def DirLine.scanned (d : DirLine) : List Nat := [optNat d.owner, flagBits [d.dirty]] ++ d.sharers

/-- A held request. -/
def Held.scanned (h : Held) : List Nat :=
  [h.id, h.six, h.asid, h.va.toNat, h.depth, h.kind, h.op.bytes, flagBits [h.pm, h.acq, h.rel, h.write, h.now]]

/-- A link. -/
def Link.scanned (k : Link) : List Nat :=
  [flagBits [k.up, k.resend, k.nak, k.peerOff, k.off], k.lanes, k.peer, k.plink, k.replays, k.sendSeq, k.recvSeq]
    ++ k.replay.map Prod.fst ++ k.input.map BitVec.toNat

/-- The fields of an entry of an array of records. -/
def scanFields (s : State) (a : ScanArray) : List Nat :=
  match a with
  | .gen x => (s.strand x).v.gen.map BitVec.toNat
  | .mreg x => [(s.strand x).v.mcfg.toNat, (s.strand x).v.mgb.toNat]
  | .slot x => (s.strand x).scanned
  | .frame x n => ((s.strand x).frames[n]?.map (fun f => [f.encode])).getD []
  | .c2v x => (s.strand x).q.c2v.map BitVec.toNat
  | .v2c x => (s.strand x).q.v2c.map BitVec.toNat
  | .branch x => (s.strand x).q.bq.map (fun b => bit b 0)
  | .measure => (List.range 8).map (fun i => (tblGet 0 s.pkg.mgmt.m i).toNat)
  | .gate n => (s.gate n).scanned
  | .dom n => [domWord n (s.dom n), (s.dom n).root]
  | .task n => ((s.task n).map Task.scanned).getD []
  | .counter n => let c := tblGet { gen := 0, count := 0, gid := none } s.counters n; [c.gen, c.count, optNat c.gid]
  | .bell n => (s.bell n).scanned
  | .group n => ((s.group n).map Group.scanned).getD []
  | .inbox c n => ((s.core c).inbox[n]?.map Msg.scanned).getD []
  | .port c n => ((s.core c).port[n]?.map HandlerEntry.scanned).getD []
  | .handlers c n => ((s.core c).hq[n]?.map HandlerEntry.scanned).getD []
  | .requests c n => ((s.core c).reqBuf[n]?.map (fun m => m.target :: m.msg.scanned)).getD []
  | .replies c n => ((s.core c).repBuf[n]?.map (fun m => m.target :: m.msg.scanned)).getD []
  | .repNet c n => ((s.core c).repNet[n]?.map Msg.scanned).getD []
  | .actor c n => ((tblGet none (s.core c).actors n).map Actor.scanned).getD []
  | .interrupts c => (s.core c).intr.flatMap (fun p => [p.1, p.2])
  | .pool c n => ((s.cluster c).pool[n]?.map (fun e => [e.gid, e.key, e.lo, e.hi])).getD []
  | .engine c n => ((s.cluster c).cmds[n]?.map Cmd.scanned).getD []
  | .matrix c n => ((s.cluster c).mx[n]?.map MxCmd.scanned).getD []
  | .migration c => (s.cluster c).migq
  | .tutor c n => (tblGet .off (s.cluster c).tutor n).scanned
  | .weights c n => (tblGet .off (s.cluster c).tutor n).sram
  | .sample c n => ((s.cluster c).samples[n]?.map (fun p =>
      [p.six, p.slot, p.gen] ++ (p.inputs ++ p.results).map BitVec.toNat)).getD []
  | .l1 k => (tblGet .empty s.l1 k).scanned
  | .tlb k => ((tblGet none s.tlb k).map Tlb.scanned).getD []
  | .dir k => (tblGet .none s.dir k).scanned
  | .held n => (s.held[n]?.map Held.scanned).getD []
  | .link n => (tblGet .down s.pkg.fab.links n).scanned
  | _ => []

/-- One entry of a state array: a byte, a register, a doubleword of the DEVICE region, or a field of a record, 0 past its last. -/
def scanValue (s : State) (a : ScanArray) (i : Nat) : Nat :=
  match a with
  | .mem => (memGet s.mem i).toNat
  | .pmem => (memGet s.pmem i).toNat
  | .lmem => (memGet s.lmem i).toNat
  | .dmem => (memGet s.dmem i).toNat
  | .s x => ((s.strand x).readS i).toNat
  | .k x => ((s.strand x).readK i).toNat
  | .v x => let r := (s.strand x).readV i; r.data.toNat + 2 ^ 1024 * r.side.toNat + 2 ^ 1088 * r.tag.toNat
  | .m x => ((s.strand x).readM i).toNat
  | .t x => let r := (s.strand x).readT i; r.data.toNat + 2 ^ 32768 * r.tag.toNat
  | .ox x => ((s.strand x).readOx i).toNat
  | .sys x => (readSys (s.strand x) (slotOf x) i).toNat
  | .pc x => (if i = 0 then (s.strand x).c.pc else (s.strand x).v.pc).toNat
  | .device => deviceWord s (Config.deviceBase + 8 * i)
  | a => (scanFields s a).getD i 0

end Sys2Proof.Machine
end

