-- ==== Sys2Proof/Machine/Events.lean ====
section
/-! DEFINITION. Events of the package: its tables and registers (R143, R257, R259, R285, R335, R336, R343, R344, R346, R360), power
(R212, R342), reset (R347), the host (R338 to R341), and uncorrectable errors in memory (R166, R334). -/

namespace Sys2Proof.Machine

/-! ## Stores to tables and registers -/

/-- DOMAIN_ROOT_STORE (R143). -/
def execDomainRootStore (asid : Nat) (v : Word) (s : State) : Out :=
  event (whenever (decide (asid < 4096)) (domRootStore asid v)) s

/-- DOMAIN_ACTIVATE (R143). -/
def execDomainActivate (asid : Nat) (v : Word) (s : State) : Out :=
  event (whenever (decide (asid < 4096)) (domActivate asid v)) s

/-- FRAME_ASSIGN_OWNER (R259). -/
def execFrameAssignOwner (fr : Nat) (v : Word) (s : State) : Out := event (whenever true (frameAssignOwner fr v)) s

/-- FRAME_SET_APPEND (R259). -/
def execFrameSetAppend (fr : Nat) (v : Word) (s : State) : Out := event (whenever true (frameSetAppend fr v)) s

/-- CSP_BLOCK_STORE (R257). -/
def execCspBlockStore (die b : Nat) (v : Word) (s : State) : Out :=
  event (whenever (decide (die < 4 ∧ b < 64)) (blockStore die b v)) s

/-- CSP_BLOCK_INSTALL (R257). -/
def execCspBlockInstall (die b : Nat) (s : State) : Out :=
  event (whenever (decide (die < 4 ∧ b < 64)) (blockInstall die b)) s

/-- QUEUE_NOTIFY (R285). -/
def execQueueNotify (die q : Nat) (s : State) : Out :=
  event (whenever (decide (die < 4 ∧ q < 1024)) (queueNotify die q)) s

/-- QUEUE_MAP (R285). -/
def execQueueMap (die q : Nat) (s : State) : Out :=
  event (whenever (decide (die < 4 ∧ q < 1024)) (queueMap die q)) s

/-- PMARK_WRITE (R335). -/
def execPmarkWrite (p : Nat) (v : Word) (s : State) : Out := event (whenever (decide (p < 8)) (pmarkWrite p v)) s

/-- PBUDGET_WRITE (R343). -/
def execPbudgetWrite (v : Word) (s : State) : Out := event (whenever true (pbudgetWrite v)) s

/-- GATEREQ_WRITE (R343). -/
def execGatereqWrite (v : Word) (s : State) : Out := event (whenever true (gatereqWrite v)) s

/-- FREEZE_PIN (R344). -/
def execFreezePin (s : State) : Out := event (whenever true freeze) s

/-- FREEZE_WRITE (R344). -/
def execFreezeWrite (v : Word) (s : State) : Out := event (whenever true (freezeWrite v)) s

/-- EXTEND (R345, R346): the extend that a command has started ends. -/
def execExtend (s : State) : Out := event (whenever true extend) s

/-- QUOTE (R346): the quote that a command has started ends. -/
def execQuote (s : State) : Out := event (whenever true quote) s

/-- RESET (R347). -/
def execReset (s : State) : Out := event (put .reset) s

/-- WINCFG_WRITE (R360). -/
def execWincfgWrite (v : Word) (s : State) : Out := event (whenever true (wincfgWrite v)) s

/-- HOSTINT (R341). -/
def execHostint (f : Nat) (v : Word) (s : State) : Out := event (whenever true (hostint f v)) s

/-- REGISTER_WRITE (R336): an aligned doubleword store in the DEVICE region. -/
def execRegisterWrite (pa : Nat) (v : Word) (s : State) : Out :=
  event (whenever (inDevice pa && !inHostWindow pa && decide (pa % 8 = 0)) (deviceStore pa 8 v)) s

/-! ## Power (R212, R342, R343) -/

/-- The cores of a cluster: its compute cores and its principal core. -/
def clusterCores (cl : Nat) : List Nat := (List.range 32).map (fun i => 32 * cl + i) ++ [principalOf cl]

/-- Whether a task group is bound to a core. -/
def groupBound (s : State) (core : Nat) : Bool := s.groups.any (fun p => p.2.any (fun g => !g.saved && g.cores.contains core))

/-- Whether a cluster can be gated (R212): asked for, no group bound to its cores and no firing in their slots, engine,
scoreboard, lock table and pool empty. -/
def gateable (s : State) (cl : Nat) : Bool :=
  let c := s.cluster cl
  decide (cl < 32) && s.pkg.gatereq.getLsbD cl && !s.pkg.gated.getLsbD cl
    && (clusterCores cl).all (fun k => !groupBound s k && (List.range 8).all (fun i => decide ((s.strand (8 * k + i)).st = .free)))
    && c.cmds.isEmpty && c.mx.isEmpty && c.pool.isEmpty

/-- A core loses its supply: scratchpad and lane slices read zero once it is powered again, its L1 holds nothing. -/
def unpower (core : Nat) (s : State) : List Effect :=
  let words := fun (base size : Nat) => (s.poison.filter (fun p =>
    decide (base + core * size / 4 ≤ p.1 ∧ p.1 < base + (core + 1) * size / 4))).map (fun p => Effect.poison p.1 false)
  [.pmemClear (core * 2 ^ 19) ((core + 1) * 2 ^ 19), .lmemClear (core * 2 ^ 16) ((core + 1) * 2 ^ 16)]
    ++ words poisonP (2 ^ 19) ++ words poisonL (2 ^ 16)
    ++ (s.l1.filter (fun p => decide (p.1 / 2 ^ 60 = core))).map (fun p => .l1 p.1 .empty)
    ++ [.core core { s.core core with tenant := none }]

/-- CLUSTER_GATING (R212). -/
def execClusterGating (cl : Nat) (s : State) : Out :=
  event (whenever (gateable s cl) (chain
    ((clusterCores cl).map unpower
      ++ [fun s => s.strands.filterMap (fun p =>
            if p.2.res.isSome && (clusterCores cl).contains (coreOf p.1) then some (.strand p.1 { p.2 with res := none }) else none),
          fun s => let c := s.cluster cl
            [.cluster cl { c with tutor := tblMap .off (fun _ t => t.invalidated) c.tutor, samples := [] }],
          fun s => [.pkg { s.pkg with gated := s.pkg.gated ||| (1#32 <<< cl) }]]))) s

/-- CLUSTER_UNGATING (R343). -/
def execClusterUngating (cl : Nat) (s : State) : Out :=
  event (whenever (decide (cl < 32) && !s.pkg.gatereq.getLsbD cl && s.pkg.gated.getLsbD cl)
    (fun s => [.pkg { s.pkg with gated := s.pkg.gated &&& ~~~(1#32 <<< cl) }])) s

/-- POWER_INTERVAL (R342, R343): which ungated clusters were throttled. -/
def execPowerInterval (throt : Word) (s : State) : Out :=
  event (whenever true (fun s => [.pkg { s.pkg with throt := throt.extractLsb' 0 32 &&& ~~~s.pkg.gated }])) s

/-! ## The host (R338 to R341) -/

/-- A refusal recorded in a function's Advanced Error Reporting registers. -/
def aerNote (f : Nat) (s : State) : Effect := .pkg { s.pkg with aer := tblSet 0 s.pkg.aer f (tblGet 0 s.pkg.aer f + 1) }

/-- Whether a function may access a frame (R339). A tenant whose OTAG is unset owns none (DEDUCED, log entry 47). -/
def hostMay (s : State) (f : Nat) (pa : Nat) (write : Bool) : Bool :=
  match frameIndex s.cfg pa with
  | none => false
  | some i =>
    let e := s.frame i
    let t := s.tenant f
    decide (f = 64) || (decide (f < 64 ∧ t.otag ≠ 0 ∧ e.owner = t.otag)
      && (match e.st with | .ordinary => true | .scrub => false | _ => !write))

/-- The class of a frame's bytes as the host reads them. -/
def hostClass (s : State) (pa : Nat) : MClass :=
  match (frameIndex s.cfg pa).map (fun i => (s.frame i).st) with
  | some .append => .append
  | some .sealed => .sealed
  | _ => .normal

/-- A host write within a word, at its directory home (R255, R339). -/
def hostWriteAt (f pa n v : Nat) (s : State) : List Effect :=
  if hostMay s f pa true && (memCheck s false pa n).isNone then
    chain [homeStore none none (dirHome pa) pa n v, fun _ => [.dir (dirKey pa) .none]] s
  else [aerNote f s]

/-- Whether the host may read bytes within a word. -/
def hostReads (s : State) (f pa n : Nat) : Bool := hostMay s f pa false && (memCheck s true pa n).isNone

/-- HOST_WRITE (R339): an aligned word. -/
def execHostWrite (f pa : Nat) (v : Lane) (s : State) : Out :=
  event (whenever (decide (f ≤ 64 ∧ pa % 4 = 0)) (hostWriteAt f pa 4 v.toNat)) s

/-- HOST_READ (R339). A poisoned word completes with Unsupported Request (log entry 38). -/
def execHostRead (f pa : Nat) (s : State) : Out :=
  event (whenever (decide (f ≤ 64 ∧ pa % 4 = 0)) (fun s =>
    if hostReads s f pa 4 then
      [.output (.readReply f (BitVec.ofNat 32 (bytesSeen s (hostClass s pa) pa 4)))]
    else [aerNote f s, .output (.unsupported f)])) s

/-- The pieces of [pa, pa + n), each within one aligned word: address, length, and the piece of a value. -/
def hostPieces : Nat → Nat → Nat → Nat → List (Nat × Nat × Nat)
  | 0, _, _, _ => []
  | _, _, 0, _ => []
  | k + 1, pa, n, v =>
    let m := min n (4 - pa % 4)
    (pa, m, v % 2 ^ (8 * m)) :: hostPieces k (pa + m) (n - m) (v / 2 ^ (8 * m))

/-- A function's read through a BAR (R338, R339): BAR 0 of PF0 is the DEVICE region, read with privilege; BAR 0 of a virtual
function holds its notify pages, which read zero, its MSI-X table and its pending bits; BAR 2 is memory. -/
def barRead (f bar a n : Nat) (s : State) : List Effect :=
  let reply := fun (v : Nat) => [Effect.output (.barReply f n (BitVec.ofNat 64 (v % 2 ^ (8 * n))))]
  if 64 < f ∨ 8 < n then []
  else if bar = 2 then
    if (hostPieces n a n 0).all (fun p => hostReads s f p.1 p.2.1) then
      reply (((hostPieces n a n 0).map (fun p => bytesSeen s (hostClass s p.1) p.1 p.2.1 * 2 ^ (8 * (p.1 - a)))).sum)
    else [aerNote f s, .output (.unsupported f)]
  else if f = 64 then (if a < 2 ^ 30 ∧ a % 8 + n ≤ 8 then reply (deviceRead s (Config.deviceBase + a) n) else [])
  else if 0x40000 ≤ a ∧ a + n ≤ 0x40400 then reply (memRead s.pkg.msix (f * 1024 + (a - 0x40000)) n)
  else if 0x41000 ≤ a ∧ a + n ≤ 0x41008 then reply ((tblGet 0 s.pkg.pending f).toNat / 2 ^ (8 * (a - 0x41000)))
  else if a < 0x80000 then reply 0 else []

/-- A notify through BAR 0 of a virtual function (R339): dropped where the queue is another tenant's. -/
def hostNotify (f die q : Nat) (s : State) : List Effect := if (queueOf s die q).tenant = f then queueNotify die q s else []

/-- A function's write through a BAR (R338, R339). -/
def barWrite (f bar a n : Nat) (v : Word) (s : State) : List Effect :=
  if 64 < f ∨ 8 < n then []
  else if bar = 2 then chain ((hostPieces n a n v.toNat).map (fun p => hostWriteAt f p.1 p.2.1 p.2.2)) s
  else if f = 64 then (if a < 2 ^ 30 ∧ a % 8 + n ≤ 8 then deviceStore (Config.deviceBase + a) n v s else [])
  else if a < 0x40000 then hostNotify f (a / 0x10000) (a % 0x10000 / 64) s
  else if 0x40000 ≤ a ∧ a + n ≤ 0x40400 then msixWrite f (a - 0x40000) n v.toNat s
  else []

/-- HOST_NOTIFY (R339): dropped where the queue is another tenant's. -/
def execHostNotify (f die q : Nat) (s : State) : Out :=
  event (whenever (decide (f < 64 ∧ die < 4 ∧ q < 1024)) (hostNotify f die q)) s

/-- Kill a tenant's groups and unmap its queues (R341). -/
def resetTenant (t : Nat) (s : State) : List Effect :=
  chain
    (((s.groups.filter (fun p => p.2.any (fun g => g.tenant == t && !g.failed))).map (fun p => fun s => killGroup s p.1))
      ++ [fun s => s.dies.map (fun d => .die d.1 { d.2 with
            queues := tblMap .reset (fun _ q =>
              if q.tenant = t then { q with mapped := false, pend := false, woken := false } else q) d.2.queues })]) s

/-- FLR_VF (R341). -/
def execFlrVf (t : Nat) (s : State) : Out := event (whenever (decide (t < 64)) (resetTenant t)) s

/-- FLR_PF (R341). -/
def execFlrPf (s : State) : Out := event (whenever true (chain ((List.range 64).map resetTenant))) s

/-- Whether an access beyond the package is one that an instruction or a command processor waits for. -/
def gotWaits (s : State) (six id : Nat) : Bool := decide (2 ^ 20 ≤ six) || (s.strand six).got.any (fun g => g.id == id)

/-- A window load that is not completed, or completed with an error (R340). -/
def hostLoadFailed (id : Nat) (s : State) : List Effect :=
  match s.pkg.loads.find? (fun l => l.id == id) with
  | none => []
  | some l =>
    chain
      [fun s => [.pkg { s.pkg with loads := s.pkg.loads.filter (fun y => y.id != id) }],
       if gotWaits s l.six id then answerGot l.six id { v := 0, res := 18, state := 0 }
       else checkError l.six id 2 (BitVec.ofNat 64 (Config.windowBase + l.addr))] s

/-- A window load that completes (R340), an acquire where its instruction is one (R98). -/
def hostLoadDone (id : Nat) (v : Word) (s : State) : List Effect :=
  match s.pkg.loads.find? (fun l => l.id == id) with
  | none => []
  | some l =>
    chain
      [fun s => [.pkg { s.pkg with loads := s.pkg.loads.filter (fun y => y.id != id) }],
       fun s => if l.acq then acquire (coreOf l.six) s else [],
       if gotWaits s l.six id then answerGot l.six id { v := v, res := 0, state := 0 }
       else deliverAwaited l.six id (if l.dest = 0 then [] else [(l.dest, extendLoad l.size l.signed v.toNat)])] s

/-- PCIE_LOAD_TIMEOUT (R340). -/
def execPcieLoadTimeout (id : Nat) (s : State) : Out := event (whenever true (hostLoadFailed id)) s

/-! ## Uncorrectable errors in memory (R166, R257, R334) -/

/-- POISONED_LINE: a line of HBM or capacity memory (0) or of a chip scratchpad (1); a word of a core scratchpad (2) or of a lane
slice (3). -/
def execPoisonedLine (sp : Nat) (addr : Nat) (s : State) : Out :=
  let line := fun (base : Nat) => (List.range 16).map (fun i => Effect.poison (base + addr / 64 * 16 + i) true)
  event (
    match sp with
    | 0 => whenever (populated s.cfg addr) (fun _ => line poisonMem)
    | 1 => whenever (decide (addr < 4 * 2 ^ 26)) (fun _ => line poisonD)
    | 2 => whenever (decide (addr < Config.principalEnd * 2 ^ 19)) (fun _ => [.poison (poisonP + addr / 4) true])
    | 3 => whenever (decide (addr < Config.principalEnd * 2 ^ 16)) (fun _ => [.poison (poisonL + addr / 4) true])
    | _ => pure ()) s

/-- An error of a capacity port's link begins or ends (R264; which accesses meet it: DESIGN CHOICE, log entry 76). -/
def portError (port : Nat) (on : Bool) (s : State) : List Effect :=
  let m : BitVec 8 := 1#8 <<< port
  if port < 8 then [.pkg { s.pkg with portErr := if on then s.pkg.portErr ||| m else s.pkg.portErr &&& ~~~m }] else []

/-! ## The test port (R344) -/

/-- The instruction of the test port that selects the scan of a state array. -/
def tapScanCode : BitVec 6 := 0x2C

/-- An instruction shifted into the test port. The mandatory instructions of IEEE 1149.1 act on the pins, which are no state here. -/
def tapInstr (i : BitVec 6) (s : State) : List Effect := [.pkg { s.pkg with tapIr := i }]

/-- A scan of a frozen package: read-only. -/
def tapScan (a : ScanArray) (i : Nat) (s : State) : List Effect :=
  if s.pkg.frozen && s.pkg.tapIr == tapScanCode then [.output (.tap (scanValue s a i))] else []

end Sys2Proof.Machine
end

