-- ==== Sys2Proof/Machine/LoadStore.lean ====
section
/-! DEFINITION. Loads and stores, acquire and release, atomics, append, tail query and seal (R92 to R106) and the 16-bit
forms of loads and stores (R48). -/

namespace Sys2Proof.Machine

/-! ## Loads and stores (R92, R93) -/

/-- The registers of format M. -/
def usesM (o : Mem) : List RegId := [.s o.d.toNat, .s o.base.toNat]

/-- A load of format M: major, ord, signedness. -/
def loadM (major ord : Nat) (signed : Bool) (o : Mem) (s : State) : Out :=
  issue (infoM (opM major ord 0 + o.bits) o.space.toNat (usesM o)) (do
    let base ← getSr o.base
    access (spaceOf o.space.toNat) (.load o.d.toNat (2 ^ ord) signed) (effAddr base o.off (2 ^ ord)) false false
    pure .next) s

/-- A store of format M. -/
def storeM (ord : Nat) (o : Mem) (s : State) : Out :=
  issue (infoM (opM 0x0A ord 0 + o.bits) o.space.toNat (usesM o)) (do
    let base ← getSr o.base
    let v ← getSr o.d
    access (spaceOf o.space.toNat) (.store (2 ^ ord) v) (effAddr base o.off (2 ^ ord)) false false
    pure .next) s

/-- LDBN (R93). -/
def execLdbn (o : Mem) (s : State) : Out := loadM 0x08 0 false o s

/-- LDHN (R93). -/
def execLdhn (o : Mem) (s : State) : Out := loadM 0x08 1 false o s

/-- LDWN (R93). -/
def execLdwn (o : Mem) (s : State) : Out := loadM 0x08 2 false o s

/-- LDD (R93). -/
def execLdd (o : Mem) (s : State) : Out := loadM 0x08 3 false o s

/-- LDB (R93). -/
def execLdb (o : Mem) (s : State) : Out := loadM 0x09 0 true o s

/-- LDH (R93). -/
def execLdh (o : Mem) (s : State) : Out := loadM 0x09 1 true o s

/-- LDW (R93). -/
def execLdw (o : Mem) (s : State) : Out := loadM 0x09 2 true o s

/-- STB (R93). -/
def execStb (o : Mem) (s : State) : Out := storeM 0 o s

/-- STH (R93). -/
def execSth (o : Mem) (s : State) : Out := storeM 1 o s

/-- STW (R93). -/
def execStw (o : Mem) (s : State) : Out := storeM 2 o s

/-- STD (R93). -/
def execStd (o : Mem) (s : State) : Out := storeM 3 o s

/-- LDACQ (R54, R93, R98): the size is 2 ^ ord. -/
def execLdacq (o : MemO) (s : State) : Out :=
  issue (infoM (opM 0x0B 0 0 + o.bits) o.space.toNat (usesDA o.d o.base)) (do
    let base ← getSr o.base
    let size := 2 ^ o.ord.toNat
    access (spaceOf o.space.toNat) (.load o.d.toNat size false) (effAddr base o.off size) true false
    pure .next) s

/-- STREL (R54, R93, R98). -/
def execStrel (o : MemO) (s : State) : Out :=
  issue (infoM (opM 0x0B 0 1 + o.bits) o.space.toNat (usesDA o.d o.base)) (do
    let base ← getSr o.base
    let v ← getSr o.d
    let size := 2 ^ o.ord.toNat
    access (spaceOf o.space.toNat) (.store size v) (effAddr base o.off size) false true
    pure .next) s

/-- A 16-bit load or store at g:0(a) (R48). -/
def load16 (op size : Nat) (signed : Bool) (o : CR) (s : State) : Out :=
  issue (info16 (opC op 0 + o.bits) (usesDA o.d o.a)) (do
    let base ← getSr o.a
    access .g (.load o.d.toNat size signed) base false false
    pure .next) s

def store16 (op size : Nat) (o : CR) (s : State) : Out :=
  issue (info16 (opC op 1 + o.bits) (usesDA o.d o.a)) (do
    let base ← getSr o.a
    let v ← getSr o.d
    access .g (.store size v) base false false
    pure .next) s

/-- C_LDW (R48): LDW with offset 0. -/
def execCLdw (o : CR) (s : State) : Out := load16 11 4 true o s

/-- C_STW (R48). -/
def execCStw (o : CR) (s : State) : Out := store16 11 4 o s

/-- C_LDD (R48). -/
def execCLdd (o : CR) (s : State) : Out := load16 12 8 false o s

/-- C_STD (R48). -/
def execCStd (o : CR) (s : State) : Out := store16 12 8 o s

/-! ## Atomics (R101 to R103) -/

/-- The acquire and release bits of an atomic (R54). -/
def acqBit (q : BitVec 2) : Bool := q.getLsbD 0
def relBit (q : BitVec 2) : Bool := q.getLsbD 1

/-- An atomic of operation `op` (R101, R102): a holds EA, b the operand, d the comparison value. -/
def atomic (op : Nat) (o : Atom) (s : State) : Out :=
  issue (infoC (opAt op + o.bits) o.w.toNat (usesDAB o.d o.a o.b)) (do
    let ea ← getSr o.a
    let b ← getSr o.b
    let d ← getSr o.d
    let args : AtomicArgs := { op := op, size := sizeOf o.z, b := b, cmp := d, b2 := 0, cmp2 := 0 }
    access (atomSpace o.sp) (.atomic o.d.toNat args) ea (acqBit o.q) (relBit o.q)
    pure .next) s

/-- AADD (R102). -/
def execAadd (o : Atom) (s : State) : Out := atomic 0 o s

/-- AAND (R102). -/
def execAand (o : Atom) (s : State) : Out := atomic 1 o s

/-- AOR (R102). -/
def execAor (o : Atom) (s : State) : Out := atomic 2 o s

/-- AXOR (R102). -/
def execAxor (o : Atom) (s : State) : Out := atomic 3 o s

/-- AMIN (R102). -/
def execAmin (o : Atom) (s : State) : Out := atomic 4 o s

/-- AMAX (R102). -/
def execAmax (o : Atom) (s : State) : Out := atomic 5 o s

/-- AMINN (R102). -/
def execAminn (o : Atom) (s : State) : Out := atomic 6 o s

/-- AMAXN (R102). -/
def execAmaxn (o : Atom) (s : State) : Out := atomic 7 o s

/-- ASWAP (R102). -/
def execAswap (o : Atom) (s : State) : Out := atomic 8 o s

/-- ACAS (R102). -/
def execAcas (o : Atom) (s : State) : Out := atomic 9 o s

/-- AFADD (R102). -/
def execAfadd (o : Atom) (s : State) : Out := atomic 10 o s

/-- LR (R103): loads and reserves the granule. -/
def execLr (o : AtomLr) (s : State) : Out :=
  issue (infoC (opAt 11 + o.bits) o.w.toNat (usesDA o.d o.a)) (do
    let ea ← getSr o.a
    access .g (.lr o.d.toNat (sizeOf o.z)) ea (acqBit o.q) (relBit o.q)
    pure .next) s

/-- SC (R103): stores if the reservation is held and covers EA; d := 0, or 1 where it did not. -/
def execSc (o : AtomG) (s : State) : Out :=
  issue (infoC (opAt 12 + o.bits) o.w.toNat (usesDAB o.d o.a o.b)) (do
    let ea ← getSr o.a
    let b ← getSr o.b
    access .g (.sc o.d.toNat (sizeOf o.z) b) ea (acqBit o.q) (relBit o.q)
    pure .next) s

/-- ACAS2 (R102): 16 bytes through the pairs (d, d + 1) and (b, b + 1). -/
def execAcas2 (o : AtomC) (s : State) : Out :=
  issue (infoC (opAt 13 + 2 ^ 22 + o.bits) o.w.toNat
      (sRun o.d.toNat 2 ++ sRun o.b.toNat 2 ++ [.s o.a.toNat])) (do
    let ea ← getSr o.a
    let b ← getSr o.b
    let b2 ← getSr (o.b + 1)
    let d ← getSr o.d
    let d2 ← getSr (o.d + 1)
    let args : AtomicArgs := { op := 13, size := 16, b := b, cmp := d, b2 := b2, cmp2 := d2 }
    access (atomSpace o.sp) (.atomic o.d.toNat args) ea (acqBit o.q) (relBit o.q)
    pure .next) s

/-! ## Append, tail query, seal (R104 to R106) -/

/-- APPND (R104). -/
def execAppnd (o : AtomG) (s : State) : Out :=
  issue (infoC (opAt 14 + o.bits) o.w.toNat (usesDAB o.d o.a o.b)) (do
    let ea ← getSr o.a
    let b ← getSr o.b
    access .g (.appnd o.d.toNat (sizeOf o.z) b) ea (acqBit o.q) (relBit o.q)
    pure .next) s

/-- TAILQ (R105). -/
def execTailq (o : A2) (s : State) : Out :=
  issue (infoC (opAt 15 + o.bits) o.w.toNat (usesDA o.d o.a)) (do
    let ea ← getSr o.a
    access .g (.tailq o.d.toNat) ea false false
    pure .next) s

/-- SEAL (R106): a release for the issuing strand. -/
def execSealPage (o : A2) (s : State) : Out :=
  issue (infoC (opAt 15 + 4 + o.bits) o.w.toNat (usesDA o.d o.a)) (do
    let ea ← getSr o.a
    access .g (.seal o.d.toNat) ea false true
    pure .next) s

/-! ## Fences, PERSIST, WINWAIT (R98 to R100) -/

/-- FENCE_ACQ (R98): every earlier load and atomic of the strand has performed, and its core has acquired. -/
def execFenceAcq (o : A0) (s : State) : Out :=
  issue (infoC (opA 0x16 8 + o.bits) o.w.toNat []) (do
    let s ← getS
    stallIf (openLoads s s.six) .drain
    acquireHere
    pure .next) s

/-- FENCE_REL (R98). -/
def execFenceRel (o : A0) (s : State) : Out :=
  issue (infoC (opA 0x16 9 + o.bits) o.w.toNat []) (do release; pure .next) s

/-- FENCE_FULL (R98). -/
def execFenceFull (o : A0) (s : State) : Out :=
  issue (infoC (opA 0x16 10 + o.bits) o.w.toNat []) (do release; acquireHere; pure .next) s

/-- PERSIST (R99): a release, then the range [a, a + b); not speculative (R97). -/
def execPersist (o : A3) (s : State) : Out :=
  issue (infoC (opA 0x16 11 + o.bits) o.w.toNat (usesDAB o.d o.a o.b)) (do
    let a ← getSr o.a
    let b ← getSr o.b
    beOldest
    release
    let h ← request (.persist o.d.toNat b.toNat) a false true
    submit h
    pure .next) s

/-- WINWAIT (R100): a release, then the wait for window N + 2 after the strand's last pod-visible write in window N.
In no pod with time windows it writes 0. DESIGN CHOICE (log entry 69): where the strand has sent no pod-visible write it does not wait,
and answers the package's window. -/
def execWinwait (o : AD) (s : State) : Out :=
  issue (infoC (opA 0x16 12 + o.bits) o.w.toNat [.s o.d.toNat]) (do
    beOldest
    release
    let s ← getS
    let f := s.pkg.fab
    if !f.en then giveS o.d 0
    else do
      stallIf (s.me.podWin.any (fun n => decide (f.window < n + 2))) .window
      giveS o.d (BitVec.ofNat 64 f.window)
    pure .next) s

end Sys2Proof.Machine
end

