-- ==== Sys2Proof/Machine/Privileged.lean ====
section
/-! DEFINITION. The privileged instructions of major 0x17 (R112): migration (R186), TLBINV (R247), HARVEST (R250), WBINV
(R265), PFREE (R262) and KILL (R112, R157). -/

namespace Sys2Proof.Machine

/-- The issue data of major 0x17. -/
def info17 (fn bits w : Nat) (uses : List RegId) : Info := infoP (opA 0x17 fn + bits) w uses

/-! ## Migration (R186) -/

/-- The handle of a migrated strand. -/
def migHandle (six : Nat) (x : Strand) : Word := BitVec.ofNat 64 (2 ^ 63 + x.parks * 2 ^ 32 + six)

/-- The save area of R186, doubleword by doubleword. -/
def saveArea (s : State) (six : Nat) : List Nat :=
  let x := s.strand six
  let heldReg := fun (n : Nat) => x.await.any (fun a => decide (a.1 = .s n) && s.held.any (fun h => h.id == a.2))
  [x.sys.tcause.toNat, x.sys.taddr.toNat, x.sys.tpc.toNat, x.sys.tvpc.toNat, (x.status (slotOf six)).toNat,
   x.gid.getD 0 % 4096 * 2 ^ 32 + x.dom % 4096, x.sys.quant.toNat, x.sys.dsdepth]
    ++ (List.range 32).map (fun n => (x.readS n).toNat)
    ++ (List.range 8).map (fun n => (x.readOx n).toNat)
    ++ [x.sys.rmode.toNat, x.sys.srseed.toNat, x.sys.flags.toNat, x.sys.fenable.toNat, x.sys.gstat.toNat,
        ((List.range 32).map (fun n => bit (heldReg n) n)).sum]
    ++ List.replicate 10 0

/-- MIGR (R112, R186): the oldest migrated strand of this principal core, its C-state written to the area at a. -/
def execMigr (o : A2) (s : State) : Out :=
  issue (info17 0 o.bits o.w.toNat (usesDA o.d o.a)) (do
    let a ← getSr o.a
    let s ← getS
    let cl := clusterOf s.coreNo
    match (if isPrincipal s.coreNo then (s.cluster cl).migq else []) with
    | [] => giveS o.d 0
    | k :: _ => do
      trapIf (decide (a.toNat % 8 ≠ 0)) 4 0 a
      wideStore .g 8 ((wordAddrs a 8 64).zip (saveArea s k))
      let s ← getS
      let c := s.cluster cl
      put (.cluster cl { c with migq := c.migq.tail })
      giveS o.d (migHandle k (s.strand k))
    pure .next) s

/-- The strand that a migration handle names: PARKED, its count of parks unchanged, already taken from the queue. -/
def migTarget (s : State) (h : Word) : Option Nat :=
  let six := h.toNat % 2 ^ 14
  let x := s.strand six
  if six < 8704 ∧ x.st = .parked ∧ !x.entry ∧ h = migHandle six x ∧ six ∉ (s.cluster (clusterOf (coreOf six))).migq then some six
  else none

/-- A parked strand reloaded from a save area (R186): TPC, the s registers but pending ones, ox, RMODE, FLAGS, FENABLE. -/
def reload (x : Strand) (ws : List Word) : Strand :=
  let w := fun (i : Nat) => ws.getD i 0
  let awaiting := fun (n : Nat) => x.await.any (fun a => decide (a.1 = .s n))
  let y := (List.range 31).foldl
    (fun y i => if awaiting (i + 1) then y else y.setReg (.s (i + 1)) (.word (w (8 + i + 1)))) x
  let z := (List.range 8).foldl (fun z i => z.setReg (.ox i) (.word (w (40 + i)))) y
  { z with
    st := .active,
    sys := { z.sys with
      tpc := w 2, rmode := (w 48).extractLsb' 0 3, flags := (w 50).extractLsb' 0 6, fenable := (w 51).extractLsb' 0 6 },
    c := { z.c with pc := w 2 &&& ~~~1#64 },
    due := z.due ++ (if (w 2).getLsbD 0 then [.trap { cause := 4, sub := 0, addr := w 2, strm := .c }] else []) }

/-- MIGRET (R112, R186): the strand of handle a resumes; an unknown handle traps ILLEGAL. -/
def execMigret (o : AB) (s : State) : Out :=
  issue (info17 1 o.bits o.w.toNat [.s o.a.toNat, .s o.b.toNat]) (do
    let h ← getSr o.a
    let b ← getSr o.b
    let s ← getS
    match migTarget s h with
    | none => trap 1 0 (BitVec.ofNat 64 (opA 0x17 1 + o.bits))
    | some k => do
      trapIf (decide (b.toNat % 8 ≠ 0)) 4 0 b
      let ws ← wideLoad .g 8 (wordAddrs b 8 64)
      let s ← getS
      put (.strand k (reload (s.strand k) (ws.map (BitVec.ofNat 64))))
    pure .next) s

/-! ## TLBINV (R247, R248) and the records of R250 -/

/-- The unit, ASID and page of a cached translation's key. -/
def tlbUnit (key : Nat) : Nat := key / 2 ^ 44
def tlbAsid (key : Nat) : Nat := key / 2 ^ 32 % 4096
def tlbPage (key : Nat) : Nat := key % 2 ^ 32

/-- The record bits as they lie in a leaf (R245, R250). -/
def recordBits (a d : Bool) : Nat := bit a 6 + bit d 7

/-- The record bits ORed into a leaf's A and D at its directory home (R250), where the leaf is still valid. -/
def recordLeaf (leaf bits : Nat) (s : State) : List Effect :=
  let e := memRead s.mem leaf 8
  if bits = 0 ∨ e % 4 ≠ 3 ∨ e ||| bits = e then []
  else homeStore none none (dirHome leaf) leaf 8 (e ||| bits) s

/-- Evict one cached translation, its records written (R250). -/
def evictTlb (key : Nat) (s : State) : List Effect :=
  match tblGet none s.tlb key with
  | none => []
  | some t => chain [fun _ => [.tlb key none], recordLeaf t.leaf (recordBits t.a t.d)] s

/-- Whether an ASID and a page are covered by the operands of a TLBINV (R247). -/
def tlbMatch (a b : Word) (asid page : Nat) : Bool :=
  (a.getLsbD 12 || decide (asid = a.toNat % 4096)) && (a.getLsbD 13 || decide (page = b.toNat % 2 ^ 48 / 65536))

/-- The keys of the cached translations covered. -/
def tlbKeys (s : State) (a b : Word) : List Nat :=
  (s.tlb.filter (fun p => tlbMatch a b (tlbAsid p.1) (tlbPage p.1))).map Prod.fst

/-- Whether an access accepted under one of the translations has not performed (R247 step 3). -/
def tlbBusy (s : State) (keys : List Nat) : Bool :=
  let pages := keys.filterMap (fun k => (tblGet none s.tlb k).map (fun t => t.pa / 65536))
  s.syncs.any (fun y => pages.contains (y.pa / 65536))
    || s.pkg.loads.any (fun l => pages.contains ((Config.windowBase + l.addr) / 65536))
    || s.pkg.fab.remotes.any (fun r => pages.contains (r.pa / 65536))

/-- Commands that wait for a translation which a TLBINV covers are retried too (R200, R229, R248). -/
def unholdCmds (a b : Word) (s : State) : List Effect :=
  let hit := fun (t : Nat × Word) => tlbMatch a b t.1 (t.2.toNat % 2 ^ 48 / 65536)
  (s.clusters.filter (fun c => c.2.cmds.any (fun k => k.held) || c.2.mx.any (fun k => k.held))).map (fun c =>
    .cluster c.1 { c.2 with
      cmds := c.2.cmds.map (fun k => if k.held && hit k.heldAt then { k with held := false } else k),
      mx := c.2.mx.map (fun k => if k.held && hit k.heldAt then { k with held := false } else k) })

/-- Held requests of the command processors that a TLBINV covers may be tried again (R248, R290). -/
def unholdQueues (a b : Word) (s : State) : List Effect :=
  let hit := fun (r : CpReq) => r.held && tlbMatch a b r.asid (r.va.toNat % 2 ^ 48 / 65536)
  (s.dies.filter (fun d => d.2.queues.any (fun q => q.2.reqs.any hit))).map (fun d =>
    .die d.1 { d.2 with
      queues := tblMap .reset (fun _ q => { q with reqs := q.reqs.map (fun r => if hit r then { r with held := false } else r) }) d.2.queues })

/-- At every L1 the owned words of the pages covered are written back, a recall of their lines (R103), and every copy leaves (R247). -/
def releaseL1 (a b : Word) (s : State) : List Effect :=
  let hit := s.l1.filter (fun p => tlbMatch a b (p.1 / 2 ^ 48 % 4096) (p.1 % 2 ^ 48 / 65536))
  chain
    [fun _ => hit.map (fun p => .l1 p.1 .empty),
     recallRes (fun line => hit.any (fun p => decide (p.2.owned ≠ 0 ∧ p.2.pa / 64 = line)))] s

/-- TLBINV's effect. -/
def tlbInvalidate (a b : Word) (s : State) : List Effect :=
  let keys := tlbKeys s a b
  let held := s.held.filter (fun h => let t := heldTarget h s; tlbMatch a b t.1 (t.2.toNat % 2 ^ 48 / 65536))
  chain
    (keys.map evictTlb
      ++ [releaseL1 a b,
          fun s => [.pkg { s.pkg with fab := { s.pkg.fab with copies := s.pkg.fab.copies.filter (fun c => decide (c.res ≠ 1)) } }],
          unholdCmds a b, unholdQueues a b,
          invalidateSlots (fun t => (List.range ((t.stop.toNat + 3) / 65536 - t.start.toNat / 65536 + 1)).any (fun i =>
            tlbMatch a b t.asid ((t.start.toNat / 65536 + i) % 2 ^ 32)))]
      ++ held.map retryHeld ++ (List.range 4).map flushFaults) s

/-- TLBINV (R112, R247). -/
def execTlbinv (o : AB) (s : State) : Out :=
  issue (info17 2 o.bits o.w.toNat [.s o.a.toNat, .s o.b.toNat]) (do
    let a ← getSr o.a
    let b ← getSr o.b
    let s ← getS
    stallIf (tlbBusy s (tlbKeys s a b)) .drain
    puts (tlbInvalidate a b s)
    pure .next) s

/-! ## HARVEST (R250) -/

/-- What the walks of the pages of a 2 MiB region of a domain come to. -/
def regionWalks (s : State) (asid : Nat) (b : Word) : List Walk :=
  if !canonical b then []
  else (List.range 32).map (fun i => walkFrom s (b.toNat % 2 ^ 48 + 65536 * i) levels (s.dom asid).root)

/-- These walks share, at the slices of a core's accesses, the lines of the entries that they read (R255). -/
def regionReads (core asid : Nat) (b : Word) (s : State) : List Effect :=
  if !canonical b then []
  else chain ((List.range 32).flatMap (fun i =>
    let v := b.toNat % 2 ^ 48 + 65536 * i
    (walkReads s v levels (s.dom asid).root).map (shareLine (agentOf core v)))) s

/-- The valid leaves that map the pages of a 2 MiB region of a domain. -/
def regionLeaves (s : State) (asid : Nat) (b : Word) : List Nat :=
  ((regionWalks s asid b).filterMap (fun w => match w with | .leaf t => some t.leaf | _ => none)).dedup

/-- The machine check that one of these walks meets (R334). -/
def regionCheck (s : State) (asid : Nat) (b : Word) : Option (Nat × Nat) :=
  (regionWalks s asid b).findSome? (fun w => match w with | .check u pa => some (u, pa) | _ => none)

/-- The records of a leaf collected and cleared. -/
def harvestLeaf (asid leaf : Nat) (s : State) : List Effect :=
  let es := s.tlb.filterMap (fun p => match p.2 with
    | some t => if tlbAsid p.1 = asid ∧ t.leaf = leaf then some (p.1, t) else none
    | none => none)
  let bits := recordBits (es.any (fun e => e.2.a)) (es.any (fun e => e.2.d))
  chain
    [fun _ => es.map (fun e => .tlb e.1 (some { e.2 with a := false, d := false })), recordLeaf leaf bits] s

/-- Whether a leaf's A or D would change. -/
def harvestChanges (s : State) (asid leaf : Nat) : Bool :=
  let e := memRead s.mem leaf 8
  let es := s.tlb.filterMap (fun p => match p.2 with
    | some t => if tlbAsid p.1 = asid ∧ t.leaf = leaf then some t else none
    | none => none)
  e ||| recordBits (es.any Tlb.a) (es.any Tlb.d) != e

/-- HARVEST (R112, R250). -/
def execHarvest (o : A3) (s : State) : Out :=
  issue (info17 3 o.bits o.w.toNat (usesDAB o.d o.a o.b)) (do
    let a ← getSr o.a
    let b ← getSr o.b
    trapIf (decide (b.toNat % 2 ^ 21 ≠ 0)) 4 0 b
    let s ← getS
    let asid := a.toNat % 4096
    match regionCheck s asid b with
    | some (u, pa) => trap 17 u (BitVec.ofNat 64 pa)
    | none => pure ()
    let leaves := regionLeaves s asid b
    let n := (leaves.filter (harvestChanges s asid)).length
    puts (chain (regionReads s.coreNo asid b :: leaves.map (harvestLeaf asid)) s)
    giveS o.d (BitVec.ofNat 64 n)
    pure .next) s

/-! ## WBINV (R112, R265) -/

/-- Every cached copy of the lines that a range meets is written back and dropped: L1 lines, directory entries, copies kept of another
package's bytes (R350, R362); the reservations on them are cleared as by a recall. -/
def dropLines (inRange : Nat → Bool) (s : State) : List Effect :=
  chain
    [fun s => (s.l1.filter (fun p => inRange (p.2.pa / 64))).map (fun p => .l1 p.1 .empty),
     fun s => (s.dir.filter (fun p => inRange (dirLine p.1))).map (fun p => .dir p.1 .none),
     fun s => if s.pkg.fab.copies.any (fun c => inRange (c.pa / 64)) then
         [setFab s { s.pkg.fab with copies := s.pkg.fab.copies.filter (fun c => !inRange (c.pa / 64)) }] else [],
     recallRes inRange] s

/-- WBINV (R112, R265). A page that does not translate traps PAGE at the instruction. -/
def execWbinv (o : AB) (s : State) : Out :=
  issue (info17 4 o.bits o.w.toNat [.s o.a.toNat, .s o.b.toNat]) (do
    let a ← getSr o.a
    let b ← getSr o.b
    let s ← getS
    match rangePages s s.six s.me.dom s.me.sys.dsdepth s.me.sys.pm .r a.toNat b.toNat with
    | .error (va, .trap c u) => trap c u va
    | .error (_, .machine u pa) => trap 17 u (BitVec.ofNat 64 pa)
    | .error (_, .fetch i pm xs) => awaitCopy i pm xs
    | .error (va, _) => trap 5 (if isCompute s.coreNo then 4 else 5) va
    | .ok xs => puts (xs.flatMap Xl.fx ++ dropLines (lineOf xs a.toNat b.toNat) s)
    pure .next) s

/-! ## PFREE (R262) -/

/-- Send an invalidation of a frame to a member; a packet of the control class (R352), it counts as a write until
acknowledged (R357). -/
def sendInvalidate (i p : Nat) (s : State) : List Effect :=
  let f := s.pkg.fab
  let r : Remote :=
    ⟨s.nextId, 8704, p, frameBase i, .invalidation, f.nextNum p 2, none, 0, true, 0, false, none, false⟩
  chain
    [fun _ => [setFab s { f with remotes := f.remotes ++ [r] }, .fresh],
     podSend p 2 (fun n => .podInvalidate p i n)] s

/-- The first half of PFREE: SCRUB, translations and copies of the frame dropped, reservations cleared; in a pod the
invalidation is sent. -/
def pfreeStart (i : Nat) (s : State) : List Effect :=
  let base := frameBase i
  let inFrame := fun (line : Nat) => decide (base / 64 ≤ line ∧ line < base / 64 + 1024)
  chain
    [fun s => [.frame i { s.frame i with st := .scrub }],
     fun s => chain ((s.tlb.filter (fun p => p.2.any (fun t => t.pa == base))).map (fun p => evictTlb p.1)) s,
     dropLines inFrame,
     fun s => if s.pkg.fab.en then
        chain (((List.range 128).filter (fun p => s.pkg.fab.live.getLsbD p && p != s.pkg.fab.pkg)).map (sendInvalidate i)) s
       else []] s

/-- The second half: every byte zero, the frame ORDINARY and unowned. Tutor slots recorded on it lose their contents
(R321). -/
def pfreeEnd (i : Nat) (s : State) : List Effect :=
  let base := frameBase i
  chain
    [fun _ => [.memClear base (base + 65536)],
     fun s => (s.poison.filter (fun p => decide (base / 4 ≤ p.1 ∧ p.1 < base / 4 + 16384))).map (fun p => .poison p.1 false),
     invalidateSlots (fun t => t.frames.contains i),
     fun _ => [.frame i .reset]] s

/-- Whether an access accepted on a frame has not performed. -/
def frameBusy (s : State) (i : Nat) : Bool := s.syncs.any (fun y => decide (y.pa / 65536 * 65536 = frameBase i))

/-- Whether an invalidation of a frame has still to leave for another package. -/
def unsentInvalidation (s : State) (i : Nat) : Bool :=
  s.pkg.fab.remotes.any (fun r => decide (r.op = .invalidation ∧ r.addr = frameBase i) && r.win.isNone)

/-- PFREE (R112, R262). While it waits, the frame is SCRUB and its wait names it. -/
def execPfree (o : A2) (s : State) : Out :=
  issue (info17 5 o.bits o.w.toNat (usesDA o.d o.a)) (do
    let a ← getSr o.a
    let s ← getS
    match s.me.c.wait with
    | .pfree i win => do
      stallIf (frameBusy s i || unsentInvalidation s i || win.any (fun n => decide (s.pkg.fab.window < n + 2))) (.pfree i win)
      puts (pfreeEnd i s)
      giveS o.d 0
      pure .next
    | _ => do
      release
      acquireHere
      let s ← getS
      match frameIndex s.cfg a.toNat with
      | some i =>
        if a.toNat % 65536 ≠ 0 ∨ (s.frame i).st = .scrub then do
          giveS o.d 1
          pure .next
        else do
          puts (pfreeStart i s)
          let s ← getS
          if s.pkg.fab.en || frameBusy s i then
            pure (.hold (.pfree i (if s.pkg.fab.en then some s.pkg.fab.window else none)))
          else do
            puts (pfreeEnd i s)
            giveS o.d 0
            pure .next
      | none => do
        giveS o.d 1
        pure .next) s

/-! ## KILL (R112, R157) -/

/-- KILL: 0, or 1 for an unknown group. -/
def execKill (o : A2) (s : State) : Out :=
  issue (info17 6 o.bits o.w.toNat (usesDA o.d o.a)) (do
    let a ← getSr o.a
    let s ← getS
    if a.toNat < 4096 ∧ (s.group a.toNat).isSome then do
      giveS o.d 0
      let s ← getS
      puts (killGroup s a.toNat)
    else giveS o.d 1
    pure .next) s

end Sys2Proof.Machine
end

