-- ==== Sys2Proof/Machine/Tutor.lean ====
section
/-! DEFINITION. The Tutor engine (R308 to R325): region slots, the surrogate's arithmetic, its training and its modes, and
the instructions of major 0x1F. -/

namespace Sys2Proof.Machine

/-! ## The descriptor (R313) and the memory of a slot (R309) -/

def tdAlpha (w : Word) : Nat := w.toNat / 2 ^ 36 % 16
def tdMinb (w : Word) : Nat := w.toNat / 2 ^ 32 % 16
def tdSrate (w : Word) : Nat := w.toNat / 2 ^ 28 % 16
def tdBlog (w : Word) : Nat := w.toNat / 2 ^ 24 % 16
def tdMode (w : Word) : BitVec 2 := w.extractLsb' 22 2
def tdLayers (w : Word) : Nat := w.toNat / 2 ^ 20 % 4
def tdTanh (w : Word) : Bool := w.getLsbD 19
def tdIn (w : Word) : Nat := w.toNat / 2 ^ 12 % 16 + 1
def tdOut (w : Word) : Nat := w.toNat / 2 ^ 9 % 8 + 1

/-- Inputs and outputs of each layer, in order of use. -/
def tdShape (w : Word) : List (Nat × Nat) :=
  match tdLayers w with
  | 0 => [(tdIn w, tdOut w)]
  | 1 => [(tdIn w, 64), (64, tdOut w)]
  | _ => [(tdIn w, 64), (64, 64), (64, tdOut w)]

/-- P: the number of parameters (R309). -/
def tdParams (w : Word) : Nat := ((tdShape w).map (fun l => l.1 * l.2 + l.2)).sum

/-- The bytes a slot uses. -/
def tdBytes (w : Word) : Nat := 4 * tdParams w + 4 * (tdIn w + tdOut w) * 2 ^ tdBlog w

/-- The bytes that the configured slots other than `n` use. -/
def usedBytes (c : Cluster) (n : Nat) : Nat :=
  ((c.tutor.filter (fun t => t.2.conf && t.1 != n)).map (fun t => tdBytes t.2.word2)).sum

/-- The status word (R308). -/
def TutorSlot.status (t : TutorSlot) : Word :=
  if t.conf then
    BitVec.ofNat 64 (t.fbcnt * 2 ^ 48 + t.asid * 2 ^ 36 + t.ogen * 2 ^ 20 + bit t.diverged 4 + bit t.impure 3 + 4
      + t.mode.toNat)
  else 0

/-! ## FP32 -/

/-- The value of an FP32 encoding. -/
def f32 (x : Nat) : Val := fp32.read x

/-- Whether an FP32 encoding is finite. -/
def finite32 (x : Nat) : Bool := match f32 x with | .fin _ => true | _ => false

/-- An FP32 value rounded to BF16 by RNE (R317). -/
def toBf16 (x : Nat) : Nat := ((f32 x).round bf16 .rne).1

/-- x < y. -/
def lt32 (x y : Val) : Bool := (fCompare x y).2.1

/-- A value scaled by a power of two, exactly. -/
def Val.scaled (v : Val) (k : Int) : Val :=
  match v with
  | .fin d => .fin { d with e := d.e + k }
  | v => v

/-- The magnitude of a value. -/
def Val.mag (v : Val) : Val :=
  match v with
  | .fin d => .fin { d with neg := false }
  | .inf _ => .inf false
  | v => v

/-- The difference of two FP32 encodings, rounded by RNE. -/
def sub32 (x y : Nat) : Nat := (fAdd fp32 .rne (f32 x) (f32 y).negate).1

/-- The sum of two FP32 encodings, rounded by RNE. -/
def add32 (x y : Nat) : Nat := (fAdd fp32 .rne (f32 x) (f32 y)).1

/-! ## The surrogate (R317) -/

/-- One layer: for each unit its weights and its bias. -/
abbrev Layer := List (List Nat × Nat)

/-- The layers of a weight image. -/
def layersOf : List (Nat × Nat) → List Nat → List Layer
  | [], _ => []
  | (i, o) :: r, ws =>
    ((List.range o).map (fun u => ((ws.drop (u * i)).take i, ws.getD (i * o + u) 0)))
      :: layersOf r (ws.drop (i * o + o))

/-- Act (R317): ReLU, or the piecewise tanh. A NaN gives the canonical NaN under both (DEDUCED, log entry 33). -/
def act (tanh : Bool) (z : Nat) : Nat :=
  let v := f32 z
  match v with
  | .nan _ => fp32.nanOr0
  | _ =>
    let neg := decide (2 ^ 31 ≤ z)
    if !tanh then (if lt32 (.fin ⟨false, 0, 0⟩) v then z else 0)
    else if lt32 v.mag (.fin ⟨false, 1, -1⟩) then z
    else if lt32 v.mag (.fin ⟨false, 3, -1⟩) then
      fp32.signed neg (fAdd fp32 .rne (.fin ⟨false, 1, -2⟩) (v.mag.scaled (-1))).1
    else fp32.signed neg 0x3F800000

/-- The unit outputs of a layer before activation, from its BF16 inputs. -/
def layerOut (l : Layer) (xs : List Nat) : List Nat :=
  l.map (fun u => (sum79 fp32 8 u.2 ((u.1.zip xs).map (fun p =>
    some (product (bf16.read (toBf16 p.1)) (bf16.read p.2))))).1)

/-- A forward run: for each layer its BF16 inputs and its outputs before activation. -/
def forward (tanh : Bool) : List Layer → List Nat → List (List Nat × List Nat)
  | [], _ => []
  | l :: r, xs =>
    let z := layerOut l xs
    (xs, z) :: forward tanh r (z.map (fun z => toBf16 (act tanh z)))

/-- A slot's layers. -/
def TutorSlot.layers (t : TutorSlot) : List Layer := layersOf (tdShape t.word2) (t.weights.map BitVec.toNat)

/-- A forward run of a slot. -/
def TutorSlot.run (t : TutorSlot) (xs : List Lane) : List (List Nat × List Nat) :=
  forward (tdTanh t.word2) t.layers (xs.map (fun x => toBf16 x.toNat))

/-- Infer: the results. -/
def TutorSlot.infer (t : TutorSlot) (xs : List Lane) : List Nat :=
  ((t.run xs).getLast?.map Prod.snd).getD []

/-! ## Training (R318) -/

/-- Act′, as a factor. -/
def actSlope (tanh : Bool) (z : Nat) : Val :=
  let v := f32 z
  if !tanh then (if lt32 (.fin ⟨false, 0, 0⟩) v then .fin ⟨false, 1, 0⟩ else .fin ⟨false, 0, 0⟩)
  else if lt32 v.mag (.fin ⟨false, 1, -1⟩) then .fin ⟨false, 1, 0⟩
  else if lt32 v.mag (.fin ⟨false, 3, -1⟩) then .fin ⟨false, 1, -1⟩
  else .fin ⟨false, 0, 0⟩

/-- A sum in order, RNE at each step. -/
def sum32 : List Nat → Nat
  | [] => 0
  | x :: r => r.foldl add32 x

/-- The δ of the units below a layer: Act′(z) × the sum of weight × δ over the layer's units, each step acc + weight × δ
rounded once (DEDUCED, log entry 33). -/
def deltaBelow (tanh : Bool) (l : Layer) (deltas : List Nat) (zs : List Nat) : List Nat :=
  zs.zipIdx.map (fun z =>
    let acc := (l.zip deltas).foldl (fun acc u =>
      (fFma fp32 .rne (f32 (u.1.1.getD z.2 0)) (f32 u.2) (f32 acc)).1) 0
    (fMul fp32 .rne (actSlope tanh z.1) (f32 acc)).1)

/-- The gradient terms of the layers, last first, from a forward run and the δ of the last one. -/
def gradTerms (tanh : Bool) : List (Layer × (List Nat × List Nat)) → List Nat → List Layer
  | [], _ => []
  | (l, run) :: below, deltas =>
    let g : Layer := deltas.map (fun d => (run.1.map (fun x => (fMul fp32 .rne (f32 d) (bf16.read x)).1), d))
    match below with
    | [] => [g]
    | (_, prev) :: _ => g :: gradTerms tanh below (deltaBelow tanh l deltas prev.2)

/-- The gradient terms of one sample as a flat image. -/
def TutorSlot.gradient (t : TutorSlot) (x : List Lane × List Lane) : List Nat :=
  let run := t.run x.1
  let y := (run.getLast?.map Prod.snd).getD []
  let deltas := (y.zip x.2).map (fun p => sub32 p.1 p.2.toNat)
  let gs := (gradTerms (tdTanh t.word2) (t.layers.zip run).reverse deltas).reverse
  gs.flatMap (fun g => g.flatMap Prod.fst ++ g.map Prod.snd)

/-- The new weights of an update, from the samples in arrival order. -/
def TutorSlot.newWeights (t : TutorSlot) : List Nat :=
  let grads := t.samples.map t.gradient
  t.weights.zipIdx.map (fun w =>
    let g := sum32 (grads.map (fun g => g.getD w.2 0))
    (fFma fp32 .rne ((f32 t.lrate.toNat).negate.scaled (-(tdBlog t.word2 : Int))) (f32 g) (f32 w.1.toNat)).1)

/-- An update where the buffer is full (R318), and the promotion that may follow it (R320). -/
def TutorSlot.update (t : TutorSlot) : TutorSlot :=
  if t.mode = 2 ∧ t.samples.length = 2 ^ tdBlog t.word2 then
    let ws := t.newWeights
    if ws.all finite32 then
      let u := { t with
        weights := ws.map (BitVec.ofNat 32), samples := [], updates := t.updates + 1, sinceTrain := t.sinceTrain + 1 }
      if 2 ^ tdMinb t.word2 ≤ u.sinceTrain ∧ lt32 (f32 u.err.toNat) ((f32 u.thresh.toNat).scaled (-1)) then
        { u with mode := 3, calls := 0 }
      else u
    else { t with samples := [], mode := 0, diverged := true }
  else t

/-! ## Samples (R319, R320) -/

/-- A sample's error. -/
def TutorSlot.errorOf (t : TutorSlot) (x : List Lane × List Lane) : Nat :=
  let y := t.infer x.1
  let ds := (y.zip x.2).map (fun p => (sub32 p.1 p.2.toNat) % 2 ^ 31)
  if ds.any (fun d => match f32 d with | .nan _ => true | _ => false) then
    (Config.sampleError (y.map (BitVec.ofNat 32)) x.2).toNat
  else ds.foldl (fun m d => if lt32 (f32 m) (f32 d) then d else m) 0

/-- The running error after an error. -/
def TutorSlot.errAfter (t : TutorSlot) (e : Nat) : Nat :=
  let d := match Val.add false (f32 e) (f32 t.err.toNat).negate with
    | some v => ((v.scaled (-(tdAlpha t.word2 : Int))).round fp32 .rne).1
    | none => fp32.nanOr0
  add32 t.err.toNat d

/-- The +∞ of FP32. -/
def inf32 : Nat := fp32.infEnc

/-- The engine takes a sample. -/
def TutorSlot.take (t : TutorSlot) (x : List Lane × List Lane) : TutorSlot :=
  let bad := (x.1 ++ x.2).any (fun v => !finite32 v.toNat)
  if t.mode = 0 ∨ (bad ∧ t.mode ≠ 3) then t
  else
    let e := if bad then inf32 else t.errorOf x
    let u := { t with taken := if bad then t.taken else t.taken + 1, err := BitVec.ofNat 32 (t.errAfter e) }
    let size := 2 ^ tdBlog t.word2
    match t.mode.toNat with
    | 1 => { u with samples := (u.samples ++ [x]).drop (u.samples.length + 1 - size) }
    | 2 => TutorSlot.update { u with samples := u.samples ++ [x] }
    | _ =>
      if lt32 (f32 t.hard.toNat) (f32 e) ∨ lt32 (f32 t.thresh.toNat) (f32 u.err.toNat) then
        TutorSlot.update { u with
          mode := 2, fbcnt := min (t.fbcnt + 1) 65535, err := t.thresh, samples := if bad then [] else [x], sinceTrain := 0 }
      else u

/-- One sample of a cluster at its slot: discarded where the slot's configuration is another. -/
def takeSample (x : Sample) (tutor : Tbl TutorSlot) : Tbl TutorSlot :=
  let t := tblGet .off tutor x.slot
  if t.conf && t.gen == x.gen then tblSet .off tutor x.slot (t.take (x.inputs, x.results)) else tutor

/-- TUTOR_SAMPLE: the engine takes its oldest sample. -/
def tutorSample (cl : Nat) (s : State) : List Effect :=
  let c := s.cluster cl
  match c.samples with
  | [] => []
  | x :: r => [.cluster cl { c with samples := r, tutor := takeSample x c.tutor }]

/-- The samples a strand has sent arrive before its next call (R324). -/
def arriveOwn (six : Nat) (c : Cluster) : Cluster :=
  { c with
    tutor := (c.samples.filter (fun x => x.six == six)).foldl (fun t x => takeSample x t) c.tutor,
    samples := c.samples.filter (fun x => x.six != six) }

/-! ## APXCALL and APXRET (R315, R316) -/

/-- Whether the engine of a core's cluster is there (R2, R211, R325). -/
def tutorHere (s : State) : Bool := s.cfg.tutor && !isChiplet s.coreNo

/-- Whether a slot belongs to the issuing strand's current domain. -/
def ownsSlot (s : State) (t : TutorSlot) : Bool :=
  t.asid == s.me.dom && t.ogen == (s.dom s.me.dom).gen

/-- Lanes 0 to n − 1 of a register. -/
def lanes (v : VReg) (n : Nat) : List Lane := (List.range n).map (fun i => BitVec.ofNat 32 (laneOf v.data.toNat i))

/-- A call that arrives at the engine at a slot that answers it. -/
def callSlot (o : X3) (n : Nat) (v : VReg) : M Ctl := do
  let s ← getS
  let cl := clusterOf s.coreNo
  let c := s.cluster cl
  let t := tblGet .off c.tutor n
  let xs := lanes v (tdIn t.word2)
  let t' := if t.mode = 3 then { t with calls := t.calls + 1 } else t
  let y := t'.infer xs
  if t.mode = 3 ∧ t'.calls % 2 ^ tdSrate t.word2 ≠ 0 ∧ y.all finite32 then do
    put (.cluster cl { c with tutor := tblSet .off c.tutor n { t' with served := t'.served + 1 } })
    scored (.v o.d.toNat) (.vec (vreg (packLanes y) 0 2))
    pure (.jump (t.stop + 4))
  else do
    put (.cluster cl { c with tutor := tblSet .off c.tutor n t' })
    let r : Record := { cluster := cl, slot := n, gen := t.gen, inputs := xs }
    modMe (fun x => { x with region := some r })
    pure .next

/-- APXCALL. -/
def execApxcall (o : X3) (s : State) : Out :=
  let enc := opX 0x1F 0 + o.bits
  issue (infoV enc o.w.toNat [.v o.d.toNat, .v o.a.toNat, .k (8 + o.x.toNat)]) (do
    let v ← getV o.a
    let w ← getK (8 + o.x.toNat)
    formatIf (decide (v.t ≠ 2)) enc
    modMe (fun x => { x with region := none })
    let s ← getS
    if tutorHere s then do
      let cl := clusterOf s.coreNo
      put (.cluster cl (arriveOwn s.six (s.cluster cl)))
      let s ← getS
      let pc ← getPc
      let t := tblGet .off (s.cluster cl).tutor w.toNat
      if w.toNat < 16 ∧ t.conf ∧ t.mode ≠ 0 ∧ ownsSlot s t ∧ t.start = pc ∧ !s.me.spec then callSlot o w.toNat v
      else pure .next
    else pure .next) s

/-- APXRET. -/
def execApxret (o : X2) (s : State) : Out :=
  issue (infoV (opX 0x1F 1 + o.bits) o.w.toNat [.v o.d.toNat, .k (8 + o.x.toNat)]) (do
    let v ← getV o.d
    let w ← getK (8 + o.x.toNat)
    let pc ← getPc
    let s ← getS
    match s.me.region with
    | none => pure .next
    | some r =>
      let c := s.cluster r.cluster
      let t := tblGet .off c.tutor r.slot
      if w.toNat = r.slot ∧ t.stop = pc then do
        modMe (fun x => { x with region := none })
        if v.t = 2 ∧ t.conf ∧ t.gen = r.gen then
          put (.cluster r.cluster { c with samples := c.samples ++
            [{ six := s.six, slot := r.slot, gen := r.gen, inputs := r.inputs, results := lanes v (tdOut t.word2) }] })
        else pure ()
        pure .next
      else pure .next) s

/-! ## APXCFG, APXQRY and APXINV (R314, R322, R323) -/

def apAbsent : Word := 0x8000000000000001
def apBadDesc : Word := 0x8000000000000002
def apNotOwn : Word := 0x8000000000000003
def apNoRoom : Word := 0x8000000000000004

/-- Load `n` words of a table. -/
def loadWords32 (va : Word) : Nat → M (List Nat)
  | 0 => pure []
  | n + 1 => do
    let w ← loadTable va 4
    let ws ← loadWords32 (va + 4) n
    pure (w :: ws)

/-- The frames, of this package or another, that hold the pages of [a, a + n) for execution in the current domain; none where one does not
translate. -/
def codeFrames (s : State) (a : Word) (n : Nat) : Option (List Nat) :=
  ((List.range ((a.toNat + n - 1) / 65536 - a.toNat / 65536 + 1)).mapM (fun i =>
    let va := BitVec.ofNat 64 (max a.toNat ((a.toNat / 65536 + i) * 65536))
    match translate s s.coreNo s.me.dom s.me.sys.pm va .x with
    | none => none
    | some x => some ((frameKey s x.pa).toList))).map List.flatten

/-- Whether a region descriptor is valid (R313), but for its weights. -/
def regionOk (ws : List Word) : Bool :=
  let w := fun i => ws.getD i 0
  let w2 := w 2
  let f := fun (x : Nat) => match f32 x with
    | .fin d => !d.neg || decide (d.m = 0)
    | _ => false
  decide (w2.toNat / 2 ^ 40 = 0 ∧ w2.toNat / 2 ^ 16 % 8 = 0 ∧ w2.toNat % 2 ^ 9 = 0 ∧ tdBlog w2 ≤ 8 ∧ tdLayers w2 ≤ 2)
    && decide ((w 4).toNat / 2 ^ 32 = 0 ∧ w 5 = 0 ∧ w 6 = 0 ∧ w 7 = 0)
    && decide ((w 0).toNat < (w 1).toNat ∧ (w 0).toNat % 2 = 0 ∧ (w 1).toNat % 2 = 0 ∧ (w 1).toNat - (w 0).toNat < 65536)
    && f ((w 3).toNat % 2 ^ 32) && f ((w 3).toNat / 2 ^ 32) && f ((w 4).toNat % 2 ^ 32)

/-- OP 0: configure slot `n` from the descriptor at `a`. -/
def configure (n : Nat) (a : Word) : M Word := do
  trapIf (decide (a.toNat % 64 ≠ 0)) 4 0 a
  let ws ← loadWords a 8
  let w2 := ws.getD 2 0
  -- With LAYERS = 3 the image has no size: the descriptor is not valid whatever follows.
  let img ← (if tdLayers w2 ≤ 2 then loadWords32 (a + 64) (tdParams w2) else pure [])
  let s ← getS
  let start := ws.getD 0 0
  let stop := ws.getD 1 0
  if regionOk ws && img.all finite32 then
    match codeFrames s start (stop.toNat + 4 - start.toNat) with
    | none => pure apBadDesc
    | some fs => do
      let cl := clusterOf s.coreNo
      let c := s.cluster cl
      if 262144 < usedBytes c n + tdBytes w2 then pure apNoRoom
      else do
        let old := tblGet .off c.tutor n
        let lane := fun (x : Word) (i : Nat) => x.extractLsb' i 32
        let th := lane (ws.getD 3 0) 32
        let t : TutorSlot :=
          { asid := s.me.dom, ogen := (s.dom s.me.dom).gen, conf := true, mode := tdMode w2, impure := false,
            diverged := false, fbcnt := 0, gen := old.gen + 1, start := start, stop := stop, word2 := w2,
            lrate := lane (ws.getD 3 0) 0, thresh := th, hard := lane (ws.getD 4 0) 0, weights := img.map (BitVec.ofNat 32),
            samples := [], err := th, calls := 0, served := 0, taken := 0, updates := 0, sinceTrain := 0, frames := fs.dedup }
        put (.cluster cl { c with tutor := tblSet .off c.tutor n t })
        pure 0
  else pure apBadDesc

/-- OP 1: set the mode of a configured slot, after the strand's earlier acquires (R98, R314). -/
def setMode (n : Nat) (m : BitVec 2) : M Word := do
  let s ← getS
  stallIf (acqPending s s.six) .score
  let cl := clusterOf s.coreNo
  let c := s.cluster cl
  let t := tblGet .off c.tutor n
  if t.conf then do
    let toTrain := decide (m = 2 ∧ t.mode ≠ 2)
    let t' : TutorSlot :=
      { t with mode := m, impure := false, diverged := false, samples := if toTrain then [] else t.samples,
               sinceTrain := if toTrain then 0 else t.sinceTrain }
    put (.cluster cl { c with tutor := tblSet .off c.tutor n t' })
    pure 0
  else pure apBadDesc

/-- What an ordinary store of a word does at once: a SYNC word reaches its sharers and is validated (R254), a word of another package
leaves for its home. -/
def storeNow (h : Held) (s : State) : Except Fail (List Effect) :=
  match syncWord s h.va, h.op with
  | some (_, _, x), .store n v =>
    if syncWaits s h.six x.pa n then .error (.wait .score)
    else match memCheck s false x.pa n with
      | some u => .error (.machine u x.pa)
      | none => throughRefills s h.six h.depth h.va List.append (storeSync h h.va n v.toNat)
  | _, _ => match performOp h s with
    | .error (.send es) => .ok es
    | r => r

/-- Store a list of words of a table, faults as a table's (R314). -/
def storeTable : Word → List Nat → M Unit
  | _, [] => pure ()
  | va, w :: ws => do
    let s ← getS
    trapIf (rangeHit s s.coreNo .g s.me.dom va.toNat (va.toNat + 4) false) 7 0 va
    let h ← request (.store 4 (BitVec.ofNat 64 w)) va false false
    let s ← getS
    match storeNow h s with
    | .ok es => puts es
    | .error (.trap c u) => trap c u va
    | .error (.machine u pa) => trap 17 u (BitVec.ofNat 64 pa)
    | .error (.wait w) => stall w
    | .error _ => trap 5 (if isCompute s.coreNo then 2 else 5) va
    storeTable (va + 4) ws

/-- OP 2: export the weights. Words of other packages have been performed when they are acknowledged, and the instruction waits for
it. -/
def exportWeights (n : Nat) (a : Word) : M Word := do
  let s ← getS
  let t := tblGet .off (s.cluster (clusterOf s.coreNo)).tutor n
  if t.conf then do
    trapIf (decide (a.toNat % 64 ≠ 0)) 4 0 a
    stallIf (acqPending s s.six) .score
    storeTable a (t.weights.map BitVec.toNat)
    let s ← getS
    if s.me.got = [] then pure 0 else holdNow .accept
  else pure apBadDesc

/-- The export whose words have left for other packages: d is written once each has been performed there; a fault is a table's. -/
def exported (n : Nat) (a : Word) : M Word := do
  let s ← getS
  if s.me.got.any (fun g => g.ans.isNone) then stall .accept
  else match s.me.got.find? (fun g => g.ans.any (fun r => r.res ≠ 0)) with
    | some ⟨_, pa, some r⟩ =>
      let count := (tblGet .off (s.cluster (clusterOf s.coreNo)).tutor n).weights.length
      let ea := ((wordAddrs a 4 count).find? (fun ea => (podWord s false ea).any (fun p => p.2.pa == pa))).getD a
      if r.res = 1 then trap 5 (if isCompute s.coreNo then 2 else 5) ea
      else if r.res = 17 then trap 17 3 0
      else if r.res = 18 then trap 17 2 (BitVec.ofNat 64 pa)
      else trap r.res (if r.res = 6 then 2 else 0) ea
    | _ => pure 0

/-- APXCFG. -/
def execApxcfg (o : X3) (s : State) : Out :=
  issue (infoC (opX 0x1F 2 + o.bits) o.w.toNat [.s o.d.toNat, .s o.a.toNat, .ox o.x.toNat]) (do
    let a ← getSr o.a
    let w ← getOx o.x.toNat
    beOldest
    let s ← getS
    let n := w.toNat % 16
    let op := w.toNat / 64 % 4
    let t := tblGet .off (s.cluster (clusterOf s.coreNo)).tutor n
    let r ← (if op = 2 ∧ s.me.got ≠ [] then exported n a
      else if !tutorHere s then pure apAbsent
      else if decide (256 ≤ w.toNat ∨ op = 3) then pure apBadDesc
      else if t.conf && !ownsSlot s t && !s.me.sys.pm then pure apNotOwn
      else if op = 0 then configure n a
      else if op = 1 then setMode n (w.extractLsb' 4 2)
      else exportWeights n a)
    giveS o.d r
    pure .next) s

/-- What APXQRY answers. -/
def tutorItem (c : Cluster) (n item : Nat) : Word :=
  let t := tblGet .off c.tutor n
  match item with
  | 0 => t.status
  | 1 => zx t.err
  | 2 => BitVec.ofNat 64 t.served
  | 3 => BitVec.ofNat 64 t.taken
  | 4 => BitVec.ofNat 64 t.updates
  | _ => BitVec.ofNat 64 (262144 - usedBytes c 16)

/-- APXQRY. -/
def execApxqry (o : A2) (s : State) : Out :=
  issue (infoC (opX 0x1F 3 + o.bits) o.w.toNat (usesDA o.d o.a)) (do
    let a ← getSr o.a
    let s ← getS
    let n := a.toNat % 16
    let item := a.toNat / 16
    let c := s.cluster (clusterOf s.coreNo)
    let t := tblGet .off c.tutor n
    giveS o.d (if !tutorHere s then apAbsent
      else if 5 < item then apBadDesc
      else if t.conf && !ownsSlot s t && !s.me.sys.pm && decide (item ≠ 5) then apNotOwn
      else tutorItem c n item)
    pure .next) s

/-- APXINV. -/
def execApxinv (o : A2) (s : State) : Out :=
  issue (infoC (opX 0x1F 4 + o.bits) o.w.toNat (usesDA o.d o.a)) (do
    let a ← getSr o.a
    beOldest
    let s ← getS
    stallIf (tutorHere s && acqPending s s.six) .score
    let cl := clusterOf s.coreNo
    let c := s.cluster cl
    let n := a.toNat % 16
    let t := tblGet .off c.tutor n
    if !tutorHere s then giveS o.d apAbsent
    else if 32 ≤ a.toNat then giveS o.d apBadDesc
    else if a.getLsbD 4 then do
      put (.cluster cl { c with
        tutor := c.tutor.map (fun p => if p.2.conf && ownsSlot s p.2 then (p.1, p.2.invalidated) else p) })
      giveS o.d 0
    else if !t.conf then giveS o.d 0
    else if !ownsSlot s t && !s.me.sys.pm then giveS o.d apNotOwn
    else do
      put (.cluster cl { c with tutor := tblSet .off c.tutor n t.invalidated })
      giveS o.d 0
    pure .next) s

end Sys2Proof.Machine
end

