-- ==== Sys2Proof/Machine/Units.lean ====
section
/-! DEFINITION. Events of the units of a cluster and of the memory system: engine and message-unit commands (R176, R200 to R203),
the matrix unit (R226 to R229), the Tutor engine (R319), L1s, slices and translations (R250, R252, R254). -/

namespace Sys2Proof.Machine

/-! ## The copy engine (R200 to R203) -/

/-- ENGINE_COMMAND_START (R203). -/
def execEngineCommandStart (cl id : Nat) (s : State) : Out :=
  event (match cmdOf s cl id with
    | some k => whenever (cmdReady s cl k) (setCmd cl { k with begun := true })
    | none => pure ()) s

/-- COPY_COMPLETION (R200, R202). -/
def execCopyCompletion (cl id : Nat) (s : State) : Out :=
  event (match cmdOf s cl id with
    | some k =>
      whenever (k.begun && !k.held) (fun s =>
        match k.kind with
        | .bpref => endCmd cl k (tokenWord 0 (prefetched k s)) s
        | .copy | .copymm => if k.copied.isNone then copyPerform cl k s else []
        | _ => [])
    | none => pure ()) s

/-- COPYMM_FOLLOW_ON (R201). -/
def execCopymmFollowOn (cl id : Nat) (s : State) : Out :=
  event (match cmdOf s cl id with
    | some k => match k.copied, k.follow with
      | some _, some m => whenever true (followEnter cl k m)
      | _, _ => pure ()
    | none => pure ()) s

/-! ## Remote transfers (R176) -/

/-- The descriptor of a remote transfer. -/
def Cmd.desc (k : Cmd) : Word := BitVec.ofNat 64 k.tag

/-- Word `i` of the remote side: a G address, or a place in a scratchpad of the group. -/
def remoteLoc (s : State) (k : Cmd) (i : Nat) : Option Loc :=
  if rdRem k.desc then
    ((k.gid.bind s.group).bind (fun g => g.cores[k.src.toNat / 2 ^ 19]?)).map (fun c => Loc.p c (k.src.toNat % 2 ^ 19 + 4 * i))
  else none

/-- Read a word of a scratchpad, or say that it is poisoned. -/
def placeRead (s : State) (l : Loc) : Except Fail (Nat × List Effect) :=
  if l.poisoned s 4 then .error (.machine 1 0) else .ok (l.read s 4, [])

/-- One word of a transfer: its effects, or why it does not perform. -/
def transferWord (k : Cmd) (s : State) (i : Nat) : Except Fail (List Effect) :=
  let near := Loc.p (coreOf k.six) (k.dst.toNat + 4 * i)
  let addr := k.src + BitVec.ofNat 64 (4 * i)
  let far := remoteLoc s k i
  if rdRem k.desc && far.isNone then .error (.trap 6 1)
  else if k.kind = .rget then
    match (match far with | some l => placeRead s l | none => engineRead k s .g addr 4) with
    | .error e => .error e
    | .ok (v, fx) => .ok (fx ++ near.write 4 v (applyAll fx s))
  else
    match placeRead s near with
    | .error e => .error e
    | .ok (v, _) => match far with
      | some l => .ok (l.write 4 v s)
      | none => engineWrite k s .g addr 4 v

/-- The words of a transfer from `i` on: effects, words moved, and what stopped them. -/
def transferWords (k : Cmd) : Nat → Nat → State → List Effect × Nat × Option (Fail × Nat)
  | _, 0, _ => ([], 0, none)
  | i, n + 1, s =>
    match transferWord k s i with
    | .error e => ([], 0, some (e, i))
    | .ok es =>
      let r := transferWords k (i + 1) n (applyAll es s)
      (es ++ r.1, r.2.1 + 1, r.2.2)

/-- The completion message (R168, R176): KIND 1 or 2, LEN 0, from and to the issuing core; on the reply network (DEDUCED,
log entry 46). -/
def completionMsg (s : State) (k : Cmd) (count status : Nat) : Msg :=
  let tgt := rdTgt k.desc
  let core := ((k.gid.bind s.group).map (fun g => g.cores.findIdx (fun c => c == coreOf k.six))).getD 0
  let kind := if k.kind = .rget then 1 else 2
  let fifo := if tgt = 0 then 0 else 2 ^ 24 + tgt / 4 % 32 * 2 ^ 19 + tgt % 4 * 2 ^ 17
  { gid := k.gid.getD 4096, hdr := BitVec.ofNat 64 (kind * 2 ^ 32 + 2 ^ 25 + fifo + core),
    payload := [BitVec.ofNat 64 (count * 2 ^ 32 + status * 2 ^ 16 + rdTag k.desc)], entry := none }

/-- The end of a transfer: its ranges released and its completion sent. -/
def transferEnd (cl : Nat) (k : Cmd) (count status : Nat) (s : State) : List Effect :=
  chain [dropCmd cl k, replyArrive (coreOf k.six) (completionMsg s k count status)] s

/-- A machine check in a transfer: its group is killed (R190). -/
def transferCheck (cl : Nat) (k : Cmd) (s : State) : List Effect :=
  chain
    [dropCmd cl k,
     fun s => match k.gid with | some g => killGroup s g | none => [],
     fun s => [signal s (principalOf cl) 4 2]] s

/-- A begun transfer performs, from the words it has moved on. A word that leaves for another package is answered before the next
(R351). -/
def transferPerform (cl : Nat) (k : Cmd) (s : State) : List Effect :=
  let addr := fun (i : Nat) => k.src + BitVec.ofNat 64 (4 * i)
  match k.sent with
  | some g => match g.ans with
    | none => []
    | some a => wordAnswer 3 cl k a (addr k.done) (fun _ => transferEnd cl k k.done 1) s
  | none =>
    let (es, count, stop) := transferWords k k.done (rdWords k.desc - k.done) s
    let k' : Cmd := { k with done := k.done + count }
    chain
      [fun _ => es,
       fun s => match stop with
         | none => transferEnd cl k k'.done 0 s
         | some (.page, i) => holdCmd 3 cl k' (addr i) (decide (k.kind = .rput)) s
         | some (.wait _, _) => setCmd cl k' s
         | some (.send fx, _) => chain [fun _ => fx, fun s' => setCmd cl { k' with sent := some (sentWord s' s.nextId) } s'] s
         | some (.fetch asid pm xs, _) => chain [setCmd cl k', fetchCopies k.six asid pm xs] s
         | some (.machine .., _) => transferCheck cl k s
         | some (.trap .., _) => transferEnd cl k k'.done 1 s] s

/-- REMOTE_TRANSFER_COMPLETION (R176). -/
def execRemoteTransferCompletion (cl id : Nat) (s : State) : Out :=
  event (match cmdOf s cl id with
    | some k => whenever (k.begun && !k.held && decide (k.kind = .rget ∨ k.kind = .rput)) (transferPerform cl k)
    | none => pure ()) s

/-! ## The matrix unit (R226 to R229) -/

/-- MATRIX_COMMAND_START (R226): the command's tile is shadowed. -/
def execMatrixCommandStart (cl id : Nat) (s : State) : Out :=
  event (match mxOf s cl id with
    | some k => whenever (mxReady (s.cluster cl) k && !openBefore s k.six k.id)
        (setMx cl { k with begun := true, shadow := some ((s.strand k.six).readT k.td) })
    | none => pure ()) s

/-- MATRIX_COMMAND_COMPLETION (R227). -/
def execMatrixCommandCompletion (cl id : Nat) (s : State) : Out :=
  event (match mxOf s cl id with
    | some k => whenever (k.begun && !k.held && k.shadow.isSome) (mxPerform cl k)
    | none => pure ()) s

/-- MATRIX_REPLAY (R229): a command whose fault has been serviced starts again. -/
def execMatrixReplay (cl id : Nat) (s : State) : Out :=
  event (match mxOf s cl id with
    | some k => whenever (k.begun && !k.held && k.shadow.isNone)
        (setMx cl { k with shadow := some ((s.strand k.six).readT k.td) })
    | none => pure ()) s

/-! ## The Tutor engine (R319) -/

/-- TUTOR_SAMPLE. -/
def execTutorSample (cl : Nat) (s : State) : Out := event (whenever true (tutorSample cl)) s

/-! ## L1s, slices, translations -/

/-- L1_EVICTION (R252): an evicted owned word is written back; memory holds its bytes already. -/
def execL1Eviction (core asid va : Nat) (s : State) : Out :=
  event (whenever true (fun _ => [.l1 (l1Key core asid (BitVec.ofNat 64 va)) .empty])) s

/-- A SYNC store or atomic of a strand that has been killed completes at its home (R281): no register awaits it. An SC's reservation went
with its strand, so it stores nothing. -/
def lateOp (y : SyncStore) (s : State) : List Effect :=
  let write := homeStore none none (agentOf (coreOf y.req.six) (y.va.toNat % 2 ^ 48)) y.pa
  match y.req.op with
  | .store n v => write n (v.toNat % 2 ^ (8 * n)) s
  | .atomic _ a => write a.size (atomicNew a (memRead s.mem y.pa a.size)) s
  | _ => []

/-- SYNC_VALIDATION (R254): every sharer has acknowledged, so the store or atomic performs, every sharer with the new value. -/
def execSyncValidation (id : Nat) (s : State) : Out :=
  event (match s.syncs.find? (fun y => y.id == id) with
    | none => pure ()
    | some y => whenever true (chain
        [fun s => [.syncs (s.syncs.filter (fun z => z.id != id))], if y.six = noStrand then lateOp y else homeOp y.req y.asid y.va y.pa])) s

/-- TRANSLATION_EVICTION (R250). -/
def execTranslationEviction (unit asid page : Nat) (s : State) : Out :=
  event (whenever true (evictTlb (tlbKey unit asid page))) s

end Sys2Proof.Machine
end

