-- ==== Sys2Proof/Machine/Dispatch.lean ====
section
/-! DEFINITION. One arm for each constructor of Instr: the instruction's meaning, one direct call. -/

namespace Sys2Proof.Machine

def exec (i : Instr) (s : State) : Host.Outcome State Fault Refusal :=
  match i with
  | .add o => Sys2Proof.Machine.execAdd o s
  | .sub o => Sys2Proof.Machine.execSub o s
  | .and o => Sys2Proof.Machine.execAnd o s
  | .or o => Sys2Proof.Machine.execOr o s
  | .xor o => Sys2Proof.Machine.execXor o s
  | .andn o => Sys2Proof.Machine.execAndn o s
  | .orn o => Sys2Proof.Machine.execOrn o s
  | .xnor o => Sys2Proof.Machine.execXnor o s
  | .shl o => Sys2Proof.Machine.execShl o s
  | .shr o => Sys2Proof.Machine.execShr o s
  | .shra o => Sys2Proof.Machine.execShra o s
  | .rot o => Sys2Proof.Machine.execRot o s
  | .min o => Sys2Proof.Machine.execMin o s
  | .max o => Sys2Proof.Machine.execMax o s
  | .minn o => Sys2Proof.Machine.execMinn o s
  | .maxn o => Sys2Proof.Machine.execMaxn o s
  | .cmpeq o => Sys2Proof.Machine.execCmpeq o s
  | .cmplt o => Sys2Proof.Machine.execCmplt o s
  | .cmpltn o => Sys2Proof.Machine.execCmpltn o s
  | .cmple o => Sys2Proof.Machine.execCmple o s
  | .cmplen o => Sys2Proof.Machine.execCmplen o s
  | .sel o => Sys2Proof.Machine.execSel o s
  | .mul o => Sys2Proof.Machine.execMul o s
  | .mulh o => Sys2Proof.Machine.execMulh o s
  | .mulhn o => Sys2Proof.Machine.execMulhn o s
  | .div o => Sys2Proof.Machine.execDiv o s
  | .divn o => Sys2Proof.Machine.execDivn o s
  | .rem o => Sys2Proof.Machine.execRem o s
  | .remn o => Sys2Proof.Machine.execRemn o s
  | .clz o => Sys2Proof.Machine.execClz o s
  | .ctz o => Sys2Proof.Machine.execCtz o s
  | .popc o => Sys2Proof.Machine.execPopc o s
  | .bswap o => Sys2Proof.Machine.execBswap o s
  | .sextb o => Sys2Proof.Machine.execSextb o s
  | .sexth o => Sys2Proof.Machine.execSexth o s
  | .sextw o => Sys2Proof.Machine.execSextw o s
  | .addi o => Sys2Proof.Machine.execAddi o s
  | .andi o => Sys2Proof.Machine.execAndi o s
  | .ori o => Sys2Proof.Machine.execOri o s
  | .xori o => Sys2Proof.Machine.execXori o s
  | .shli o => Sys2Proof.Machine.execShli o s
  | .shri o => Sys2Proof.Machine.execShri o s
  | .shrai o => Sys2Proof.Machine.execShrai o s
  | .roti o => Sys2Proof.Machine.execRoti o s
  | .bfx o => Sys2Proof.Machine.execBfx o s
  | .bfi o => Sys2Proof.Machine.execBfi o s
  | .lui o => Sys2Proof.Machine.execLui o s
  | .lea o => Sys2Proof.Machine.execLea o s
  | .ldbn o => Sys2Proof.Machine.execLdbn o s
  | .ldhn o => Sys2Proof.Machine.execLdhn o s
  | .ldwn o => Sys2Proof.Machine.execLdwn o s
  | .ldd o => Sys2Proof.Machine.execLdd o s
  | .ldb o => Sys2Proof.Machine.execLdb o s
  | .ldh o => Sys2Proof.Machine.execLdh o s
  | .ldw o => Sys2Proof.Machine.execLdw o s
  | .stb o => Sys2Proof.Machine.execStb o s
  | .sth o => Sys2Proof.Machine.execSth o s
  | .stw o => Sys2Proof.Machine.execStw o s
  | .std o => Sys2Proof.Machine.execStd o s
  | .ldacq o => Sys2Proof.Machine.execLdacq o s
  | .strel o => Sys2Proof.Machine.execStrel o s
  | .aadd o => Sys2Proof.Machine.execAadd o s
  | .aand o => Sys2Proof.Machine.execAand o s
  | .aor o => Sys2Proof.Machine.execAor o s
  | .axor o => Sys2Proof.Machine.execAxor o s
  | .amin o => Sys2Proof.Machine.execAmin o s
  | .amax o => Sys2Proof.Machine.execAmax o s
  | .aminn o => Sys2Proof.Machine.execAminn o s
  | .amaxn o => Sys2Proof.Machine.execAmaxn o s
  | .aswap o => Sys2Proof.Machine.execAswap o s
  | .acas o => Sys2Proof.Machine.execAcas o s
  | .afadd o => Sys2Proof.Machine.execAfadd o s
  | .lr o => Sys2Proof.Machine.execLr o s
  | .sc o => Sys2Proof.Machine.execSc o s
  | .acas2 o => Sys2Proof.Machine.execAcas2 o s
  | .appnd o => Sys2Proof.Machine.execAppnd o s
  | .tailq o => Sys2Proof.Machine.execTailq o s
  | .sealPage o => Sys2Proof.Machine.execSealPage o s
  | .bEq o => Sys2Proof.Machine.execBEq o s
  | .bNe o => Sys2Proof.Machine.execBNe o s
  | .bLt o => Sys2Proof.Machine.execBLt o s
  | .bGe o => Sys2Proof.Machine.execBGe o s
  | .bLtn o => Sys2Proof.Machine.execBLtn o s
  | .bGen o => Sys2Proof.Machine.execBGen o s
  | .jmp o => Sys2Proof.Machine.execJmp o s
  | .jr o => Sys2Proof.Machine.execJr o s
  | .jtab o => Sys2Proof.Machine.execJtab o s
  | .fin o => Sys2Proof.Machine.execFin o s
  | .yield o => Sys2Proof.Machine.execYield o s
  | .align o => Sys2Proof.Machine.execAlign o s
  | .mfs o => Sys2Proof.Machine.execMfs o s
  | .mts o => Sys2Proof.Machine.execMts o s
  | .trap o => Sys2Proof.Machine.execTrap o s
  | .loxi o => Sys2Proof.Machine.execLoxi o s
  | .lox o => Sys2Proof.Machine.execLox o s
  | .sox o => Sys2Proof.Machine.execSox o s
  | .fenceAcq o => Sys2Proof.Machine.execFenceAcq o s
  | .fenceRel o => Sys2Proof.Machine.execFenceRel o s
  | .fenceFull o => Sys2Proof.Machine.execFenceFull o s
  | .persist o => Sys2Proof.Machine.execPersist o s
  | .winwait o => Sys2Proof.Machine.execWinwait o s
  | .featq o => Sys2Proof.Machine.execFeatq o s
  | .implq o => Sys2Proof.Machine.execImplq o s
  | .tret o => Sys2Proof.Machine.execTret o s
  | .wfi o => Sys2Proof.Machine.execWfi o s
  | .migr o => Sys2Proof.Machine.execMigr o s
  | .migret o => Sys2Proof.Machine.execMigret o s
  | .tlbinv o => Sys2Proof.Machine.execTlbinv o s
  | .harvest o => Sys2Proof.Machine.execHarvest o s
  | .wbinv o => Sys2Proof.Machine.execWbinv o s
  | .pfree o => Sys2Proof.Machine.execPfree o s
  | .kill o => Sys2Proof.Machine.execKill o s
  | .send o => Sys2Proof.Machine.execSend o s
  | .sendm o => Sys2Proof.Machine.execSendm o s
  | .recv o => Sys2Proof.Machine.execRecv o s
  | .amsg o => Sys2Proof.Machine.execAmsg o s
  | .amret o => Sys2Proof.Machine.execAmret o s
  | .mboxq o => Sys2Proof.Machine.execMboxq o s
  | .loopb o => Sys2Proof.Machine.execLoopb o s
  | .rget o => Sys2Proof.Machine.execRget o s
  | .rput o => Sys2Proof.Machine.execRput o s
  | .tspawn o => Sys2Proof.Machine.execTspawn o s
  | .tstamp o => Sys2Proof.Machine.execTstamp o s
  | .tabort o => Sys2Proof.Machine.execTabort o s
  | .fpush o => Sys2Proof.Machine.execFpush o s
  | .fpop o => Sys2Proof.Machine.execFpop o s
  | .fcnt o => Sys2Proof.Machine.execFcnt o s
  | .dcset o => Sys2Proof.Machine.execDcset o s
  | .dcdec o => Sys2Proof.Machine.execDcdec o s
  | .adecl o => Sys2Proof.Machine.execAdecl o s
  | .gcall o => Sys2Proof.Machine.execGcall o s
  | .gret o => Sys2Proof.Machine.execGret o s
  | .gstat o => Sys2Proof.Machine.execGstat o s
  | .gpub o => Sys2Proof.Machine.execGpub o s
  | .grevoke o => Sys2Proof.Machine.execGrevoke o s
  | .gqry o => Sys2Proof.Machine.execGqry o s
  | .copy o => Sys2Proof.Machine.execCopy o s
  | .copymm o => Sys2Proof.Machine.execCopymm o s
  | .bpref o => Sys2Proof.Machine.execBpref o s
  | .bar o => Sys2Proof.Machine.execBar o s
  | .bara o => Sys2Proof.Machine.execBara o s
  | .barw o => Sys2Proof.Machine.execBarw o s
  | .barph o => Sys2Proof.Machine.execBarph o s
  | .ipdep o => Sys2Proof.Machine.execIpdep o s
  | .ipdraw o => Sys2Proof.Machine.execIpdraw o s
  | .apxcall o => Sys2Proof.Machine.execApxcall o s
  | .apxret o => Sys2Proof.Machine.execApxret o s
  | .apxcfg o => Sys2Proof.Machine.execApxcfg o s
  | .apxqry o => Sys2Proof.Machine.execApxqry o s
  | .apxinv o => Sys2Proof.Machine.execApxinv o s
  | .vmov o => Sys2Proof.Machine.execVmov o s
  | .vsel o => Sys2Proof.Machine.execVsel o s
  | .vshuf o => Sys2Proof.Machine.execVshuf o s
  | .vrot o => Sys2Proof.Machine.execVrot o s
  | .vext o => Sys2Proof.Machine.execVext o s
  | .vli o => Sys2Proof.Machine.execVli o s
  | .vbcast o => Sys2Proof.Machine.execVbcast o s
  | .vabs o => Sys2Proof.Machine.execVabs o s
  | .vneg o => Sys2Proof.Machine.execVneg o s
  | .vcps o => Sys2Proof.Machine.execVcps o s
  | .vtag o => Sys2Proof.Machine.execVtag o s
  | .vclass o => Sys2Proof.Machine.execVclass o s
  | .vadd o => Sys2Proof.Machine.execVadd o s
  | .vsub o => Sys2Proof.Machine.execVsub o s
  | .vmul o => Sys2Proof.Machine.execVmul o s
  | .vfma o => Sys2Proof.Machine.execVfma o s
  | .vfms o => Sys2Proof.Machine.execVfms o s
  | .vfnma o => Sys2Proof.Machine.execVfnma o s
  | .vdiv o => Sys2Proof.Machine.execVdiv o s
  | .vsqrt o => Sys2Proof.Machine.execVsqrt o s
  | .vrcp o => Sys2Proof.Machine.execVrcp o s
  | .vrsq o => Sys2Proof.Machine.execVrsq o s
  | .vmin o => Sys2Proof.Machine.execVmin o s
  | .vmax o => Sys2Proof.Machine.execVmax o s
  | .vexp2 o => Sys2Proof.Machine.execVexp2 o s
  | .vlog2 o => Sys2Proof.Machine.execVlog2 o s
  | .viadd o => Sys2Proof.Machine.execViadd o s
  | .visub o => Sys2Proof.Machine.execVisub o s
  | .vimul o => Sys2Proof.Machine.execVimul o s
  | .vimulh o => Sys2Proof.Machine.execVimulh o s
  | .vand o => Sys2Proof.Machine.execVand o s
  | .vor o => Sys2Proof.Machine.execVor o s
  | .vxor o => Sys2Proof.Machine.execVxor o s
  | .vshl o => Sys2Proof.Machine.execVshl o s
  | .vshr o => Sys2Proof.Machine.execVshr o s
  | .vshra o => Sys2Proof.Machine.execVshra o s
  | .vimin o => Sys2Proof.Machine.execVimin o s
  | .vimax o => Sys2Proof.Machine.execVimax o s
  | .viminn o => Sys2Proof.Machine.execViminn o s
  | .vimaxn o => Sys2Proof.Machine.execVimaxn o s
  | .vsadd o => Sys2Proof.Machine.execVsadd o s
  | .vssub o => Sys2Proof.Machine.execVssub o s
  | .vabsd o => Sys2Proof.Machine.execVabsd o s
  | .vcmpEq o => Sys2Proof.Machine.execVcmpEq o s
  | .vcmpNe o => Sys2Proof.Machine.execVcmpNe o s
  | .vcmpLt o => Sys2Proof.Machine.execVcmpLt o s
  | .vcmpLe o => Sys2Proof.Machine.execVcmpLe o s
  | .vcmpLtn o => Sys2Proof.Machine.execVcmpLtn o s
  | .vcmpLen o => Sys2Proof.Machine.execVcmpLen o s
  | .vcvt o => Sys2Proof.Machine.execVcvt o s
  | .vpack o => Sys2Proof.Machine.execVpack o s
  | .vscale o => Sys2Proof.Machine.execVscale o s
  | .vunpk o => Sys2Proof.Machine.execVunpk o s
  | .vredAdd o => Sys2Proof.Machine.execVredAdd o s
  | .vredMin o => Sys2Proof.Machine.execVredMin o s
  | .vredMax o => Sys2Proof.Machine.execVredMax o s
  | .vredMinn o => Sys2Proof.Machine.execVredMinn o s
  | .vredMaxn o => Sys2Proof.Machine.execVredMaxn o s
  | .vredAnd o => Sys2Proof.Machine.execVredAnd o s
  | .vredOr o => Sys2Proof.Machine.execVredOr o s
  | .vredXor o => Sys2Proof.Machine.execVredXor o s
  | .vdot o => Sys2Proof.Machine.execVdot o s
  | .vscanAdd o => Sys2Proof.Machine.execVscanAdd o s
  | .vscanMin o => Sys2Proof.Machine.execVscanMin o s
  | .vscanMax o => Sys2Proof.Machine.execVscanMax o s
  | .vld o => Sys2Proof.Machine.execVld o s
  | .vst o => Sys2Proof.Machine.execVst o s
  | .vgath o => Sys2Proof.Machine.execVgath o s
  | .vscat o => Sys2Proof.Machine.execVscat o s
  | .vldl o => Sys2Proof.Machine.execVldl o s
  | .vstl o => Sys2Proof.Machine.execVstl o s
  | .vrest o => Sys2Proof.Machine.execVrest o s
  | .vsave o => Sys2Proof.Machine.execVsave o s
  | .qpush o => Sys2Proof.Machine.execQpush o s
  | .qpop o => Sys2Proof.Machine.execQpop o s
  | .fset o => Sys2Proof.Machine.execFset o s
  | .fwait o => Sys2Proof.Machine.execFwait o s
  | .bqpush o => Sys2Proof.Machine.execBqpush o s
  | .vend o => Sys2Proof.Machine.execVend o s
  | .mand o => Sys2Proof.Machine.execMand o s
  | .mor o => Sys2Proof.Machine.execMor o s
  | .mnot o => Sys2Proof.Machine.execMnot o s
  | .mpop o => Sys2Proof.Machine.execMpop o s
  | .mfirst o => Sys2Proof.Machine.execMfirst o s
  | .vstart o => Sys2Proof.Machine.execVstart o s
  | .vbr o => Sys2Proof.Machine.execVbr o s
  | .vloop o => Sys2Proof.Machine.execVloop o s
  | .vjmp o => Sys2Proof.Machine.execVjmp o s
  | .mma o => Sys2Proof.Machine.execMma o s
  | .mmaz o => Sys2Proof.Machine.execMmaz o s
  | .mtcx o => Sys2Proof.Machine.execMtcx o s
  | .mldt o => Sys2Proof.Machine.execMldt o s
  | .mstt o => Sys2Proof.Machine.execMstt o s
  | .mzt o => Sys2Proof.Machine.execMzt o s
  | .mcvt o => Sys2Proof.Machine.execMcvt o s
  | .mtrn o => Sys2Proof.Machine.execMtrn o s
  | .tmov o => Sys2Proof.Machine.execTmov o s
  | .tcfg o => Sys2Proof.Machine.execTcfg o s
  | .cAdd o => Sys2Proof.Machine.execCAdd o s
  | .cSub o => Sys2Proof.Machine.execCSub o s
  | .cMov o => Sys2Proof.Machine.execCMov o s
  | .cAnd o => Sys2Proof.Machine.execCAnd o s
  | .cOr o => Sys2Proof.Machine.execCOr o s
  | .cXor o => Sys2Proof.Machine.execCXor o s
  | .cAddi o => Sys2Proof.Machine.execCAddi o s
  | .cLi o => Sys2Proof.Machine.execCLi o s
  | .cShli o => Sys2Proof.Machine.execCShli o s
  | .cShri o => Sys2Proof.Machine.execCShri o s
  | .cShrai o => Sys2Proof.Machine.execCShrai o s
  | .cBz o => Sys2Proof.Machine.execCBz o s
  | .cBnz o => Sys2Proof.Machine.execCBnz o s
  | .cLdw o => Sys2Proof.Machine.execCLdw o s
  | .cStw o => Sys2Proof.Machine.execCStw o s
  | .cLdd o => Sys2Proof.Machine.execCLdd o s
  | .cStd o => Sys2Proof.Machine.execCStd o s
  | .cJr o => Sys2Proof.Machine.execCJr o s
  | .cRet => Sys2Proof.Machine.execCRet s
  | .cFin => Sys2Proof.Machine.execCFin s
  | .cYield => Sys2Proof.Machine.execCYield s
  | .taskDispatch six => Sys2Proof.Machine.execTaskDispatch six s
  | .strandPark six => Sys2Proof.Machine.execStrandPark six s
  | .replayClassTrap six => Sys2Proof.Machine.execReplayClassTrap six s
  | .quantExpiry six => Sys2Proof.Machine.execQuantExpiry six s
  | .preemptOrder gid => Sys2Proof.Machine.execPreemptOrder gid s
  | .preemptEntry six => Sys2Proof.Machine.execPreemptEntry six s
  | .interruptEntry six => Sys2Proof.Machine.execInterruptEntry six s
  | .streamAging six st => Sys2Proof.Machine.execStreamAging six st s
  | .alignTimeout six => Sys2Proof.Machine.execAlignTimeout six s
  | .reservationExpiry six => Sys2Proof.Machine.execReservationExpiry six s
  | .l1Eviction core asid va => Sys2Proof.Machine.execL1Eviction core asid va s
  | .syncValidation id => Sys2Proof.Machine.execSyncValidation id s
  | .translationEviction unit asid page => Sys2Proof.Machine.execTranslationEviction unit asid page s
  | .unwindStart six => Sys2Proof.Machine.execUnwindStart six s
  | .cleanupBudgetExpiry six => Sys2Proof.Machine.execCleanupBudgetExpiry six s
  | .grevokeComplete six => Sys2Proof.Machine.execGrevokeComplete six s
  | .machineCheck gid sub six => Sys2Proof.Machine.execMachineCheck gid sub six s
  | .taskCommit gid => Sys2Proof.Machine.execTaskCommit gid s
  | .queueNotify die q => Sys2Proof.Machine.execQueueNotify die q s
  | .queueMap die q => Sys2Proof.Machine.execQueueMap die q s
  | .packetLaunch die q => Sys2Proof.Machine.execPacketLaunch die q s
  | .packetSignal die q => Sys2Proof.Machine.execPacketSignal die q s
  | .packetResume die q => Sys2Proof.Machine.execPacketResume die q s
  | .packetReject die q => Sys2Proof.Machine.execPacketReject die q s
  | .groupCompletion gid => Sys2Proof.Machine.execGroupCompletion gid s
  | .spillWrite gid => Sys2Proof.Machine.execSpillWrite gid s
  | .messageArrival core idx => Sys2Proof.Machine.execMessageArrival core idx s
  | .requestPortRelease core idx => Sys2Proof.Machine.execRequestPortRelease core idx s
  | .handlerDispatch core => Sys2Proof.Machine.execHandlerDispatch core s
  | .hwAtomicEntry core => Sys2Proof.Machine.execHwAtomicEntry core s
  | .overflowDispatch core => Sys2Proof.Machine.execOverflowDispatch core s
  | .actorFire six actor => Sys2Proof.Machine.execActorFire six actor s
  | .fifoOutputSend core actor out => Sys2Proof.Machine.execFifoOutputSend core actor out s
  | .engineCommandStart cl id => Sys2Proof.Machine.execEngineCommandStart cl id s
  | .copyCompletion cl id => Sys2Proof.Machine.execCopyCompletion cl id s
  | .copymmFollowOn cl id => Sys2Proof.Machine.execCopymmFollowOn cl id s
  | .remoteTransferCompletion cl id => Sys2Proof.Machine.execRemoteTransferCompletion cl id s
  | .matrixCommandStart cl id => Sys2Proof.Machine.execMatrixCommandStart cl id s
  | .matrixCommandCompletion cl id => Sys2Proof.Machine.execMatrixCommandCompletion cl id s
  | .matrixReplay cl id => Sys2Proof.Machine.execMatrixReplay cl id s
  | .matrixDeferredTrap six => Sys2Proof.Machine.execMatrixDeferredTrap six s
  | .tutorSample cl => Sys2Proof.Machine.execTutorSample cl s
  | .domainRootStore asid v => Sys2Proof.Machine.execDomainRootStore asid v s
  | .domainActivate asid v => Sys2Proof.Machine.execDomainActivate asid v s
  | .frameAssignOwner fr v => Sys2Proof.Machine.execFrameAssignOwner fr v s
  | .frameSetAppend fr v => Sys2Proof.Machine.execFrameSetAppend fr v s
  | .cspBlockStore die b v => Sys2Proof.Machine.execCspBlockStore die b v s
  | .cspBlockInstall die b => Sys2Proof.Machine.execCspBlockInstall die b s
  | .pmarkWrite p v => Sys2Proof.Machine.execPmarkWrite p v s
  | .pbudgetWrite v => Sys2Proof.Machine.execPbudgetWrite v s
  | .gatereqWrite v => Sys2Proof.Machine.execGatereqWrite v s
  | .clusterGating cl => Sys2Proof.Machine.execClusterGating cl s
  | .clusterUngating cl => Sys2Proof.Machine.execClusterUngating cl s
  | .powerInterval throt => Sys2Proof.Machine.execPowerInterval throt s
  | .freezePin => Sys2Proof.Machine.execFreezePin s
  | .freezeWrite v => Sys2Proof.Machine.execFreezeWrite v s
  | .extend => Sys2Proof.Machine.execExtend s
  | .quote => Sys2Proof.Machine.execQuote s
  | .reset => Sys2Proof.Machine.execReset s
  | .wincfgWrite v => Sys2Proof.Machine.execWincfgWrite v s
  | .hostint f v => Sys2Proof.Machine.execHostint f v s
  | .registerWrite pa v => Sys2Proof.Machine.execRegisterWrite pa v s
  | .hostWrite f pa v => Sys2Proof.Machine.execHostWrite f pa v s
  | .hostRead f pa => Sys2Proof.Machine.execHostRead f pa s
  | .hostNotify f die q => Sys2Proof.Machine.execHostNotify f die q s
  | .flrVf t => Sys2Proof.Machine.execFlrVf t s
  | .flrPf => Sys2Proof.Machine.execFlrPf s
  | .pcieLoadTimeout id => Sys2Proof.Machine.execPcieLoadTimeout id s
  | .flitReceive link flit => Sys2Proof.Machine.execFlitReceive link flit s
  | .linkRetrain link lanes => Sys2Proof.Machine.execLinkRetrain link lanes s
  | .routeChange dest cls link => Sys2Proof.Machine.execRouteChange dest cls link s
  | .ptpMessage ptp => Sys2Proof.Machine.execPtpMessage ptp s
  | .windowClose => Sys2Proof.Machine.execWindowClose s
  | .closeMarker p n => Sys2Proof.Machine.execCloseMarker p n s
  | .windowEntry => Sys2Proof.Machine.execWindowEntry s
  | .memberFailure p => Sys2Proof.Machine.execMemberFailure p s
  | .podAccess req => Sys2Proof.Machine.execPodAccess req s
  | .poisonedLine sp addr => Sys2Proof.Machine.execPoisonedLine sp addr s
  | .replyNetworkArrival core idx => Sys2Proof.Machine.execReplyNetworkArrival core idx s
  | .remoteInvalidation p fr => Sys2Proof.Machine.execRemoteInvalidation p fr s
  | .timerInterrupt core src => Sys2Proof.Machine.execTimerInterrupt core src s

end Sys2Proof.Machine
end

