-- ==== Sys2Proof/Machine/Fetch.lean ====
section
/-! DEFINITION. Fetching an instruction (R41, R42, R56 checks 1 and 2). -/

namespace Sys2Proof.Machine

/-- What fetching meets: a trap, or bytes of another package that have not arrived. -/
inductive FetchStop where
  | trap (t : Trap)
  | copy (asid : Nat) (pm : Bool) (words : List (Nat × Nat × Nat))
  deriving DecidableEq, Repr

/-- A fetch is a load of its agent (R255, R261). -/
def fetchShare (s : State) (core : Nat) (va : Word) (y : Xl) : List Effect :=
  shareFor y.cls (agentOf core (va.toNat % 2 ^ 48)) y.pa (applyAll y.fx s)

/-- One halfword at an address in a strand's domain (R42, R150): its value and the record its translation leaves. A fault has the
subcode FETCH on every core, but for the window range (R42). -/
def fetchHalf (s : State) (six : Nat) (st : Stream) (va : Word) : Except FetchStop (Nat × List Effect) :=
  let x := s.strand six
  let core := coreOf six
  let stop := fun (c u : Nat) => Except.error (FetchStop.trap { cause := c, sub := u, addr := va, strm := st })
  let check := fun (u pa : Nat) => Except.error (FetchStop.trap { cause := 17, sub := u, addr := BitVec.ofNat 64 pa, strm := st })
  if inWindow va then stop 6 3
  else match translate s core x.dom x.sys.pm va .x with
    | none => match pageFail s core x.dom va with
      | .machine u pa => check u pa
      | _ => stop 5 1
    | some y =>
      if y.cls = .device then
        -- A fetch from a device register reads as a load of it does; a window takes loads and stores only (log entry 57).
        if inHostWindow y.pa then stop 5 1
        else .ok (deviceBytes s x.sys.pm y.pa 2, y.fx)
      else if y.pod then
        match podLoad s x.dom x.sys.pm y 2 with
        | .ok v => .ok (v, y.fx)
        | .error (.fetch a pm xs) => .error (.copy a pm xs)
        | .error (.machine u pa) => check u pa
        | .error (.trap c u) => stop c u
        | .error _ => stop 5 1
      else match memCheck s true y.pa 2 with
        | some u => check u y.pa
        | none => .ok (bytesSeen s y.cls y.pa 2, y.fx ++ fetchShare s core va y)

/-- The bytes of the instruction at an address: two, or four where bit 0 of the first halfword is 1 (R41). -/
def fetchBytes (s : State) (six : Nat) (st : Stream) (va : Word) : Except FetchStop (List Byte × List Effect) :=
  match fetchHalf s six st va with
  | .error e => .error e
  | .ok (h0, fx) =>
    if h0 % 2 = 0 then .ok (natBytes 2 h0, fx)
    else match fetchHalf s six st (va + 2) with
      | .error e => .error e
      | .ok (h1, gx) => .ok (natBytes 4 (h0 + 65536 * h1), fx ++ gx)

/-- The number whose bytes these are. -/
def bytesNat (bs : List Byte) : Nat := bs.foldr (fun b acc => b.toNat + 256 * acc) 0

/-- The instruction that a stream of a strand issues next, with the records its translation leaves; a reserved encoding raises
ILLEGAL (R56). -/
noncomputable def fetchInstr (s : State) (six : Nat) (st : Stream) : Except FetchStop (Instr × List Effect) :=
  match fetchBytes s six st ((s.strand six).pcOf st) with
  | .error e => .error e
  | .ok (bs, fx) =>
    match decode bs with
    | .ok (i, _) => .ok (i, fx)
    | .error _ => .error (.trap { cause := 1, sub := 0, addr := BitVec.ofNat 64 (bytesNat bs), strm := st })

end Sys2Proof.Machine
end

