-- ==== Sys2Proof/Machine/Issue.lean ====
section
/-! DEFINITION. Issue selection (R159 to R161): which strand a sequencer grants, what a grant does, and the passing of a core's
cycles (R156, R187). The meaning of an instruction is a parameter, `ex`. -/

namespace Sys2Proof.Machine

/-- The state with a stream of a strand issuing. -/
def State.focused (s : State) (six : Nat) (st : Stream) : State := { s with focus := (six, st) }

/-- Whether a strand that has entered a handler still waits for what it had issued (R33, R229); an unwind does its own waiting (R157). -/
def entering (s : State) (six : Nat) : Bool :=
  let x := s.strand six
  x.entry && undrained s six && !x.unw.any (fun u => !u.clean)

/-- Whether a stream of a strand runs at all. -/
def runs (s : State) (six : Nat) (st : Stream) : Bool :=
  let x := s.strand six
  decide (x.st = .active) && (decide (st = .c) || x.sys.vrun) && !entering s six

/-- Whether a stream is inside an instruction that completes before an entry (R157, R185); a KILL waits only for what has its effect to
complete (`finishes`). -/
def Strand.inside (x : Strand) (st : Stream) : Bool :=
  if x.unw.any (fun u => !u.clean) then decide (st = .c) && x.finishes
  else (x.waitOf st).first || decide (st = .c ∧ (x.c.wait = .fin ∨ x.c.wait = .reply))

/-- What a stream's boundary brings before it goes on, where anything. -/
def boundaryOf (six : Nat) (st : Stream) (s : State) : Option (List Effect) :=
  if (dueHead s six).isNone && (s.strand six).inside st then none else boundary six s

/-- What a stream does past its boundary: its next instruction, or one of the steps it idles (R34); nothing while it waits for an
interrupt (R111, R347). -/
noncomputable def attempt (ex : Instr → State → Out) (six : Nat) (st : Stream) (s : State) : Out :=
  if (s.strand six).waitOf st = .interrupt ∧ !awake s (coreOf six) then .next s
  else if 0 < (s.strand six).idleOf st then .next (applyAll [.strand six ((s.strand six).idled st)] s)
  else match fetchInstr s six st with
    | .ok (i, fx) => ex i ((applyAll fx s).focused six st)
    | .error (.trap t) => .next (onStop (.trap t) (s.focused six st))
    | .error (.copy asid pm xs) =>
      .next (applyAll (chain [fetchCopies six asid pm xs, fun s => [.strand six ((s.strand six).setWait st .score)]] s) s)

/-- What a stream does at a grant: what its boundary brings, or its next instruction. -/
noncomputable def attend (ex : Instr → State → Out) (six : Nat) (st : Stream) (s : State) : Out :=
  match boundaryOf six st s with
  | some es => .next (applyAll es s)
  | none => attempt ex six st s

/-- What an outcome changes. -/
def changes (o : Out) (s : State) : Bool :=
  match o with
  | .next t => decide ({ t with focus := s.focus } ≠ s)
  | _ => true

/-- A wait that an instruction enters after it has issued (R95, R157, R178, R193, R206, R263). -/
def Wait.issued : Wait → Bool
  | .align .. => true
  | .revoke .. => true
  | .bell => true
  | .accept => true
  | .reply => true
  | .pfree .. => true
  | _ => false

/-- Whether an outcome of a stream's next instruction is of an instruction that issues, and not of one that stays unissued. -/
def issues (o : Out) (six : Nat) (st : Stream) (s : State) : Bool :=
  match o with
  | .next t =>
    let w := (t.strand six).waitOf st
    decide (w = .none) || (w.issued && decide (w ≠ (s.strand six).waitOf st))
  | _ => true

/-- Whether a stream waits in an instruction that has issued: it has had its grant (R159). -/
def hasIssued (s : State) (six : Nat) (st : Stream) : Bool := ((s.strand six).waitOf st).issued

/-- Whether a stream requests a grant (R159): it runs, and its boundary brings something, or it idles for a w count, or its next
instruction can issue. -/
noncomputable def requests (ex : Instr → State → Out) (s : State) (six : Nat) (st : Stream) : Bool :=
  runs s six st && (match boundaryOf six st s with
    | some es => changes (.next (applyAll es s)) s
    | none => !hasIssued s six st && issues (attempt ex six st s) six st s)

/-- What a stream notes without a grant: the wait of an instruction that cannot issue, with the commit it has waited for (R297), and the
end of a wait of one that has issued. -/
noncomputable def noted (ex : Instr → State → Out) (s : State) (six : Nat) (st : Stream) : Option Out :=
  if runs s six st && (boundaryOf six st s).isNone then
    let o := attempt ex six st s
    if (hasIssued s six st || !issues o six st s) && changes o s then some o else none
  else none

/-- The round-robin pointers of a sequencer: by priority, the slot to search from. -/
def Core.rr (c : Core) (st : Stream) : Tbl Nat := match st with | .c => c.rrC | .v => c.rrV

/-- Slots 0 to 5 in the order of a search from a slot (R160). -/
def searchFrom (k : Nat) : List Nat := (List.range 6).map (fun i => (k + i) % 6)

/-- Whether a YIELD record passes a slot over (R160): a strand of its set still requests and has not been granted since. -/
def passedOver (c : Core) (req : Nat → Bool) (k : Nat) : Bool := c.yield.any (fun y => y.1 == k && y.2.any req)

/-- The slot a sequencer grants (R159), among slots that meet `req`. -/
def pick (s : State) (core : Nat) (st : Stream) (req : Nat → Bool) : Option Nat :=
  let c := s.core core
  let pri := fun (k : Nat) => (s.strand (8 * core + k)).sys.pri.toNat
  if req 6 || (decide (st = .c) && (hwAtomicStep core s).isSome) then some 6
  else if req 7 then some 7
  else
    let rs := (List.range 6).filter req
    match rs.find? (fun k => c.aged.contains (k, st)) with
    | some k => some k
    | none =>
      let free := if st = .c then rs.filter (fun k => !passedOver c req k) else rs
      let top := free.foldl (fun m k => max m (pri k)) 0
      (searchFrom (tblGet 0 (c.rr st) top)).find? (fun k => free.contains k && decide (pri k = top))

/-- The counts of R161 after a sequencer grants a slot: one more for each other stream that requested, at most 1,024, and none
for one that did not. -/
def Core.agesAfter (c : Core) (st : Stream) (k : Nat) (req : Nat → Bool) : Tbl Nat :=
  (List.range 6).foldl (fun t j =>
    tblSet 0 t (ageKey j st) (if j ≠ k ∧ req j then min (tblGet 0 c.ages (ageKey j st) + 1) 1024 else 0)) c.ages

/-- The sequencer's records after it grants a slot (R160, R161). -/
def Core.granted (c : Core) (st : Stream) (k pri : Nat) (req : Nat → Bool) : Core :=
  let y := if st = .c then (c.yield.map (fun r => (r.1, r.2.filter (fun j => j != k && req j)))).filter (fun r => r.2 ≠ [])
    else c.yield
  let next := (k + 1) % 6
  let aged := c.aged.filter (fun a => a != (k, st))
  let ages := c.agesAfter st k req
  let reqs := if st = .c then (List.range 6).filter req else c.reqs
  if 6 ≤ k then { c with yield := y, ages := ages, reqs := reqs }
  else match st with
    | .c => { c with yield := y, aged := aged, ages := ages, reqs := reqs, rrC := tblSet 0 c.rrC pri next }
    | .v => { c with aged := aged, ages := ages, rrV := tblSet 0 c.rrV pri next }

/-- A strand after `n` cycles of its core: QUANT counts while the slot is ACTIVE, but for handlers (R177, R187); a running
cleanup's budget counts whatever the strand does (R157). -/
def Strand.ticked (x : Strand) (six n : Nat) : Strand :=
  let q : Word := if x.st = .active ∧ preemptible six then BitVec.ofNat 64 (x.sys.quant.toNat - n) else x.sys.quant
  { x with
    sys := { x.sys with quant := q },
    unw := x.unw.map (fun u => if u.clean then { u with left := u.left - n } else u) }

/-- `n` cycles pass at a core; the package's cycle is that of the core that is furthest (log entry 8). A QUANT that reaches 0 requests
pre-emption of its group (R187). -/
def tick (core n : Nat) (s : State) : List Effect :=
  let mine := s.strands.filter (fun p => decide (coreOf p.1 = core ∧ p.2.st ≠ .free))
  let spent := mine.filterMap (fun p =>
    if p.2.st = .active ∧ p.2.sys.quant ≠ 0 ∧ p.2.sys.quant.toNat ≤ n ∧ preemptible p.1 then p.2.gid else none)
  chain
    ([fun s => let c := s.core core
        [Effect.core core { c with cycle := c.cycle + n }, .cycle (max s.cycle (c.cycle + n))],
      fun _ => mine.map (fun p => .strand p.1 (p.2.ticked p.1 n))]
      ++ spent.map (fun g => fun s => if canPreempt s g then requestPreempt g s else [])) s

/-- An outcome's next state with effects after it. -/
def andThen (o : Out) (f : State → List Effect) : Out :=
  match o with
  | .next t => .next (applyAll (f t) t)
  | o => o

/-- A grant (R159): the sequencer's records, the grant itself, and the cycle that a grant of the C-sequencer counts (log
entry 8). -/
noncomputable def grant (ex : Instr → State → Out) (core : Nat) (st : Stream) (k : Nat) (s : State) : Out :=
  let six := 8 * core + k
  let c := s.core core
  let y := c.granted st k (s.strand six).sys.pri.toNat (fun j => requests ex s (8 * core + j) st)
  let s' := (Effect.core core y).apply s
  let o : Out :=
    match (if k = 6 ∧ st = .c then hwAtomicStep core s' else none) with
    | some es => .next (applyAll es s')
    | none => attend ex six st s'
  andThen o (fun t => if st = .c then tick core 1 t else [])

/-- The slot that a sequencer of a core grants now. -/
noncomputable def picked (ex : Instr → State → Out) (s : State) (core : Nat) (st : Stream) : Option Nat :=
  pick s core st (fun k => requests ex s (8 * core + k) st)

/-- A core added to a rising list of cores. -/
def addCore (c : Nat) : List Nat → List Nat
  | [] => [c]
  | d :: r => if c < d then c :: d :: r else if c = d then d :: r else d :: addCore c r

/-- Cores on which something may issue, each once, rising. -/
def liveCores (s : State) : List Nat :=
  ((s.strands.filter (fun p => decide (p.2.st = .active))).map (fun p => coreOf p.1)
    ++ (s.cores.filter (fun p => !p.2.hq.isEmpty)).map Prod.fst).foldr addCore []

/-- Whether a sequencer `b` stands at or after `a` in the order of turns: by core, the C-sequencer first. -/
def turnLe (a b : Nat × Stream) : Bool := decide (a.1 < b.1) || (a.1 == b.1 && (a.2 == b.2 || a.2 == .c))

/-- The sequencers of the cores on which something may issue, in the order of turns. -/
def turns (s : State) : List (Nat × Stream) := (liveCores s).flatMap (fun c => [(c, Stream.c), (c, Stream.v)])

/-- The sequencers still to come in this round, and those of the next (log entry 1). -/
def turnsLeft (s : State) : List (Nat × Stream) := (turns s).filter (turnLe s.turn)
def turnsPast (s : State) : List (Nat × Stream) := (turns s).filter (fun a => !turnLe s.turn a)

/-- The turn after a sequencer's. -/
def nextTurn : Nat × Stream → Nat × Stream
  | (c, .c) => (c, .v)
  | (c, .v) => (c + 1, .c)

/-- The first of some sequencers with a requester, and its slot. -/
noncomputable def nextGrant (ex : Instr → State → Out) (s : State) (ts : List (Nat × Stream)) : Option ((Nat × Stream) × Nat) :=
  ts.findSome? (fun t => (picked ex s t.1 t.2).map (fun k => (t, k)))

/-- The first note to make on some cores. -/
noncomputable def nextNote (ex : Instr → State → Out) (s : State) (cores : List Nat) : Option Out :=
  cores.findSome? (fun c => (List.range 8).findSome? (fun k =>
    (noted ex s (8 * c + k) .c).or (noted ex s (8 * c + k) .v)))

/-- A grant in turn. -/
noncomputable def grantTurn (ex : Instr → State → Out) (g : (Nat × Stream) × Nat) (s : State) : Out :=
  let t := nextTurn g.1
  grant ex g.1.1 g.1.2 g.2 ((Effect.turn t.1 t.2).apply s)

end Sys2Proof.Machine
end

