-- ==== Sys2Proof/Machine/Background.lean ====
section
/-! DEFINITION. What the device does by itself between grants: which events of the opcode table it may perform in a state, and
which of them it performs next (log entry 1). The environment may also name any event at any time (Input.lean). The meaning of
an instruction is a parameter, `ex`. -/

namespace Sys2Proof.Machine

/-! ## Events that may be due, by place -/

/-- At the strands (R95, R184, R187, R193, R157). -/
noncomputable def strandEvents (s : State) : List Instr :=
  (s.strands.filter (fun p => p.2.leaving)).map (fun p => .strandPark p.1)
    ++ s.strands.filterMap (fun p => match p.2.c.wait with
    | .align .. => some (.alignTimeout p.1)
    | .revoke .. => some (.grevokeComplete p.1)
    | _ => none)

/-- At a core (R161, R170, R177, R180, R305, R381). -/
noncomputable def coreEvents (n : Nat) (c : Core) : List Instr :=
  [.handlerDispatch n, .overflowDispatch n]
    ++ (c.ages.filter (fun a => decide (1024 ≤ a.2))).map (fun a =>
        .streamAging (8 * n + a.1 / 2) (if a.1 % 2 = 0 then .c else .v))
    ++ (List.range c.port.length).map (.requestPortRelease n)
    ++ (List.range c.reqBuf.length).map (.messageArrival n)
    ++ (List.range (c.repBuf.length + c.repNet.length)).map (.replyNetworkArrival n)
    ++ c.actors.flatMap (fun a => match a.2 with
        | some y => (List.range y.outs.length).map (.fifoOutputSend n a.1)
        | none => [])

/-- In a cluster (R176, R200 to R203, R226 to R229, R319). -/
noncomputable def clusterEvents (n : Nat) (c : Cluster) : List Instr :=
  c.cmds.flatMap (fun k =>
      [.engineCommandStart n k.id, .copyCompletion n k.id, .copymmFollowOn n k.id, .remoteTransferCompletion n k.id])
    ++ c.mx.flatMap (fun k => [.matrixReplay n k.id, .matrixCommandStart n k.id, .matrixCommandCompletion n k.id])
    ++ (if c.samples = [] then [] else [.tutorSample n])

/-- In the general slots of a group's cores (R298, R304). -/
noncomputable def slotEvents (s : State) (core : Nat) : List Instr :=
  (List.range 6).flatMap (fun k =>
    .taskDispatch (8 * core + k) :: (s.core core).actors.map (fun a => .actorFire (8 * core + k) a.1))

/-- Of a group (R289, R301, R306). -/
noncomputable def groupEvents (s : State) (gid : Nat) (g : Group) : List Instr :=
  g.cores.flatMap (slotEvents s) ++ [.taskCommit gid, .spillWrite gid, .groupCompletion gid]

/-- On a die: its command processor and its block table (R257, R286, R288, R307). -/
noncomputable def dieEvents (n : Nat) (d : Die) : List Instr :=
  d.queues.flatMap (fun q =>
      if (q.2.mapped && q.2.woken) || q.2.closing.isSome || !q.2.reqs.isEmpty then
        [.packetReject n q.1, .packetSignal n q.1, .packetLaunch n q.1, .packetResume n q.1]
      else [])
    ++ (d.blocks.filter (fun b => b.2.change.isSome)).map (fun b => .cspBlockInstall n b.1)

/-- Of the package: the management block, the power switches, the windows (R212, R343, R346, R357). -/
noncomputable def pkgEvents (s : State) : List Instr :=
  (if s.pkg.mgmt.cmd = 1 then [.extend] else if s.pkg.mgmt.cmd = 2 then [.quote] else [])
    ++ (if s.pkg.gatereq = s.pkg.gated then [] else (List.range 32).flatMap (fun c => [.clusterUngating c, .clusterGating c]))
    ++ (if s.pkg.fab.en then [.windowClose, .windowEntry] else [])

/-- Every event that may be due. -/
noncomputable def dueEvents (s : State) : List Instr :=
  s.syncs.map (fun y => .syncValidation y.id) ++ strandEvents s
    ++ s.clusters.flatMap (fun p => clusterEvents p.1 p.2) ++ s.cores.flatMap (fun p => coreEvents p.1 p.2)
    ++ s.groups.flatMap (fun p => match p.2 with | some g => groupEvents s p.1 g | none => [])
    ++ s.dies.flatMap (fun p => dieEvents p.1 p.2) ++ pkgEvents s

/-- A list from a place on, then what comes before it. -/
def rotate (k : Nat) (xs : List α) : List α := xs.drop (k % xs.length) ++ xs.take (k % xs.length)

/-- The next event that the device performs: the first that changes the state, from a place in the list that moves on with the
cycles of the cores. -/
noncomputable def background (ex : Instr → State → Out) (s : State) : Option Out :=
  ((rotate (s.cores.map (fun c => c.2.cycle)).sum (dueEvents s)).find? (fun e => changes (ex e s) s)).map (fun e => ex e s)

/-! ## One step of the device -/

/-- What the device does next where nothing comes from outside: what streams note, the grants of a round in turn, at its end one
event, then the next round; nothing where it idles (R9's cycles go by unseen). -/
noncomputable def deviceStep (ex : Instr → State → Out) (s : State) : Out :=
  match nextNote ex s (liveCores s) with
  | some o => o
  | none =>
  match nextGrant ex s (turnsLeft s) with
  | some g => grantTurn ex g s
  | none =>
    match background ex s with
    | some o => andThen o (fun _ => [.turn 0 .c])
    | none =>
      match nextGrant ex s (turnsPast s) with
      | some g => grantTurn ex g s
      | none => .next s

end Sys2Proof.Machine
end

