-- ==== Sys2Proof/Machine/Input.lean ====
section
/-! DEFINITION. What comes from outside the device (log entry 1), the boot ROM (R345), and one step of the package. The meaning
of an instruction is a parameter, `ex`. -/

namespace Sys2Proof.Machine

/-! ## Inputs -/

/-- An interrupt from outside the device (R183, R347): signalled to a principal or chiplet core. -/
def raiseInterrupt (core sub src : Nat) (s : State) : List Effect :=
  if core < Config.coreCount ∧ !isCompute core then [signal s core sub src] else []

/-- What one input does. -/
noncomputable def performInput (ex : Instr → State → Out) (x : Input) (s : State) : Out :=
  match x with
  | .event i => if i.isEvent then ex i s else .next s
  | .grant core st =>
    match picked ex s core st with
    | some k => grant ex core st k s
    | none => .next s
  | .cycles core n => .next (applyAll (tick core n s) s)
  | .hostReply id v ok => .next (applyAll (if ok then hostLoadDone id v s else hostLoadFailed id s) s)
  | .podAck num id v res state => event (podAcknowledged num id v res state) s
  | .interrupt core sub src => .next (applyAll (raiseInterrupt core sub src s) s)
  | .podBell src num chan phased phase count rop key v win =>
    .next (applyAll (podArrived src num chan phased phase count rop key v win s) s)
  | .podAgain src cls num => .next (applyAll (arrivesAgain src cls num s) s)
  | .elapsed ns => .next (applyAll (timePasses ns s) s)
  | .rejoin p => .next (applyAll (memberRejoin p s) s)
  | .evictCopy pa => .next (applyAll (copyEvicted pa s) s)
  | .portError port on => .next (applyAll (portError port on s) s)
  | .barRead f bar a n => .next (applyAll (barRead f bar a n s) s)
  | .barWrite f bar a n v => .next (applyAll (barWrite f bar a n v s) s)
  | .tapInstr i => .next (applyAll (tapInstr i s) s)
  | .tapScan a i => .next (applyAll (tapScan a i s) s)

/-! ## Boot (R345) -/

/-- The boot ROM: it extends M0 with the digest of the firmware image and enters the firmware, or leaves the package in
reset-hold. What it finds of the image is Config's (log entries 5, 11). -/
def bootRom (s : State) : List Effect :=
  let m := s.pkg.mgmt
  if Config.firmwareAccepted then
    let d := Config.sha3_256 (vecBytes 32 (tblGet 0 m.m 0).toNat ++ vecBytes 32 Config.firmwareDigest.toNat)
    [.pkg { s.pkg with mgmt := { m with status := 1, m := tblSet 0 m.m 0 d } }]
  else [.pkg { s.pkg with mgmt := { m with status := 2 } }]

/-! ## One step of the package -/

/-- A stopped package (R344, R345): only a reset and the test port have an effect, and in reset-hold, where the clocks run, a read by the
host, which finds the management status; without an input the machine stops. -/
def stoppedStep (ex : Instr → State → Out) (why : Fault) (s : State) : Out :=
  match s.inputs with
  | [] => .fault why
  | .event .reset :: r => ex .reset ((Effect.inputs r).apply s)
  | .tapInstr i :: r => .next (applyAll (tapInstr i s) ((Effect.inputs r).apply s))
  | .tapScan a i :: r => .next (applyAll (tapScan a i s) ((Effect.inputs r).apply s))
  | .barRead f bar a n :: r => .next (applyAll (if s.pkg.frozen then [] else barRead f bar a n s) ((Effect.inputs r).apply s))
  | _ :: r => .next ((Effect.inputs r).apply s)

/-- A package that is not stopped: the boot ROM's checks come first of all (R345); then what comes from outside, then the device
itself. -/
noncomputable def runningStep (ex : Instr → State → Out) (s : State) : Out :=
  if s.pkg.mgmt.status = 0 then .next (applyAll (bootRom s) s)
  else match s.inputs with
  | x :: r => performInput ex x ((Effect.inputs r).apply s)
  | [] => deviceStep ex s

/-- One step of the package. -/
noncomputable def packageStep (ex : Instr → State → Out) (s : State) : Out :=
  if s.pkg.frozen then stoppedStep ex .frozen s
  else if s.pkg.mgmt.status = 2 then stoppedStep ex .resetHold s
  else runningStep ex s

end Sys2Proof.Machine
end

