-- ==== Sys2Proof/Machine/Place.lean ====
section
/-! DEFINITION. A machine in which one given instruction is the next to issue (log entry 5): past the boot, one task group of one
strand on compute core 0, one mapped page that holds the instruction. -/

namespace Sys2Proof.Machine

/-- Where the instruction stands: its virtual address, the frame it is in, and the frame of the page tables. -/
def placeVa : Nat := 0x10000
def placePa : Nat := 0x20000
def placeRoot : Nat := 0x10000

/-- The stream that issues a word: the V-stream for an instruction of that stream only (R53, R54). -/
def placeStream (w : Nat) : Stream :=
  let major := w / 2 % 64
  let fn := w / 2 ^ 22 % 128
  let v := decide (w % 2 = 1) && (decide (0x20 ≤ major ∧ major ≤ 0x33) || decide (0x36 ≤ major) || (decide (major = 0x34 ∧ 5 ≤ fn))
    || decide (major = 0x1F ∧ w / 2 ^ 20 % 512 ≤ 1))
  if v then .v else .c

/-- Whether a word is a privileged instruction (R53, R54). -/
def placePriv (w : Nat) : Bool :=
  decide (w % 2 = 1) && (decide (w / 2 % 64 = 0x17) || decide (w / 2 % 64 = 0x16 ∧ 24 ≤ w / 2 ^ 22 % 128))

/-- Page tables of four levels with one leaf, readable, writable and executable in user mode (R244, R245). -/
def placeTables (m : Memory) : Memory :=
  memWrite (memWrite (memWrite (memWrite m placeRoot 8 (placeRoot + 0x1000 + 1)) (placeRoot + 0x1000) 8 (placeRoot + 0x2000 + 1))
    (placeRoot + 0x2000) 8 (placeRoot + 0x3000 + 1)) (placeRoot + 0x3008) 8 (placePa + 0x3F)

/-- The group of the strand: tenant 0, core 0 (R287). -/
def placeGroup : Group :=
  { die := 0, queue := 0, tenant := 0, asid := 1, desc0 := 0, stk := 0, quantum := 2 ^ 62, ovfe := 0, ovfa := 0, tvec := 0,
    spill := 0, seg := 0, signal := 0, cores := [0], quant := [], ctxs := [], lastTs := none, preempting := false,
    saved := false, failed := false, actors := [], spillMsgs := [] }

/-- The strand: an actor's firing with both streams at the instruction where that is the V-stream's. -/
def placeStrand (w : Nat) : Strand :=
  { Strand.free with
    st := .active, job := .actor 0, gid := some 0, dom := 1, base := 1,
    c := { CStr.zero with pc := BitVec.ofNat 64 placeVa }, v := { VStr.zero with pc := BitVec.ofNat 64 placeVa },
    sys := { Sys.zero with quant := 2 ^ 62, pm := placePriv w, vrun := decide (placeStream w = .v) } }

/-- The bytes of an instruction of `nbits` bits, zeros above them, at the next fetch. -/
def placed1 (s : State) (nbits w : Nat) : State :=
  { s with
    strands := tblSet .free s.strands 0 (placeStrand w),
    pkg := { s.pkg with frozen := false, gated := 0, gatereq := 0, mgmt := { s.pkg.mgmt with status := 1 } },
    mem := memWrite (placeTables s.mem) placePa 4 (w % 2 ^ nbits),
    doms := tblSet .dead s.doms 1 { gen := 1, owner := 1, hold := 0, st := .live, root := placeRoot },
    frames := tblSet .reset s.frames 2 { st := .ordinary, owner := 1, tail := 0 },
    tenants := tblSet .reset s.tenants 0 { tq := 0, dq := 0, dtvec := 0, otag := 1 },
    groups := tblSet none s.groups 0 (some placeGroup),
    inputs := [], turn := (0, placeStream w) }

end Sys2Proof.Machine
end

