-- ==== Sys2Proof/Machine/Step.lean ====
section
/-! DEFINITION. One step of the machine: what comes from outside, otherwise what the device does next (Input.lean,
Background.lean), every instruction with the meaning `exec` gives it. -/

namespace Sys2Proof.Machine

noncomputable def step (s : State) : Host.Outcome State Fault Refusal := packageStep exec s

/-- The state with an instruction of `nbits` bits `w`, bits numbered as the opcode table numbers them, where `step` fetches
next. It stands for the load of a program from outside the machine (log entry 5). -/
def State.withFetchWord (s : State) (nbits w : Nat) : State := placed1 s nbits w

end Sys2Proof.Machine
end

