-- ==== Sys2Proof/Safety.lean ====
section
/-! DEFINITION. The terms claims use: the canonical form of a state, a step that answers, an instruction that may issue, and what an
issued instruction leaves beside its own results. -/

namespace Sys2Proof.Machine

/-- The state in canonical form: every table and memory of it is (Sparse.lean). -/
def State.wf (s : State) : Bool :=
  tblWf .free s.strands && tblWf .idle s.cores && tblWf .idle s.clusters && tblWf .idle s.dies
    && Memory.wf s.mem && Memory.wf s.pmem && Memory.wf s.lmem && Memory.wf s.dmem
    && tblWf .dead s.doms && tblWf .free s.gates && tblWf .reset s.frames && tblWf .reset s.tenants
    && tblWf none s.groups && tblWf none s.tasks && tblWf .free s.counters && tblWf .fresh s.bells
    && tblWf .empty s.l1 && tblWf none s.tlb && tblWf .none s.dir && tblWf false s.poison

/-- A stream of the issuing strand may issue whatever registers the instruction names (R36, R38): no register awaits a result, and
CHK is 0. -/
def State.ready (s : State) (st : Stream) : Prop := s.stream = st ∧ s.me.await = [] ∧ s.me.sys.chk = false

/-- The state with the writes due in the issuing stream landed (R35): the one the instruction reads. -/
def State.landed (s : State) : State := (Effect.strand s.six (s.me.landSt s.stream)).apply s

/-- The state with the issuing strand changed. -/
def State.withMe (s : State) (x : Strand) : State := (Effect.strand s.six x).apply s

/-- The state with a result of latency `l` of the issuing strand (R35). -/
def State.wrote (s : State) (r : RegId) (p : PVal) (l : Nat) : State := s.withMe (s.me.result r p l)

/-- The issuing stream after an instruction of `n` bytes with stall count `w` (R34, R42). -/
def State.advanced (s : State) (n w : Nat) : State :=
  s.withMe ((s.me.setPc s.stream (s.me.pcOf s.stream + BitVec.ofNat 64 n)).stepped s.stream w)

/-- The issuing stream after a transfer of control with stall count `w`. -/
def State.jumped (s : State) (target : Word) (w : Nat) : State :=
  s.withMe ((s.me.setPc s.stream target).stepped s.stream w)

/-- The issuing strand after an instruction that has set its own PC. -/
def State.stayed (s : State) (w : Nat) : State := s.withMe (s.me.stepped s.stream w)

/-- The s register that a field names, as the instruction at this step reads it (R25, R35). -/
def State.sreg (s : State) (n : BitVec 5) : Word := s.landed.me.readS n.toNat

/-- The scalar register that a field names in the issuing stream (R49). -/
def State.xreg (s : State) (n : BitVec 5) : Word := s.landed.me.readX s.stream n.toNat

/-- The k, ox, v and m registers as the instruction at this step reads them. -/
def State.kreg (s : State) (n : Nat) : Word := s.landed.me.readK n
def State.oxreg (s : State) (n : BitVec 5) : Word := s.landed.me.readOx n.toNat
def State.vreg (s : State) (n : BitVec 5) : VReg := s.landed.me.readV n.toNat
def State.mreg (s : State) (n : BitVec 3) : Lane := s.landed.me.readM n.toNat

/-- The issuing stream's PC. -/
def State.pc (s : State) : Word := s.me.pcOf s.stream

/-- The issuing strand acts for itself: it is not speculative (R97), and every earlier access of it has performed (R98). -/
def State.calm (s : State) : Prop := s.me.spec = false ∧ outstanding s s.six = false

/-- Where a conditional transfer goes (R43, R88): the target, or the next instruction. -/
def State.branched (s : State) (taken : Bool) (disp : Word) (n : Nat) : State :=
  if taken then s.landed.jumped (s.pc + 2 * disp) 0 else s.landed.advanced n 0

/-- The issuing strand after an instruction of `n` bytes of a stream, whatever the instruction did to the rest of the state. -/
def State.ended (s : State) (st : Stream) (n w : Nat) : State :=
  s.withMe ((s.me.setPc st (s.me.pcOf st + BitVec.ofNat 64 n)).stepped st w)

/-- The issuing strand after an instruction of a stream that has placed it itself. -/
def State.endedHere (s : State) (st : Stream) (w : Nat) : State := s.withMe (s.me.stepped st w)

/-- The request that an access of the issuing strand sends to its home slice (R94). -/
def State.asks (s : State) (op : MemOp) (va : Word) (acq rel : Bool) : Held :=
  { id := s.nextId, six := s.six, asid := s.me.dom, pm := s.me.sys.pm, va := va, op := op, acq := acq, rel := rel,
    depth := s.me.sys.dsdepth, write := op.need.writes, kind := 0, now := true }

/-- An access to space G passes checks 1 to 3 of R94 and performs at its home slice with effects `es`; the strand is not
speculative, is inside no instruction whose access has left for another package, has no acquire that has not performed, and a
release finds every earlier access performed (R95, R97, R98). -/
structure Reaches (s : State) (op : MemOp) (va : Word) (acq rel : Bool) (es : List Effect) : Prop where
  aligned : op.anyAlign = true ∨ va.toNat % op.bytes = 0
  unlocked : rangeHit s s.coreNo .g s.me.dom va.toNat (va.toNat + op.bytes) op.isLoad = false
  plain : s.me.spec = false
  inside : s.sent = none
  acquired : acqPending s s.six = false
  released : rel = true → outstanding s s.six = false
  performs : performOp (s.asks op va acq rel) (Effect.fresh.apply s) = .ok es

/-- An access to a local space passes checks 1 to 3 of R94 and lies at place `l` (R92); the strand is not speculative, has no acquire
and before a load or store no atomic on the word that has not performed, and a release finds every earlier access performed. -/
structure ReachesLocal (s : State) (space : Space) (op : MemOp) (ea : Word) (rel : Bool) (l : Loc) : Prop where
  aligned : ea.toNat % op.bytes = 0
  present : localLoc s s.six space ea op.bytes = some l
  unlocked : rangeHit s s.coreNo l.span.1 l.span.2.1 l.span.2.2 (l.span.2.2 + op.bytes) op.isLoad = false
  plain : s.me.spec = false
  acquired : localWaits s op l = false
  released : rel = true → outstanding s s.six = false

/-- A virtual address of the issuing domain lies on a NORMAL page of this package, outside the gate window range, with the
rights an access needs (R94 check 4, R246). -/
structure OnNormalPage (s : State) (va : Word) (need : Need) (x : Xl) : Prop where
  plainVa : inWindow va = false
  mapped : translate s s.coreNo s.me.dom s.me.sys.pm va need = some x
  normal : x.cls = .normal
  here : x.pod = false

/-- Every byte of every memory reads as before. -/
def State.sameMemory (s t : State) : Prop :=
  ∀ a, memGet t.mem a = memGet s.mem a ∧ memGet t.pmem a = memGet s.pmem a ∧ memGet t.lmem a = memGet s.lmem a
    ∧ memGet t.dmem a = memGet s.dmem a

/-- Every register of a strand but an s register `d`, its system registers and coupling state, read as before. -/
def Strand.sameBut (x y : Strand) (d : Nat) : Prop :=
  (∀ n, n ≠ d → y.readS n = x.readS n) ∧ (∀ n, y.readOx n = x.readOx n) ∧ (∀ n, y.readK n = x.readK n)
    ∧ (∀ n, y.readV n = x.readV n) ∧ (∀ n, y.readM n = x.readM n) ∧ (∀ n, y.readT n = x.readT n)
    ∧ y.sys = x.sys ∧ y.q = x.q ∧ y.frames = x.frames ∧ y.dom = x.dom

/-- The issuing strand after an instruction of a stream that transfers control. -/
def State.endedAt (s : State) (st : Stream) (t : Word) (w : Nat) : State := s.withMe ((s.me.setPc st t).stepped st w)

/-- A table or descriptor load of `n` bytes that performs (R90): its value and its effects. -/
structure TableLoad (s : State) (va : Word) (n v : Nat) (fx : List Effect) : Prop where
  unlocked : rangeHit s s.coreNo .g s.me.dom va.toNat (va.toNat + n) true = false
  plain : s.me.spec = false
  acquired : acqPending s s.six = false
  performs : plainLoad s s.six s.me.dom s.me.sys.pm va n = .ok (v, fx)

/-- The next choice that the manual leaves to the device, below `n` (log entry 12), and the state once it is taken. -/
def State.choice (s : State) (n : Nat) : Nat :=
  match s.oracle with
  | [] => 0
  | k :: _ => if k < n then k else 0
def State.chose (s : State) : State :=
  match s.oracle with
  | [] => s
  | _ :: r => (Effect.oracle r).apply s

/-- An operation of a meaning completes from a state: with a value, in a state. -/
def Runs {α : Type} (m : M α) (s : State) (a : α) (t : State) : Prop :=
  ∀ (f : Stop → State → State) (s0 : State) (k : α → Prog), Prog.run f s0 (m k) s = Prog.run f s0 (k a) t

end Sys2Proof.Machine

namespace Sys2Proof

/-! ## Which stream and which mode an instruction belongs to -/

/-- The one stream in which an instruction exists (R24, R53); none where both have it, and for the events. -/
def Instr.only : Instr → Option Stream
  | .add _ | .sub _ | .and _ | .or _ | .xor _ | .andn _ | .orn _ | .xnor _ | .shl _ | .shr _ | .shra _ | .rot _ | .min _
  | .max _ | .minn _ | .maxn _ | .cmpeq _ | .cmplt _ | .cmpltn _ | .cmple _ | .cmplen _ | .sel _ | .mul _ | .mulh _
  | .mulhn _ | .div _ | .divn _ | .rem _ | .remn _ | .clz _ | .ctz _ | .popc _ | .bswap _ | .sextb _ | .sexth _ | .sextw _
  | .addi _ | .andi _ | .ori _ | .xori _ | .shli _ | .shri _ | .shrai _ | .roti _ | .bfx _ | .bfi _ | .lui _ | .lea _
  | .ldbn _ | .ldhn _ | .ldwn _ | .ldd _ | .ldb _ | .ldh _ | .ldw _ | .stb _ | .sth _ | .stw _ | .std _ | .ldacq _
  | .strel _ | .aadd _ | .aand _ | .aor _ | .axor _ | .amin _ | .amax _ | .aminn _ | .amaxn _ | .aswap _ | .acas _
  | .afadd _ | .lr _ | .sc _ | .acas2 _ | .appnd _ | .tailq _ | .sealPage _ | .bEq _ | .bNe _ | .bLt _ | .bGe _ | .bLtn _
  | .bGen _ | .jmp _ | .jr _ | .jtab _ | .fin _ | .yield _ | .align _ | .loxi _ | .lox _ | .sox _ | .fenceAcq _
  | .fenceRel _ | .fenceFull _ | .persist _ | .winwait _ | .featq _ | .implq _ | .tret _ | .wfi _ | .migr _ | .migret _
  | .tlbinv _ | .harvest _ | .wbinv _ | .pfree _ | .kill _ | .send _ | .sendm _ | .recv _ | .amsg _ | .amret _ | .mboxq _
  | .loopb _ | .rget _ | .rput _ | .tspawn _ | .tstamp _ | .tabort _ | .fpush _ | .fpop _ | .fcnt _ | .dcset _ | .dcdec _
  | .adecl _ | .gcall _ | .gret _ | .gstat _ | .gpub _ | .grevoke _ | .gqry _ | .copy _ | .copymm _ | .bpref _ | .bar _
  | .bara _ | .barw _ | .barph _ | .ipdep _ | .ipdraw _ | .apxcfg _ | .apxqry _ | .apxinv _ | .bqpush _ | .vstart _
  | .cAdd _ | .cSub _ | .cMov _ | .cAnd _ | .cOr _ | .cXor _ | .cAddi _ | .cLi _ | .cShli _ | .cShri _ | .cShrai _ | .cBz _
  | .cBnz _ | .cLdw _ | .cStw _ | .cLdd _ | .cStd _ | .cJr _ | .cRet | .cFin | .cYield => some .c
  | .apxcall _ | .apxret _ | .vmov _ | .vsel _ | .vshuf _ | .vrot _ | .vext _ | .vli _ | .vbcast _ | .vabs _ | .vneg _
  | .vcps _ | .vtag _ | .vclass _ | .vadd _ | .vsub _ | .vmul _ | .vfma _ | .vfms _ | .vfnma _ | .vdiv _ | .vsqrt _
  | .vrcp _ | .vrsq _ | .vmin _ | .vmax _ | .vexp2 _ | .vlog2 _ | .viadd _ | .visub _ | .vimul _ | .vimulh _ | .vand _
  | .vor _ | .vxor _ | .vshl _ | .vshr _ | .vshra _ | .vimin _ | .vimax _ | .viminn _ | .vimaxn _ | .vsadd _ | .vssub _
  | .vabsd _ | .vcmpEq _ | .vcmpNe _ | .vcmpLt _ | .vcmpLe _ | .vcmpLtn _ | .vcmpLen _ | .vcvt _ | .vpack _ | .vscale _
  | .vunpk _ | .vredAdd _ | .vredMin _ | .vredMax _ | .vredMinn _ | .vredMaxn _ | .vredAnd _ | .vredOr _ | .vredXor _
  | .vdot _ | .vscanAdd _ | .vscanMin _ | .vscanMax _ | .vld _ | .vst _ | .vgath _ | .vscat _ | .vldl _ | .vstl _ | .vrest _
  | .vsave _ | .vend _ | .mand _ | .mor _ | .mnot _ | .mpop _ | .mfirst _ | .vbr _ | .vloop _ | .vjmp _ | .mma _ | .mmaz _
  | .mtcx _ | .mldt _ | .mstt _ | .mzt _ | .mcvt _ | .mtrn _ | .tmov _ | .tcfg _ => some .v
  | .mfs _ | .mts _ | .trap _ | .qpush _ | .qpop _ | .fset _ | .fwait _ => none
  | .taskDispatch .. | .strandPark .. | .replayClassTrap .. | .quantExpiry .. | .preemptOrder .. | .preemptEntry ..
  | .interruptEntry .. | .streamAging .. | .alignTimeout .. | .reservationExpiry .. | .l1Eviction .. | .syncValidation ..
  | .translationEviction .. | .unwindStart .. | .cleanupBudgetExpiry .. | .grevokeComplete .. | .machineCheck ..
  | .taskCommit .. | .queueNotify .. | .queueMap .. | .packetLaunch .. | .packetSignal .. | .packetResume ..
  | .packetReject .. | .groupCompletion .. | .spillWrite .. | .messageArrival .. | .requestPortRelease ..
  | .handlerDispatch .. | .hwAtomicEntry .. | .overflowDispatch .. | .actorFire .. | .fifoOutputSend ..
  | .engineCommandStart .. | .copyCompletion .. | .copymmFollowOn .. | .remoteTransferCompletion .. | .matrixCommandStart ..
  | .matrixCommandCompletion .. | .matrixReplay .. | .matrixDeferredTrap .. | .tutorSample .. | .domainRootStore ..
  | .domainActivate .. | .frameAssignOwner .. | .frameSetAppend .. | .cspBlockStore .. | .cspBlockInstall ..
  | .pmarkWrite .. | .pbudgetWrite .. | .gatereqWrite .. | .clusterGating .. | .clusterUngating .. | .powerInterval ..
  | .freezePin | .freezeWrite .. | .extend | .quote | .reset | .wincfgWrite .. | .hostint .. | .registerWrite ..
  | .hostWrite .. | .hostRead .. | .hostNotify .. | .flrVf .. | .flrPf | .pcieLoadTimeout .. | .flitReceive ..
  | .linkRetrain .. | .routeChange .. | .ptpMessage .. | .windowClose | .closeMarker .. | .windowEntry | .memberFailure ..
  | .podAccess .. | .poisonedLine .. | .replyNetworkArrival .. | .remoteInvalidation .. | .timerInterrupt .. => none

/-- The privileged instructions (R110 to R112). -/
def Instr.privileged (i : Instr) : Bool :=
  match i with
  | .tret _ | .wfi _ | .migr _ | .migret _ | .tlbinv _ | .harvest _ | .wbinv _ | .pfree _ | .kill _ => true
  | _ => false

/-- The matrix instructions, which exist on cores of a quad only (R214, R225). -/
def Instr.matrix (i : Instr) : Bool :=
  match i with
  | .mma _ | .mmaz _ | .mtcx _ | .mldt _ | .mstt _ | .mzt _ | .mcvt _ | .mtrn _ | .tmov _ | .tcfg _ => true
  | _ => false

end Sys2Proof
end

