-- ==== Sys2Proof/Certificates/Slice0/Obligations.lean ====
section
/-! DEFINITION. What is claimed of this model. Each docstring names the rules of spec/ that a statement rests on. -/

section

open Sys2Proof Sys2Proof.Machine

namespace Sys2Proof

/-- The three-operand integer instructions (R85): constructor, latency (R39; a scoreboarded result is there when the next
instruction reads it), and d from a, b and the old d. -/
noncomputable def intOps : List ((A3 → Instr) × Nat × (Word → Word → Word → Word)) :=
  [(.add, 1, fun a b _ => a + b),
   (.sub, 1, fun a b _ => a - b),
   (.and, 1, fun a b _ => a &&& b),
   (.or, 1, fun a b _ => a ||| b),
   (.xor, 1, fun a b _ => a ^^^ b),
   (.andn, 1, fun a b _ => a &&& ~~~b),
   (.orn, 1, fun a b _ => a ||| ~~~b),
   (.xnor, 1, fun a b _ => ~~~(a ^^^ b)),
   (.shl, 1, fun a b _ => a <<< (b.toNat % 64)),
   (.shr, 1, fun a b _ => a >>> (b.toNat % 64)),
   (.shra, 1, fun a b _ => a.sshiftRight (b.toNat % 64)),
   (.rot, 1, fun a b _ => a.rotateLeft (b.toNat % 64)),
   (.min, 1, fun a b _ => if a.toInt ≤ b.toInt then a else b),
   (.max, 1, fun a b _ => if a.toInt ≤ b.toInt then b else a),
   (.minn, 1, fun a b _ => if a.toNat ≤ b.toNat then a else b),
   (.maxn, 1, fun a b _ => if a.toNat ≤ b.toNat then b else a),
   (.cmpeq, 1, fun a b _ => if a = b then 1 else 0),
   (.cmplt, 1, fun a b _ => if a.toInt < b.toInt then 1 else 0),
   (.cmpltn, 1, fun a b _ => if a.toNat < b.toNat then 1 else 0),
   (.cmple, 1, fun a b _ => if a.toInt ≤ b.toInt then 1 else 0),
   (.cmplen, 1, fun a b _ => if a.toNat ≤ b.toNat then 1 else 0),
   (.sel, 1, fun a b d => if d = 0 then b else a),
   (.mul, 3, fun a b _ => a * b),
   (.mulh, 3, fun a b _ => BitVec.ofInt 64 (a.toInt * b.toInt / 2 ^ 64)),
   (.mulhn, 3, fun a b _ => BitVec.ofNat 64 (a.toNat * b.toNat / 2 ^ 64)),
   (.div, 1, fun a b _ => divWord a b),
   (.divn, 1, fun a b _ => divnWord a b),
   (.rem, 1, fun a b _ => remWord a b),
   (.remn, 1, fun a b _ => remnWord a b)]

/-- The one-operand integer instructions (R85): d from a. -/
noncomputable def intOps1 : List ((A2 → Instr) × (Word → Word)) :=
  [(.clz, clzWord), (.ctz, ctzWord), (.popc, popcWord), (.bswap, bswapWord),
   (.sextb, fun a => (a.setWidth 8).signExtend 64),
   (.sexth, fun a => (a.setWidth 16).signExtend 64),
   (.sextw, fun a => (a.setWidth 32).signExtend 64)]

/-- Every register-register integer instruction completes: d holds the result from its latency on, the PC and the step count
advance, nothing else changes (R85, R86, R39). -/
def integerResult : Prop :=
  (∀ e ∈ intOps, ∀ (o : A3) (s : State), s.ready .c →
    exec (e.1 o) s
      = .next ((s.landed.wrote (.s o.d.toNat) (.word (e.2.2 (s.sreg o.a) (s.sreg o.b) (s.sreg o.d))) e.2.1).advanced
          4 o.w.toNat))
  ∧ ∀ e ∈ intOps1, ∀ (o : A2) (s : State), s.ready .c →
    exec (e.1 o) s
      = .next ((s.landed.wrote (.s o.d.toNat) (.word (e.2 (s.sreg o.a))) 1).advanced 4 o.w.toNat)

/-- The divisions (R86). -/
noncomputable def divisions : List ((A3 → Instr) × (Word → Word → Word)) :=
  [(.div, divWord), (.divn, divnWord), (.rem, remWord), (.remn, remnWord)]

end Sys2Proof

/-- Integer division never traps (R86): by zero a quotient is all ones and a remainder the dividend; the most negative number by -1
gives itself and remainder 0; otherwise quotients truncate toward zero and a = q × b + r. -/
def Obligations.DivisionRules : Prop :=
  (∀ e ∈ divisions, ∀ (o : A3) (s : State), s.ready .c →
    exec (e.1 o) s = .next ((s.landed.wrote (.s o.d.toNat) (.word (e.2 (s.sreg o.a) (s.sreg o.b))) 1).advanced 4 o.w.toNat))
  ∧ (∀ a : Word, divWord a 0 = -1 ∧ divnWord a 0 = BitVec.allOnes 64 ∧ remWord a 0 = a ∧ remnWord a 0 = a)
  ∧ divWord (BitVec.intMin 64) (-1) = BitVec.intMin 64 ∧ remWord (BitVec.intMin 64) (-1) = 0
  ∧ (∀ a b : Word, b ≠ 0 → ¬(a = BitVec.intMin 64 ∧ b = -1) →
      (divWord a b).toInt = a.toInt.tdiv b.toInt ∧ (remWord a b).toInt = a.toInt.tmod b.toInt)
  ∧ (∀ a b : Word, b ≠ 0 →
      (divnWord a b).toNat = a.toNat / b.toNat ∧ (remnWord a b).toNat = a.toNat % b.toNat)
  ∧ ∀ a b : Word, divWord a b * b + remWord a b = a ∧ divnWord a b * b + remnWord a b = a

namespace Sys2Proof

/-- CLZ, CTZ, POPC and BSWAP bit by bit (R85). -/
def bitCounts : Prop :=
  (∀ a : Word, clzWord 0 = 64 ∧ ctzWord 0 = 64
    ∧ (a ≠ 0 → (clzWord a).toNat ≤ 63 ∧ a.getLsbD (63 - (clzWord a).toNat) = true
        ∧ (∀ i, 63 - (clzWord a).toNat < i → a.getLsbD i = false)
        ∧ (ctzWord a).toNat ≤ 63 ∧ a.getLsbD (ctzWord a).toNat = true ∧ ∀ i, i < (ctzWord a).toNat → a.getLsbD i = false))
  ∧ (∀ a : Word, (popcWord a).toNat = (List.range 64).countP (fun i => a.getLsbD i))
  ∧ ∀ (a : Word) (i j : Nat), i < 8 → j < 8 → (bswapWord a).getLsbD (8 * i + j) = a.getLsbD (8 * (7 - i) + j)

/-- The immediate forms (R87) and their kinds: d from a and the sign-extended immediate, or from a and the shift count. -/
noncomputable def immOps : List ((Imm → Instr) × (Word → Word → Word)) :=
  [(.addi, fun a b => a + b), (.andi, fun a b => a &&& b), (.ori, fun a b => a ||| b), (.xori, fun a b => a ^^^ b)]
noncomputable def shiftOps : List ((Shift → Instr) × (Word → Nat → Word)) :=
  [(.shli, fun a n => a <<< n), (.shri, fun a n => a >>> n), (.shrai, fun a n => a.sshiftRight n),
   (.roti, fun a n => a.rotateLeft n)]

/-- Every immediate integer instruction completes (R87, R45): the immediates are sign-extended, BFX and BFI take the field at p
of width n + 1, LUI shifts by 12, LEA adds its own address. -/
def immediateForms : Prop :=
  (∀ e ∈ immOps, ∀ (o : Imm) (s : State), s.ready .c →
    exec (e.1 o) s
      = .next ((s.landed.wrote (.s o.d.toNat) (.word (e.2 (s.sreg o.a) (o.imm.signExtend 64))) 1).advanced 4 0))
  ∧ (∀ e ∈ shiftOps, ∀ (o : Shift) (s : State), s.ready .c →
    exec (e.1 o) s = .next ((s.landed.wrote (.s o.d.toNat) (.word (e.2 (s.sreg o.a) o.c.toNat)) 1).advanced 4 0))
  ∧ (∀ (o : Field) (s : State), s.ready .c →
    exec (.bfx o) s
        = .next ((s.landed.wrote (.s o.d.toNat)
            (.word (BitVec.ofNat 64 ((s.sreg o.a).toNat / 2 ^ o.p.toNat % 2 ^ (o.n.toNat + 1)))) 1).advanced 4 0)
    ∧ ∃ w : Word,
        exec (.bfi o) s = .next ((s.landed.wrote (.s o.d.toNat) (.word w) 1).advanced 4 0)
        ∧ ∀ i, i < 64 → w.getLsbD i
            = if o.p.toNat ≤ i ∧ i < o.p.toNat + (o.n.toNat + 1) then (s.sreg o.a).getLsbD (i - o.p.toNat)
              else (s.sreg o.d).getLsbD i)
  ∧ ∀ (o : Upper) (s : State), s.ready .c →
    exec (.lui o) s
        = .next ((s.landed.wrote (.s o.d.toNat) (.word (o.imm.signExtend 64 <<< 12)) 1).advanced 4 0)
    ∧ exec (.lea o) s
        = .next ((s.landed.wrote (.s o.d.toNat) (.word (s.pc + o.imm.signExtend 64)) 1).advanced 4 0)

/-- The 16-bit integer forms (R48). -/
noncomputable def regOps16 : List ((CR → Instr) × (Word → Word → Word)) :=
  [(.cAdd, fun d a => d + a), (.cSub, fun d a => d - a), (.cMov, fun _ a => a), (.cAnd, fun d a => d &&& a),
   (.cOr, fun d a => d ||| a), (.cXor, fun d a => d ^^^ a)]
noncomputable def immOps16 : List ((CI → Instr) × (Word → BitVec 6 → Word)) :=
  [(.cAddi, fun d i => d + i.signExtend 64), (.cLi, fun _ i => i.signExtend 64), (.cShli, fun d i => d <<< i.toNat),
   (.cShri, fun d i => d >>> i.toNat), (.cShrai, fun d i => d.sshiftRight i.toNat)]

/-- Every 16-bit integer form completes: two bytes long, w = 0 (R48). -/
def shortIntegerResult : Prop :=
  (∀ e ∈ regOps16, ∀ (o : CR) (s : State), s.ready .c →
    exec (e.1 o) s
      = .next ((s.landed.wrote (.s o.d.toNat) (.word (e.2 (s.sreg o.d) (s.sreg o.a))) 1).advanced 2 0))
  ∧ ∀ e ∈ immOps16, ∀ (o : CI) (s : State), s.ready .c →
    exec (e.1 o) s = .next ((s.landed.wrote (.s o.d.toNat) (.word (e.2 (s.sreg o.d) o.imm)) 1).advanced 2 0)

/-- The branches (R88) and their conditions on a and b. -/
noncomputable def branches : List ((Br → Instr) × (Word → Word → Bool)) :=
  [(.bEq, fun a b => decide (a = b)), (.bNe, fun a b => decide (a ≠ b)),
   (.bLt, fun a b => decide (a.toInt < b.toInt)), (.bGe, fun a b => decide (b.toInt ≤ a.toInt)),
   (.bLtn, fun a b => decide (a.toNat < b.toNat)), (.bGen, fun a b => decide (b.toNat ≤ a.toNat))]

/-- Every branch completes (R88, R48): from an even PC, to PC + 2 × displacement or to the next instruction. -/
def branchResult : Prop :=
  (∀ e ∈ branches, ∀ (o : Br) (s : State), s.ready .c → s.pc.getLsbD 0 = false →
    exec (e.1 o) s = .next (s.branched (e.2 (s.sreg o.a) (s.sreg o.b)) (o.disp.signExtend 64) 4))
  ∧ ∀ (o : CB) (s : State), s.ready .c → s.pc.getLsbD 0 = false →
    exec (.cBz o) s = .next (s.branched (decide (s.landed.me.readS (8 + o.a.toNat) = 0)) (o.disp.signExtend 64) 2)
    ∧ exec (.cBnz o) s = .next (s.branched (decide (s.landed.me.readS (8 + o.a.toNat) ≠ 0)) (o.disp.signExtend 64) 2)

/-- Every jump completes (R89, R48): the link is the address after the jump, JR reads its target first; a register target with
bit 0 set traps ALIGN with the target in TADDR and no effect (R42). -/
def jumpResult : Prop :=
  (∀ (o : Jmp) (s : State), s.ready .c → s.pc.getLsbD 0 = false →
    exec (.jmp o) s
      = .next ((s.landed.wrote (.s o.link.toNat) (.word (s.pc + 4)) 1).jumped (s.pc + 2 * o.disp.signExtend 64) 0))
  ∧ (∀ (o : A2) (s : State), s.ready .c →
    ((s.sreg o.a).getLsbD 0 = false →
      exec (.jr o) s = .next ((s.landed.wrote (.s o.d.toNat) (.word (s.pc + 4)) 1).jumped (s.sreg o.a) o.w.toNat))
    ∧ ((s.sreg o.a).getLsbD 0 = true →
      exec (.jr o) s = .next (onStop (.trap { cause := 4, sub := 0, addr := s.sreg o.a, strm := .c }) s)))
  ∧ (∀ (o : CA) (s : State), s.ready .c →
    ((s.sreg o.a).getLsbD 0 = false →
      exec (.cJr o) s = .next ((s.landed.wrote (.s 0) (.word (s.pc + 2)) 1).jumped (s.sreg o.a) 0))
    ∧ ((s.sreg o.a).getLsbD 0 = true →
      exec (.cJr o) s = .next (onStop (.trap { cause := 4, sub := 0, addr := s.sreg o.a, strm := .c }) s)))
  ∧ ∀ (s : State), s.ready .c →
    ((s.sreg 29).getLsbD 0 = false →
      exec .cRet s = .next ((s.landed.wrote (.s 0) (.word (s.pc + 2)) 1).jumped (s.sreg 29) 0))
    ∧ ((s.sreg 29).getLsbD 0 = true →
      exec .cRet s = .next (onStop (.trap { cause := 4, sub := 0, addr := s.sreg 29, strm := .c }) s))

end Sys2Proof

/-- Every register-register integer instruction completes with its result, and the bit-counting results bit by bit (R85, R39). -/
def Obligations.IntegerResult : Prop := integerResult ∧ bitCounts

/-- Every immediate and every 16-bit integer instruction completes with its result (R45, R48, R87). -/
def Obligations.ImmediateResult : Prop := immediateForms ∧ shortIntegerResult

namespace Sys2Proof

/-- The loads and stores of space G's format M (R93): size and sign extension; size alone. -/
noncomputable def loads : List ((Sys2Proof.Mem → Instr) × Nat × Bool) :=
  [(.ldbn, 1, false), (.ldhn, 2, false), (.ldwn, 4, false), (.ldd, 8, false), (.ldb, 1, true), (.ldh, 2, true), (.ldw, 4, true)]
noncomputable def stores : List ((Sys2Proof.Mem → Instr) × Nat) := [(.stb, 1), (.sth, 2), (.stw, 4), (.std, 8)]

end Sys2Proof

/-- Every load and store of space G completes where checks 1 to 3 pass and its home slice performs it (R92 to R95, R98): at
base + off × size. -/
def Obligations.GlobalAccess : Prop :=
  (∀ e ∈ loads, ∀ (o : Sys2Proof.Mem) (s : State) (es : List Effect), s.ready .c → o.space = 0 →
    Reaches s.landed (.load o.d.toNat e.2.1 e.2.2) (effAddr (s.sreg o.base) o.off e.2.1) false false es →
    exec (e.1 o) s = .next ((applyAll es (Effect.fresh.apply s.landed)).ended .c 4 0))
  ∧ (∀ e ∈ stores, ∀ (o : Sys2Proof.Mem) (s : State) (es : List Effect), s.ready .c → o.space = 0 →
    Reaches s.landed (.store e.2 (s.sreg o.d)) (effAddr (s.sreg o.base) o.off e.2) false false es →
    exec (e.1 o) s = .next ((applyAll es (Effect.fresh.apply s.landed)).ended .c 4 0))
  ∧ (∀ (o : MemO) (s : State) (es : List Effect), s.ready .c → o.space = 0 →
    (Reaches s.landed (.load o.d.toNat (2 ^ o.ord.toNat) false) (effAddr (s.sreg o.base) o.off (2 ^ o.ord.toNat)) true false es →
      exec (.ldacq o) s = .next ((applyAll es (Effect.fresh.apply s.landed)).ended .c 4 0))
    ∧ (Reaches s.landed (.store (2 ^ o.ord.toNat) (s.sreg o.d)) (effAddr (s.sreg o.base) o.off (2 ^ o.ord.toNat)) false true es →
      exec (.strel o) s = .next ((applyAll es (Effect.fresh.apply s.landed)).ended .c 4 0)))
  ∧ ∀ (o : CR) (s : State) (es : List Effect), s.ready .c →
    (Reaches s.landed (.load o.d.toNat 4 true) (s.sreg o.a) false false es →
      exec (.cLdw o) s = .next ((applyAll es (Effect.fresh.apply s.landed)).ended .c 2 0))
    ∧ (Reaches s.landed (.load o.d.toNat 8 false) (s.sreg o.a) false false es →
      exec (.cLdd o) s = .next ((applyAll es (Effect.fresh.apply s.landed)).ended .c 2 0))
    ∧ (Reaches s.landed (.store 4 (s.sreg o.d)) (s.sreg o.a) false false es →
      exec (.cStw o) s = .next ((applyAll es (Effect.fresh.apply s.landed)).ended .c 2 0))
    ∧ (Reaches s.landed (.store 8 (s.sreg o.d)) (s.sreg o.a) false false es →
      exec (.cStd o) s = .next ((applyAll es (Effect.fresh.apply s.landed)).ended .c 2 0))

namespace Sys2Proof

/-- The local spaces that format M names (R46): C, P and D; L is the V-stream's (R13). -/
def localSpaces : List (BitVec 3 × Space) := [(1, .c), (2, .p), (4, .d)]

end Sys2Proof

/-- Loads and stores of the local spaces complete where checks 1 to 3 pass (R92, R93): a load gives the bytes at its place,
extended, and a store writes them, d = s0 loading nothing. -/
def Obligations.LocalAccess : Prop :=
  (∀ e ∈ loads, ∀ q ∈ localSpaces, ∀ (o : Sys2Proof.Mem) (s : State) (l : Loc), s.ready .c → o.space = q.1 →
    ReachesLocal s.landed q.2 (.load o.d.toNat e.2.1 e.2.2) (effAddr (s.sreg o.base) o.off e.2.1) false l →
    l.poisoned s.landed e.2.1 = false →
    exec (e.1 o) s = .next
      ((if o.d = 0 then s.landed
        else s.landed.wrote (.s o.d.toNat) (.word (extendLoad e.2.1 e.2.2 (l.read s.landed e.2.1))) 1).ended .c 4 0))
  ∧ (∀ e ∈ stores, ∀ q ∈ localSpaces, ∀ (o : Sys2Proof.Mem) (s : State) (l : Loc), s.ready .c → o.space = q.1 →
    ReachesLocal s.landed q.2 (.store e.2 (s.sreg o.d)) (effAddr (s.sreg o.base) o.off e.2) false l →
    exec (e.1 o) s = .next ((applyAll (l.write e.2 (s.sreg o.d).toNat s.landed) s.landed).ended .c 4 0))
  ∧ ∀ q ∈ localSpaces, ∀ (o : MemO) (s : State) (l : Loc), s.ready .c → o.space = q.1 →
    (ReachesLocal s.landed q.2 (.load o.d.toNat (2 ^ o.ord.toNat) false) (effAddr (s.sreg o.base) o.off (2 ^ o.ord.toNat))
        false l →
      l.poisoned s.landed (2 ^ o.ord.toNat) = false →
      let t := if o.d = 0 then s.landed
        else s.landed.wrote (.s o.d.toNat) (.word (extendLoad (2 ^ o.ord.toNat) false (l.read s.landed (2 ^ o.ord.toNat)))) 1
      exec (.ldacq o) s = .next ((applyAll (acquire t.coreNo t) t).ended .c 4 0))
    ∧ (ReachesLocal s.landed q.2 (.store (2 ^ o.ord.toNat) (s.sreg o.d)) (effAddr (s.sreg o.base) o.off (2 ^ o.ord.toNat))
        true l →
      exec (.strel o) s
        = .next ((applyAll (l.write (2 ^ o.ord.toNat) (s.sreg o.d).toNat s.landed) s.landed).ended .c 4 0))

namespace Sys2Proof

/-- The atomics of R102 by operation. -/
noncomputable def atomics : List ((Atom → Instr) × Nat) :=
  [(.aadd, 0), (.aand, 1), (.aor, 2), (.axor, 3), (.amin, 4), (.amax, 5), (.aminn, 6), (.amaxn, 7), (.aswap, 8), (.acas, 9),
   (.afadd, 10)]

/-- The request of an atomic of the issuing strand. -/
def Machine.State.atomicArgs (s : State) (op : Nat) (o : Atom) : AtomicArgs :=
  { op := op, size := if o.z = 0 then 4 else 8, b := s.sreg o.b, cmp := s.sreg o.d, b2 := 0, cmp2 := 0 }

/-- Every atomic, LR, SC, ACAS2, APPND, TAILQ and SEAL of space G completes where its home slice performs it (R101 to R106); bit 0
of q acquires, bit 1 releases (R54). -/
def globalAtomic : Prop :=
  (∀ e ∈ atomics, ∀ (o : Atom) (s : State) (es : List Effect), s.ready .c → o.sp = 0 →
    Reaches s.landed (.atomic o.d.toNat (s.atomicArgs e.2 o)) (s.sreg o.a) (o.q.getLsbD 0) (o.q.getLsbD 1) es →
    exec (e.1 o) s = .next ((applyAll es (Effect.fresh.apply s.landed)).ended .c 4 o.w.toNat))
  ∧ (∀ (o : AtomLr) (s : State) (es : List Effect), s.ready .c →
    Reaches s.landed (.lr o.d.toNat (if o.z = 0 then 4 else 8)) (s.sreg o.a) (o.q.getLsbD 0) (o.q.getLsbD 1) es →
    exec (.lr o) s = .next ((applyAll es (Effect.fresh.apply s.landed)).ended .c 4 o.w.toNat))
  ∧ (∀ (o : AtomG) (s : State) (es : List Effect), s.ready .c →
    (Reaches s.landed (.sc o.d.toNat (if o.z = 0 then 4 else 8) (s.sreg o.b)) (s.sreg o.a) (o.q.getLsbD 0) (o.q.getLsbD 1) es →
      exec (.sc o) s = .next ((applyAll es (Effect.fresh.apply s.landed)).ended .c 4 o.w.toNat))
    ∧ (Reaches s.landed (.appnd o.d.toNat (if o.z = 0 then 4 else 8) (s.sreg o.b)) (s.sreg o.a) (o.q.getLsbD 0) (o.q.getLsbD 1) es →
      exec (.appnd o) s = .next ((applyAll es (Effect.fresh.apply s.landed)).ended .c 4 o.w.toNat)))
  ∧ (∀ (o : AtomC) (s : State) (es : List Effect), s.ready .c → o.sp = 0 →
    Reaches s.landed
      (.atomic o.d.toNat ⟨13, 16, s.sreg o.b, s.sreg o.d, s.sreg (o.b + 1), s.sreg (o.d + 1)⟩)
      (s.sreg o.a) (o.q.getLsbD 0) (o.q.getLsbD 1) es →
    exec (.acas2 o) s = .next ((applyAll es (Effect.fresh.apply s.landed)).ended .c 4 o.w.toNat))
  ∧ ∀ (o : A2) (s : State) (es : List Effect), s.ready .c →
    (Reaches s.landed (.tailq o.d.toNat) (s.sreg o.a) false false es →
      exec (.tailq o) s = .next ((applyAll es (Effect.fresh.apply s.landed)).ended .c 4 o.w.toNat))
    ∧ (Reaches s.landed (.seal o.d.toNat) (s.sreg o.a) false true es →
      exec (.sealPage o) s = .next ((applyAll es (Effect.fresh.apply s.landed)).ended .c 4 o.w.toNat))

/-- The atomic spaces that have no home slice (R54, R101): C, P and D. -/
def atomicSpaces : List (BitVec 2 × Space) := [(1, .c), (2, .p), (3, .d)]

/-- The state after an atomic of the issuing strand at a place in a local space (R101, R102, R179): at a chip scratchpad's bank the new
value is there and the destinations hold the old one, with an acquire where the acquire bit asks for one; at a core's scratchpad the
operation is the last entry of its handler queue, or of its request port where the queue has no room or others wait, and the destinations
await it. -/
def Machine.State.atomicAt (s : State) (l : Loc) (d : Nat) (a : AtomicArgs) (acq : Bool) : State :=
  match l with
  | .d _ _ =>
    let old := l.read s a.size
    let t := applyAll (l.write a.size (atomicNew a old) s) s
    let u := if d = 0 then t
      else ((MemOp.atomic d a).dests.zip (atomicOld a old)).foldl (fun x p => x.wrote (.s p.1) (.word p.2) 1) t
    if acq then applyAll (acquire u.coreNo u) u else u
  | .p core off =>
    let t := Effect.fresh.apply s
    let c := t.core core
    let e := HandlerEntry.atomic { six := s.six, off := off, args := a, dest := d, acq := acq, id := s.nextId }
    let u := (Effect.core core (if c.hq.length < 16 ∧ c.port.any HandlerEntry.forHandler = false then { c with hq := c.hq ++ [e] }
      else { c with port := c.port ++ [e] })).apply t
    if d = 0 then u
    else u.withMe { u.me with await := u.me.await ++ (MemOp.atomic d a).dests.map (fun r => (RegId.s r, s.nextId)) }

/-- An atomic of a local space passes its checks (R94) and can be taken: the bytes are not poisoned, and the owning core's request port has
room (R381). -/
structure Machine.ReachesAtomic (s : State) (space : Space) (d : Nat) (a : AtomicArgs) (ea : Word) (rel : Bool) (l : Loc) : Prop where
  reaches : ReachesLocal s space (.atomic d a) ea rel l
  sound : ∀ die off, l = .d die off → l.poisoned s a.size = false
  room : ∀ core off, l = .p core off → portFull (s.core core) = false

/-- Every atomic and ACAS2 of space C, P or D completes at its place (R54, R101, R102). -/
def localAtomic : Prop :=
  (∀ e ∈ atomics, ∀ q ∈ atomicSpaces, ∀ (o : Atom) (s : State) (l : Loc), s.ready .c → o.sp = q.1 →
    ReachesAtomic s.landed q.2 o.d.toNat (s.atomicArgs e.2 o) (s.sreg o.a) (o.q.getLsbD 1) l →
    exec (e.1 o) s = .next ((s.landed.atomicAt l o.d.toNat (s.atomicArgs e.2 o) (o.q.getLsbD 0)).ended .c 4 o.w.toNat))
  ∧ ∀ q ∈ atomicSpaces, ∀ (o : AtomC) (s : State) (l : Loc), s.ready .c → o.sp = q.1 →
    let a : AtomicArgs := ⟨13, 16, s.sreg o.b, s.sreg o.d, s.sreg (o.b + 1), s.sreg (o.d + 1)⟩
    ReachesAtomic s.landed q.2 o.d.toNat a (s.sreg o.a) (o.q.getLsbD 1) l →
    exec (.acas2 o) s = .next ((s.landed.atomicAt l o.d.toNat a (o.q.getLsbD 0)).ended .c 4 o.w.toNat)

end Sys2Proof

/-- The fences, PERSIST and WINWAIT complete (R98 to R100); a WINWAIT of a strand that has written nothing pod-visible, for which R100
names no window, completes with the current one at once (the model's choice, log entry 69). -/
def Obligations.OrderingResult : Prop :=
  (∀ (o : A0) (s : State), s.ready .c →
    (openLoads s.landed s.six = false →
      exec (.fenceAcq o) s = .next ((applyAll (acquire s.coreNo s.landed) s.landed).ended .c 4 o.w.toNat))
    ∧ (outstanding s.landed s.six = false →
      exec (.fenceRel o) s = .next (s.landed.ended .c 4 o.w.toNat)
      ∧ exec (.fenceFull o) s = .next ((applyAll (acquire s.coreNo s.landed) s.landed).ended .c 4 o.w.toNat)))
  ∧ (∀ (o : A3) (s : State) (es : List Effect), s.ready .c → s.me.spec = false → outstanding s.landed s.six = false →
    performOp (s.landed.asks (.persist o.d.toNat (s.sreg o.b).toNat) (s.sreg o.a) false true) (Effect.fresh.apply s.landed)
      = .ok es →
    exec (.persist o) s = .next ((applyAll es (Effect.fresh.apply s.landed)).ended .c 4 o.w.toNat))
  ∧ ∀ (o : AD) (s : State), s.ready .c → s.me.spec = false → outstanding s.landed s.six = false →
    (s.pkg.fab.en = false → exec (.winwait o) s = .next ((s.landed.wrote (.s o.d.toNat) (.word 0) 1).ended .c 4 o.w.toNat))
    ∧ (s.pkg.fab.en = true → (∀ n, s.me.podWin = some n → n + 2 ≤ s.pkg.fab.window) →
      exec (.winwait o) s
        = .next ((s.landed.wrote (.s o.d.toNat) (.word (BitVec.ofNat 64 s.pkg.fab.window)) 1).ended .c 4 o.w.toNat))

/-- Every atomic, LR, SC, ACAS2, APPND, TAILQ and SEAL of space G, and every atomic and ACAS2 of the spaces C, P and D, completes at its
place (R54, R101 to R106). -/
def Obligations.GlobalAtomic : Prop := globalAtomic ∧ localAtomic

namespace Sys2Proof

/-- A table read of `n` bytes whose page does not translate or does not allow it (R90). -/
structure Machine.TableFault (s : State) (va : Word) (n : Nat) : Prop where
  unlocked : rangeHit s s.coreNo .g s.me.dom va.toNat (va.toNat + n) true = false
  plain : s.me.spec = false
  acquired : acqPending s s.six = false
  faults : plainLoad s s.six s.me.dom s.me.sys.pm va n = .error .page

/-- JTAB completes (R90): with index i below the entry count n at T, to T + the signed word at T + 4 + 4i; at or above n, to the
next instruction. It traps, with no effect: ALIGN where T is no multiple of 4, or where the target is odd, with T or the target in TADDR
(R42); PAGE where a word of the table does not read, with its address in TADDR, subcode TABLE (on a principal or chiplet core MMU). -/
def jumpTable : Prop :=
  ∀ (o : AB) (s : State), s.ready .c →
    let pageTrap := fun (va : Word) =>
      Stop.trap { cause := 5, sub := if isCompute s.coreNo then 2 else 5, addr := va, strm := .c }
    ((s.sreg o.b).toNat % 4 ≠ 0 →
      exec (.jtab o) s = .next (onStop (.trap { cause := 4, sub := 0, addr := s.sreg o.b, strm := .c }) s))
    ∧ ((s.sreg o.b).toNat % 4 = 0 →
      (TableFault s.landed (s.sreg o.b) 4 → exec (.jtab o) s = .next (onStop (pageTrap (s.sreg o.b)) s))
      ∧ ∀ (n : Nat) (fx : List Effect), TableLoad s.landed (s.sreg o.b) 4 n fx →
        (n ≤ (s.sreg o.a).toNat → exec (.jtab o) s = .next ((applyAll fx s.landed).ended .c 4 o.w.toNat))
        ∧ ((s.sreg o.a).toNat < n →
          let t := applyAll fx s.landed
          let va := s.sreg o.b + 4 + 4 * s.sreg o.a
          (TableFault t va 4 →
            exec (.jtab o) s = .next (onStop (pageTrap va) s))
          ∧ ∀ (d : Nat) (gx : List Effect), TableLoad t va 4 d gx →
            let goal := s.sreg o.b + (BitVec.ofNat 32 d).signExtend 64
            (goal.getLsbD 0 = false → exec (.jtab o) s = .next ((applyAll gx t).endedAt .c goal o.w.toNat))
            ∧ (goal.getLsbD 0 = true →
              exec (.jtab o) s = .next (onStop (.trap { cause := 4, sub := 0, addr := goal, strm := .c }) s))))

/-- Nothing stands between the strand's access to n bytes at va, translated by x, and its performing: no port error or poisoned word
there (R264, R334), and no earlier request held at the slices for its words (R95). -/
def Machine.State.clearFor (s : State) (reads : Bool) (va : Word) (x : Xl) (n : Nat) : Prop :=
  memCheck s reads x.pa n = none ∧ behindHeld (Effect.fresh.apply s) s.nextId s.me.dom va n = false

end Sys2Proof

/-- A load from a NORMAL page (R92, R93, R252): the bytes in memory, little-endian and extended, where this core's L1 holds no copy
of the line; nothing else of the strand and no byte of memory changes, and s0 stays zero. -/
def Obligations.NormalLoad : Prop :=
  ∀ (s : State) (d n : Nat) (sg : Bool) (va : Word) (x : Xl), OnNormalPage s va .r x → 0 < n →
    s.clearFor true va x n → s.me.spec = false → tblGet .empty s.l1 (l1Key s.coreNo s.me.dom va) = .empty →
    ∃ es, performOp (s.asks (.load d n sg) va false false) (Effect.fresh.apply s) = .ok es
      ∧ (d ≠ 0 → (applyAll es (Effect.fresh.apply s)).me.readS d = extendLoad n sg (memRead s.mem x.pa n))
      ∧ s.me.sameBut (applyAll es (Effect.fresh.apply s)).me d
      ∧ s.sameMemory (applyAll es (Effect.fresh.apply s))

/-- A store to a NORMAL page (R92, R93, R274): its bytes, little-endian, at the translated address; every other byte of every memory,
every register and every flag of the strand stays. -/
def Obligations.NormalStore : Prop :=
  ∀ (s : State) (n : Nat) (v va : Word) (x : Xl), OnNormalPage s va .w x → s.clearFor false va x n →
    s.me.spec = false → readersOf s (wordsOf x.pa n) = [] →
    ∃ es, performOp (s.asks (.store n v) va false false) (Effect.fresh.apply s) = .ok es
      ∧ (∀ a, memGet (applyAll es (Effect.fresh.apply s)).mem a
          = if x.pa ≤ a ∧ a < x.pa + n then BitVec.ofNat 8 (v.toNat / 256 ^ (a - x.pa)) else memGet s.mem a)
      ∧ (applyAll es (Effect.fresh.apply s)).pmem = s.pmem ∧ (applyAll es (Effect.fresh.apply s)).lmem = s.lmem
      ∧ (applyAll es (Effect.fresh.apply s)).dmem = s.dmem
      ∧ s.me.sameBut (applyAll es (Effect.fresh.apply s)).me 0

/-- An atomic on a NORMAL page (R101, R102): d takes the old value, the bytes take the new one, all at once; nothing else of the
strand and no other byte of memory changes. -/
def Obligations.NormalAtomic : Prop :=
  ∀ (s : State) (d : Nat) (a : AtomicArgs) (va : Word) (x : Xl), OnNormalPage s va .rw x → s.me.spec = false → a.op ≠ 13 →
    s.clearFor true va x a.size → readersOf s (wordsOf x.pa a.size) = [] →
    ∃ es, performOp (s.asks (.atomic d a) va false false) (Effect.fresh.apply s) = .ok es
      ∧ (d ≠ 0 → (applyAll es (Effect.fresh.apply s)).me.readS d
          = extendLoad a.size (decide (a.op ≠ 6 ∧ a.op ≠ 7 ∧ a.op ≠ 10)) (memRead s.mem x.pa a.size))
      ∧ (∀ b, memGet (applyAll es (Effect.fresh.apply s)).mem b
          = if x.pa ≤ b ∧ b < x.pa + a.size
            then BitVec.ofNat 8 (atomicNew a (memRead s.mem x.pa a.size) / 256 ^ (b - x.pa)) else memGet s.mem b)
      ∧ s.me.sameBut (applyAll es (Effect.fresh.apply s)).me d

/-- Load-reserve and store-conditional on a NORMAL page (R103): LR loads and reserves the granule; SC stores and gives 0 exactly where the
strand holds a reservation on its granule younger than 4,096 cycles, made at the directory agent it now goes through, gives 1 and stores
nothing otherwise, and either way ends the reservation. -/
def Obligations.Reservation : Prop :=
  (∀ (s : State) (d n : Nat) (va : Word) (x : Xl), OnNormalPage s va (MemOp.lr d n).need x → s.clearFor true va x n →
    ∃ es, performOp (s.asks (.lr d n) va false false) (Effect.fresh.apply s) = .ok es
      ∧ (d ≠ 0 → (applyAll es (Effect.fresh.apply s)).me.readS d = extendLoad n true (memRead s.mem x.pa n))
      ∧ (applyAll es (Effect.fresh.apply s)).me.res = some (x.pa / 64, s.cycle)
      ∧ (applyAll es (Effect.fresh.apply s)).me.resAt = agentOf s.coreNo (va.toNat % 2 ^ 48)
      ∧ s.me.sameBut (applyAll es (Effect.fresh.apply s)).me d ∧ s.sameMemory (applyAll es (Effect.fresh.apply s)))
  ∧ ∀ (s : State) (d n : Nat) (v va : Word) (x : Xl), OnNormalPage s va (MemOp.sc d n v).need x → s.clearFor false va x n →
    readersOf s (wordsOf x.pa n) = [] →
    let holds := s.me.resAt = agentOf s.coreNo (va.toNat % 2 ^ 48) ∧ ∃ t, s.me.res = some (x.pa / 64, t) ∧ s.cycle < t + 4096
    ∃ es, performOp (s.asks (.sc d n v) va false false) (Effect.fresh.apply s) = .ok es
      ∧ (applyAll es (Effect.fresh.apply s)).me.res = none
      ∧ s.me.sameBut (applyAll es (Effect.fresh.apply s)).me d
      ∧ (holds →
          (d ≠ 0 → (applyAll es (Effect.fresh.apply s)).me.readS d = 0)
          ∧ ∀ b, memGet (applyAll es (Effect.fresh.apply s)).mem b
              = if x.pa ≤ b ∧ b < x.pa + n then BitVec.ofNat 8 (v.toNat % 2 ^ (8 * n) / 256 ^ (b - x.pa)) else memGet s.mem b)
      ∧ (¬holds →
          (d ≠ 0 → (applyAll es (Effect.fresh.apply s)).me.readS d = 1)
          ∧ s.sameMemory (applyAll es (Effect.fresh.apply s)))

namespace Sys2Proof

/-- Where an access to an APPEND or SEALED page traps (R104 to R106, R96): a store off the tail OFFTAIL, an atomic, LR or SC OFFTAIL on
APPEND, any of them and APPND SEALED on SEALED; and APPND, TAILQ and SEAL elsewhere ACCESS CLASS. -/
def pageClassTraps : Prop :=
  ∀ (s : State) (op : MemOp) (va : Word) (x : Xl), inWindow va = false →
    translate s s.coreNo s.me.dom s.me.sys.pm va op.need = some x → x.pod = false →
    behindHeld (Effect.fresh.apply s) s.nextId s.me.dom va op.bytes = false →
    (x.cls = .sealed → (∃ n v, op = .store n v) ∨ (∃ d a, op = .atomic d a) ∨ (∃ d n, op = .lr d n) ∨ (∃ d n v, op = .sc d n v)
        ∨ (∃ d n v, op = .appnd d n v) →
      performOp (s.asks op va false false) (Effect.fresh.apply s) = .error (.trap 9 0))
    ∧ (x.cls = .append → (∃ d a, op = .atomic d a) ∨ (∃ d n, op = .lr d n) ∨ (∃ d n v, op = .sc d n v)
        ∨ (∃ n v i, op = .store n v ∧ frameIndex s.cfg x.pa = some i ∧ x.pa % 65536 ≠ (s.frame i).tail) →
      performOp (s.asks op va false false) (Effect.fresh.apply s) = .error (.trap 8 0))
    ∧ (x.cls = .normal ∨ x.cls = .sync → (∃ d n v, op = .appnd d n v) ∨ (∃ d, op = .tailq d) ∨ (∃ d, op = .seal d) →
      performOp (s.asks op va false false) (Effect.fresh.apply s) = .error (.trap 6 2))

end Sys2Proof

/-- A misaligned load or store traps ALIGN with its EA in TADDR and has no effect (R92, R94, R33), in every space of format M; in space G
where the instruction is not one whose access has already left for another package. -/
def Obligations.MisalignedAccess : Prop :=
  (∀ e ∈ loads, ∀ (o : Sys2Proof.Mem) (s : State), s.ready .c → o.space ∈ [0#3, 1#3, 2#3, 4#3] →
    (o.space = 0#3 → s.landed.sent = none) →
    (effAddr (s.sreg o.base) o.off e.2.1).toNat % e.2.1 ≠ 0 →
    exec (e.1 o) s
      = .next (onStop (.trap { cause := 4, sub := 0, addr := effAddr (s.sreg o.base) o.off e.2.1, strm := .c }) s))
  ∧ ∀ e ∈ stores, ∀ (o : Sys2Proof.Mem) (s : State), s.ready .c → o.space ∈ [0#3, 1#3, 2#3, 4#3] →
    (o.space = 0#3 → s.landed.sent = none) →
    (effAddr (s.sreg o.base) o.off e.2).toNat % e.2 ≠ 0 →
    exec (e.1 o) s
      = .next (onStop (.trap { cause := 4, sub := 0, addr := effAddr (s.sreg o.base) o.off e.2, strm := .c }) s)

/-- Every branch, jump and table jump completes where it goes, or traps at an odd target or for its table entry (R42, R43, R88 to R90, R48). -/
def Obligations.TransferResult : Prop := branchResult ∧ jumpResult ∧ jumpTable

/-- An instruction in the stream that does not have it traps STREAM with subcode WRONG and has no effect, its own word in TADDR; a
C-stream memory operand that names space L is a case of it (R13, R24). On a core of no quad a matrix instruction is ILLEGAL in either
stream, so no STREAM trap comes before that one in the C-stream there (R214, R56; that order is log entry 59, deduced). -/
def Obligations.WrongStream : Prop :=
  (∀ (i : Instr) (st : Stream) (s : State), i.only = some st → s.stream = other st →
    (i.matrix = true → isCompute s.coreNo = true) →
    exec i s = .next (onStop (.trap { cause := 2, sub := 1, addr := BitVec.ofNat 64 (encode i), strm := s.stream }) s))
  ∧ (∀ (i : Instr) (s : State), i.matrix = true → isCompute s.coreNo = false →
    exec i s = .next (onStop (.trap { cause := 1, sub := 0, addr := BitVec.ofNat 64 (encode i), strm := s.stream }) s))
  ∧ (∀ e ∈ loads, ∀ (o : Sys2Proof.Mem) (s : State), o.space = 3 → s.stream = .c →
    exec (e.1 o) s
      = .next (onStop (.trap { cause := 2, sub := 1, addr := BitVec.ofNat 64 (encode (e.1 o)), strm := .c }) s))
  ∧ (∀ e ∈ stores, ∀ (o : Sys2Proof.Mem) (s : State), o.space = 3 → s.stream = .c →
    exec (e.1 o) s
      = .next (onStop (.trap { cause := 2, sub := 1, addr := BitVec.ofNat 64 (encode (e.1 o)), strm := .c }) s))
  ∧ ∀ (o : MemO) (s : State), o.space = 3 → s.stream = .c →
    exec (.ldacq o) s
      = .next (onStop (.trap { cause := 2, sub := 1, addr := BitVec.ofNat 64 (encode (.ldacq o)), strm := .c }) s)
    ∧ exec (.strel o) s
      = .next (onStop (.trap { cause := 2, sub := 1, addr := BitVec.ofNat 64 (encode (.strel o)), strm := .c }) s)

/-- A privileged instruction in user mode traps PRIV and has no effect, its own word in TADDR (R110 to R112, R183). -/
def Obligations.PrivilegeRule : Prop :=
  ∀ (i : Instr) (s : State), i.privileged = true → s.stream = .c → s.me.sys.pm = false →
    exec i s = .next (onStop (.trap { cause := 3, sub := 0, addr := BitVec.ofNat 64 (encode i), strm := .c }) s)

namespace Sys2Proof

/-- The vector instructions of two and of three v registers under a mask (R44, R54). -/
def vecOps2 : List (V2 → Instr) :=
  [.vmov, .vabs, .vneg, .vclass, .vscanAdd, .vscanMin, .vscanMax]
def vecOps3 : List (V3 → Instr) :=
  [.vsel, .vshuf, .vrot, .vext, .vcps, .vmin, .vmax, .viadd, .visub, .vimul, .vimulh, .vand, .vor, .vxor, .vshl, .vshr, .vshra, .vimin,
   .vimax, .viminn, .vimaxn, .vsadd, .vssub, .vabsd]
def vecCompares : List (V3 → Instr) := [.vcmpEq, .vcmpNe, .vcmpLt, .vcmpLe, .vcmpLtn, .vcmpLen]
def vecReductions : List (V2 → Instr) :=
  [.vredAdd, .vredMin, .vredMax, .vredMinn, .vredMaxn, .vredAnd, .vredOr, .vredXor]

/-- The registers that the integer, immediate, 16-bit, memory and atomic instructions name in the C-stream (R25, R45 to R48, R53). -/
def Machine.NamesC (i : Instr) (rs : List RegId) : Prop :=
  (∃ e ∈ intOps, ∃ o : A3, i = e.1 o ∧ rs = [.s o.d.toNat, .s o.a.toNat, .s o.b.toNat])
  ∨ (∃ e ∈ intOps1, ∃ o : A2, i = e.1 o ∧ rs = [.s o.d.toNat, .s o.a.toNat])
  ∨ (∃ e ∈ immOps, ∃ o : Imm, i = e.1 o ∧ rs = [.s o.d.toNat, .s o.a.toNat])
  ∨ (∃ e ∈ shiftOps, ∃ o : Shift, i = e.1 o ∧ rs = [.s o.d.toNat, .s o.a.toNat])
  ∨ (∃ o : Field, (i = .bfx o ∨ i = .bfi o) ∧ rs = [.s o.d.toNat, .s o.a.toNat])
  ∨ (∃ o : Upper, (i = .lui o ∨ i = .lea o) ∧ rs = [.s o.d.toNat])
  ∨ (∃ e ∈ regOps16, ∃ o : CR, i = e.1 o ∧ rs = [.s o.d.toNat, .s o.a.toNat])
  ∨ (∃ e ∈ immOps16, ∃ o : CI, i = e.1 o ∧ rs = [.s o.d.toNat])
  ∨ (∃ e ∈ loads, ∃ o : Sys2Proof.Mem, o.space ≠ 3 ∧ i = e.1 o ∧ rs = [.s o.d.toNat, .s o.base.toNat])
  ∨ (∃ e ∈ stores, ∃ o : Sys2Proof.Mem, o.space ≠ 3 ∧ i = e.1 o ∧ rs = [.s o.d.toNat, .s o.base.toNat])
  ∨ (∃ o : MemO, o.space ≠ 3 ∧ (i = .ldacq o ∨ i = .strel o) ∧ rs = [.s o.d.toNat, .s o.base.toNat])
  ∨ (∃ o : CR, (i = .cLdw o ∨ i = .cLdd o ∨ i = .cStw o ∨ i = .cStd o) ∧ rs = [.s o.d.toNat, .s o.a.toNat])
  ∨ ∃ e ∈ atomics, ∃ o : Atom, i = e.1 o ∧ rs = [.s o.d.toNat, .s o.a.toNat, .s o.b.toNat]

/-- The registers that vector instructions name in the V-stream (R25, R44, R54, R134 to R136). -/
def Machine.NamesV (i : Instr) (rs : List RegId) : Prop :=
  (∃ e ∈ vecOps2, ∃ o : V2, i = e o ∧ rs = [.v o.d.toNat, .v o.a.toNat, .m o.m.toNat])
  ∨ (∃ e ∈ vecOps3, ∃ o : V3, i = e o ∧ rs = [.v o.d.toNat, .v o.a.toNat, .v o.b.toNat, .m o.m.toNat])
  ∨ (∃ e ∈ vecCompares, ∃ o : V3, i = e o ∧ rs = [.m o.d.toNat, .v o.a.toNat, .v o.b.toNat, .m o.m.toNat])
  ∨ (∃ e ∈ vecReductions, ∃ o : V2, i = e o ∧ rs = [.k o.d.toNat, .v o.a.toNat, .m o.m.toNat])
  ∨ (∃ o : VLoad, i = .vld o ∧ rs = [.v o.d.toNat, .k o.a.toNat, .m o.m.toNat])
  ∨ (∃ o : VStore, i = .vst o ∧ rs = [.v o.d.toNat, .k o.a.toNat, .m o.m.toNat])
  ∨ ∃ o : VIdx, (i = .vgath o ∨ i = .vscat o) ∧ rs = [.v o.d.toNat, .v o.b.toNat, .k o.a.toNat, .m o.m.toNat]

/-- An instruction that reads or writes a register awaiting a scoreboarded result stays unissued, whatever CHK holds (R38); otherwise, with
CHK = 1, one that names a register with a pending write traps STALLCHK, with the producer's PC in TADDR (R36; where several are pending,
the one that is oldest in its stream, the C-stream's first: log entry 66). So for every integer, immediate, 16-bit, memory, atomic and
vector form of these lists, in its stream. -/
def pendingRegister : Prop :=
  ∀ (i : Instr) (rs : List RegId) (s : State), (s.stream = .c ∧ NamesC i rs) ∨ (s.stream = .v ∧ NamesV i rs) →
    (∀ r id, r ∈ rs → (r, id) ∈ s.me.await → exec i s = .next (onStop (.wait .score) s))
    ∧ ∀ p, (∀ r ∈ rs, ∀ id, (r, id) ∉ s.me.await) → s.me.sys.chk = true →
      (s.landed.me.c.pend ++ s.landed.me.v.pend).find? (fun q => rs.contains q.reg) = some p →
      exec i s = .next (onStop (.trap { cause := 12, sub := 0, addr := p.pc, strm := s.stream }) s)

/-- What an instruction that stops leaves (R20, R33): a wait changes only the stream's wait; a trap is taken in the state the
instruction was issued in, unless the other stream is inside an instruction that completes first (R185). -/
def stopRule : Prop :=
  (∀ (w : Wait) (s : State), onStop (.wait w) s = s.withMe (s.me.setWait s.stream w))
  ∧ (∀ (t : Trap) (s : State), (s.me.waitOf (other t.strm)).first = false → onStop (.trap t) s = takeTrap t s.six s)
  ∧ ∀ (t : Trap) (s : State), (s.me.waitOf (other t.strm)).first = true →
      onStop (.trap t) s = s.withMe (s.me.setWait t.strm .score)

end Sys2Proof

/-- Trap entry (R33, R110, R184, R103): the records, the mode, the handler's PC at TVEC, pending writes landed, the reservation ended;
the coupling state, the domain stack, FLAGS and the rest of the package stay. -/
def Obligations.TrapEntry : Prop :=
  ∀ (t : Trap) (six : Nat) (s : State), parks (coreOf six) t = false → ¬(t.cause = 17 ∧ isCompute (coreOf six) = true) →
    (s.strand six).bell = none → t.cause < 65536 → t.sub < 65536 → (s.strand six).dom < 4096 →
    ∃ y, takeTrap t six s = (Effect.strand six y).apply s
      ∧ y.sys.tcause.toNat % 65536 = t.cause ∧ y.sys.tcause.toNat / 65536 % 65536 = t.sub
      ∧ y.sys.tcause.getLsbD 32 = decide (t.strm = .v) ∧ y.sys.tcause.getLsbD 33 = (s.strand six).sys.pm
      ∧ y.sys.tcause.getLsbD 34 = (s.strand six).sys.ie ∧ y.sys.tcause.toNat / 2 ^ 36 = (s.strand six).dom
      ∧ y.sys.taddr = t.addr ∧ y.sys.tpc = (s.strand six).c.pc
      ∧ y.sys.tvpc = (if (s.strand six).sys.vrun then (s.strand six).v.pc ||| 1 else 0)
      ∧ y.sys.vrun = false ∧ y.sys.pm = true ∧ y.sys.ie = false ∧ y.dom = 0
      ∧ y.c.pc = (s.strand six).sys.tvec &&& ~~~3#64
      ∧ y.c.pend = [] ∧ y.v.pend = [] ∧ y.res = none
      ∧ (∀ n, y.readS n = (s.strand six).landAll.readS n) ∧ (∀ n, y.readV n = (s.strand six).landAll.readV n)
      ∧ y.q = (s.strand six).q ∧ y.frames = (s.strand six).frames ∧ y.sys.dsdepth = (s.strand six).sys.dsdepth
      ∧ y.sys.flags = (s.strand six).sys.flags ∧ y.sys.quant = (s.strand six).sys.quant ∧ y.sys.tvec = (s.strand six).sys.tvec

/-- A page fault on a compute core parks the strand (R31, R33, R183, R186): TCAUSE, TADDR, TPC and TVPC as for a trap, the slot PARKED,
mode, domain and TVEC as they were, no handler entered. That the records are written at once, and that the strand is queued for migration
at the cluster's principal core, which is signalled, once nothing it had issued is outstanding and not before, is log entry 58, deduced. -/
def Obligations.PageFaultPark : Prop :=
  ∀ (t : Trap) (six : Nat) (s : State), t.cause = 5 → isCompute (coreOf six) = true → (s.strand six).bell = none → t.sub < 65536 →
    (s.strand six).dom < 4096 →
    let x := s.strand six
    let y := (takeTrap t six s).strand six
    let cl := clusterOf (coreOf six)
    let p := principalOf cl
    y.st = .parked ∧ y.parks = (x.parks + 1) % 65536 ∧ y.res = none
      ∧ y.sys.tcause.toNat % 65536 = 5 ∧ y.sys.tcause.toNat / 65536 % 65536 = t.sub
      ∧ y.sys.tcause.getLsbD 32 = decide (t.strm = .v) ∧ y.sys.tcause.getLsbD 33 = x.sys.pm
      ∧ y.sys.tcause.getLsbD 34 = x.sys.ie ∧ y.sys.tcause.toNat / 2 ^ 36 = x.dom
      ∧ y.sys.taddr = t.addr ∧ y.sys.tpc = x.c.pc ∧ y.sys.tvpc = (if x.sys.vrun then x.v.pc ||| 1 else 0)
      ∧ y.sys.pm = x.sys.pm ∧ y.sys.ie = x.sys.ie ∧ y.sys.vrun = x.sys.vrun ∧ y.dom = x.dom ∧ y.sys.tvec = x.sys.tvec
      ∧ y.sys.flags = x.sys.flags ∧ y.sys.dsdepth = x.sys.dsdepth ∧ y.q = x.q ∧ y.frames = x.frames
      ∧ y.c.pend = [] ∧ y.v.pend = [] ∧ (∀ n, y.readS n = x.landAll.readS n) ∧ (∀ n, y.readV n = x.landAll.readV n)
      ∧ (undrained ((Effect.strand six (x.park t)).apply s) six = false → y.entry = false
        ∧ ((takeTrap t six s).cluster cl).migq = (s.cluster cl).migq ++ [six]
        ∧ ((takeTrap t six s).core p).intr = (s.core p).intr ++ [(1, 0)])
      ∧ (undrained ((Effect.strand six (x.park t)).apply s) six = true → y.entry = true
        ∧ ((takeTrap t six s).cluster cl).migq = (s.cluster cl).migq ∧ ((takeTrap t six s).core p).intr = (s.core p).intr)

/-- MFS and MTS (R27 to R30, R108) in both streams, by register number: MFS gives the register, MTS sets it in the next state where the
mode may and the value breaks no field map; in the V-stream a register field of 16 to 31 is ILLEGAL in both (R49); every register but
STATUS then reads back the value, and every other system register as before but for STATUS.GATED after DSDEPTH; STATUS takes CHK, and in
privileged mode IE, PM, TIMED and PRI; SRSEED loads the 32 generators as R71 gives them, and no other register does. -/
def Obligations.SystemRegisters : Prop :=
  (∀ (o : SysD) (st : Stream) (s : State), s.ready st → (st = .v → o.d.toNat < 16) → o.n.toNat ≤ 12 →
    (s.me.sys.pm = true ∨ sysNoRead o.n.toNat = false) →
    exec (.mfs o) s
      = .next ((s.landed.wrote (regOf st o.d.toNat) (.word (readSys s.me (slotOf s.six) o.n.toNat)) 1).ended st 4 0))
  ∧ (∀ (o : SysA) (st : Stream) (s : State), s.ready st → (st = .v → o.a.toNat < 16) → o.n.toNat ≤ 12 →
    (s.me.sys.pm = true ∨ sysNoWrite o.n.toNat = false) →
    sysIllegal o.n.toNat (s.xreg o.a) = false → (o.n = 0 → s.me.sys.pm = true ∨ statusPriv s.me (s.xreg o.a) = false) →
    exec (.mts o) s = .next ((s.landed.withMe (writeSys s.landed.me o.n.toNat (s.xreg o.a))).ended st 4 0))
  ∧ (∀ (o : SysD) (st : Stream) (s : State), s.ready st → (st = .v → o.d.toNat < 16) →
    s.me.sys.pm = false → sysNoRead o.n.toNat = true →
    exec (.mfs o) s
      = .next (onStop (.trap { cause := 3, sub := 0, addr := BitVec.ofNat 64 (encode (.mfs o)), strm := st }) s))
  ∧ (∀ (o : SysA) (st : Stream) (s : State), s.ready st → (st = .v → o.a.toNat < 16) →
    s.me.sys.pm = false → sysNoWrite o.n.toNat = true →
    exec (.mts o) s
      = .next (onStop (.trap { cause := 3, sub := 0, addr := BitVec.ofNat 64 (encode (.mts o)), strm := st }) s))
  ∧ (∀ (o : SysD) (s : State), s.ready .v → 16 ≤ o.d.toNat →
    exec (.mfs o) s
      = .next (onStop (.trap { cause := 1, sub := 0, addr := BitVec.ofNat 64 (encode (.mfs o)), strm := .v }) s))
  ∧ (∀ (o : SysA) (s : State), s.ready .v → 16 ≤ o.a.toNat →
    exec (.mts o) s
      = .next (onStop (.trap { cause := 1, sub := 0, addr := BitVec.ofNat 64 (encode (.mts o)), strm := .v }) s))
  ∧ (∀ (x : Strand) (slot n : Nat) (v : Word), 0 < n → n ≤ 12 → sysIllegal n v = false →
      let y := writeSys x n v
      readSys y slot n = v ∧ (∀ m, m ≤ 12 → m ≠ n → (n = 8 → m ≠ 0) → readSys y slot m = readSys x slot m)
        ∧ (n ≠ 10 → y.v.gen = x.v.gen) ∧ (∀ r, y.readS r = x.readS r) ∧ ∀ r, y.readV r = x.readV r)
  ∧ (∀ (x : Strand) (v : Word) (i : Nat), i < 32 →
      (writeSys x 10 v).v.gen[i]? = some
        (let g : Lane := v.setWidth 32 ^^^ (v >>> 32).setWidth 32 ^^^ BitVec.ofNat 32 ((i + 1) * 0x9E3779B9)
         if g = 0 then 1 else g))
  ∧ ∀ (x : Strand) (slot : Nat) (v : Word), slot < 8 → x.sys.pm = true →
      let y := writeSys x 0 v
      y.sys.chk = v.getLsbD 5 ∧ y.sys.ie = v.getLsbD 6 ∧ y.sys.pm = v.getLsbD 7 ∧ y.sys.timed = v.getLsbD 17
        ∧ y.sys.pri = v.extractLsb' 18 2 ∧ y.sys.vrun = x.sys.vrun
        ∧ (readSys y slot 0).toNat / 2 ^ 21 = slot ∧ (readSys y slot 0).getLsbD 20 = x.sys.vrun
        ∧ (readSys y slot 0).getLsbD 16 = decide (x.sys.dsdepth ≠ 0)

/-- TRAP raises cause TRAP with its code in TADDR, and counts as issued: the saved PC of its stream is the next instruction's (R109). -/
def Obligations.TrapInstruction : Prop :=
  ∀ (o : Code) (st : Stream) (s : State), s.ready st → (s.me.waitOf (other st)).first = false →
    let t := s.landed.withMe (s.landed.me.setPc st (s.pc + 4))
    exec (.trap o) s
      = .next ((takeTrap { cause := 14, sub := 0, addr := o.c.setWidth 64, strm := st } t.six t))

namespace Sys2Proof

/-- The words of IMPLQ that the part's size does not change (R348). -/
def implWords : List (Nat × Word) :=
  [(0, 4), (1, 32), (2, 1024), (3, 1500), (4, 2400), (5, 0x0004000000000000), (6, 0x0004000010000000), (7, 0x0004000001010000),
   (8, 65536), (9, 4096)]

end Sys2Proof

/-- LOXI, LOX, SOX, FEATQ and IMPLQ complete (R107, R111); word numbers are bits [7:0] of a; then the words of R348, 0 where it lists
none. -/
def Obligations.ExtensionAndTables : Prop :=
  (∀ (o : Upper) (s : State), s.ready .c →
    exec (.loxi o) s = .next ((s.landed.wrote (.ox o.d.toNat) (.word (o.imm.setWidth 64)) 1).ended .c 4 0))
  ∧ (∀ (o : A2) (s : State), s.ready .c →
    exec (.lox o) s = .next ((s.landed.wrote (.ox o.d.toNat) (.word (s.sreg o.a)) 1).ended .c 4 o.w.toNat)
    ∧ exec (.sox o) s = .next ((s.landed.wrote (.s o.d.toNat) (.word (s.oxreg o.a)) 1).ended .c 4 o.w.toNat)
    ∧ exec (.featq o) s
        = .next ((s.landed.wrote (.s o.d.toNat) (.word (featWord s ((s.sreg o.a).toNat % 256))) 1).ended .c 4 o.w.toNat)
    ∧ exec (.implq o) s
        = .next ((s.landed.wrote (.s o.d.toNat) (.word (implWord s ((s.sreg o.a).toNat % 256))) 1).ended .c 4 o.w.toNat))
  ∧ (∀ (s : State) (i : Nat), (featWord s 0).getLsbD i =
      (if i = 0 ∨ i = 1 then s.cfg.tutor else if i = 2 then (List.range 8).any s.cfg.portPcap else decide (i = 3) && s.pkg.fab.en))
  ∧ (∀ (s : State), featWord s 1 = (match s.cfg.part with | .ezm7160 => 0xFFF | .ezm7120 => 0x3F) ∧ featWord s 2 = 0x10000
      ∧ ∀ n, 3 ≤ n → featWord s n = 0)
  ∧ ∀ (s : State), (∀ e ∈ implWords, implWord s e.1 = e.2) ∧ (∀ k, k < 12 → implWord s (16 + k) = BitVec.ofNat 64 (s.cfg.stack k))
      ∧ (∀ p, p < 8 → implWord s (28 + p) = BitVec.ofNat 64 (s.cfg.port p))
      ∧ ∀ n, 10 ≤ n → n < 16 ∨ 36 ≤ n → implWord s n = 0

namespace Sys2Proof

/-- TRET (R33, R110, R155): PM and IE from TCAUSE, the domain of TCAUSE.ASID, both streams at their recorded PCs, the V-stream only
where bit 0 of TVPC is 1, pending writes landed; a TPC with bit 0 set traps ALIGN and transfers nothing (R42). -/
def trapReturn : Prop :=
  (∀ (o : A0) (s : State), s.ready .c → s.me.sys.pm = true → s.me.sys.tpc.getLsbD 0 = false →
    exec (.tret o) s = .next ((s.landed.withMe s.landed.me.tret).endedHere .c o.w.toNat))
  ∧ (∀ (o : A0) (s : State), s.ready .c → s.me.sys.pm = true → s.me.sys.tpc.getLsbD 0 = true →
    exec (.tret o) s = .next (onStop (.trap { cause := 4, sub := 0, addr := s.me.sys.tpc, strm := .c }) s))
  ∧ ∀ (x : Strand),
      x.tret.sys.pm = x.sys.tcause.getLsbD 33 ∧ x.tret.sys.ie = x.sys.tcause.getLsbD 34
        ∧ x.tret.sys.vrun = x.sys.tvpc.getLsbD 0 ∧ x.tret.dom = x.sys.tcause.toNat / 2 ^ 36 % 4096
        ∧ x.tret.c.pc = x.sys.tpc ∧ (x.sys.tvpc.getLsbD 0 = true → x.tret.v.pc = x.sys.tvpc &&& ~~~1#64)
        ∧ x.tret.c.pend = [] ∧ x.tret.v.pend = [] ∧ (∀ n, x.tret.readS n = x.landAll.readS n)
        ∧ x.tret.q = x.q ∧ x.tret.sys.flags = x.sys.flags
        ∧ (x.sys.tcause.toNat % 65536 = 18 → x.tret.seg = x.sys.taddr ∧ x.tret.frames = [] ∧ x.tret.spec = false)
        ∧ (x.sys.tcause.toNat % 65536 ≠ 18 → x.tret.seg = x.seg ∧ x.tret.frames = x.frames ∧ x.tret.spec = x.spec)

/-- WFI completes when an interrupt, an inbox arrival or a pre-emption entry is pending for its core, and otherwise waits, whatever
STATUS.IE holds (R111). -/
def waitForInterrupt : Prop :=
  ∀ (o : A0) (s : State), s.ready .c → s.me.sys.pm = true →
    ((s.core s.coreNo).intr ≠ [] ∨ (s.core s.coreNo).inbox ≠ []
        ∨ (∃ k, k < 8 ∧ (s.landed.strand (8 * s.coreNo + k)).preempt = true) →
      exec (.wfi o) s = .next (s.landed.ended .c 4 o.w.toNat))
    ∧ ((s.core s.coreNo).intr = [] → (s.core s.coreNo).inbox = [] →
        (∀ k, k < 8 → (s.landed.strand (8 * s.coreNo + k)).preempt = false) →
      exec (.wfi o) s = .next (onStop (.wait .interrupt) s))

end Sys2Proof

/-- When an instruction stays unissued or traps for a pending register, and what a stop leaves (R20, R33, R36, R38, R185); of several pending
registers the trap names the oldest (log entry 66). -/
def Obligations.StopRule : Prop := pendingRegister ∧ stopRule

/-- TRET and WFI (R33, R42, R110, R111, R155). -/
def Obligations.TrapReturn : Prop := trapReturn ∧ waitForInterrupt

/-- FIN completes where the V-stream is idle, no token and no access is outstanding and no gate is open (R32, R154): its firing ends and
its slot is freed; in a save routine the firing is kept as a saved context instead (R188). In a gated call it traps (R154). While,
outside a save routine, the V-stream runs, or a register awaits its result, or an access is outstanding, it waits, unissued. -/
def Obligations.FiringEnd : Prop :=
  ∀ (o : A0) (s : State), s.stream = .c →
    (s.me.saving = false → s.me.sys.dsdepth = 0 → s.me.sys.vrun = false → s.me.await = [] → outstanding s.landed s.six = false →
      exec (.fin o) s = .next ((applyAll (endFiring s.six s.landed) s.landed).endedHere .c o.w.toNat)
      ∧ exec .cFin s = .next ((applyAll (endFiring s.six s.landed) s.landed).endedHere .c 0))
    ∧ (s.me.saving = true → s.me.await = [] → outstanding s.landed s.six = false →
      exec (.fin o) s = .next ((applyAll (saveFiring s.six s.landed) s.landed).endedHere .c o.w.toNat)
      ∧ exec .cFin s = .next ((applyAll (saveFiring s.six s.landed) s.landed).endedHere .c 0))
    ∧ (s.me.saving = false → s.me.sys.dsdepth ≠ 0 →
      exec (.fin o) s = .next (onStop (.trap { cause := 13, sub := 10, addr := 0, strm := .c }) s)
      ∧ exec .cFin s = .next (onStop (.trap { cause := 13, sub := 10, addr := 0, strm := .c }) s))
    ∧ (s.me.saving = true ∨ s.me.sys.dsdepth = 0 →
      (s.me.saving = false ∧ s.me.sys.vrun = true) ∨ s.me.await ≠ [] ∨ outstanding s.landed s.six = true →
      exec (.fin o) s = .next (onStop (.wait .fin) s) ∧ exec .cFin s = .next (onStop (.wait .fin) s))

namespace Sys2Proof

/-- The other general slots of a strand's priority whose C-stream requests in its cycle, which a YIELD lets go first (R91, R160); the
core's record of the cycle's requests is kept by the grant (StepRunsDecoded). -/
def Machine.State.yieldSet (s : State) : List Nat :=
  (s.core s.coreNo).reqs.filter (fun k => decide (k < 6 ∧ 8 * s.coreNo + k ≠ s.six
    ∧ (s.strand (8 * s.coreNo + k)).sys.pri = s.me.sys.pri))

/-- The state with the record that a YIELD of a general slot leaves (R160). -/
def Machine.State.yielded (s : State) : State :=
  if slotOf s.six < 6 ∧ s.yieldSet ≠ [] then
    (Effect.core s.coreNo { s.core s.coreNo with
      yield := (s.core s.coreNo).yield.filter (fun r => r.1 != slotOf s.six) ++ [(slotOf s.six, s.yieldSet)] }).apply s
  else s

/-- YIELD completes, leaving its record (R91, R160). -/
def yieldResult : Prop :=
  ∀ (o : A0) (s : State), s.ready .c →
    exec (.yield o) s = .next (s.landed.yielded.ended .c 4 o.w.toNat)
    ∧ exec .cYield s = .next (s.landed.yielded.ended .c 2 0)

/-- The issuing strand without its note of an ended wait of the ALIGN at its PC (R185, log entry 15). -/
def Machine.State.unaligned (s : State) : State := s.withMe { s.me with aligned := s.me.aligned.erase s.me.c.pc }

/-- ALIGN completes when its set has arrived, ending the waits of the strands of the set, each after the idle steps of its own ALIGN;
256 cycles of its core after it began; or where an entry has ended its wait (R185). Before that it waits (R193). -/
def alignResult : Prop :=
  ∀ (o : A0) (s : State), s.ready .c →
    (alignMet s.landed s.six = true →
      exec (.align o) s
        = .next ((applyAll (alignDone (alignSet s.landed s.six) s.landed) s.landed).unaligned.ended .c 4 o.w.toNat))
    ∧ (alignMet s.landed s.six = false →
      ∀ t w, s.landed.me.c.wait = .align t w → t + 256 ≤ (s.core s.coreNo).cycle →
      exec (.align o) s = .next (s.landed.unaligned.ended .c 4 o.w.toNat))
    ∧ (alignMet s.landed s.six = false → s.landed.me.c.pc ∈ s.landed.me.aligned →
      exec (.align o) s = .next (s.landed.unaligned.ended .c 4 o.w.toNat))
    ∧ (alignMet s.landed s.six = false → (∀ t w, s.landed.me.c.wait ≠ .align t w) → s.landed.me.c.pc ∉ s.landed.me.aligned →
      exec (.align o) s = .next (onStop (.wait (.align (s.core s.coreNo).cycle o.w.toNat)) s))

/-- MIGR and MIGRET complete (R112, R186): the oldest migrated strand's C-state to the 512-byte area at a and its handle in d, or 0 where
there is none; a parked strand reloaded from the area at b. A handle that names no such strand traps ILLEGAL. -/
def migration : Prop :=
  (∀ (o : A2) (s : State), s.ready .c → s.me.sys.pm = true →
    ((isPrincipal s.coreNo = true → (s.cluster (clusterOf s.coreNo)).migq = []) →
      exec (.migr o) s = .next ((s.landed.wrote (.s o.d.toNat) (.word 0) 1).ended .c 4 o.w.toNat))
    ∧ ∀ (k : Nat) (r : List Nat) (t : State), isPrincipal s.coreNo = true →
      (s.cluster (clusterOf s.coreNo)).migq = k :: r → (s.sreg o.a).toNat % 8 = 0 →
      Runs (wideStore .g 8 ((wordAddrs (s.sreg o.a) 8 64).zip (saveArea s.landed k))) s.landed () t →
      let u := (Effect.cluster (clusterOf s.coreNo)
        { t.cluster (clusterOf s.coreNo) with migq := (t.cluster (clusterOf s.coreNo)).migq.tail }).apply t
      exec (.migr o) s = .next ((u.wrote (.s o.d.toNat) (.word (migHandle k (t.strand k))) 1).ended .c 4 o.w.toNat))
  ∧ ∀ (o : AB) (s : State), s.ready .c → s.me.sys.pm = true →
    (migTarget s.landed (s.sreg o.a) = none →
      exec (.migret o) s
        = .next (onStop (.trap { cause := 1, sub := 0, addr := BitVec.ofNat 64 (encode (.migret o)), strm := .c }) s))
    ∧ ∀ (k : Nat) (ws : List Nat) (t : State), migTarget s.landed (s.sreg o.a) = some k → (s.sreg o.b).toNat % 8 = 0 →
      Runs (wideLoad .g 8 (wordAddrs (s.sreg o.b) 8 64)) s.landed ws t →
      exec (.migret o) s
        = .next (((Effect.strand k (reload (t.strand k) (ws.map (BitVec.ofNat 64)))).apply t).ended .c 4 o.w.toNat)

/-- TLBINV, HARVEST and WBINV complete (R112, R247, R250, R265); HARVEST traps ALIGN off a 2 MiB boundary and MACHINE where a walk of the
region meets an error (R334). -/
def translationControl : Prop :=
  (∀ (o : AB) (s : State), s.ready .c → s.me.sys.pm = true →
    (tlbBusy s.landed (tlbKeys s.landed (s.sreg o.a) (s.sreg o.b)) = false →
      exec (.tlbinv o) s
        = .next ((applyAll (tlbInvalidate (s.sreg o.a) (s.sreg o.b) s.landed) s.landed).ended .c 4 o.w.toNat))
    ∧ ∀ xs, rangePages s.landed s.six s.me.dom s.me.sys.dsdepth true .r (s.sreg o.a).toNat (s.sreg o.b).toNat = .ok xs →
      exec (.wbinv o) s
        = .next ((applyAll (xs.flatMap Xl.fx ++ dropLines (lineOf xs (s.sreg o.a).toNat (s.sreg o.b).toNat) s.landed)
            s.landed).ended .c 4 o.w.toNat))
  ∧ ∀ (o : A3) (s : State), s.ready .c → s.me.sys.pm = true →
    (∀ u pa, (s.sreg o.b).toNat % 2 ^ 21 = 0 → regionCheck s.landed ((s.sreg o.a).toNat % 4096) (s.sreg o.b) = some (u, pa) →
      exec (.harvest o) s = .next (onStop (.trap { cause := 17, sub := u, addr := BitVec.ofNat 64 pa, strm := .c }) s))
    ∧ ((s.sreg o.b).toNat % 2 ^ 21 = 0 → regionCheck s.landed ((s.sreg o.a).toNat % 4096) (s.sreg o.b) = none →
      let asid := (s.sreg o.a).toNat % 4096
      let leaves := regionLeaves s.landed asid (s.sreg o.b)
      let t := applyAll (chain (regionReads s.coreNo asid (s.sreg o.b) :: leaves.map (harvestLeaf asid)) s.landed) s.landed
      exec (.harvest o) s
        = .next ((t.wrote (.s o.d.toNat)
            (.word (BitVec.ofNat 64 (leaves.filter (harvestChanges s.landed asid)).length)) 1).ended .c 4 o.w.toNat))
    ∧ ((s.sreg o.b).toNat % 2 ^ 21 ≠ 0 →
      exec (.harvest o) s = .next (onStop (.trap { cause := 4, sub := 0, addr := s.sreg o.b, strm := .c }) s))

/-- PFREE and KILL complete (R112, R157, R262): d := 0 and the frame free and zero, or d := 1 and nothing changed where a names no whole
populated frame or one being freed; d := 0 and the group killed, or d := 1 for an unknown group. -/
def freeAndKill : Prop :=
  (∀ (o : A2) (s : State), s.ready .c → s.me.sys.pm = true → outstanding s.landed s.six = false → s.landed.me.c.wait = .none →
    let t := applyAll (acquire s.coreNo s.landed) s.landed
    (∀ i, frameIndex s.cfg (s.sreg o.a).toNat = some i → (s.sreg o.a).toNat % 65536 = 0 → (t.frame i).st ≠ .scrub →
      let u := applyAll (pfreeStart i t) t
      u.pkg.fab.en = false → frameBusy u i = false →
      exec (.pfree o) s
        = .next (((applyAll (pfreeEnd i u) u).wrote (.s o.d.toNat) (.word 0) 1).ended .c 4 o.w.toNat))
    ∧ ((∀ i, frameIndex t.cfg (s.sreg o.a).toNat = some i →
          (s.sreg o.a).toNat % 65536 ≠ 0 ∨ (t.frame i).st = .scrub) →
      exec (.pfree o) s = .next ((t.wrote (.s o.d.toNat) (.word 1) 1).ended .c 4 o.w.toNat)))
  ∧ ∀ (o : A2) (s : State), s.ready .c → s.me.sys.pm = true →
    ((s.sreg o.a).toNat < 4096 → (s.group (s.sreg o.a).toNat).isSome = true →
      let t := s.landed.wrote (.s o.d.toNat) (.word 0) 1
      exec (.kill o) s = .next ((applyAll (killGroup t (s.sreg o.a).toNat) t).ended .c 4 o.w.toNat))
    ∧ (¬((s.sreg o.a).toNat < 4096 ∧ (s.group (s.sreg o.a).toNat).isSome = true) →
      exec (.kill o) s = .next ((s.landed.wrote (.s o.d.toNat) (.word 1) 1).ended .c 4 o.w.toNat))

end Sys2Proof

/-- YIELD and ALIGN complete, or ALIGN waits (R91, R160, R193). That the 256 cycles are grants of its core is log entry 8, and that an ALIGN whose
wait an entry ended completes at once when it is executed again log entry 15, deduced from R185 beside R193. -/
def Obligations.YieldAlign : Prop := yieldResult ∧ alignResult

/-- The privileged instructions complete: MIGR, MIGRET, TLBINV, HARVEST, WBINV, PFREE and KILL (R112, R157, R186, R247, R250, R262, R265).
HARVEST's MACHINE trap at a poisoned entry is log entry 17, and what TLBINV records log entry 18, both deduced. -/
def Obligations.PrivilegedResult : Prop := migration ∧ translationControl ∧ freeAndKill

namespace Sys2Proof

/-- A message put into the issuing core's send buffer (R169). -/
def Machine.State.posted (s : State) (target : Nat) (reply : Bool) (hdr : Word) (payload : List Word) (entry : Option Word) : State :=
  let m : OutMsg := ⟨target, ⟨s.me.gid.getD 4096, hdr, payload, entry, []⟩⟩
  let c := s.core s.coreNo
  (Effect.core s.coreNo (if reply then { c with repBuf := c.repBuf ++ [m] } else { c with reqBuf := c.reqBuf ++ [m] })).apply s

/-- A send passes the checks of R172 for destination word `a` and a payload that ends at register `last`: the word legal, the target
bound, the registers there, room in the buffer, and the strand calm (R170). -/
structure Machine.MaySend (s : State) (a : Word) (bad reply : Bool) (last target : Nat) : Prop where
  legal : bad = false
  bound : boundCore s s.six (dwCore a) = some target
  present : last ≤ 31
  room : (if reply then (s.core s.coreNo).repBuf.length else (s.core s.coreNo).reqBuf.length) < 8
  plain : s.me.spec = false
  released : outstanding s s.six = false

/-- SEND, SENDM, AMSG and AMRET complete (R168, R172, R173, R178): one message in the send buffer, its header naming the sender's
logical core; AMRET, in slot 6, then ends its handler, having replied once. -/
def sendResult : Prop :=
  ∀ (o : AB) (s : State) (c : Nat), s.ready .c →
    let t := s.landed
    let a := s.sreg o.a
    let b := o.b.toNat
    let me := logicalCore t s.six
    (MaySend t a (badDest a) (dwReply a) b c →
      exec (.send o) s
        = .next ((t.posted c (dwReply a) (headerOf (withLen a 0) 0 me) (readRun t.me b 1) none).ended .c 4 o.w.toNat))
    ∧ (MaySend t a (badDest a) (dwReply a) (b + dwLen a) c →
      exec (.sendm o) s
        = .next ((t.posted c (dwReply a) (headerOf (withLen a (dwLen a)) (dwLen a) me) (readRun t.me b (dwLen a + 1)) none).ended
            .c 4 o.w.toNat))
    ∧ (MaySend t a (badDest a || dwReply a || dwFifo a) false (b + 1 + dwLen a) c → (s.sreg o.b).getLsbD 0 = false →
      exec (.amsg o) s
        = .next ((t.posted c false (headerOf a (dwLen a) me) (readRun t.me (b + 1) (dwLen a + 1)) (some (s.sreg o.b))).ended
            .c 4 o.w.toNat))
    ∧ (slotOf s.six = 6 → s.me.sys.vrun = false → o.a ≠ 0 → s.me.replied = false →
        MaySend t a (badDest (a ||| 0x2000000)) true (b + dwLen a) c →
      let v := t.posted c true (headerOf (a ||| 0x2000000) (dwLen a) me) (readRun t.me b (dwLen a + 1)) none
      let u := v.withMe { v.me with replied := true }
      exec (.amret o) s = .next ((applyAll (endFiring s.six u) u).endedHere .c o.w.toNat))
    ∧ (slotOf s.six = 6 → s.me.sys.vrun = false → o.a = 0 ∨ s.me.replied = true → outstanding t s.six = false →
      exec (.amret o) s = .next ((applyAll (endFiring s.six t) t).endedHere .c o.w.toNat))

/-- RECV, MBOXQ and LOOPB complete (R170, R172, R174, R175): the oldest inbox message in d to d + 4 with an acquire; a count; a message in
the core's own inbox, whatever the strand has outstanding (the message keeps those accesses, which its receipt follows), or d := 1
where it holds 48. -/
def receiveResult : Prop :=
  (∀ (o : AD) (s : State) (m : Msg) (r : List Msg), s.ready .c → s.me.spec = false → (s.core s.coreNo).inbox = m :: r →
    m.after.any (openAccess s.landed) = false →
    let t := (Effect.core s.coreNo { s.core s.coreNo with inbox := r }).apply s.landed
    let u := applyAll (acquire s.coreNo t) t
    exec (.recv o) s
      = .next ((u.withMe ((List.range 5).foldl
          (fun x i => x.write (.s (o.d.toNat + i)) (.word ((m.hdr :: m.payload).getD i 0))) u.me)).ended .c 4 o.w.toNat))
  ∧ (∀ (o : A2) (s : State), s.ready .c → s.me.spec = false →
    exec (.mboxq o) s
      = .next ((s.landed.wrote (.s o.d.toNat) (.word (mboxCount s.landed (s.sreg o.a))) 1).ended .c 4 o.w.toNat))
  ∧ ∀ (o : A3) (s : State), s.ready .c → s.me.spec = false →
    (s.sreg o.a).toNat < 2 ^ 34 → (s.sreg o.a).toNat / 2 ^ 28 % 16 = 0 → (s.sreg o.a).toNat / 2 ^ 10 % 2 ^ 7 = 0 →
    dwFifo (s.sreg o.a) = false → o.b.toNat + dwLen (s.sreg o.a) ≤ 31 →
    let c := s.core s.coreNo
    let m : Msg := ⟨s.me.gid.getD 4096, s.sreg o.a, readRun s.landed.me o.b.toNat (dwLen (s.sreg o.a) + 1), none,
      openAccesses s.landed s.six⟩
    (c.inbox.length < 48 →
      exec (.loopb o) s
        = .next ((((Effect.core s.coreNo { c with inbox := c.inbox ++ [m] }).apply s.landed).wrote (.s o.d.toNat) (.word 0) 1).ended
            .c 4 o.w.toNat))
    ∧ (48 ≤ c.inbox.length →
      exec (.loopb o) s = .next ((s.landed.wrote (.s o.d.toNat) (.word 1) 1).ended .c 4 o.w.toNat))

/-- RGET and RPUT pass their issue checks (R176). -/
structure Machine.MayTransfer (s : State) (a b : Word) : Prop where
  aligned : a.toNat % 4 = 0
  near : rdLoff b % 4 = 0
  legal : b.toNat / 2 ^ 16 % 256 = 0
  region : 128 ≤ rdTgt b ∨ rdTgt b = 0
  fits : rdLoff b + 4 * rdWords b ≤ 2 ^ 19
  far : rdRem b = true → a.toNat < 2 ^ 29 ∧ (boundCore s s.six (a.toNat / 2 ^ 19)).isSome = true
    ∧ a.toNat % 2 ^ 19 + 4 * rdWords b ≤ 2 ^ 19
  plain : s.me.spec = false
  room : scoreboardFull (s.cluster (clusterOf s.coreNo)) = false

end Sys2Proof

/-- RGET and RPUT complete by entering one command in the engine's list: kind, addresses, length, the strand's domain and mode, and the
issuing group (R176, R203); nothing else of the package changes but the identity taken. -/
def Obligations.TransferIssue : Prop :=
  ∀ (o : AB) (s : State), s.ready .c → MayTransfer s.landed (s.sreg o.a) (s.sreg o.b) →
    ∀ get : Bool, ∃ k : Cmd,
      k.kind = (if get then .rget else .rput) ∧ k.six = s.six ∧ k.gid = s.me.gid ∧ k.src = s.sreg o.a
      ∧ k.dst = BitVec.ofNat 64 (rdLoff (s.sreg o.b)) ∧ k.len = 4 * rdWords (s.sreg o.b) ∧ k.asid = s.me.dom
      ∧ k.pm = s.me.sys.pm ∧ k.begun = false
      ∧ (let c := s.cluster (clusterOf s.coreNo)
         let t := (Effect.cluster (clusterOf s.coreNo) { c with cmds := c.cmds ++ [k] }).apply (Effect.fresh.apply s.landed)
         exec (if get then .rget o else .rput o) s = .next (t.ended .c 4 o.w.toNat))

/-- The message instructions complete (R168 to R178). That an AMRET whose reply has left ends its handler without a second reply is log entry 15,
and the sender field of a core bound to no group log entry 51, both deduced. -/
def Obligations.MessageResult : Prop := sendResult ∧ receiveResult

namespace Sys2Proof

/-- A task descriptor passes the checks of R294, and the tenant and the package have room (R291, R337). -/
structure Machine.MaySpawn (s : State) (b : Word) (ws : List Word) (gid : Nat) (g : Group) : Prop where
  legal : badTask s s.six (fun i => ws.getD i 0) = false
  counted : b = 0 ∨ (counterOf s s.me.gid b).isSome = true
  member : s.me.gid = some gid ∧ s.group gid = some g
  timely : (ws.getD 2 0).getLsbD 2 = true →
    ∀ id, isLate (ws.getD 1 0) id g.lastTs = false
      ∧ ∀ p, taskOf s s.me = some p → p.2.timed = true → p.2.ts.toNat ≤ (ws.getD 1 0).toNat
  room : slotsHeld s g.tenant < (s.tenant g.tenant).tq.toNat ∧ slotsInUse s < 65536

/-- How a new task starts (R294, R295): enqueued when its timed parent commits, attached to a counter, or enqueued at once. -/
def Machine.StartsAs (s : State) (timed : Bool) (b : Word) (st : TaskState) : Prop :=
  (∃ p, taskOf s s.me = some p ∧ p.2.timed = true ∧ timed = false ∧ st = .deferred p.1 (if b = 0 then none else some b))
  ∨ ((timed = true ∨ ∀ p, taskOf s s.me = some p → p.2.timed = false)
      ∧ ((counterOf s s.me.gid b = none ∧ st = .queued) ∨ ∃ i, counterOf s s.me.gid b = some i ∧ st = .attached i))

/-- TSPAWN, TSTAMP and TABORT complete (R294, R296, R297): d is the ID of the task enqueued, or the status BADDESC; the stamp that a
names; a speculative firing aborted, and no effect in any other. -/
def taskInstructions : Prop :=
  (∀ (o : A3) (s t : State) (ws : List Word), s.ready .c → (s.sreg o.a).toNat % 64 = 0 →
    Runs (loadWords (s.sreg o.a) 8) s.landed ws t → outstanding t t.six = false →
    let u := t.chose
    let id := nextTaskId (t.choice 4) (u.die (t.choice 4)).taskCount
    (∀ gid g st, MaySpawn u (s.sreg o.b) ws gid g → StartsAs u ((ws.getD 2 0).getLsbD 2) (s.sreg o.b) st →
      let x := applyAll
        [.die (t.choice 4) { u.die (t.choice 4) with taskCount := id.2 },
         .task id.1 (some
          { ts := ws.getD 1 0, timed := (ws.getD 2 0).getLsbD 2, pri := (ws.getD 2 0).extractLsb' 0 2,
            pin := if (ws.getD 2 0).getLsbD 13 then boundCore u u.six ((ws.getD 2 0).toNat / 8 % 1024) else none,
            entry := ws.getD 0 0, args := [ws.getD 3 0, ws.getD 4 0, ws.getD 5 0, ws.getD 6 0], dom := u.me.dom,
            domGen := (u.dom u.me.dom).gen, gid := gid, st := st,
            parent := ((taskOf u u.me).filter (fun p => p.2.timed)).map Prod.fst, reads := [], writes := [], homes := [] })] u
      exec (.tspawn o) s = .next ((x.wrote (.s o.d.toNat) (.word (BitVec.ofNat 64 id.1)) 1).ended .c 4 o.w.toNat))
    ∧ (badTask u u.six (fun i => ws.getD i 0) = true →
      exec (.tspawn o) s = .next ((u.wrote (.s o.d.toNat) (.word 0x8000000000000002) 1).ended .c 4 o.w.toNat)))
  ∧ (∀ (o : A2) (s : State), s.ready .c →
    exec (.tstamp o) s
      = .next ((s.landed.wrote (.s o.d.toNat) (.word (stampWord s.landed (s.sreg o.a))) 1).ended .c 4 o.w.toNat))
  ∧ ∀ (o : AA) (s : State), s.ready .c →
    (s.me.spec = false ∨ s.me.taskId = none → exec (.tabort o) s = .next (s.landed.ended .c 4 o.w.toNat))
    ∧ ∀ id, s.me.spec = true → s.me.taskId = some id →
      exec (.tabort o) s
        = .next ((applyAll (abortTask (decide (s.sreg o.a = 0)) id s.landed) s.landed).endedHere .c o.w.toNat)

/-- DCSET and DCDEC complete (R295): the handle of a counter that starts at a, or QUOTA; a counter less one, freed with its tasks ready
where it reaches 0, or COUNTER where a names none. -/
def counterInstructions : Prop :=
  ∀ (o : A2) (s : State), s.ready .c → s.me.spec = false →
    (∀ gid g i, s.sreg o.a ≠ 0 → (s.sreg o.a).toNat < 2 ^ 32 → s.me.gid = some gid → s.group gid = some g →
      let t := s.landed
      (if (t.counter (t.choice 65536)).gid.isNone then some (t.choice 65536) else freeCounter t) = some i →
      (countersHeld t g.tenant < (t.tenant g.tenant).dq.toNat →
        let x := (Effect.counter i { t.counter i with count := (s.sreg o.a).toNat, gid := some gid }).apply t.chose
        exec (.dcset o) s
          = .next ((x.wrote (.s o.d.toNat) (.word (BitVec.ofNat 64 ((t.counter i).gen * 65536 + i))) 1).ended .c 4 o.w.toNat))
      ∧ ((t.tenant g.tenant).dq.toNat ≤ countersHeld t g.tenant →
        exec (.dcset o) s = .next ((t.chose.wrote (.s o.d.toNat) (.word 0x8000000000000001) 1).ended .c 4 o.w.toNat)))
    ∧ (outstanding s.landed s.six = false →
      (counterOf s.landed s.me.gid (s.sreg o.a) = none →
        exec (.dcdec o) s = .next ((s.landed.wrote (.s o.d.toNat) (.word 0x8000000000000003) 1).ended .c 4 o.w.toNat))
      ∧ ∀ i, counterOf s.landed s.me.gid (s.sreg o.a) = some i →
        let c := s.landed.counter i
        let x := applyAll (if c.count - 1 = 0 then releaseTasks i s.landed ++ [.counter i (freedCounter c)]
          else [.counter i { c with count := c.count - 1 }]) s.landed
        exec (.dcdec o) s
          = .next ((x.wrote (.s o.d.toNat) (.word (BitVec.ofNat 64 (c.count - 1))) 1).ended .c 4 o.w.toNat))

end Sys2Proof

/-- ADECL, FPUSH, FPOP and FCNT complete (R303, R305): d := 0 and the actor stored or removed, BUSY while it fires, BADDESC where its
descriptor is wrong; an entry put at the tail of an output FIFO, or FULL; the oldest entry of an input FIFO; a count. -/
def Obligations.ActorInstructions : Prop :=
  (∀ (o : A3) (s t : State) (ws : List Word) (g : Nat), s.ready .c → t.coreNo = s.coreNo → t.me.gid = some g →
    (o.a = 0 ∧ ws = [] ∧ t = s.landed
      ∨ o.a ≠ 0 ∧ (s.sreg o.a).toNat % 64 = 0 ∧ Runs (loadWords (s.sreg o.a) 16) s.landed ws t) →
    let n := (s.sreg o.b).toNat % 32
    let c := t.core s.coreNo
    ((o.a = 0 ∨ (actorOf t g ws).isSome = true) →
      ((tblGet none c.actors n).any Actor.busy = false →
        let x := (Effect.core s.coreNo
          { c with actors := tblSet none c.actors n (if o.a = 0 then none else actorOf t g ws) }).apply t
        exec (.adecl o) s = .next ((x.wrote (.s o.d.toNat) (.word 0) 1).ended .c 4 o.w.toNat))
      ∧ ((tblGet none c.actors n).any Actor.busy = true →
        exec (.adecl o) s = .next ((t.wrote (.s o.d.toNat) (.word 0x8000000000000006) 1).ended .c 4 o.w.toNat)))
    ∧ (o.a ≠ 0 ∧ actorOf t g ws = none →
      exec (.adecl o) s = .next ((t.wrote (.s o.d.toNat) (.word 0x8000000000000002) 1).ended .c 4 o.w.toNat)))
  ∧ (∀ (o : A3) (s : State), s.ready .c → s.me.spec = false → outstanding s.landed s.six = false →
    (selected s.landed (s.sreg o.a) true = none →
      exec (.fpush o) s = .next ((s.landed.wrote (.s o.d.toNat) (.word 0x8000000000000002) 1).ended .c 4 o.w.toNat))
    ∧ ∀ n i y f, selected s.landed (s.sreg o.a) true = some (n, i, y, f) →
      let len := (s.sreg o.a).toNat / 256 % 4
      o.b.toNat + len ≤ 31 →
      (f.cap ≤ f.count →
        exec (.fpush o) s = .next ((s.landed.wrote (.s o.d.toNat) (.word 0x8000000000000005) 1).ended .c 4 o.w.toNat))
      ∧ (f.count < f.cap →
        let x := applyAll
          (entryWrite s.coreNo f (withLen (y.dests.getD i 0) len) (readRun s.landed.me o.b.toNat (len + 1)) s.landed) s.landed
        let x := (setActor s.landed s.coreNo n (y.setOut i f.pushed)).apply x
        exec (.fpush o) s = .next ((x.wrote (.s o.d.toNat) (.word 0) 1).ended .c 4 o.w.toNat)))
  ∧ ∀ (o : A2) (s : State), s.ready .c → s.me.spec = false →
    (∀ n i y f, selected s.landed (s.sreg o.a) false = some (n, i, y, f) → f.count ≠ 0 →
      entryPoisoned s.landed s.coreNo f = false →
      let t := (setActor s.landed s.coreNo n (y.setIn i f.popped)).apply s.landed
      let u := applyAll (acquire s.coreNo t) t
      exec (.fpop o) s
        = .next ((u.withMe ((List.range 5).foldl
            (fun x j => x.write (.s (o.d.toNat + j)) (.word ((entryRead s.landed s.coreNo f).getD j 0))) u.me)).ended
            .c 4 o.w.toNat))
    ∧ (∀ n i y f, selected s.landed (s.sreg o.a) ((s.sreg o.a).getLsbD 7) = some (n, i, y, f) →
      exec (.fcnt o) s
        = .next ((s.landed.wrote (.s o.d.toNat) (.word (BitVec.ofNat 64 f.count)) 1).ended .c 4 o.w.toNat))
    ∧ (selected s.landed (s.sreg o.a) ((s.sreg o.a).getLsbD 7) = none →
      exec (.fcnt o) s
        = .next ((s.landed.wrote (.s o.d.toNat) (.word 0x8000000000000002) 1).ended .c 4 o.w.toNat))

/-- The task and dependence-counter instructions complete (R294 to R297). -/
def Obligations.TaskResult : Prop := taskInstructions ∧ counterInstructions

namespace Sys2Proof

/-- GCALL passes the checks of R148 for handle `h`, gate `g` and window word `w`, the strand's domain stack being `fs`, and nothing is
in flight (R149, R152). -/
structure Machine.MayCall (s : State) (h w : Word) (g : GateDesc) (fs : List Frame) (fx : List Effect) : Prop where
  plain : s.me.spec = false ∧ s.me.inCleanup = false
  slot : slotOf s.six ≠ 6 ∧ s.me.sys.vrun = false
  open_ : gateCheck s s.me.dom h = 0 ∧ gateOf s h = some g
  stack : allFrames s s.coreNo s.me = .ok (fs, fx)
  fresh : onStack s.me fs g.tdom = false
  room : s.me.sys.dsdepth < 16
  window : w = 0 ∨ badWindow s.me fs g w = false
  quiet : s.me.await = [] ∧ outstanding (applyAll fx s) (applyAll fx s).six = false

end Sys2Proof

/-- GCALL and GRET complete (R149, R151, R152): the caller's state in a new frame and the callee at its entry in its domain in user mode,
s9 to s29 and s31 zero, s30 its stack top; the caller's state back from the frame, s5 to s8 zero, GSTAT 0. GCALL through a closed gate,
and GRET at depth 0, trap GATE; GRET of a frame whose return PC is odd traps ALIGN (R42). -/
def Obligations.GateCallReturn : Prop :=
  (∀ (o : AB) (s : State), s.ready .c →
    (∀ g fs fx es, MayCall s.landed (s.sreg o.a) (s.sreg o.b) g fs fx →
      let r := applyAll fx s.landed
      let t := applyAll (acquire r.coreNo r) r
      let u := t.withMe t.me.quiet
      savedStack g u = .ok es →
      let v := applyAll es u
      let x := (Effect.dom g.tdom { v.dom g.tdom with hold := (v.dom g.tdom).hold + 1 }).apply v
      let f := newFrame u u.me g (u.pc + 4) (s.sreg o.a) (s.sreg o.b)
      exec (.gcall o) s = .next ((x.withMe (x.me.called g f v.six)).endedHere .c o.w.toNat))
    ∧ (s.me.spec = false → s.landed.me.inCleanup = false → slotOf s.six ≠ 6 → s.me.sys.vrun = false →
      gateCheck s.landed s.landed.me.dom (s.sreg o.a) ≠ 0 →
      exec (.gcall o) s = .next (onStop
        (.trap { cause := 13, sub := gateCheck s.landed s.landed.me.dom (s.sreg o.a), addr := s.sreg o.a, strm := .c }) s)))
  ∧ ∀ (o : A0) (s : State), s.ready .c → s.landed.me.inCleanup = false →
    (∀ f y fx gx, s.me.sys.dsdepth ≠ 0 → s.me.sys.vrun = false → cmdsOf s.landed s.six s.landed.me.dom = false →
      s.landed.me.await = [] → outstanding s.landed s.six = false →
      let t := applyAll (acquire s.coreNo s.landed) s.landed
      let u := t.withMe t.me.quiet
      frameRead u s.coreNo u.me u.me.sys.dsdepth = .ok (f, fx) →
      let v := applyAll fx u
      (f.ret.getLsbD 0 = true →
        exec (.gret o) s = .next (onStop (.trap { cause := 4, sub := 0, addr := f.ret, strm := .c }) s))
      ∧ (f.ret.getLsbD 0 = false → vpolOut v v.six u.me.sys.dsdepth f v.me = .ok (y, gx) →
        let w := applyAll gx v
        let z := (y.returned f).zeroS 5 4
        exec (.gret o) s
          = .next (((applyAll (releaseHold f.callee w) w).withMe { z with sys := { z.sys with gstat := 0 } }).endedHere
              .c o.w.toNat)))
    ∧ (s.me.sys.dsdepth = 0 →
      exec (.gret o) s = .next (onStop (.trap { cause := 13, sub := 9, addr := 0, strm := .c }) s))

/-- GSTAT, GPUB, GREVOKE and GQRY complete (R145, R147, R153, R157, R158): GSTAT in d; a gate closed, or a valid descriptor of a LIVE
domain in the entry b names; d := 0 once the domain is DEAD; a check's subcode, a domain's word, a frame's header. That GPUB closes the gate
wherever a reads 0, whichever register it is, is log entry 49, deduced. -/
def Obligations.GateTables : Prop :=
  (∀ (o : AD) (s : State), s.ready .c →
    exec (.gstat o) s
      = .next ((s.landed.wrote (.s o.d.toNat) (.word (s.landed.me.sys.gstat.setWidth 64)) 1).ended .c 4 o.w.toNat))
  ∧ (∀ (o : A3) (s : State), s.ready .c →
    (s.sreg o.a = 0 → ∀ g, (s.gate ((s.sreg o.b).toNat % 65536)).desc = some g →
      s.me.sys.pm = true ∨ g.tdom = s.landed.me.dom →
      let i := (s.sreg o.b).toNat % 65536
      exec (.gpub o) s
        = .next ((((Effect.gate i (s.gate i).closed).apply s.landed).wrote (.s o.d.toNat) (.word 0) 1).ended .c 4 o.w.toNat))
    ∧ ∀ ws t g, s.sreg o.a ≠ 0 → (s.sreg o.a).toNat % 64 = 0 → Runs (loadWords (s.sreg o.a) 8) s.landed ws t →
      gateDescOf ws = some g → (t.dom g.tdom).st = .live → (t.me.sys.pm = true ∨ g.tdom = t.me.dom) →
      (s.sreg o.b).toNat < 65536 → gateFree t (s.sreg o.b).toNat = true →
      let i := (s.sreg o.b).toNat
      exec (.gpub o) s
        = .next ((((Effect.gate i { t.gate i with desc := some g }).apply t.chose).wrote (.s o.d.toNat)
            (.word (BitVec.ofNat 64 ((t.gate i).gen * 65536 + i))) 1).ended .c 4 o.w.toNat))
  ∧ (∀ (o : A2) (s : State), s.ready .c →
    let k := (s.sreg o.a).toNat % 4096
    (k = 0 → exec (.grevoke o) s = .next ((s.landed.wrote (.s o.d.toNat) (.word 1) 1).ended .c 4 o.w.toNat))
    ∧ (∀ fs fx, k ≠ 0 → s.landed.me.sys.pm = true ∨ (s.dom k).owner = (s.dom s.landed.me.dom).owner →
      allFrames s.landed s.coreNo s.landed.me = .ok (fs, fx) → onStack s.landed.me fs k = false →
      (∀ y d w, s.landed.me.c.wait ≠ .revoke y d w) → (s.dom k).st = .live → (s.dom k).hold = 0 →
      exec (.grevoke o) s
        = .next (((applyAll (revoke k s.landed) (applyAll fx s.landed)).wrote (.s o.d.toNat) (.word 0) 1).ended .c 4 o.w.toNat)))
  ∧ ∀ (o : A3) (s : State), s.ready .c →
    (s.sreg o.b = 0 →
      exec (.gqry o) s
        = .next ((s.landed.wrote (.s o.d.toNat)
            (.word (BitVec.ofNat 64 (gateCheck s.landed s.landed.me.dom (s.sreg o.a)))) 1).ended .c 4 o.w.toNat))
    ∧ (s.sreg o.b = 1 →
      exec (.gqry o) s
        = .next ((s.landed.wrote (.s o.d.toNat) (.word (BitVec.ofNat 64
            (domWord ((s.sreg o.a).toNat % 4096) (s.dom ((s.sreg o.a).toNat % 4096))))) 1).ended .c 4 o.w.toNat))
    ∧ (∀ f fx, s.sreg o.b = 2 → (s.sreg o.a).toNat < s.landed.me.sys.dsdepth →
      frameRead s.landed s.coreNo s.landed.me ((s.sreg o.a).toNat + 1) = .ok (f, fx) →
      exec (.gqry o) s
        = .next (((applyAll fx s.landed).wrote (.s o.d.toNat) (.word (BitVec.ofNat 64 f.encode)) 1).ended .c 4 o.w.toNat))
    ∧ (2 < (s.sreg o.b).toNat ∨ (s.sreg o.b = 2 ∧ s.landed.me.sys.dsdepth ≤ (s.sreg o.a).toNat) →
      exec (.gqry o) s
        = .next ((s.landed.wrote (.s o.d.toNat) (.word (BitVec.allOnes 64)) 1).ended .c 4 o.w.toNat))

namespace Sys2Proof

/-- A copy of the engine passes the checks of R198 and R199 for its captured operands. -/
structure Machine.MayCopy (s : State) (src dst shape : Word) (waits : Bool) : Prop where
  legal : badShape shape = false
  aligned : src.toNat % 4 = 0 ∧ dst.toNat % 4 = 0 ∧ shLen shape % 4 = 0
  source : sideLegal s s.six (spaceOf (shSsp shape)) src (shRows shape) (shSpl shape) (shLen shape) = true
  target : sideLegal s s.six (spaceOf (shDsp shape)) dst (shRows shape) (shDpl shape) (shLen shape) = true
  room : waits = true → scoreboardFull (s.cluster (clusterOf s.coreNo)) = false

/-- The state with a command in its cluster's engine, and the registers that await it (R38, R197). -/
def Machine.State.queued (s : State) (k : Cmd) (waits : List RegId) : State :=
  let c := s.cluster (clusterOf s.coreNo)
  let t := (Effect.cluster (clusterOf s.coreNo) { c with cmds := c.cmds ++ [k] }).apply s
  t.withMe { t.me with await := t.me.await ++ waits.map (fun r => (r, k.id)) }

end Sys2Proof

/-- COPY, COPYMM and BPREF complete by entering one command whose token register awaits it (R197 to R202, R236); COPYMM with its
follow-on and that command's tile. -/
def Obligations.EngineIssue : Prop :=
  ∀ (o : X3) (s : State), s.ready .c → s.me.spec = false →
    let t := s.landed
    let src := s.sreg o.a
    let dst := t.me.readOx o.x.toNat
    let shape := t.me.readOx (o.x.toNat + 1)
    let u := Effect.fresh.apply t
    (MayCopy t src dst shape (decide (shLen shape ≠ 0)) →
      exec (.copy o) s
        = .next ((u.queued (copyCmd u t.nextId .copy o.d src dst shape) [.s o.d.toNat]).ended .c 4 o.w.toNat))
    ∧ (dst.toNat < 2 ^ 40 → scoreboardFull (s.cluster (clusterOf s.coreNo)) = false →
      exec (.bpref o) s
        = .next ((u.queued { copyCmd u t.nextId .bpref o.d src 0 0 with len := dst.toNat } [.s o.d.toNat]).ended
            .c 4 o.w.toNat))
    ∧ (let w := t.me.readOx (o.x.toNat + 2)
       MayCopy t src dst shape true → badFollow w = false → isCompute s.coreNo = true → (shDsp shape = 1 ∨ shDsp shape = 2) →
       ∃ (base : MxCmd) (c : Cmd), base.id = t.nextId ∧ base.td = fwT w
         ∧ c.kind = .copymm ∧ c.src = src ∧ c.dst = dst ∧ c.len = shLen shape
         ∧ c.follow = some (followOn base w (spaceOf (shDsp shape)) dst)
         ∧ exec (.copymm o) s = .next ((u.queued c [.s o.d.toNat, .t (fwT w)]).ended .c 4 o.w.toNat))

namespace Sys2Proof

/-- A bell instruction names a channel with a well-formed word (R205); its strand is calm (R209). -/
structure Machine.MayRing (s : State) (scope : Nat) (w : Word) (value : Bool) : Prop where
  legal : badBell s.coreNo scope w value = false
  plain : s.me.spec = false
  released : outstanding s s.six = false

/-- The state once the other live members of the pod have been sent an arrival at a pod channel: phase, COUNT, ROP, key, value and
window (R361); outside a pod, and for another scope, the state itself. -/
def Machine.State.told (s : State) (chan : Nat) (phased : Bool) (phase count : Nat) (rop : Option Nat) (v : Word) : State :=
  if isPodChan chan && s.pkg.fab.en then
    applyAll (chain (s.pkg.fab.peers.map (fun p =>
      podSend p 2 (fun n => .podArrival p n chan phased phase count rop (bellKey s) v s.pkg.fab.window))) s) s
  else s

/-- The state after an arrival at a counted channel (R206, R207, R361). -/
def Machine.State.rung (s : State) (scope : Nat) (w : Word) (rop : Option Nat) (v : Word) : State :=
  let chan := bellChan s s.six scope w
  let f := s.pkg.fab
  let t := (Effect.bell chan
    (countedJoin f (isPodChan chan) (s.bell chan) (bwCount w) rop (bellKey s) v f.window)).apply s
  t.told chan false (s.bell chan).phase (bwCount w) rop v

/-- The state after an arrived BAR or BARPH whose phase is complete (R209): an acquire, and d := the phase number. -/
def Machine.State.bellOver (s : State) (b : BellWait) : State :=
  let u := applyAll (acquire s.coreNo s) s
  (u.withMe { u.me with bell := none }).wrote (.s b.dest) (.word (BitVec.ofNat 64 b.phase)) 1

/-- What an arrived BAR or BARPH does next: it completes, or waits (R206). -/
def Machine.State.bellNext (s : State) (b : BellWait) (w : Nat) : State :=
  if bellDone s b then s.bellOver b |>.ended .c 4 w else s.withMe (s.me.setWait .c .bell)

/-- BAR, BARA, BARW and BARPH complete (R205 to R210): BARA with the phase it joined; BAR and BARPH arrive, and complete with the phase
number and an acquire once their phase is complete, waiting until then; BARW with the phase's reduction, or all ones for a phase whose
result is no longer kept. -/
def bellResult : Prop :=
  (∀ (o : BellB) (s : State), s.ready .c →
    let t := s.landed
    let w := s.sreg o.a
    let chan := bellChan t s.six o.c.toNat w
    (MayRing t o.c.toNat w true → countedBad (s.bell chan) (bwCount w) (some (bwRop w)) = false →
      exec (.bara o) s
        = .next (((t.rung o.c.toNat w (some (bwRop w)) (s.sreg o.b)).wrote (.s o.d.toNat)
            (.word (BitVec.ofNat 64 (s.bell chan).phase)) 1).ended .c 4 o.w.toNat))
    ∧ (badBell s.coreNo o.c.toNat w true = false → s.me.spec = false → (s.bell chan).kind = some false →
      let n := (s.sreg o.b).toNat % 2 ^ 32
      (∀ r, ((s.bell chan).results.take 8).find? (fun r => r.1 == n) = some r →
        released s.pkg.fab (isPodChan chan) r.2.2 = true →
        let u := applyAll (acquire s.coreNo t) t
        exec (.barw o) s = .next ((u.wrote (.s o.d.toNat) (.word r.2.1) 1).ended .c 4 o.w.toNat))
      ∧ (((s.bell chan).results.take 8).find? (fun r => r.1 == n) = none → diff32 n (s.bell chan).done ≤ 0 →
        exec (.barw o) s = .next ((t.wrote (.s o.d.toNat) (.word (BitVec.allOnes 64)) 1).ended .c 4 o.w.toNat)))
    ∧ (∀ b, t.me.bell = some b → exec (.barph o) s = .next (t.bellNext b o.w.toNat))
    ∧ (t.me.bell = none → MayRing t o.c.toNat w false →
      let n := (s.sreg o.b).toNat % 2 ^ 32
      phasedBad (s.bell chan) n (bwCount w) = false → diff32 n (frontFor n (s.bell chan)).front < 8 →
      let f := s.pkg.fab
      let u := (Effect.bell chan
        (phasedArrive f (isPodChan chan) (frontFor n (s.bell chan)) n (bwCount w) f.window)).apply t
      let u := u.told chan true n (bwCount w) none 0
      let b : BellWait := ⟨chan, n, o.d.toNat⟩
      exec (.barph o) s = .next ((u.withMe { u.me with bell := some b }).bellNext b o.w.toNat)))
  ∧ ∀ (o : Sys2Proof.Bell) (s : State), s.ready .c →
    let t := s.landed
    (∀ b, t.me.bell = some b → exec (.bar o) s = .next (t.bellNext b o.w.toNat))
    ∧ (t.me.bell = none →
      let w := s.sreg o.a
      let chan := bellChan t s.six o.c.toNat w
      MayRing t o.c.toNat w false → countedBad (s.bell chan) (bwCount w) none = false →
      let b : BellWait := ⟨chan, (s.bell chan).phase, o.d.toNat⟩
      let u := t.rung o.c.toNat w none 0
      exec (.bar o) s = .next ((u.withMe { u.me with bell := some b }).bellNext b o.w.toNat))

/-- IPDEP and IPDRAW complete (R195, R196): d := 0 and a range at the end of the pool, d := 1 where it holds 128; at most a iterations of
the oldest range of the key, or 0 where there is none. -/
def poolResult : Prop :=
  ∀ (o : A3) (s : State), s.ready .c → s.me.spec = false →
    let t := s.landed
    let c := s.cluster (clusterOf s.coreNo)
    let lo := (s.sreg o.a).toNat % 2 ^ 32
    let hi := (s.sreg o.a).toNat / 2 ^ 32
    let g := bellGroup s.landed.me
    (outstanding t s.six = false →
      (hi ≤ lo → exec (.ipdep o) s = .next ((t.wrote (.s o.d.toNat) (.word 0) 1).ended .c 4 o.w.toNat))
      ∧ (lo < hi → 128 ≤ c.pool.length →
        exec (.ipdep o) s = .next ((t.wrote (.s o.d.toNat) (.word 1) 1).ended .c 4 o.w.toNat))
      ∧ (lo < hi → c.pool.length < 128 →
        exec (.ipdep o) s
          = .next ((((Effect.cluster (clusterOf s.coreNo)
              { c with pool := c.pool ++ [⟨g, (s.sreg o.b).toNat % 65536, lo, hi⟩] }).apply t).wrote (.s o.d.toNat)
              (.word 0) 1).ended .c 4 o.w.toNat)))
    ∧ (∀ p, drawPool g ((s.sreg o.b).toNat % 65536) lo c.pool = (none, p) →
      exec (.ipdraw o) s = .next ((t.wrote (.s o.d.toNat) (.word 0) 1).ended .c 4 o.w.toNat))
    ∧ (∀ l h p, drawPool g ((s.sreg o.b).toNat % 65536) lo c.pool = (some (l, h), p) →
      let u := (Effect.cluster (clusterOf s.coreNo) { c with pool := p }).apply t
      let u := applyAll (acquire s.coreNo u) u
      exec (.ipdraw o) s
        = .next ((u.wrote (.s o.d.toNat) (.word (BitVec.ofNat 64 (h * 2 ^ 32 + l))) 1).ended .c 4 o.w.toNat))

end Sys2Proof

/-- QPUSH, QPOP, FSET, FWAIT, BQPUSH, VSTART, VEND, VBR, VLOOP and VJMP complete (R14, R19 to R22, R139 to R141); in the V-stream
a register field of 16 to 31 makes QPUSH and QPOP ILLEGAL (R49). -/
def Obligations.CouplingResult : Prop :=
  (∀ (o : AA) (s : State),
    let x := s.landed.me
    (s.ready .c →
      (x.q.c2v.length < 16 →
        exec (.qpush o) s
          = .next ((s.landed.withMe { x with q := { x.q with c2v := x.q.c2v ++ [s.sreg o.a] } }).ended .c 4 o.w.toNat))
      ∧ (x.q.bq.length < 16 →
        exec (.bqpush o) s
          = .next ((s.landed.withMe { x with q := { x.q with bq := x.q.bq ++ [s.sreg o.a != 0] } }).ended .c 4 o.w.toNat)))
    ∧ (s.ready .v → o.a.toNat < 16 → x.region = none → x.q.v2c.length < 16 →
      exec (.qpush o) s
        = .next ((s.landed.withMe { x with q := { x.q with v2c := x.q.v2c ++ [s.kreg o.a.toNat] } }).ended .v 4 o.w.toNat))
    ∧ (s.ready .v → 16 ≤ o.a.toNat →
      exec (.qpush o) s
        = .next (onStop (.trap { cause := 1, sub := 0, addr := BitVec.ofNat 64 (encode (.qpush o)), strm := .v }) s))
    ∧ ∀ st, s.ready st → (st = .v → x.region = none) →
      exec (.fset o) s
        = .next ((s.landed.withMe { x with q := { x.q with flags := x.q.flags ||| (1#8 <<< o.a.toNat) } }).ended st 4 o.w.toNat)
      ∧ (x.q.flags.getLsbD o.a.toNat = true → (∀ k t, x.waitOf (other st) ≠ .flag k t) →
        exec (.fwait o) s
          = .next ((s.landed.withMe { x with q := { x.q with flags := x.q.flags &&& ~~~(1#8 <<< o.a.toNat) } }).ended
              st 4 o.w.toNat)))
  ∧ (∀ (o : AD) (s : State) (w : Word) (r : List Word),
    let x := s.landed.me
    (s.ready .c → x.q.v2c = w :: r →
      exec (.qpop o) s
        = .next (((s.landed.withMe { x with q := { x.q with v2c := r } }).wrote (.s o.d.toNat) (.word w) 1).ended .c 4 o.w.toNat))
    ∧ (s.ready .v → o.d.toNat < 16 → x.q.c2v = w :: r →
      exec (.qpop o) s
        = .next (((s.landed.withMe { x with q := { x.q with c2v := r } }).wrote (.k o.d.toNat) (.word w) 1).ended
            .v 4 o.w.toNat))
    ∧ (s.ready .v → 16 ≤ o.d.toNat →
      exec (.qpop o) s
        = .next (onStop (.trap { cause := 1, sub := 0, addr := BitVec.ofNat 64 (encode (.qpop o)), strm := .v }) s)))
  ∧ (∀ (o : A0) (s : State), s.ready .v → matrixBusy s.landed s.six = false →
    exec (.vend o) s
      = .next ((s.landed.withMe { s.landed.me.landAllV with
          region := none, sys := { s.landed.me.landAllV.sys with vrun := false } }).ended .v 4 o.w.toNat))
  ∧ (∀ (o : J0) (s : State), s.ready .c → s.me.sys.vrun = false →
    exec (.vstart o) s
      = .next ((s.landed.withMe { s.landed.me with
          sys := { s.landed.me.sys with vrun := true },
          v := { s.landed.me.v with pc := s.pc + 2 * o.disp.signExtend 64, wait := .none } }).ended .c 4 0))
  ∧ (∀ (o : B0) (s : State) (b : Bool) (r : List Bool), s.ready .v → s.landed.me.q.bq = b :: r → s.pc.getLsbD 0 = false →
    let t := s.landed.withMe { s.landed.me with q := { s.landed.me.q with bq := r } }
    exec (.vbr o) s = .next (if b then t.endedAt .v (s.pc + 2 * o.disp.signExtend 64) 0 else t.ended .v 4 0))
  ∧ (∀ (o : B1) (s : State) (b : Bool) (r : List Bool), s.ready .v → s.landed.me.q.bq = b :: r → s.pc.getLsbD 0 = false →
    let t := s.landed.withMe { s.landed.me with q := { s.landed.me.q with bq := r } }
    exec (.vloop o) s
      = .next (if b then (t.wrote (.k o.a.toNat) (.word (s.kreg o.a.toNat + 1)) 1).endedAt .v
          (s.pc + 2 * o.disp.signExtend 64) 0 else t.ended .v 4 0))
  ∧ ∀ (o : Jmp) (s : State), s.ready .v → s.pc.getLsbD 0 = false →
    exec (.vjmp o) s
      = .next ((s.landed.wrote (.k o.link.toNat) (.word (s.pc + 4)) 1).endedAt .v (s.pc + 2 * o.disp.signExtend 64) 0)

/-- The Tutor instructions complete (R308, R313 to R316, R322 to R325): APXQRY with the item, APXINV with the slot off, APXCFG's mode
change; APXCALL where no slot answers it and where a slot serves it, APXRET with and without an open record. -/
def Obligations.TutorResult : Prop :=
  (∀ (o : A2) (s : State), s.ready .c →
    let t := s.landed
    let a := s.sreg o.a
    let c := s.cluster (clusterOf s.coreNo)
    let y := tblGet .off c.tutor (a.toNat % 16)
    (tutorHere s = false →
      exec (.apxqry o) s = .next ((t.wrote (.s o.d.toNat) (.word 0x8000000000000001) 1).ended .c 4 o.w.toNat))
    ∧ (tutorHere s = true → a.toNat / 16 ≤ 5 → y.conf = false ∨ ownsSlot t y = true ∨ t.me.sys.pm = true ∨ a.toNat / 16 = 5 →
      exec (.apxqry o) s
        = .next ((t.wrote (.s o.d.toNat) (.word (tutorItem c (a.toNat % 16) (a.toNat / 16))) 1).ended .c 4 o.w.toNat))
    ∧ (tutorHere s = true → s.me.spec = false → acqPending t s.six = false → a.toNat < 16 → y.conf = true → ownsSlot t y = true ∨ t.me.sys.pm = true →
      let x := (Effect.cluster (clusterOf s.coreNo)
        { c with tutor := tblSet .off c.tutor (a.toNat % 16) y.invalidated }).apply t
      exec (.apxinv o) s = .next ((x.wrote (.s o.d.toNat) (.word 0) 1).ended .c 4 o.w.toNat)))
  ∧ (∀ (o : X3) (s : State), s.ready .c → s.me.spec = false →
    let t := s.landed
    let w := t.me.readOx o.x.toNat
    let c := s.cluster (clusterOf s.coreNo)
    let y := tblGet .off c.tutor (w.toNat % 16)
    (tutorHere s = true → acqPending t s.six = false → w.toNat < 256 → w.toNat / 64 % 4 = 1 → y.conf = true → ownsSlot t y = true ∨ t.me.sys.pm = true →
      let m := w.extractLsb' 4 2
      let z : TutorSlot := { y with
        mode := m, impure := false, diverged := false, samples := if m = 2 ∧ y.mode ≠ 2 then [] else y.samples,
        sinceTrain := if m = 2 ∧ y.mode ≠ 2 then 0 else y.sinceTrain }
      let x := (Effect.cluster (clusterOf s.coreNo) { c with tutor := tblSet .off c.tutor (w.toNat % 16) z }).apply t
      exec (.apxcfg o) s = .next ((x.wrote (.s o.d.toNat) (.word 0) 1).ended .c 4 o.w.toNat))
    ∧ (tutorHere s = true → s.me.got = [] → 256 ≤ w.toNat ∨ w.toNat / 64 % 4 = 3 →
      exec (.apxcfg o) s = .next ((t.wrote (.s o.d.toNat) (.word 0x8000000000000002) 1).ended .c 4 o.w.toNat))
    ∧ (tutorHere s = false → s.me.got = [] →
      exec (.apxcfg o) s = .next ((t.wrote (.s o.d.toNat) (.word 0x8000000000000001) 1).ended .c 4 o.w.toNat)))
  ∧ (∀ (o : X3) (s : State), s.ready .v → (s.vreg o.a).t = 2 →
    let t := s.landed.withMe { s.landed.me with region := none }
    let cl := clusterOf s.coreNo
    let u := (Effect.cluster cl (arriveOwn s.six (t.cluster cl))).apply t
    let w := s.kreg (8 + o.x.toNat)
    let y := tblGet .off (u.cluster cl).tutor w.toNat
    (tutorHere s = false → exec (.apxcall o) s = .next (t.ended .v 4 o.w.toNat))
    ∧ (tutorHere s = true →
      (16 ≤ w.toNat ∨ y.conf = false ∨ y.mode = 0 ∨ ownsSlot u y = false ∨ y.start ≠ s.pc ∨ s.me.spec = true →
        exec (.apxcall o) s = .next (u.ended .v 4 o.w.toNat))
      ∧ (w.toNat < 16 → y.conf = true → y.mode = 3 → ownsSlot u y = true → y.start = s.pc → s.me.spec = false →
        let z := { y with calls := y.calls + 1 }
        let r := z.infer (lanes (s.vreg o.a) (tdIn y.word2))
        z.calls % 2 ^ tdSrate y.word2 ≠ 0 → r.all finite32 = true →
        let c := u.cluster cl
        let x := (Effect.cluster cl
          { c with tutor := tblSet .off c.tutor w.toNat { z with served := z.served + 1 } }).apply u
        exec (.apxcall o) s
          = .next ((x.wrote (.v o.d.toNat) (.vec (vreg (packLanes r) 0 2)) 1).endedAt .v (y.stop + 4) o.w.toNat))))
  ∧ ∀ (o : X2) (s : State), s.ready .v →
    (s.landed.me.region = none → exec (.apxret o) s = .next (s.landed.ended .v 4 o.w.toNat))
    ∧ ∀ r, s.landed.me.region = some r →
      let c := s.cluster r.cluster
      let y := tblGet .off c.tutor r.slot
      let v := s.vreg o.d
      (s.kreg (8 + o.x.toNat)).toNat = r.slot → y.stop = s.pc → v.t = 2 → y.conf = true → y.gen = r.gen →
      let t := s.landed.withMe { s.landed.me with region := none }
      let x := (Effect.cluster r.cluster { c with samples := c.samples ++
        [{ six := s.six, slot := r.slot, gen := r.gen, inputs := r.inputs, results := lanes v (tdOut y.word2) }] }).apply t
      exec (.apxret o) s = .next (x.ended .v 4 o.w.toNat)

/-- The bell and iteration-pool instructions complete (R195, R196, R205 to R210). Three points are the model's: the front of BARPH where it
passes phases without arrivals (log entry 32, deduced), and whose channel a strand of no group or of a chiplet core uses (log entries 28
and 63). -/
def Obligations.BellResult : Prop := bellResult ∧ poolResult

namespace Sys2Proof

/-- The state after a vector operation: its conditions accumulated, its register written after a latency (R30, R113, R114). -/
def Machine.State.gave (s : State) (cs : List (Nat × BitVec 6)) (d : BitVec 5) (v : VReg) (lat : Nat) : State :=
  (s.withMe (s.me.raise (allFlags cs))).wrote (.v d.toNat) (.vec v) lat

/-- An element-wise result (R113): the active elements new and the others the old ones, side field 0. -/
def Machine.State.elems (s : State) (d : BitVec 5) (m : BitVec 3) (src t : Nat) (rs : List (Nat × Nat × BitVec 6)) : VReg :=
  Sys2Proof.Machine.vreg (mergeElems src (s.mreg m) (s.vreg d).data.toNat rs) 0 t

/-- A float form completes with the element results `f`, where no condition it raises is enabled; with an enabled one it traps FPE at
the lowest element that raised one (R114). -/
def Machine.State.FloatForm (s : State) (i : Instr) (w : BitVec 3) (d : BitVec 5) (m : BitVec 3) (t lat : Nat)
    (f : Nat → Nat × BitVec 6) : Prop :=
  let rs := overElems t (s.mreg m) f
  (fpeIndex s.me.sys.fenable (condsOf rs) = none →
    exec i s = .next ((s.landed.gave (condsOf rs) d (s.elems d m t t rs) lat).ended .v 4 w.toNat))
  ∧ ∀ n, fpeIndex s.me.sys.fenable (condsOf rs) = some n →
    exec i s = .next (onStop (.trap { cause := 11, sub := 0, addr := BitVec.ofNat 64 n, strm := .v }) s)

/-- A form that its operand tags do not allow traps FORMAT (R15, R113). -/
def Machine.State.BadFormat (s : State) (i : Instr) : Prop :=
  exec i s = .next (onStop (.trap { cause := 10, sub := 0, addr := BitVec.ofNat 64 (encode i), strm := .v }) s)

/-- The three-operand float forms (R118): whether vd is an operand, the latency by tag, the result. -/
noncomputable def float3s : List ((VR3 → Instr) × Bool × (Nat → Nat) × (Fmt → Rnd → Val → Val → Val → Nat × BitVec 6)) :=
  [(.vadd, false, fun t => if t = 1 then 6 else 4, fun f r a b _ => fAdd f r a b),
   (.vsub, false, fun t => if t = 1 then 6 else 4, fun f r a b _ => fAdd f r a b.negate),
   (.vmul, false, fun t => if t = 1 then 6 else 4, fun f r a b _ => fMul f r a b),
   (.vfma, true, fun t => if t = 1 then 6 else 4, fFma),
   (.vfms, true, fun t => if t = 1 then 6 else 4, fun f r a b d => fFma f r a b d.negate),
   (.vfnma, true, fun t => if t = 1 then 6 else 4, fun f r a b d => fFma f r a.negate b d),
   (.vdiv, false, fun _ => 1, fun f r a b _ => fDiv f r a b)]

/-- The one-operand float forms (R118, R120, R121): the tags they take, the latency, the result. -/
noncomputable def float2s : List ((VR2 → Instr) × (Nat → Bool) × Nat × (Fmt → Rnd → Val → Nat × BitVec 6)) :=
  [(.vsqrt, isArith, 1, fSqrt), (.vrcp, isArith, 6, fun f r a => fDiv f r (.fin (Dy.ofInt 1)) a), (.vrsq, isArith, 6, fRsq),
   (.vexp2, fun t => t == 2, 8, fun _ r a => fExp2 r a), (.vlog2, fun t => t == 2, 8, fun _ r a => fLog2 r a)]

end Sys2Proof

/-- The float forms complete, or trap FORMAT or FPE (R113, R114, R118 to R121): every active element rounded once in the direction that
the major gives (R54), the others unchanged. -/
def Obligations.FloatVectors : Prop :=
  (∀ e ∈ float3s, ∀ (o : VR3) (s : State), s.ready .v →
    let t := (s.vreg o.a).t
    let g := fmtOf t
    let x := fun (n : BitVec 5) (j : Nat) => g.read (elemAt t (s.vreg n).data.toNat j)
    (isArith t = true → (s.vreg o.b).t = t → (e.2.1 = true → (s.vreg o.d).t = t) →
      s.FloatForm (e.1 o) o.w o.d o.m t (e.2.2.1 t)
        (fun j => e.2.2.2 g (majorRnd o.r.toNat s.me.sys.rmode) (x o.a j) (x o.b j) (x o.d j)))
    ∧ (isArith t = false ∨ (s.vreg o.b).t ≠ t ∨ (e.2.1 = true ∧ (s.vreg o.d).t ≠ t) → s.BadFormat (e.1 o)))
  ∧ (∀ e ∈ float2s, ∀ (o : VR2) (s : State), s.ready .v →
    let t := (s.vreg o.a).t
    let g := fmtOf t
    (e.2.1 t = true → s.FloatForm (e.1 o) o.w o.d o.m t e.2.2.1
      (fun j => e.2.2.2 g (majorRnd o.r.toNat s.me.sys.rmode) (g.read (elemAt t (s.vreg o.a).data.toNat j))))
    ∧ (e.2.1 t = false → s.BadFormat (e.1 o)))
  ∧ ∀ mx : Bool, ∀ (o : V3) (s : State), s.ready .v →
    let t := (s.vreg o.a).t
    let i : Instr := if mx then .vmax o else .vmin o
    (isArith t = true → (s.vreg o.b).t = t → s.FloatForm i o.w o.d o.m t (if t = 1 then 6 else 4)
      (fun j => fMinMax (fmtOf t) mx (elemAt t (s.vreg o.a).data.toNat j) (elemAt t (s.vreg o.b).data.toNat j)))
    ∧ (isArith t = false ∨ (s.vreg o.b).t ≠ t → s.BadFormat i)

namespace Sys2Proof

/-- The integer forms of R122: the latency and the element's result from the tag and two elements. -/
noncomputable def int3s : List ((V3 → Instr) × Nat × (Nat → Nat → Nat → Nat)) :=
  [(.viadd, 2, fun t x y => encInt t (readInt t x + readInt t y)),
   (.visub, 2, fun t x y => encInt t (readInt t x - readInt t y)),
   (.vimul, 4, fun t x y => encInt t (readInt t x * readInt t y)),
   (.vimulh, 4, fun t x y => encInt t (readInt t x * readInt t y / (2 ^ tagBits t : Nat))),
   (.vshl, 2, fun t x y => x * 2 ^ (y % tagBits t) % 2 ^ tagBits t),
   (.vshr, 2, fun t x y => x / 2 ^ (y % tagBits t)),
   (.vshra, 2, fun t x y => wrapInt (tagBits t) (signedOf (tagBits t) x / (2 ^ (y % tagBits t) : Nat))),
   (.vimin, 2, fun t x y => if signedOf (tagBits t) y < signedOf (tagBits t) x then y else x),
   (.vimax, 2, fun t x y => if signedOf (tagBits t) x < signedOf (tagBits t) y then y else x),
   (.viminn, 2, fun _ x y => min x y), (.vimaxn, 2, fun _ x y => max x y),
   (.vsadd, 2, fun t x y => satInt t (readInt t x + readInt t y)),
   (.vssub, 2, fun t x y => satInt t (readInt t x - readInt t y))]

/-- The bitwise forms of R122. -/
noncomputable def bits3s : List ((V3 → Instr) × (Nat → Nat → Nat)) :=
  [(.vand, fun x y => x &&& y), (.vor, fun x y => x ||| y), (.vxor, fun x y => x ^^^ y)]

/-- The integer and bitwise forms and VABSD complete, or trap FORMAT (R122, R123). -/
def integerVectors : Prop :=
  ∀ (o : V3) (s : State), s.ready .v →
    let a := s.vreg o.a
    let b := s.vreg o.b
    let t := a.t
    (∀ e ∈ int3s,
      (isIntTag t = true → b.t = t →
        let rs := overElems t (s.mreg o.m) (fun j => (e.2.2 t (elemAt t a.data.toNat j) (elemAt t b.data.toNat j), 0))
        exec (e.1 o) s = .next ((s.landed.wrote (.v o.d.toNat) (.vec (s.elems o.d o.m t t rs)) e.2.1).ended .v 4 o.w.toNat))
      ∧ (isIntTag t = false ∨ b.t ≠ t → s.BadFormat (e.1 o)))
    ∧ (∀ e ∈ bits3s,
      (isBlock t = false → b.t = t →
        let r := packLanes ((List.range 32).map (fun i => e.2 (laneOf a.data.toNat i) (laneOf b.data.toNat i)))
        exec (e.1 o) s
          = .next ((s.landed.wrote (.v o.d.toNat)
              (.vec (vreg (mergeLanes t (s.mreg o.m) (s.vreg o.d).data.toNat r) 0 t)) 2).ended .v 4 o.w.toNat))
      ∧ (isBlock t = true ∨ b.t ≠ t → s.BadFormat (e.1 o)))
    ∧ (isIntTag t = true → b.t = t →
      let rs := overElems t (s.mreg o.m) (fun j => (absDiff t (elemAt t a.data.toNat j) (elemAt t b.data.toNat j), 0))
      exec (.vabsd o) s
        = .next ((s.landed.wrote (.v o.d.toNat) (.vec (s.elems o.d o.m t (if tagBits t = 8 then 11 else t) rs)) 2).ended
            .v 4 o.w.toNat))

/-- The compares by condition code (R124). -/
noncomputable def compares : List ((V3 → Instr) × Nat) :=
  [(.vcmpEq, 0), (.vcmpNe, 1), (.vcmpLt, 2), (.vcmpLe, 3), (.vcmpLtn, 4), (.vcmpLen, 5)]

/-- VCMP completes, or traps FORMAT or FPE (R114, R124): the bit of each active element is its relation, the others unchanged. -/
def vectorCompares : Prop :=
  ∀ e ∈ compares, ∀ (o : V3) (s : State), s.ready .v →
    let a := s.vreg o.a
    let b := s.vreg o.b
    let t := a.t
    let rel := fun (j : Nat) => relOf e.2 t (elemAt t a.data.toNat j) (elemAt t b.data.toNat j)
    let cs := condsOf (overElems t (s.mreg o.m) (fun j => (0, (rel j).2)))
    let legal := b.t = t ∧ (t = 22 ∨ t = 23 ∨ ((t = 1 ∨ t = 2) ∧ e.2 < 4))
    (legal → fpeIndex s.me.sys.fenable cs = none →
      exec (e.1 o) s
        = .next (((s.landed.withMe (s.landed.me.raise (allFlags cs))).wrote (.m o.d.toNat)
            (.mask (cmpMask t (s.mreg o.m) (s.landed.me.readM o.d.toNat) (fun j => (rel j).1))) 2).ended .v 4 o.w.toNat))
    ∧ (∀ n, legal → fpeIndex s.me.sys.fenable cs = some n →
      exec (e.1 o) s = .next (onStop (.trap { cause := 11, sub := 0, addr := BitVec.ofNat 64 n, strm := .v }) s))
    ∧ (¬legal → s.BadFormat (e.1 o))

end Sys2Proof

/-- The integer, bitwise and compare vector instructions complete, or trap FORMAT or FPE (R114, R122 to R124). -/
def Obligations.IntegerVectors : Prop := integerVectors ∧ vectorCompares

namespace Sys2Proof

/-- The lane permutes (R115): the source lane of each lane, none for a zero. -/
noncomputable def permutes : List ((V3 → Instr) × (VReg → Nat → Option Nat)) :=
  [(.vshuf, fun b i => some (laneOf b.data.toNat i % 32)),
   (.vrot, fun b i => some ((i + laneOf b.data.toNat 0 % 32) % 32)),
   (.vext, fun b i =>
     let j : Int := (i : Int) + signedOf 6 (laneOf b.data.toNat 0)
     if 0 ≤ j ∧ j < 32 then some j.toNat else none)]

/-- A v register written after a latency. -/
def Machine.State.put (s : State) (d : BitVec 5) (v : VReg) (lat : Nat) : State := s.wrote (.v d.toNat) (.vec v) lat

/-- Whole lanes merged under the mask of a tag (R113). -/
def Machine.State.lanes (s : State) (d : BitVec 5) (m : BitVec 3) (t : Nat) (f : Nat → Nat) : Nat :=
  mergeLanes t (s.mreg m) (s.vreg d).data.toNat (packLanes ((List.range 32).map f))

end Sys2Proof

/-- VCVT, VPACK, VUNPK and VSCALE complete (R126 to R130), with the generators advanced as R72 says. -/
def Obligations.VectorConversions : Prop :=
  (∀ (o : Cvt) (s : State), s.ready .v →
    let a := s.vreg o.a
    let t := o.t.toNat
    let r := convertReg a t (cvtMode o.r.toNat s.me.sys.rmode) (o.nan = 1) s.landed.me.v.gen
    let rs := overElems t (s.mreg o.m) (fun j => (r.1.getD j 0, r.2.2.1.getD j 0))
    (a.t ≠ 0 → (isBlock t = true → tagCount a.t % 32 = 0) → fpeIndex s.me.sys.fenable (condsOf rs) = none →
      let x := s.landed.me.raise (allFlags (condsOf rs))
      exec (.vcvt o) s
        = .next (((s.landed.withMe { x with v := { x.v with gen := r.2.2.2 } }).put o.d
            (vreg (mergeElems t (s.mreg o.m) (s.vreg o.d).data.toNat rs) (cleanSide t r.2.1) t) 4).ended .v 4 o.w.toNat))
    ∧ (a.t = 0 ∨ (isBlock t = true ∧ tagCount a.t % 32 ≠ 0) → s.BadFormat (.vcvt o)))
  ∧ (∀ (o : Pack) (s : State), s.ready .v →
    let a := s.vreg o.a
    let d := s.vreg o.d
    let t := o.t.toNat
    let ns := tagCount a.t
    let r := convert a t 0 ns (cvtMode o.r.toNat s.me.sys.rmode) (o.nan = 1) s.landed.me.v.gen
    let cs := r.2.2.1.zipIdx.map (fun p => (p.2, p.1))
    a.t ≠ 0 → ns ≤ tagCount t → (d.t = t ∨ d.t = 0) → (isBlock t = true → ns % 32 = 0) →
    fpeIndex s.me.sys.fenable cs = none →
      let x := s.landed.me.raise (allFlags cs)
      let side := sideOf r.2.1 ||| (d.side <<< (8 * (ns / 32)))
      exec (.vpack o) s
        = .next (((s.landed.withMe { x with v := { x.v with gen := r.2.2.2 } }).put o.d
            (vreg (packElems t (packed t ns r.1 d.data.toNat)) (if isBlock t then cleanSide t side else 0) t) 4).ended
            .v 4 o.w.toNat))
  ∧ (∀ (o : Unpk) (s : State), s.ready .v →
    let a := s.vreg o.a
    let t := o.t.toNat
    let first := o.p.toNat * tagCount t
    let r := convert a t first (min (tagCount t) (tagCount a.t - first))
      (if s.me.sys.rmode = 4 then 0 else s.me.sys.rmode.toNat) false []
    let cs := r.2.2.1.zipIdx.map (fun p => (p.2, p.1))
    (a.t ≠ 0 → isNarrowing a.t t = false → fpeIndex s.me.sys.fenable cs = none →
      exec (.vunpk o) s = .next ((s.landed.gave cs o.d (vreg (packElems t r.1) 0 t) 4).ended .v 4 o.w.toNat))
    ∧ (a.t = 0 ∨ isNarrowing a.t t = true → s.BadFormat (.vunpk o)))
  ∧ ∀ (o : Scale) (s : State), s.ready .v →
    let a := s.vreg o.a
    let n := fun (i : Nat) => signedOf 32 (laneOf (s.vreg o.b).data.toNat i)
    (s.vreg o.b).t = 22 →
    (isBlock a.t = true → o.m = 0 →
      let rs := (List.range (tagCount a.t / 32)).map (fun j => scaleByte a.t (a.side.toNat / 2 ^ (8 * j) % 256) (n j))
      let cs := rs.zipIdx.map (fun p => (32 * p.2, p.1.2))
      fpeIndex s.me.sys.fenable cs = none →
      exec (.vscale o) s
        = .next ((s.landed.gave cs o.d (vreg (cleanData a.t a.data.toNat) (sideOf (rs.map Prod.fst)) a.t) 4).ended .v 4 o.w.toNat))
    ∧ (isArith a.t = true → isBlock a.t = false →
      let r := rndOf (BitVec.ofNat 3 (cvtMode o.r.toNat s.me.sys.rmode))
      s.FloatForm (.vscale o) o.w o.d o.m a.t 4
        (fun j => scaleFloat (fmtOf a.t) r ((fmtOf a.t).read (elemAt a.t a.data.toNat j)) (n (elemLane a.t j))))

namespace Sys2Proof

/-- The reductions and the scans (R131, R133). -/
noncomputable def reductions : List ((V2 → Instr) × RedOp) :=
  [(.vredAdd, .add), (.vredMin, .min), (.vredMax, .max), (.vredMinn, .minn), (.vredMaxn, .maxn), (.vredAnd, .and),
   (.vredOr, .or), (.vredXor, .xor)]
noncomputable def scans : List ((V2 → Instr) × RedOp) := [(.vscanAdd, .add), (.vscanMin, .min), (.vscanMax, .max)]

end Sys2Proof

/-- VRED, VDOT and VSCAN complete (R131 to R133): the tree's result in k after six instructions, the scan's elements after eight; a tag
that an operation does not take traps FORMAT. -/
def Obligations.VectorReductions : Prop :=
  (∀ e ∈ reductions, ∀ (o : V2) (s : State), s.ready .v →
    let a := s.vreg o.a
    let r := reduce e.2 a (s.mreg o.m)
    (redOk e.2 a.t = true → fpeIndex s.me.sys.fenable r.2 = none →
      exec (e.1 o) s
        = .next (((s.landed.withMe (s.landed.me.raise (allFlags r.2))).wrote (.k o.d.toNat)
            (.word (widenRed e.2 a.t r.1)) 6).ended .v 4 o.w.toNat))
    ∧ (redOk e.2 a.t = false → s.BadFormat (e.1 o)))
  ∧ (∀ e ∈ scans, ∀ (o : V2) (s : State), s.ready .v →
    let a := s.vreg o.a
    let rs := scan e.2 a.t (s.mreg o.m) ((elemsOf a).zipIdx.map (fun p => (p.2, p.1))) (e.2.identity a.t)
    (redOk e.2 a.t = true → fpeIndex s.me.sys.fenable (condsOf rs) = none →
      exec (e.1 o) s = .next ((s.landed.gave (condsOf rs) o.d (s.elems o.d o.m a.t a.t rs) 8).ended .v 4 o.w.toNat))
    ∧ (redOk e.2 a.t = false → s.BadFormat (e.1 o)))
  ∧ ∀ (o : V3) (s : State), s.ready .v →
    let a := s.vreg o.a
    let b := s.vreg o.b
    (a.t = 22 → b.t = 22 →
      exec (.vdot o) s
        = .next ((s.landed.wrote (.k o.d.toNat) (.word (widenRed .add 22 (dotInt a b (s.mreg o.m)))) 6).ended .v 4 o.w.toNat))
    ∧ (let r := dotFloat a.t a b (s.mreg o.m)
       isArith a.t = true → b.t = a.t → fpeIndex s.me.sys.fenable r.2 = none →
       exec (.vdot o) s
         = .next (((s.landed.withMe (s.landed.me.raise (allFlags r.2))).wrote (.k o.d.toNat)
             (.word (BitVec.ofNat 64 r.1)) 6).ended .v 4 o.w.toNat))

namespace Sys2Proof

/-- The words of space L that a lane-slice access names, and the address of one (R137). -/
def Machine.State.sliceLanes (s : State) (t : Nat) (m : BitVec 3) : List Nat := (List.range 32).filter (laneOn t (s.mreg m))

end Sys2Proof

/-- The vector loads and stores complete (R134 to R138): VLD and VST move the words of the active lanes and the side field at an address
aligned to 8, VGATH and VSCAT the active lanes' words at indexed addresses, VLDL and VSTL one word of each lane slice (BOUND where
the address lies outside it, whatever the mask), VREST and VSAVE a whole image of 144 bytes at an address aligned to 16. Two points are the
model's: a store of 64-bit tags moves a lane pair by mask bit 2i alone (log entry 53, deduced), and VREST takes the image's bits as they
are (log entry 67). -/
def Obligations.VectorMemory : Prop :=
  (∀ (o : VLoad) (s t : State) (vals : List Nat), s.ready .v → (s.kreg o.a.toNat).toNat % 8 = 0 →
    let idx := vecWords o.t.toNat (s.mreg o.m)
    Runs (wideLoad (spaceOf o.s.toNat) 4 (idx.map (vecAddr (s.kreg o.a.toNat)))) s.landed vals t →
    let ws := idx.zip vals
    let side := BitVec.ofNat 64 (wordIn ws 32 + 2 ^ 32 * wordIn ws 33)
    exec (.vld o) s
      = .next ((t.put o.d (vreg (withWords o.t.toNat (t.me.readV o.d.toNat).data.toNat ws)
          (if isBlock o.t.toNat then cleanSide o.t.toNat side else 0) o.t.toNat) 1).ended .v 4 o.w.toNat))
  ∧ (∀ (o : VStore) (s t : State), s.ready .v → (s.kreg o.a.toNat).toNat % 8 = 0 →
    let v := s.vreg o.d
    Runs (wideStore (spaceOf o.s.toNat) 4 ((vecWords v.t (s.mreg o.m)).map (fun i =>
      (vecAddr (s.kreg o.a.toNat) i, if i < 32 then cleanLane v.t (vecWord v i) else vecWord v i)))) s.landed () t →
    exec (.vst o) s = .next (t.ended .v 4 o.w.toNat))
  ∧ (∀ (o : VIdx) (s : State), s.ready .v →
    let base := s.kreg o.a.toNat
    let b := s.vreg o.b
    (∀ (t : State) (vals : List Nat), b.t = 22 → base.toNat % 4 = 0 →
      let idx := vecWords 0 (s.mreg o.m)
      Runs (wideLoad (spaceOf o.s.toNat) 4 (idx.map (indexAddr base b))) s.landed vals t →
      exec (.vgath o) s
        = .next ((t.put o.d (vreg (withWords 0 (t.me.readV o.d.toNat).data.toNat (idx.zip vals)) 0 0) 1).ended
            .v 4 o.w.toNat))
    ∧ (∀ t : State, b.t = 22 → base.toNat % 4 = 0 →
      Runs (wideStore (spaceOf o.s.toNat) 4 (((List.range 32).filter (laneOn (s.vreg o.d).t (s.mreg o.m))).map (fun i =>
        (indexAddr base b i, cleanLane (s.vreg o.d).t (vecWord (s.vreg o.d) i))))) s.landed () t →
      exec (.vscat o) s = .next (t.ended .v 4 o.w.toNat))
    ∧ (b.t ≠ 22 → s.BadFormat (.vgath o) ∧ s.BadFormat (.vscat o)))
  ∧ (∀ (o : VT) (s : State), s.ready .v →
    let ea := (s.kreg o.a.toNat).toNat
    let ls := s.sliceLanes o.t.toNat o.m
    (ea % 4 = 0 → 2048 ≤ ea →
      exec (.vldl o) s = .next (onStop (.trap { cause := 6, sub := 1, addr := s.kreg o.a.toNat, strm := .v }) s))
    ∧ (ea % 4 = 0 → ea < 2048 → ls.any (fun i => poisoned s.landed poisonL (sliceAddr s.coreNo i ea) 4) = false →
    exec (.vldl o) s
      = .next ((s.landed.put o.d (vreg (withWords o.t.toNat (s.vreg o.d).data.toNat
          (ls.map (fun i => (i, memRead s.lmem (sliceAddr s.coreNo i ea) 4)))) 0 o.t.toNat) 1).ended .v 4 o.w.toNat)))
  ∧ (∀ (o : V2) (s : State), s.ready .v →
    let ea := (s.kreg o.a.toNat).toNat
    let v := s.vreg o.d
    let ls := s.sliceLanes v.t o.m
    (ea % 4 = 0 → 2048 ≤ ea →
      exec (.vstl o) s = .next (onStop (.trap { cause := 6, sub := 1, addr := s.kreg o.a.toNat, strm := .v }) s))
    ∧ (s.me.region = none → ea % 4 = 0 → ea < 2048 →
    exec (.vstl o) s
      = .next ((applyAll (ls.flatMap (fun i =>
          Effect.lmem (sliceAddr s.coreNo i ea) 4 (cleanLane v.t (vecWord v i)) :: unpoison s.landed poisonL (sliceAddr s.coreNo i ea) 4))
          s.landed).ended .v 4 o.w.toNat)))
  ∧ ∀ (o : VSv) (s t : State), s.ready .v → (s.kreg o.a.toNat).toNat % 16 = 0 →
    (∀ vals, Runs (wideLoad (spaceOf o.s.toNat) 4 (wordAddrs (s.kreg o.a.toNat) 4 36)) s.landed vals t →
      let n : Nat := (vals.zipIdx.map (fun p => p.1 % 2 ^ 32 * 2 ^ (32 * p.2))).sum
      (n / 2 ^ 1088 < 24 → exec (.vrest o) s = .next ((t.put o.d (VReg.ofImage n) 1).ended .v 4 o.w.toNat))
      ∧ (24 ≤ n / 2 ^ 1088 → s.BadFormat (.vrest o)))
    ∧ (Runs (wideStore (spaceOf o.s.toNat) 4 ((List.range 36).map (fun i =>
        (vecAddr (s.kreg o.a.toNat) i, (s.vreg o.d).image / 2 ^ (32 * i) % 2 ^ 32)))) s.landed () t →
      exec (.vsave o) s = .next (t.ended .v 4 o.w.toNat))

/-- The moves, permutes, broadcasts and tags complete, or trap FORMAT or ILLEGAL (R115 to R117). Two points are the
model's choices: VBCAST to RAW merges under its mask (log entry 71), and VTAG keeps bits 31 and 30 of every lane under a 6-bit tag (log
entry 67). -/
def Obligations.VectorMoves : Prop :=
  (∀ (o : V2) (s : State), s.ready .v →
    let a := s.vreg o.a
    (isBlock a.t = false ∨ o.m = 0 →
      exec (.vmov o) s
        = .next ((s.landed.put o.d (vreg (s.lanes o.d o.m a.t (laneOf a.data.toNat)) (cleanSide a.t a.side) a.t) 2).ended
            .v 4 o.w.toNat))
    ∧ (isBlock a.t = true → o.m ≠ 0 →
      exec (.vmov o) s
        = .next (onStop (.trap { cause := 1, sub := 0, addr := BitVec.ofNat 64 (encode (.vmov o)), strm := .v }) s))
    ∧ (∀ neg : Bool,
      let i : Instr := if neg then .vneg o else .vabs o
      let x := fun (j : Nat) => elemAt a.t a.data.toNat j
      let r := fun (j : Nat) => if neg then x j ^^^ (fmtOf a.t).sign else x j % (fmtOf a.t).sign
      (isFloatTag a.t = true →
        exec i s
          = .next ((s.landed.gave (condsOf (overElems a.t (s.mreg o.m) (fun j => (r j, 0)))) o.d
              (s.elems o.d o.m a.t a.t (overElems a.t (s.mreg o.m) (fun j => (r j, 0)))) 2).ended .v 4 o.w.toNat))
      ∧ (isFloatTag a.t = false → s.BadFormat i))
    ∧ (a.t = 1 ∨ a.t = 2 →
      let cls := fun (i : Nat) => classBit (fmtOf a.t) (elemAt a.t a.data.toNat (if a.t = 1 then i / 2 else i))
      exec (.vclass o) s = .next ((s.landed.put o.d (vreg (s.lanes o.d o.m a.t cls) 0 22) 2).ended .v 4 o.w.toNat))
    ∧ (a.t ≠ 1 → a.t ≠ 2 → s.BadFormat (.vclass o)))
  ∧ (∀ (o : V3) (s : State), s.ready .v →
    let a := s.vreg o.a
    let b := s.vreg o.b
    (a.t = b.t → isBlock a.t = false →
      let sel := fun (i : Nat) =>
        cleanLane a.t (if laneOn a.t (s.mreg o.m) i then laneOf a.data.toNat i else laneOf b.data.toNat i)
      exec (.vsel o) s
        = .next ((s.landed.put o.d (vreg (packLanes ((List.range 32).map sel)) 0 a.t) 2).ended .v 4 o.w.toNat))
    ∧ (∀ e ∈ permutes,
      (isBlock a.t = false → b.t = 22 →
        let f := fun (i : Nat) => match e.2 b i with | some j => laneOf a.data.toNat j | none => 0
        exec (e.1 o) s = .next ((s.landed.put o.d (vreg (s.lanes o.d o.m a.t f) 0 a.t) 3).ended .v 4 o.w.toNat))
      ∧ (isBlock a.t = true ∨ b.t ≠ 22 → s.BadFormat (e.1 o)))
    ∧ (a.t = b.t → isFloatTag a.t = true →
      let f := fun (j : Nat) => (elemAt a.t a.data.toNat j % (fmtOf a.t).sign
        + elemAt a.t b.data.toNat j / (fmtOf a.t).sign * (fmtOf a.t).sign, (0 : BitVec 6))
      exec (.vcps o) s
        = .next ((s.landed.gave (condsOf (overElems a.t (s.mreg o.m) f)) o.d
            (s.elems o.d o.m a.t a.t (overElems a.t (s.mreg o.m) f)) 2).ended .v 4 o.w.toNat)))
  ∧ (∀ (o : VImm) (s : State), s.ready .v →
    exec (.vli o) s
      = .next ((s.landed.put o.d (vreg (packLanes (List.replicate 32 (o.imm.signExtend 32).toNat)) 0 22) 2).ended
          .v 4 o.w.toNat))
  ∧ (∀ (o : VT) (s : State), s.ready .v →
    let rs := overElems o.t.toNat (s.mreg o.m) (fun _ => ((s.kreg o.a.toNat).toNat, 0))
    exec (.vbcast o) s
      = .next ((s.landed.gave (condsOf rs) o.d (s.elems o.d o.m o.t.toNat o.t.toNat rs) 2).ended .v 4 o.w.toNat))
  ∧ ∀ (o : VTag) (s : State), s.ready .v →
    let a := s.vreg o.a
    exec (.vtag o) s
      = .next ((s.landed.put o.d { data := a.data, side := cleanSide o.t.toNat a.side, tag := o.t } 1).ended .v 4 o.w.toNat)

namespace Sys2Proof

/-- A command of the matrix unit with what every command captures at issue (R216, R225). -/
def Machine.State.mxCmd (s : State) (i : Instr) (op : MxOp) (td : Nat) : MxCmd :=
  { id := s.nextId, six := s.six, enc := encode i, op := op, td := td, ta := td, specA := 0, specB := 0, runA := [], runB := [],
    mcfg := s.me.v.mcfg, mgb := s.me.v.mgb, asid := s.me.dom, pm := s.me.sys.pm, mode := s.me.sys.rmode, gen := s.me.v.gen,
    reads := [], begun := false, shadow := none, held := false, depth := s.me.sys.dsdepth }

/-- The state with a command in its cluster's matrix unit. -/
def Machine.State.entered (s : State) (k : MxCmd) : State :=
  let c := s.cluster (clusterOf s.coreNo)
  (Effect.cluster (clusterOf s.coreNo) { c with mx := c.mx ++ [k] }).apply (Effect.fresh.apply s)

/-- MMA, MMAZ and MTCX by operation. -/
noncomputable def mmas : List ((X3 → Instr) × MxOp) := [(.mma, .mma), (.mmaz, .mmaz), (.mtcx, .mtcx)]

end Sys2Proof

/-- MMA, MMAZ and MTCX complete at issue by entering one command with their captured specs and register runs (R216, R225, R230), where
the checks of R225 pass; a pair that fails them traps FORMAT or ILLEGAL. -/
def Obligations.MatrixMultiply : Prop :=
  ∀ e ∈ mmas, ∀ (o : X3) (s : State), s.ready .v → isCompute s.coreNo = true →
    let t := s.landed
    let c := t.me.v.mcfg
    let tensor := e.2 == .mtcx
    let specA := s.kreg o.a.toNat
    let specB := s.kreg (8 + o.x.toNat)
    let runA := if c.getLsbD 33 then [] else runOf t.me specA (countsA tensor c).length
    let runB := if c.getLsbD 32 then [] else runOf t.me specB (countsB tensor c).length
    ∀ old, (if e.2 = .mmaz then old = none else ∃ n, tagAtIssue t s.six o.d.toNat = some n ∧ old = some n) →
    (∀ hulls u, checkPair tensor c specA specB runA runB old = none →
      Runs (checkDescs (descsOf tensor c t.me.v.mgb specA specB) t.me.v.mgb) t hulls u →
      exec (e.1 o) s
        = .next ((u.entered { u.mxCmd (e.1 o) e.2 o.d.toNat with
            specA := specA, specB := specB, runA := runA, runB := runB, reads := hulls }).ended .v 4 o.w.toNat))
    ∧ ∀ cause, checkPair tensor c specA specB runA runB old = some cause →
      exec (e.1 o) s
        = .next (onStop (.trap { cause := cause, sub := 0, addr := BitVec.ofNat 64 (encode (e.1 o)), strm := .v }) s)

/-- The tile instructions complete (R218, R223, R225, R231 to R235): MLDT, MZT, MCVT, MTRN and TMOV by entering one command, MCVT with its
generators advanced where it draws, TMOV to a v register with that register awaited; MSTT by storing its tile's image once no command
names the tile; TCFG by exchanging MCFG and MGB. -/
def Obligations.TileInstructions : Prop :=
  ∀ (s : State), s.ready .v → isCompute s.coreNo = true →
    let t := s.landed
    (∀ (o : A2) (hulls : List Hull) (u : State),
      let d := s.kreg o.a.toNat
      Runs (checkDescs [(d, imageFetch d t.me.v.mgb)] t.me.v.mgb) t hulls u →
      exec (.mldt o) s
        = .next ((u.entered { u.mxCmd (.mldt o) .mldt o.d.toNat with specA := d, reads := hulls }).ended .v 4 o.w.toNat)
      ∧ ∀ v, tileBusy u u.six o.d.toNat = false →
        (u.cluster (clusterOf u.coreNo)).cmds.any (fun k => conflicts k.reads k.writes [] hulls) = false →
        let y := u.me.readT o.d.toNat
        Runs (wideStore (dSpace d) 4 (((imageFetch d t.me.v.mgb).map (fun f => f.2.1)).zip
          ((imageWords d).map (fun p => cleanLane y.tag.toNat (y.row p.1 / 2 ^ (32 * p.2) % 2 ^ 32)) ++ [y.tag.toNat, 0]))) u () v →
        exec (.mstt o) s = .next (v.ended .v 4 o.w.toNat))
    ∧ (∀ (o : Mz),
      exec (.mzt o) s
        = .next ((t.entered { t.mxCmd (.mzt o) .mzt o.d.toNat with specA := o.t.setWidth 64 }).ended .v 4 o.w.toNat))
    ∧ (∀ (o : X3) (src : Nat),
      let w := s.kreg (8 + o.x.toNat)
      let n := w.toNat % 32
      w.toNat < 512 → w.toNat / 32 % 8 < 6 → n ≠ 0 → n < 24 → isBlock n = false →
      tagAtIssue t s.six o.a.toNat = some src → src ≠ 0 →
      let u := t.entered { t.mxCmd (.mcvt o) .mcvt o.d.toNat with ta := o.a.toNat, specA := w }
      let y := u.me
      exec (.mcvt o) s = .next ((if isNarrowing src n && decide (mcvtMode w y.sys.rmode = 4)
        then u.withMe { y with v := { y.v with gen := rowDraws src n 32 y.v.gen } } else u).ended .v 4 o.w.toNat))
    ∧ (∀ (o : A2) (src : Nat), tagAtIssue t s.six o.a.toNat = some src →
      (src = 0 ∨ src = 2 ∨ src = 22 →
        exec (.mtrn o) s
          = .next ((t.entered { t.mxCmd (.mtrn o) .mtrn o.d.toNat with ta := o.a.toNat }).ended .v 4 o.w.toNat))
      ∧ (src ≠ 0 → src ≠ 2 → src ≠ 22 → s.BadFormat (.mtrn o)))
    ∧ (∀ (o : X3),
      let w := s.kreg (8 + o.x.toNat)
      let v := s.vreg o.d
      (w.toNat < 64 → w.getLsbD 5 = true → tagAtIssue t s.six o.a.toNat = some v.t →
        exec (.tmov o) s
          = .next ((t.entered { t.mxCmd (.tmov o) .tmovIn o.a.toNat with specA := w, runA := [v] }).ended .v 4 o.w.toNat))
      ∧ (w.toNat < 64 → w.getLsbD 5 = false →
        let u := t.entered { t.mxCmd (.tmov o) .tmovOut o.a.toNat with specA := w, specB := o.d.setWidth 64 }
        exec (.tmov o) s
          = .next ((u.withMe { u.me with await := u.me.await ++ [(.v o.d.toNat, t.nextId)] }).ended .v 4 o.w.toNat)))
    ∧ (∀ (o : X3),
      let c := s.kreg o.a.toNat
      badConfig c = false →
        let u := (t.wrote (.k o.d.toNat) (.word t.me.v.mcfg) 1).wrote (.k (o.d.toNat + 1)) (.word t.me.v.mgb) 1
        exec (.tcfg o) s
          = .next ((u.withMe { u.me with v := { u.me.v with mcfg := c, mgb := s.kreg (8 + o.x.toNat) } }).ended
              .v 4 o.w.toNat))

namespace Sys2Proof

/-- An event happens with these effects, one after another. -/
def Machine.State.does (s : State) (i : Instr) (es : List Effect) : Prop := exec i s = .next (applyAll es s)

end Sys2Proof

/-- The strand, boundary and trap events happen: a park or a trap that is due, a parked strand that has nothing left of what it issued
joining the migration queue, a pre-emption, an interrupt, an unwind, an aging, a time that is over, a machine check (R33, R95, R103, R154,
R156, R157, R160, R161, R183, R187, R190, R193, R229). That a machine check of a strand of another group signals subcode 4 of source 2 is
log entry 20, deduced, and the parked strand's late joining log entry 58, deduced. -/
def Obligations.StrandEvents : Prop :=
  ∀ (s : State) (six : Nat),
    let x := s.strand six
    let core := coreOf six
    (∀ t, dueHead s six = some (.park t) →
      s.does (.strandPark six) (chain [fun _ => [.strand six { x with due := x.due.erase (.park t) }], trapEffects t six] s))
    ∧ (∀ t, dueHead s six = some (.trap t) →
      (t.strm = .c →
        s.does (.replayClassTrap six) (chain [fun _ => [.strand six { x with due := x.due.erase (.trap t) }], trapEffects t six] s))
      ∧ (t.strm = .v →
        s.does (.matrixDeferredTrap six) (chain [fun _ => [.strand six { x with due := x.due.erase (.trap t) }], trapEffects t six] s)))
    ∧ (x.st = .parked → x.entry = true → undrained s six = false →
      s.does (.strandPark six)
        [.strand six { x with entry := false },
         .cluster (clusterOf core) { s.cluster (clusterOf core) with migq := (s.cluster (clusterOf core)).migq ++ [six] },
         signal s (principalOf (clusterOf core)) 1 0])
    ∧ (∀ g, x.gid = some g → canPreempt s g = true →
      s.does (.preemptOrder g) (requestPreempt g s)
      ∧ (x.st = .active → x.sys.quant = 0 → preemptible six = true → s.does (.quantExpiry six) (requestPreempt g s)))
    ∧ (dueHead s six = none →
      (preemptReady s six = true → s.does (.preemptEntry six) (preemptEnter six s))
      ∧ (∀ sub src, interruptReady s six = some (sub, src) →
        s.does (.interruptEntry six) (chain
          [fun _ => [.core core { s.core core with intr := (s.core core).intr.tail }],
           trapEffects { cause := 19, sub := sub, addr := BitVec.ofNat 64 src, strm := .c } six] s))
      ∧ (∀ es, unwindBoundary six s = some es →
        (x.unw = none → s.does (.unwindStart six) es)
        ∧ ∀ u, x.unw = some u → u.clean = true → u.left = 0 → s.does (.cleanupBudgetExpiry six) es))
    ∧ (∀ st, slotOf six < 6 → x.st = .active → (st = .c ∨ x.sys.vrun = true) → (s.core core).aged.contains (slotOf six, st) = false →
      1024 ≤ tblGet 0 (s.core core).ages (ageKey (slotOf six) st) →
      s.does (.streamAging six st) [.core core { s.core core with aged := (s.core core).aged ++ [(slotOf six, st)] }])
    ∧ (∀ t w, x.c.wait = .align t w → t + 256 ≤ (s.core core).cycle → s.does (.alignTimeout six) (alignDone [six] s))
    ∧ (∀ r, x.res = some r → r.2 + 4096 ≤ s.cycle → s.does (.reservationExpiry six) [.strand six { x with res := none }])
    ∧ (∀ t d w, x.c.wait = .revoke t d w → (s.dom t).st ≠ .revoked →
      s.does (.grevokeComplete six)
        [.strand six (((x.write (.s d) (.word 0)).setPc .c (x.c.pc + 4)).stepped .c w)])
    ∧ (∀ gid sub, isCompute core = true → (s.group gid).isSome = true →
      (x.gid = some gid → s.does (.machineCheck gid sub six) (contain s six x true))
      ∧ (x.gid ≠ some gid →
        s.does (.machineCheck gid sub six)
          (chain [fun s => killGroup s gid, fun s => [signal s (principalOf (clusterOf core)) 4 2]] s)))
    ∧ (∀ gid sub, isCompute core = false → x.st = .active →
      s.does (.machineCheck gid sub six) (trapEffects { cause := 17, sub := sub, addr := 0, strm := .c } six s))
    ∧ ∀ n src, n < 1088 → isCompute n = false →
      s.does (.timerInterrupt n src) [.core n { s.core n with intr := (s.core n).intr ++ [(3, src)] }]

/-- The dispatch and commit events happen (R177, R179, R180, R298, R301, R302, R304, R305): a task, an actor, a handler or an overflow
routine starts in its free slot, a message moves on, the oldest finished task of a group commits; where no general slot of its group is
free, a ready oldest task takes the slot of the youngest speculative firing, which is aborted. That the overflow routine is that of the
group of the oldest message is log entry 35, deduced; that handlers and overflow routines start with PRI 0 is the model's choice, log
entry 65. -/
def Obligations.DispatchEvents : Prop :=
  ∀ (s : State) (core k : Nat),
    let six := 8 * core + k
    let c := s.core core
    (∀ p, k < 6 → isCompute core = true → (s.strand six).st = .free → chosenTask s core = some p →
      (∀ n, actorPri s core = some n → n ≤ p.2.pri.toNat) → s.does (.taskDispatch six) (startTask six p s))
    ∧ (∀ gid g id t y, k < 6 → (s.strand six).st ≠ .free → (s.strand six).gid = some gid → groupOn s gid core = some g →
      oldestTask s gid = some (id, t) → t.st = .queued → youngestFiring s gid = some (six, y) → olderThan (id, t) y = true →
      (∀ n ∈ g.cores, ∀ j, j < 6 → (s.strand (8 * n + j)).st ≠ .free) →
      s.does (.taskDispatch six) (chain [abortTask true y.1, startTask six (id, t)] s))
    ∧ (∀ n a g, k < 6 → isCompute core = true → (s.strand six).st = .free → tblGet none c.actors n = some a →
      actorReady s core a = true → (∀ m, actorPri s core = some m → m ≤ a.pri.toNat) →
      (∀ t, chosenTask s core = some t → t.2.pri.toNat < a.pri.toNat ∨ (t.2.pri = a.pri ∧ t.2.timed = false)) →
      s.group a.gid = some g →
      let x := firingOf s a.gid g six (.actor n) a.entry [(1, BitVec.ofNat 64 n), (2, BitVec.ofNat 64 a.fired)]
      s.does (.actorFire six n) (setActor s core n { a with busy := true }
        :: startFiring six { x with dom := a.dom, base := a.dom, sys := { x.sys with pri := a.pri } } s))
    ∧ (∀ m r g, (s.strand (8 * core + 6)).st = .free → c.hq = .message m :: r → s.group m.gid = some g →
      s.does (.handlerDispatch core) (.core core { c with hq := r }
        :: startFiring (8 * core + 6) (firingOf s m.gid g (8 * core + 6) .handler (m.entry.getD 0)
          (argRegs 1 m.payload ++ [(5, m.hdr)])) s))
    ∧ (∀ a r, c.hq = .atomic a :: r →
      s.does (.hwAtomicEntry core) (chain [fun _ => [.core core { c with hq := r }], hwAtomic core a] s))
    ∧ (∀ m r g, c.inbox = m :: r → groupOn s m.gid core = some g → 64 ≤ c.inbox.length →
      (s.strand (8 * core + 7)).st = .free → g.ovfe ≠ 0 →
      s.does (.overflowDispatch core) (startFiring (8 * core + 7)
        (firingOf s m.gid g (8 * core + 7) .overflow g.ovfe [(1, g.ovfa), (2, 64)]) s))
    ∧ (∀ i m es, c.reqBuf[i]? = some m → (c.reqBuf.take i).all (fun e => e.target != m.target) = true →
      let out : Effect := .core core { c with reqBuf := without i c.reqBuf }
      requestArrive m.target (.message m.msg) (out.apply s) = some es → s.does (.messageArrival core i) (out :: es))
    ∧ (∀ i e, c.port[i]? = some e → (c.port.take i).all (fun p => decide (entryDest c p ≠ entryDest c e)) = true →
      (∀ m, e = .message m → closedAt s core m.gid = false) → destRoom c (entryDest c e) = true →
      s.does (.requestPortRelease core i)
        (chain [fun _ => [.core core { c with port := without i c.port }], arrive core e] s))
    ∧ (∀ i m, c.repBuf[i]? = some m → (c.repBuf.take i).all (fun e => e.target != m.target) = true →
      s.does (.replyNetworkArrival core i)
        (chain [fun _ => [.core core { c with repBuf := without i c.repBuf }], replyArrive m.target m.msg] s))
    ∧ (∀ n o a f g, tblGet none c.actors n = some a → a.outs[o]? = some f → f.en = true → 0 < f.count → c.reqBuf.length < 8 →
      entryPoisoned s core f = false → s.group a.gid = some g → ∀ t, g.cores[dwCore ((entryRead s core f).headD 0)]? = some t →
      let hdr := (entryRead s core f).headD 0
      s.does (.fifoOutputSend core n o) [.core core { c with
        reqBuf := c.reqBuf ++ [⟨t, ⟨a.gid, headerOf hdr (dwLen hdr) (g.cores.findIdx (fun k => k == core)),
          (entryRead s core f).tail.take (dwLen hdr + 1), none, []⟩⟩],
        actors := tblSet none c.actors n (some (a.setOut o f.popped)) }])
    ∧ ∀ gid id t, oldestTask s gid = some (id, t) → t.st = .finished → s.does (.taskCommit gid) (commitTask id t s)

namespace Sys2Proof

/-- The events of the engines, the matrix units, the Tutor engines and the caches happen (R200 to R204, R216, R226 to R229, R253, R319). -/
def unitEvents : Prop :=
  ∀ (s : State) (cl id : Nat),
    (∀ k, cmdOf s cl id = some k →
      (cmdReady s cl k = true → s.does (.engineCommandStart cl id) (setCmd cl { k with begun := true } s))
      ∧ (k.begun = true → k.held = false →
        (k.kind = .bpref → s.does (.copyCompletion cl id) (endCmd cl k (tokenWord 0 (prefetched k s)) s))
        ∧ (k.kind = .copy ∨ k.kind = .copymm → k.copied = none → s.does (.copyCompletion cl id) (copyPerform cl k s))
        ∧ (k.kind = .rget ∨ k.kind = .rput → s.does (.remoteTransferCompletion cl id) (transferPerform cl k s)))
      ∧ ∀ w m, k.copied = some w → k.follow = some m →
        s.does (.copymmFollowOn cl id) (followEnter cl k m s))
    ∧ (∀ k, mxOf s cl id = some k →
      (mxReady (s.cluster cl) k = true → openBefore s k.six k.id = false →
        s.does (.matrixCommandStart cl id)
          (setMx cl { k with begun := true, shadow := some ((s.strand k.six).readT k.td) } s))
      ∧ (k.begun = true → k.held = false →
        (∀ t, k.shadow = some t → s.does (.matrixCommandCompletion cl id) (mxPerform cl k s))
        ∧ (k.shadow = none →
          s.does (.matrixReplay cl id) (setMx cl { k with shadow := some ((s.strand k.six).readT k.td) } s))))
    ∧ s.does (.tutorSample cl) (tutorSample cl s)
    ∧ (∀ core asid va, s.does (.l1Eviction core asid va) [.l1 (l1Key core asid (BitVec.ofNat 64 va)) .empty])
    ∧ (∀ y, s.syncs.find? (fun y => y.id == id) = some y →
      s.does (.syncValidation id) (chain
        [fun s => [.syncs (s.syncs.filter (fun z => z.id != id))],
         if y.six = noStrand then lateOp y else homeOp y.req y.asid y.va y.pa] s))
    ∧ ∀ unit asid page, s.does (.translationEviction unit asid page) (evictTlb (tlbKey unit asid page) s)

/-- The place of word `j` of one side of a one-row copy in a local space. -/
def Machine.State.copyPlace (s : State) (k : Cmd) (space : Space) (base : Word) (j : Nat) : Option Loc :=
  localLoc s k.six space (base + BitVec.ofNat 64 (4 * j)) 4

/-- A copy between P and D moves its words as they were before it (R200): each destination word holds what its source word held, every
other byte of both memories and all of memory is as it was, the token is the count, and the command is gone. -/
def copyMoves : Prop :=
  ∀ (s : State) (cl id : Nat) (k : Cmd), s.wf = true → cmdOf s cl id = some k → k.begun = true → k.held = false →
    k.kind = .copy → k.copied = none → k.buf = none → k.follow = none → k.rows = 1 → k.len % 4 = 0 → k.token ≠ 0 →
    (k.ssp = .p ∨ k.ssp = .d) → (k.dsp = .p ∨ k.dsp = .d) →
    (∀ j, j < k.len / 4 → ∃ l m, s.copyPlace k k.ssp k.src j = some l ∧ l.poisoned s 4 = false
      ∧ s.copyPlace k k.dsp k.dst j = some m) →
    ∃ t, exec (.copyCompletion cl id) s = .next t
      ∧ (∀ j l m, j < k.len / 4 → s.copyPlace k k.ssp k.src j = some l → s.copyPlace k k.dsp k.dst j = some m →
        m.read t 4 = l.read s 4)
      ∧ (∀ a, (∀ j m, j < k.len / 4 → k.dsp = .p → s.copyPlace k k.dsp k.dst j = some m → a < m.addr ∨ m.addr + 4 ≤ a) →
        memGet t.pmem a = memGet s.pmem a)
      ∧ (∀ a, (∀ j m, j < k.len / 4 → k.dsp = .d → s.copyPlace k k.dsp k.dst j = some m → a < m.addr ∨ m.addr + 4 ≤ a) →
        memGet t.dmem a = memGet s.dmem a)
      ∧ t.mem = s.mem ∧ (t.strand k.six).readS k.token = BitVec.ofNat 64 k.len ∧ cmdOf t cl id = none

/-- An integer MMA or MMAZ of two register runs leaves its tile (R224, R226, R227): element (i, j) in [0, M) × [0, N) is what it was, or
0 for MMAZ, plus the sum over k of A(i, k) × B(k, j), modulo 2^32; every other element is what it was, or 0; the tile's tag is I32; no
condition is raised, the other tiles and the s registers are as they were, and the command is gone. -/
def matrixTile : Prop :=
  ∀ (s : State) (cl id : Nat) (k : MxCmd) (y : Tile), mxOf s cl id = some k → k.begun = true → k.held = false → k.shadow = some y →
    (k.op = .mma ∨ k.op = .mmaz) → mxOldest k s = none → (∀ e ∈ (s.cluster cl).cmds, e.id ≠ id) →
    k.mcfg.getLsbD 33 = false → k.mcfg.getLsbD 32 = false →
    let at' := cfgATag k.mcfg
    let bt := cfgBTag k.mcfg
    accTag at' bt = some 22 → cfgK k.mcfg ≤ tagCount at' → cfgK k.mcfg ≤ tagCount bt →
    cfgM k.mcfg ≤ k.runA.length → cfgN k.mcfg ≤ k.runB.length →
    let x := s.strand k.six
    let a := fun (i n : Nat) => readInt at' (elemAt at' ((k.runA[i]?.map (fun v => v.data.toNat)).getD 0) n)
    let b := fun (j n : Nat) => readInt bt (elemAt bt ((k.runB[j]?.map (fun v => v.data.toNat)).getD 0) n)
    ∃ t, exec (.matrixCommandCompletion cl id) s = .next t ∧ mxOf t cl id = none
      ∧ (let z := t.strand k.six
        (z.readT k.td).tag = 22
        ∧ (∀ i j, i < 32 → j < 32 → elemAt 22 ((z.readT k.td).row i) j =
            wrapInt 32 (((if k.op = .mma then elemAt 22 ((x.readT k.td).row i) j else 0 : Nat) : Int)
              + if i < cfgM k.mcfg ∧ j < cfgN k.mcfg then ((List.range (cfgK k.mcfg)).map (fun n => a i n * b j n)).sum else 0))
        ∧ (∀ n, n ≠ k.td → z.readT n = x.readT n) ∧ z.sys.flags = x.sys.flags ∧ ∀ n, z.readS n = x.readS n)

/-- Step 5 of R286: a packet's header is written and RDIDX advances; or the write is held. -/
def Machine.State.headed (s : State) (d q : Nat) (hdr : Word) : State :=
  let y := queueOf s d q
  match cpWrite s d q y.asid y.privq (packetAddr y) hdr with
  | .ok es => let u := applyAll es s; applyAll (setQueue d q (queueOf u d q).advanced u) u
  | .error e => applyAll (e.effects d q 0 s) s

/-- A SIGNAL packet has been acted on: once no decrement of its queue is left over, step 5 follows; otherwise it waits (R286, R290). -/
def Machine.State.closes (s : State) (d q : Nat) (hdr : Word) : State :=
  let t := applyAll (setQueue d q { queueOf s d q with closing := some hdr } s) s
  if (queueOf t d q).reqs.any (fun r => r.use == 1) then t else t.headed d q hdr

/-- The command processor serves a queue and reads `ws` at its read index, with effects `es` (R286). -/
structure Machine.Finds (s : State) (d q : Nat) (ws : List Word) (es : List Effect) : Prop where
  served : Machine.served s d q = true
  packet : packetOf s d q = .ok (ws, es)

/-- The header of the packet at a queue's read index lies at physical address `pa` of a NORMAL page of this package, and a write of it
meets no error and no speculative reader. -/
def Machine.State.headerAt (s : State) (d q pa : Nat) : Prop :=
  let y := queueOf s d q
  ∃ x, cpXl s d y.asid y.privq (packetAddr y) .w = .ok x ∧ x.cls = .normal ∧ x.pod = false ∧ x.pa = pa
    ∧ memCheck s false pa 8 = none ∧ readersOf s (wordsOf pa 8) = []

/-- The clusters that can give `n` cores to a tenant's group. -/
def Machine.State.clustersWith (s : State) (tenant n : Nat) : Nat :=
  ((List.range 32).filter (fun cl => decide (n ≤ (freeCores s tenant cl).length))).length

/-- There are cores for a group of `n` of a tenant, whichever clusters are chosen: a cluster with 32 to give for every 32 of them, and one
more with enough for the rest (R288). -/
def Machine.State.canBind (s : State) (tenant n : Nat) : Prop :=
  n / 32 ≤ s.clustersWith tenant 32 ∧ (n % 32 ≠ 0 → n / 32 + 1 ≤ s.clustersWith tenant (n % 32))

/-- The binding of a group of `n` cores of a tenant (R288): distinct cores that may be bound to it, every 32 of them in one cluster and
no two 32s in the same. -/
structure Machine.Binds (s : State) (tenant n : Nat) (cores : List Nat) : Prop where
  count : cores.length = n
  apart : cores.Nodup
  allowed : ∀ c ∈ cores, c ∈ freeCores s tenant (clusterOf c)
  blocks : ∀ i j, i < n → j < n → (clusterOf (cores.getD i 0) = clusterOf (cores.getD j 0) ↔ i / 32 = j / 32)

/-- PACKET_LAUNCH happens where the descriptor is read, the tenant and the package have the slots, a group number is free, there are
cores, and the header can be written (R286 to R288): a new group of the descriptor's fields on a binding of free cores, which now host
the tenant, one initial task pinned to each core, the header with VALID 0, RDIDX advanced. -/
def packetLaunched : Prop :=
  ∀ (s : State) (d q : Nat) (ws : List Word) (es : List Effect), Finds s d q ws es → (ws.getD 0 0).getLsbD 63 = true →
    let t := applyAll es s
    pkType (ws.getD 0 0) = 1 → badPacket t d q ws = false → pastBarrier t d q (ws.getD 0 0) = true →
    ∀ (desc : List Word) (fs : List Effect) (pa : Nat), groupDesc t d q ws = .ok (desc, fs) →
      let u := applyAll fs t
      let y := queueOf u d q
      let n := gdCores (desc.getD 0 0)
      slotsHeld u y.tenant + n ≤ (u.tenant y.tenant).tq.toNat → slotsInUse u + n ≤ 65536 →
      (∃ g, g < 4096 ∧ u.group g = none) → u.canBind y.tenant n → u.headerAt d q pa →
      ∃ (gid : Nat) (cores : List Nat) (w : State), exec (.packetLaunch d q) s = .next w
        ∧ gid < 4096 ∧ u.group gid = none ∧ Binds u y.tenant n cores
        ∧ w.group gid = some (launchedGroup u d q y ws desc cores)
        ∧ (∀ c core, cores[c]? = some core → (w.core core).tenant = some y.tenant
            ∧ ∃ id, w.task id = some (initialTask u gid y (gdPri (desc.getD 0 0)) ws c core))
        ∧ queueOf w d q = y.advanced ∧ memRead w.mem pa 8 = (doneHeader (ws.getD 0 0) false).toNat

/-- PACKET_RESUME happens where the resume table, the counts and the records of the spill area are read, the records fit, there are
cores, the slots of the table's strands are free on any of them, and the header can be written (R286, R307): the group on a new binding,
each nonzero entry's strand dispatched to its slot at TVEC with PM 1, TCAUSE PREEMPT, TADDR its segment, s1 the entry and QUANT the
quantum. -/
def packetResumed : Prop :=
  ∀ (s : State) (d q : Nat) (ws : List Word) (es : List Effect), Finds s d q ws es → (ws.getD 0 0).getLsbD 63 = true →
    let t := applyAll es s
    pkType (ws.getD 0 0) = 3 → badPacket t d q ws = false → pastBarrier t d q (ws.getD 0 0) = true →
    ∀ (g : Machine.Group) (table counts recs : List Word) (e1 e2 e3 : List Effect) (pa : Nat), resumeGroup t ws = some g →
      let y := queueOf t d q
      let n := g.cores.length
      let t1 := applyAll e1 t
      let t2 := applyAll e2 t1
      let u := applyAll e3 t2
      let m := (counts.getD 0 0).toNat
      let p := (counts.getD 1 0).toNat
      cpWords t d q y.asid y.privq (ws.getD 2 0) (8 * n) = .ok (table, e1) →
      cpWords t1 d q g.asid y.privq g.spill 2 = .ok (counts, e2) →
      64 + 64 * m + 16 * p ≤ 64 * gdSpn g.desc0 →
      cpWords t2 d q g.asid y.privq (g.spill + 64) (8 * m + 2 * p) = .ok (recs, e3) →
      u.canBind g.tenant n →
      (∀ k core, k < 8 * n → table.getD k 0 ≠ 0 → core ∈ freeCores u g.tenant (clusterOf core) →
        (u.strand (8 * core + k % 8)).st = .free) →
      u.headerAt d q pa →
      ∃ (cores : List Nat) (w : State), exec (.packetResume d q) s = .next w ∧ Binds u g.tenant n cores
        ∧ w.group (ws.getD 1 0).toNat
            = some { resumedGroup g cores (ws.getD 3 0) with ctxs := g.ctxs.filter (fun c => decide (table.getD c.1 0 = 0)) }
        ∧ (∀ k, k < 8 * n → table.getD k 0 ≠ 0 →
            let x := w.strand (8 * cores.getD (k / 8) 0 + k % 8)
            x.st = .active ∧ x.gid = some (ws.getD 1 0).toNat ∧ x.c.pc = g.tvec &&& ~~~3#64 ∧ x.sys.pm = true
              ∧ x.sys.tcause = 18 ∧ x.sys.taddr = g.segment k ∧ x.readS 1 = table.getD k 0 ∧ x.sys.quant = g.quantum)
        ∧ queueOf w d q = (queueOf u d q).advanced ∧ memRead w.mem pa 8 = (doneHeader (ws.getD 0 0) false).toNat

end Sys2Proof

/-- The events of the command processors happen (R283 to R290, R306, R307): a notify, a mapping, a packet at the read index of a queue
that its kind allows served, a queue whose packet is not valid left, a group with no slot left ended, a pre-empted group with nothing in
flight spilled. -/
def Obligations.QueueEvents : Prop :=
  (∀ (s : State) (d q : Nat), d < 4 → q < 1024 →
    let y := queueOf s d q
    s.does (.queueNotify d q) (setQueue d q (if y.mapped then { y with woken := true } else { y with pend := true }) s)
    ∧ (y.mapped = false → ((s.die d).queues.filter (fun p => p.2.mapped)).length < 64 →
      s.does (.queueMap d q) (setQueue d q { y with mapped := true, pend := false, woken := y.pend } s)))
  ∧ (∀ (s : State) (d q : Nat) (ws : List Word) (es : List Effect), Finds s d q ws es →
    let t := applyAll es s
    let y := queueOf t d q
    let h := ws.getD 0 0
    (h.getLsbD 63 = false → ∀ e ∈ [Instr.packetReject d q, .packetSignal d q, .packetLaunch d q, .packetResume d q],
      exec e s = .next (applyAll (packetStop d q t) t))
    ∧ (h.getLsbD 63 = true →
      (∀ fs, badPacket t d q ws = true →
        cpWrite t d q y.asid y.privq (packetAddr y) (doneHeader h true) = .ok fs →
        let u := t.headed d q (doneHeader h true)
        exec (.packetReject d q) s = .next (applyAll (decrement d q (queueOf u d q).asid (ws.getD 3 0) u) u))
      ∧ (badPacket t d q ws = false → pastBarrier t d q h = true → pkType h = 2 →
        let v := applyAll (decrement d q y.asid (ws.getD 3 0) t) t
        exec (.packetSignal d q) s = .next (v.closes d q (doneHeader h false)))))
  ∧ packetLaunched ∧ packetResumed
  ∧ ∀ (s : State) (gid : Nat) (g : Machine.Group), s.group gid = some g →
    ((g.failed = true ∧ slotHeld s gid = false)
        ∨ (g.failed = false ∧ g.saved = false ∧ g.ctxs = [] ∧ groupLive s gid = false) →
      s.does (.groupCompletion gid) (endGroup gid g s))
    ∧ (g.preempting = true → g.failed = false → slotHeld s gid = false → cmdInFlight s gid = false →
      s.cores.all (fun c => !c.2.reqBuf.any (fun m => m.msg.gid == gid) && !c.2.repBuf.any (fun m => m.msg.gid == gid)
        && !c.2.hq.any (fun e => match e with | .message m => m.gid == gid | .atomic _ => false)) = true →
      let ws := spillWords s gid g
      (64 * gdSpn g.desc0 < spillBytes ws → s.does (.spillWrite gid) (killGroup s gid))
      ∧ ∀ es, spillBytes ws ≤ 64 * gdSpn g.desc0 →
        cpWriteAll g.die g.queue g.asid (queueOf s g.die g.queue).privq ws s = .ok es →
        let t := applyAll es s
        let u := applyAll (saveGroup gid g t) t
        let y := queueOf u g.die g.queue
        exec (.spillWrite gid) s
          = .next (applyAll (setQueue g.die g.queue { y with reqs := y.reqs.filter (fun r => r.use ≠ 2) } u) u))

namespace Sys2Proof

/-- The events of the package's tables, of its power and of its host happen (R143, R212, R257, R259, R335, R336, R338 to R347, R166). -/
def deviceEvents : Prop :=
  ∀ s : State,
    (∀ (n : Nat) (v : Word), n < 4096 → (s.dom n).st = .dead → (s.dom n).hold = 0 →
      (v.toNat % 4096 = 0 → v.toNat < 2 ^ 52 → s.does (.domainRootStore n v) [.dom n { s.dom n with root := v.toNat }])
      ∧ (v.toNat / 4096 % 4 = 1 → v.extractLsb' 32 16 ≠ 0 ∨ n = 0 →
        s.does (.domainActivate n v)
          [.dom n { s.dom n with gen := nextGen (s.dom n).gen, owner := v.extractLsb' 32 16, st := .live }]))
    ∧ (∀ (i : Nat) (v : Word), frameExists s.cfg i = true → (s.frame i).st = .ordinary →
      (∀ o, (s.frame i).owner = 0 → o ≠ 0 → v.extractLsb' 32 16 = o → v.toNat = frameWord { s.frame i with owner := o } →
        s.does (.frameAssignOwner i v) [.frame i { s.frame i with owner := o }])
      ∧ ((s.frame i).owner ≠ 0 → v.toNat = frameWord { s.frame i with st := .append, tail := 0 } →
        s.does (.frameSetAppend i v) [.frame i { s.frame i with st := .append, tail := 0 }]))
    ∧ (∀ (d b : Nat) (v : Word), d < 4 → b < 64 →
      s.does (.cspBlockStore d b v) (blockStore d b v s) ∧ s.does (.cspBlockInstall d b) (blockInstall d b s))
    ∧ (∀ (p : Nat) (v : Word), p < 8 →
      let on := v.getLsbD 61 && s.cfg.portPcap p
      s.does (.pmarkWrite p v)
        [.pkg { s.pkg with pmark := if on then s.pkg.pmark ||| (1#8 <<< p) else s.pkg.pmark &&& ~~~(1#8 <<< p) }])
    ∧ (∀ v : Word,
      s.does (.pbudgetWrite v)
        [.pkg { s.pkg with pbudget := if v.toNat > 2800 then 2800 else if v.toNat < 600 then 600 else v }]
      ∧ s.does (.gatereqWrite v) [.pkg { s.pkg with gatereq := v.extractLsb' 0 32 }]
      ∧ s.does (.freezeWrite v) (if v.toNat % 2 ^ 32 = 0xF0F00001 then freeze s else [])
      ∧ s.does (.powerInterval v) [.pkg { s.pkg with throt := v.extractLsb' 0 32 &&& ~~~s.pkg.gated }]
      ∧ ∀ f, s.does (.hostint f v) (hostint f v s))
    ∧ s.does .freezePin (freeze s) ∧ s.does .extend (extend s) ∧ s.does .quote (quote s)
    ∧ exec .reset s
      = .next { State.resetOf s.cfg with inputs := s.inputs, oracle := s.oracle, outputs := s.outputs }
    ∧ (∀ (pa : Nat) (v : Word), inDevice pa = true → inHostWindow pa = false → pa % 8 = 0 →
      s.does (.registerWrite pa v) (deviceStore pa 8 v s))
    ∧ (∀ cl, gateable s cl = true → ∃ t : State, exec (.clusterGating cl) s = .next t ∧ t.pkg.gated.getLsbD cl = true)
    ∧ (∀ cl, cl < 32 → s.pkg.gatereq.getLsbD cl = false → s.pkg.gated.getLsbD cl = true →
      s.does (.clusterUngating cl) [.pkg { s.pkg with gated := s.pkg.gated &&& ~~~(1#32 <<< cl) }])
    ∧ (∀ f pa, f ≤ 64 → pa % 4 = 0 →
      (∀ v : Lane, hostMay s f pa true = true → memCheck s false pa 4 = none →
        s.does (.hostWrite f pa v) (chain
          [homeStore none none (dirHome pa) pa 4 v.toNat, fun _ => [.dir (dirKey pa) .none]] s))
      ∧ (hostMay s f pa false = true → memCheck s true pa 4 = none →
        s.does (.hostRead f pa) [.output (.readReply f (BitVec.ofNat 32 (bytesSeen s (hostClass s pa) pa 4)))])
      ∧ (hostMay s f pa false = false → s.does (.hostRead f pa) [aerNote f s, .output (.unsupported f)]))
    ∧ (∀ f d q, f < 64 → d < 4 → q < 1024 → (queueOf s d q).tenant = f →
      s.does (.hostNotify f d q) (queueNotify d q s))
    ∧ (∀ t, t < 64 → s.does (.flrVf t) (resetTenant t s))
    ∧ s.does .flrPf (chain ((List.range 64).map resetTenant) s)
    ∧ (∀ id, s.does (.pcieLoadTimeout id) (hostLoadFailed id s))
    ∧ ∀ a, populated s.cfg a = true →
      s.does (.poisonedLine 0 a) ((List.range 16).map (fun i => Effect.poison (poisonMem + a / 64 * 16 + i) true))

/-- A block of a die's chip scratchpad. -/
def Machine.State.block (s : State) (d b : Nat) : Block := tblGet .reset (s.die d).blocks b

/-- Reassigning a block (R257): after a store that changes it the entry reads as before and every access to the block is refused; the
installation then leaves every byte of the block zero, the rest of the chip scratchpads as it was, and the new entry. A store that changes
nothing, or has a should-be-zero bit set, has no effect. -/
def blockChange : Prop :=
  ∀ (s : State) (d b : Nat) (v : Word), d < 4 → b < 64 →
    (v.toNat = blockWord (s.block d b) ∨ 256 ≤ v.toNat ∨ v.getLsbD 6 = true → exec (.cspBlockStore d b v) s = .next s)
    ∧ (v.toNat < 256 → v.getLsbD 6 = false → v.toNat ≠ blockWord (s.block d b) → (s.block d b).change = none →
      ∃ t u, exec (.cspBlockStore d b v) s = .next t ∧ exec (.cspBlockInstall d b) t = .next u
        ∧ blockWord (t.block d b) = blockWord (s.block d b) ∧ t.dmem = s.dmem
        ∧ (∀ tenant ea n, 0 < n → ea / 2 ^ 20 ≤ b → b * 2 ^ 20 < ea + n → blocksOk t d tenant ea n = false)
        ∧ (u.block d b).assigned = v.getLsbD 7 ∧ (u.block d b).tenant = v.toNat % 64 ∧ (u.block d b).change = none
        ∧ (∀ d' b', ¬(d' = d ∧ b' = b) → u.block d' b' = s.block d' b')
        ∧ ∀ a, memGet u.dmem a
            = if d * 2 ^ 26 + b * 2 ^ 20 ≤ a ∧ a < d * 2 ^ 26 + (b + 1) * 2 ^ 20 then 0 else memGet s.dmem a)

/-- FREEZE, by its pin or by the value 0xF0F0_0001 (R344): every pending fixed-latency write has landed, every clock is stopped and every
link is down; memory and what is held stay. An extend that ends leaves Mi := SHA3-256(Mi ‖ x) and no other register changed (R345,
R346). -/
def freezeExtend : Prop :=
  (∀ (s : State) (v : Word), s.wf = true → v.toNat % 2 ^ 32 = 0xF0F00001 →
    ∃ t, exec .freezePin s = .next t ∧ exec (.freezeWrite v) s = .next t ∧ t.pkg.frozen = true
      ∧ (∀ k, t.strand k = (s.strand k).landAll) ∧ (∀ k, (t.strand k).c.pend = [] ∧ (t.strand k).v.pend = [])
      ∧ (∀ l, (tblGet .down t.pkg.fab.links l).up = false)
      ∧ t.mem = s.mem ∧ t.pmem = s.pmem ∧ t.dmem = s.dmem ∧ t.held = s.held)
  ∧ ∀ (s : State), s.pkg.mgmt.cmd = 1 → s.pkg.mgmt.index.toNat ≤ 7 → s.pkg.mgmt.result = 0 →
    let i := s.pkg.mgmt.index.toNat
    ∃ t, exec .extend s = .next t ∧ t.pkg.mgmt.cmd = 0 ∧ t.pkg.mgmt.result = 1
      ∧ ∀ j, tblGet 0 t.pkg.mgmt.m j = if j = i then Config.sha3_256
          (vecBytes 32 (tblGet 0 s.pkg.mgmt.m i).toNat ++ vecBytes 32 s.pkg.mgmt.operand.toNat) else tblGet 0 s.pkg.mgmt.m j

/-- A Function Level Reset of VF t + 1 (R341): every task group of tenant t is killed, its queues are unmapped and their notifies
discarded; the other queues, the tenants' records, the frames and the chip scratchpads with their blocks are as they were. -/
def tenantReset : Prop :=
  ∀ (s : State) (t : Nat), t < 64 → s.wf = true → (∀ d, tblWf .reset (s.die d).queues = true) →
    ∃ u, exec (.flrVf t) s = .next u
      ∧ (∀ g y, u.group g = some y → y.tenant = t → y.failed = true)
      ∧ (∀ d q, queueOf u d q = let y := queueOf s d q
          if y.tenant = t then { y with mapped := false, pend := false, woken := false } else y)
      ∧ u.tenants = s.tenants ∧ u.frames = s.frames ∧ u.dmem = s.dmem ∧ ∀ d b, u.block d b = s.block d b

end Sys2Proof

/-- The events of the pod fabric happen (R349 to R360): a flit is acknowledged, and one that passes its CRC is accepted where its SEQ is
the next and causes a NAK otherwise; a link trains; a stream is held, and resumes on its new path once nothing it sent is unacknowledged or
the old path is down, what is unacknowledged sent again in order; the clock's messages; windows close and are entered; a member's
invalidation drops this package's copies; its request is answered; a silent member fails. The CRC's polynomial (log entry 39) and the
clock's arithmetic and order (log entry 74) are presumed, the windows after which a silent member fails (log entry 41) deduced. -/
def Obligations.FabricEvents : Prop :=
  ∀ s : State,
    let f := s.pkg.fab
    (∀ (l : Nat) (flit : BitVec 2048), l < s.cfg.links → (tblGet .down f.links l).up = true → s.pkg.frozen = false →
      ∃ (t : State) (os : List Output), exec (.flitReceive l flit) s = .next t ∧ t.outputs = s.outputs ++ .ack l :: os
        ∧ (flitCrc flit = BitVec.ofNat 64 (flit.toNat / 2 ^ 1984) → flKind flit = 1 ∨ flKind flit = 2 →
          let k := tblGet .down f.links l
          let k' := tblGet .down t.pkg.fab.links l
          k'.recvSeq = (if flSeq flit = k.recvSeq then (k.recvSeq + 1) % 4096 else k.recvSeq)
            ∧ k'.nak = decide (flSeq flit ≠ k.recvSeq) ∧ k'.peerOff = flOff flit))
    ∧ (∀ l n, l < s.cfg.links → s.pkg.frozen = false →
      ∃ t : State, exec (.linkRetrain l n) s = .next t
        ∧ (tblGet .down t.pkg.fab.links l).up = decide (n = 8 ∨ n = 4)
        ∧ (tblGet .down t.pkg.fab.links l).lanes = if n = 8 ∨ n = 4 then n else 0)
    ∧ (∀ dest cls l, isMember f dest = true →
      (f.streamHeld.contains (dest, cls) = false →
        s.does (.routeChange dest cls l) [setFab s { f with streamHeld := f.streamHeld ++ [(dest, cls)] }])
      ∧ (f.streamHeld.contains (dest, cls) = true →
        let k := tblGet 0 f.routes (streamKey dest cls)
        let old := tblGet .down f.links k
        let packets := openPackets f dest cls old
        packets = [] ∨ old.up = false →
        s.does (.routeChange dest cls l) (chain
          [fun s => [setFab s { f with
              links := tblSet .down f.links k { old with replay := old.replay.filter (fun p => p.2.stream != some (dest, cls)) },
              streamHeld := f.streamHeld.filter (fun p => p != (dest, cls)), routes := tblSet 0 f.routes (streamKey dest cls) l,
              waiting := packets.map (fun o => (dest, cls, o)) ++ f.waiting }], podFlush] s)))
    ∧ (∀ (origin receipt : Nat), f.master ≠ none →
      let off : Int := (receipt : Int) - origin - f.delay
      s.does (.ptpMessage (.sync origin receipt))
        [setFab s { f with offset := BitVec.ofInt 32 off, time := (f.time - off).toNat, lock := true }])
    ∧ (∀ t1 t2 t3 t4, s.does (.ptpMessage (.pdelay t1 t2 t3 t4)) [setFab s { f with delay := ((t4 - t1) - (t3 - t2)) / 2 }])
    ∧ (∀ c, s.does (.ptpMessage (.announce c))
      [setFab s (if betterClock c (f.master.getD Config.ownClock) then { f with master := some c } else f)])
    ∧ (∀ v, s.does (.wincfgWrite v) (wincfgWrite v s))
    ∧ (∀ n, nextClose f = some n → f.en = true → writesAcked f n = true → (n + 1) * windowLen f ≤ f.time →
      s.does .windowClose (chain
        ((fun s => [setFab s { s.pkg.fab with closed := some n }])
          :: (members f).map (fun p => podSend p 2 (fun m => .marker p m n))) s))
    ∧ (∀ n, f.en = true → f.closed = some n → f.window ≤ n + 1 → (f.window + 1) * windowLen f ≤ f.time →
      (members f).all (fun p => f.markers.contains (p, f.window - 1)) = true →
      s.does .windowEntry [setFab s (enterWindow (f.window + 1) f)])
    ∧ (∀ p, isMember f p = true →
      (∀ n, ∃ t : State, exec (.closeMarker p n) s = .next t ∧ t.pkg.fab.markers.contains (p, n) = true)
      ∧ (∀ fr, ∃ t : State, exec (.remoteInvalidation p fr) s = .next t
        ∧ ∀ c ∈ t.pkg.fab.copies,
          ¬(Config.podBase + p * 2 ^ 44 + frameBase fr ≤ c.pa ∧ c.pa < Config.podBase + p * 2 ^ 44 + frameBase fr + 65536))
      ∧ (f.live.getLsbD p = true → tblGet 0 f.heardAt p + 5 ≤ clockWindow f →
        ∃ t : State, exec (.memberFailure p) s = .next t ∧ t.pkg.fab.live.getLsbD p = false
          ∧ t.pkg.fab.remotes.all (fun r => r.pkg != p) = true))
    ∧ ∀ req : PodReq, isMember f req.src = true → tblGet 0 f.recvNum (streamKey req.src 0) = req.seq →
      s.does (.podAccess req) (chain
        [fun s => [setFab s { s.pkg.fab with
           recvNum := tblSet 0 s.pkg.fab.recvNum (streamKey req.src 0) (req.seq + 1) }],
         heard req.src,
         fun s => let r := podAnswer req s
           chain [fun _ => r.1.fx, podSend req.src 1 (fun n => .podReply req.src n req.seq r.1.v r.1.res r.2)] s] s)

/-- The events of the engines, the matrix units, the Tutor engines and the caches happen, a copy leaves its bytes and its token, and an integer
matrix product its tile (R200 to R204, R216, R224, R226 to R229, R253, R319). -/
def Obligations.UnitEvents : Prop := unitEvents ∧ copyMoves ∧ matrixTile

/-- The events of the package's tables, of its power and of its host happen, with what a block change, a freeze, an extend and a tenant's reset
leave (R143, R212, R257, R259, R335, R336, R338 to R347, R166). -/
def Obligations.DeviceEvents : Prop := deviceEvents ∧ blockChange ∧ freezeExtend ∧ tenantReset

namespace Sys2Proof

/-- APPND, TAILQ and SEAL on an APPEND page (R104 to R106): the tail, rounded up to the size, in d, the bytes there and the tail past them,
or all ones and nothing changed where they do not fit; the tail in d, with bit 63 set on a SEALED page; the page SEALED with the tail
in d. Of memory an append writes its n bytes at the rounded tail and zero between the old tail and them; every other byte, and every byte
where nothing is appended, stays. No earlier request held at the slices is for one of its words (R95). -/
def appendPage : Prop :=
  ∀ (s : State) (d : Nat) (va : Word) (x : Xl) (i : Nat), inWindow va = false → x.pod = false →
    frameIndex s.cfg x.pa = some i → s.me.spec = false →
    let f := s.frame i
    let at' := fun (op : MemOp) => translate s s.coreNo s.me.dom s.me.sys.pm va op.need = some x
      ∧ behindHeld (Effect.fresh.apply s) s.nextId s.me.dom va op.bytes = false
    let ok := fun (op : MemOp) (rel : Bool) (r : Word) (g : FrameEnt) (m : Nat → Byte) =>
      ∃ es, performOp (s.asks op va false rel) (Effect.fresh.apply s) = .ok es
        ∧ let u := applyAll es (Effect.fresh.apply s)
          (d ≠ 0 → u.me.readS d = r) ∧ u.frame i = g ∧ s.me.sameBut u.me d
          ∧ (∀ a, memGet u.mem a = m a) ∧ u.pmem = s.pmem ∧ u.lmem = s.lmem ∧ u.dmem = s.dmem
    let same := memGet s.mem
    (at' (.tailq d) →
      (x.cls = .append → ok (.tailq d) false (BitVec.ofNat 64 f.tail) f same)
      ∧ (x.cls = .sealed → ok (.tailq d) false (BitVec.ofNat 64 (2 ^ 63 + f.tail)) f same))
    ∧ (at' (.seal d) → x.cls = .append → ok (.seal d) true (BitVec.ofNat 64 f.tail) { f with st := .sealed } same)
    ∧ ∀ (n : Nat) (v : Word), at' (.appnd d n v) → x.cls = .append → 0 < n → memCheck s false x.pa n = none →
      let t := (f.tail + n - 1) / n * n
      let page := x.pa / 65536 * 65536
      (65536 < t + n → ok (.appnd d n v) false (BitVec.allOnes 64) f same)
      ∧ (t + n ≤ 65536 → readersOf s (wordsOf (page + f.tail) (t + n - f.tail)) = [] →
        ok (.appnd d n v) false (BitVec.ofNat 64 t) { f with tail := t + n } (fun a =>
          if page + t ≤ a ∧ a < page + t + n then BitVec.ofNat 8 (v.toNat / 256 ^ (a - (page + t)))
          else if page + f.tail ≤ a ∧ a < page + t then 0
          else memGet s.mem a))

end Sys2Proof

/-- APPEND and SEALED pages: what APPND, TAILQ and SEAL do there, and which accesses trap (R96, R104 to R106). -/
def Obligations.PageClasses : Prop := pageClassTraps ∧ appendPage

namespace Sys2Proof

/-- What a register of a strand reads as; a tile register holds no fixed-latency result. -/
def Machine.Strand.holds (x : Strand) : RegId → Option PVal
  | .s n => some (.word (x.readS n))
  | .k n => some (.word (x.readK n))
  | .ox n => some (.word (x.readOx n))
  | .v n => some (.vec (x.readV n))
  | .m n => some (.mask (x.readM n))
  | .t _ => none

/-- A strand whose two streams have come `k` steps further. -/
def Machine.Strand.after (x : Strand) (k : Nat) : Strand :=
  { x with c := { x.c with step := x.c.step + k }, v := { x.v with step := x.v.step + k } }

/-- The state of a strand beside its registers, its streams and what they wait for is the same. -/
def Machine.Strand.sameRest (x y : Strand) : Prop :=
  y.sys = x.sys ∧ y.q = x.q ∧ y.frames = x.frames ∧ y.dom = x.dom ∧ y.base = x.base ∧ y.spec = x.spec ∧ y.res = x.res
    ∧ y.st = x.st ∧ y.gid = x.gid ∧ y.seg = x.seg ∧ ∀ n, y.readT n = x.readT n

/-- A value of the kind that a register holds. -/
def Machine.PVal.fits : PVal → RegId → Bool
  | .word _, .s _ | .word _, .k _ | .word _, .ox _ | .vec _, .v _ | .mask _, .m _ => true
  | _, _ => false

end Sys2Proof

/-- What a fixed-latency result of latency l leaves (R35, R25): its register reads the old value for fewer than l steps, and the new one
from then on, where l is 2 or more; where l is 1, it reads the new one at once (log entry 10, deduced); every other register and the rest
of the strand stay; s0 stays zero and m0 all ones. -/
def Obligations.ResultLands : Prop :=
  (∀ (x : Strand) (st : Stream) (r : RegId) (p : PVal) (l k : Nat), x.c.pend = [] → x.v.pend = [] →
    (r.inC = true ↔ st = .c) → p.fits r = true →
    let y := ((x.result r p l).after k).landSt st
    (∀ q, q ≠ r → y.holds q = x.holds q) ∧ x.sameRest y
      ∧ (r ≠ .s 0 → r ≠ .m 0 → y.holds r = if k < l ∧ 1 < l then x.holds r else some p)
      ∧ y.readS 0 = 0 ∧ y.readM 0 = BitVec.allOnes 32)
  ∧ ∀ (x : Strand) (st : Stream) (t : Word) (w : Nat),
    (∀ r, ((x.setPc st t).stepped st w).holds r = x.holds r) ∧ x.sameRest ((x.setPc st t).stepped st w)

namespace Sys2Proof

/-- The integer instructions that write one s register and nothing else, with that register (R85, R87, R89, R48). -/
noncomputable def intWrites : Instr → Option Nat
  | .add o | .sub o | .and o | .or o | .xor o | .andn o | .orn o | .xnor o | .shl o | .shr o | .shra o | .rot o | .min o | .max o
  | .minn o | .maxn o | .cmpeq o | .cmplt o | .cmpltn o | .cmple o | .cmplen o | .sel o | .mul o | .mulh o | .mulhn o | .div o
  | .divn o | .rem o | .remn o => some o.d.toNat
  | .clz o | .ctz o | .popc o | .bswap o | .sextb o | .sexth o | .sextw o => some o.d.toNat
  | .addi o | .andi o | .ori o | .xori o => some o.d.toNat
  | .shli o | .shri o | .shrai o | .roti o => some o.d.toNat
  | .bfx o | .bfi o => some o.d.toNat
  | .lui o | .lea o => some o.d.toNat
  | .cAdd o | .cSub o | .cMov o | .cAnd o | .cOr o | .cXor o => some o.d.toNat
  | .cAddi o | .cLi o | .cShli o | .cShri o | .cShrai o => some o.d.toNat
  | _ => none

end Sys2Proof

/-- The frame of the integer instructions (R85, R87, R48): but for the issuing strand the state is the same, and of that strand only
register d, the C-stream's PC, its step count and its pending writes may change; no byte of memory does. -/
def Obligations.IntegerFrame : Prop :=
  ∀ (i : Instr) (d : Nat) (s t : State), intWrites i = some d → s.ready .c → exec i s = .next t →
    t = s.withMe t.me ∧ s.sameMemory t ∧ s.landed.me.sameRest t.me ∧ ∀ r, r ≠ .s d → t.me.holds r = s.landed.me.holds r

/-- What reset leaves (R347): no byte of memory and no table entry but at its reset value, every cluster gated, the chiplet cores but core
0 waiting; no LAUNCH succeeds. The registers of the slots hold zero by log entry 4, part and modules are those of log entry 6, and the
scratchpads of the cores and the lane slices read zero by log entry 7 (the manual gives frames and the chip scratchpads, R257, R258). -/
def Obligations.ResetState : Prop :=
  (∀ a, memGet State.reset.mem a = 0 ∧ memGet State.reset.pmem a = 0 ∧ memGet State.reset.lmem a = 0 ∧ memGet State.reset.dmem a = 0)
  ∧ (∀ i, (State.reset.frame i).st = .ordinary ∧ (State.reset.frame i).owner = 0 ∧ (State.reset.frame i).tail = 0)
  ∧ (∀ n, (State.reset.dom n).st = .dead ∧ (State.reset.dom n).gen = 0)
  ∧ (∀ n, (State.reset.gate n).desc = none ∧ (State.reset.gate n).gen = 1 ∧ (State.reset.gate n).retired = false)
  ∧ (∀ d q, (queueOf State.reset d q).mapped = false)
  ∧ (∀ n, (State.reset.tenant n).tq = 0 ∧ (State.reset.tenant n).dq = 0 ∧ (State.reset.tenant n).dtvec = 0
      ∧ (State.reset.tenant n).otag = 0)
  ∧ (∀ d b, (tblGet .reset (State.reset.die d).blocks b).assigned = false
      ∧ (tblGet .reset (State.reset.die d).blocks b).tenant = 0)
  ∧ (∀ c, c < 32 → State.reset.pkg.gated.getLsbD c = true ∧ State.reset.pkg.gatereq.getLsbD c = true)
  ∧ (∀ n, 1057 ≤ n → n < 1088 → (State.reset.strand (8 * n)).st = .active ∧ (State.reset.strand (8 * n)).c.wait = .interrupt
      ∧ (State.reset.strand (8 * n)).sys.pm = true)
  ∧ ∀ d q, exec (.packetLaunch d q) State.reset = .next State.reset

/-- Words that the spec writes out beside their instructions (R44 to R48, R101, R205, R225) decode to those instructions; a word of a
reserved major decodes to none (R56). -/
def Obligations.DecodeWords : Prop :=
  decodeTableWord 32 0x00A01315 = some (.stw { off := 2, space := 0, base := 1, d := 6 })
  ∧ decodeTableWord 32 0x8032A28B = some (.bfx { n := 0, p := 25, a := 10, d := 5 })
  ∧ decodeTableWord 32 0x1314C59B = some (.acas { w := 0, sp := 2, z := 0, b := 10, a := 12, d := 11, q := 1 })
  ∧ decodeTableWord 32 0x4007B029 = some (.mts { n := 3, a := 27 })
  ∧ decodeTableWord 32 0x664411C3 = some (.vfma { w := 3, m := 1, b := 2, a := 1, d := 3, r := 1 })
  ∧ decodeTableWord 32 0xFE4207ED = some (.vloop { disp := 0xFE4, a := 15 })
  ∧ decodeTableWord 32 0x00022071 = some (.mma { w := 0, x := 1, a := 2, d := 0 })
  ∧ decodeTableWord 16 0xFC34 = some (.cBnz { disp := 0xFC, a := 1 })
  ∧ decodeTableWord 16 0x9016 = some (.cStw { a := 4, d := 0 })
  ∧ decodeTableWord 32 0x00000077 = none

namespace Sys2Proof

/-- A step runs the decoded instruction: where no input is left, the package runs, no stream has anything to note, and the next grant of
the round goes to a stream at no boundary, idling no step, whose bytes at the PC decode, the step is that instruction's meaning there,
and then the cycle that a grant of the C-sequencer counts (R159, R41, R156). -/
def stepRunsDecoded : Prop :=
  (∀ (s : State) (core k : Nat) (st : Stream) (i : Instr) (fx : List Effect),
    s.pkg.frozen = false → s.pkg.mgmt.status = 1 → s.inputs = [] →
    nextNote exec s (liveCores s) = none → nextGrant exec s (turnsLeft s) = some ((core, st), k) →
    let six := 8 * core + k
    let t := (Effect.turn (nextTurn (core, st)).1 (nextTurn (core, st)).2).apply s
    let u := (Effect.core core ((t.core core).granted st k (t.strand six).sys.pri.toNat
      (fun j => requests exec t (8 * core + j) st))).apply t
    (k ≠ 6 ∨ st ≠ .c ∨ hwAtomicStep core u = none) → boundaryOf six st u = none → (u.strand six).idleOf st = 0 →
    fetchInstr u six st = .ok (i, fx) →
    step s = andThen (exec i ((applyAll fx u).focused six st)) (fun v => if st = .c then tick core 1 v else []))
  ∧ ∀ (s : State) (six : Nat) (st : Stream) (bs : List Byte) (fx : List Effect),
    fetchBytes s six st ((s.strand six).pcOf st) = .ok (bs, fx) →
    (∀ i r, decode bs = .ok (i, r) → fetchInstr s six st = .ok (i, fx))
    ∧ ∀ e, decode bs = .error e → fetchInstr s six st
        = .error (.trap { cause := 1, sub := 0, addr := BitVec.ofNat 64 (bytesNat bs), strm := st })

/-- What fetching reads (R9, R41, R42): the halfwords in memory at the translated PC, the second where bit 0 of the first is 1; on a page
that may not be executed a fetch fault, subcode FETCH, with the halfword's address; in the window range WINDOW. -/
def fetchResult : Prop :=
  ∀ (s : State) (six : Nat) (st : Stream) (va : Word),
    (∀ x, inWindow va = false → translate s (coreOf six) (s.strand six).dom (s.strand six).sys.pm va .x = some x → x.cls = .normal →
      x.pod = false → memCheck s true x.pa 2 = none →
      fetchHalf s six st va = .ok (memRead s.mem x.pa 2, x.fx ++ fetchShare s (coreOf six) va x))
    ∧ (inWindow va = false → translate s (coreOf six) (s.strand six).dom (s.strand six).sys.pm va .x = none →
      pageFail s (coreOf six) (s.strand six).dom va = .page →
      fetchHalf s six st va = .error (.trap { cause := 5, sub := 1, addr := va, strm := st }))
    ∧ (inWindow va = true → fetchHalf s six st va = .error (.trap { cause := 6, sub := 3, addr := va, strm := st }))
    ∧ ∀ h fx, fetchHalf s six st va = .ok (h, fx) →
      (h % 2 = 0 → fetchBytes s six st va = .ok (natBytes 2 h, fx))
      ∧ ∀ g gx, h % 2 = 1 → fetchHalf s six st (va + 2) = .ok (g, gx) →
        fetchBytes s six st va = .ok (natBytes 4 (h + 65536 * g), fx ++ gx)

end Sys2Proof

/-- Decoding the encoding of a well-formed instruction gives it back, with whatever follows it in memory. -/
def Obligations.DecodeEncode : Prop :=
  ∀ (i : Instr) (r : List Byte), i.wf = true → i.len ≠ 0 → decode (encodeBytes i ++ r) = .ok (i, r)

/-- Every step keeps the canonical form of the memories and tables, so that equal contents are equal data. -/
def Obligations.StepKeepsWf : Prop :=
  ∀ s t : State, s.wf = true → step s = .next t → t.wf = true

/-- The state right after reset is in canonical form. -/
def Obligations.ResetWf : Prop := State.reset.wf = true

/-- A store of n bytes reads back as its value, little-endian, and leaves every other byte of memory (R9, R93); writing keeps the
canonical form. -/
def Obligations.MemoryReadWrite : Prop :=
  ∀ (m : Memory) (a n v : Nat),
    memRead (memWrite m a n v) a n = v % 256 ^ n
    ∧ (∀ b, b < a ∨ a + n ≤ b → memGet (memWrite m a n v) b = memGet m b)
    ∧ (∀ i, i < n → memGet (memWrite m a n v) (a + i) = BitVec.ofNat 8 (v / 256 ^ i))
    ∧ (Memory.wf m = true → Memory.wf (memWrite m a n v) = true)

/-- A step runs the instruction whose bytes stand at the PC of the stream that is granted (R41, R42, R56, R156, R159). -/
def Obligations.StepRunsDecoded : Prop := stepRunsDecoded ∧ fetchResult

/-- The mask instructions complete on the register fields that R49 and R25 admit (m1 to m7 as a destination mask, m0 to m7 as a source,
k0 to k15), each with its result (R125). -/
def Obligations.MaskInstructions : Prop :=
  (∀ (o : A3) (s : State), s.ready .v → 1 ≤ o.d.toNat → o.d.toNat < 8 → o.a.toNat < 8 → o.b.toNat < 8 →
    let a := s.landed.me.readM o.a.toNat
    let b := s.landed.me.readM o.b.toNat
    exec (.mand o) s = .next ((s.landed.wrote (.m o.d.toNat) (.mask (a &&& b)) 1).ended .v 4 o.w.toNat)
    ∧ exec (.mor o) s = .next ((s.landed.wrote (.m o.d.toNat) (.mask (a ||| b)) 1).ended .v 4 o.w.toNat))
  ∧ ∀ (o : A2) (s : State), s.ready .v → o.a.toNat < 8 →
    let a := s.landed.me.readM o.a.toNat
    let ones := (List.range 32).filter (fun i => a.getLsbD i)
    (1 ≤ o.d.toNat → o.d.toNat < 8 →
      exec (.mnot o) s = .next ((s.landed.wrote (.m o.d.toNat) (.mask (~~~a)) 1).ended .v 4 o.w.toNat))
    ∧ (o.d.toNat < 16 →
      exec (.mpop o) s
        = .next ((s.landed.wrote (.k o.d.toNat) (.word (BitVec.ofNat 64 ones.length)) 2).ended .v 4 o.w.toNat)
      ∧ exec (.mfirst o) s
        = .next ((s.landed.wrote (.k o.d.toNat) (.word (BitVec.ofNat 64 (ones.head?.getD 32))) 2).ended .v 4 o.w.toNat))

end
end

