-- ==== Sys2Proof/Laws/Sparse.lean ====
section
/-! SUPPORT. Sparse tables and memories: a read after a write, writes to one key, and the canonical form, which every
operation keeps. -/

namespace Sys2Proof.Machine

/-! ## Reads after writes -/

theorem tblGet_erase_same (d : α) (t : Tbl α) (k : Nat) : tblGet d (tblErase t k) k = d := by
  induction t with
  | nil => rfl
  | cons p r ih =>
    unfold tblErase at ih ⊢
    by_cases h : p.1 = k
    · rw [List.filter_cons_of_neg (by simp [h])]; exact ih
    · rw [List.filter_cons_of_pos (by simp [h])]
      show (if p.1 = k then p.2 else _) = d
      rw [if_neg h]; exact ih

theorem tblGet_erase_other (d : α) (t : Tbl α) (k j : Nat) (h : j ≠ k) : tblGet d (tblErase t k) j = tblGet d t j := by
  induction t with
  | nil => rfl
  | cons p r ih =>
    unfold tblErase at ih ⊢
    by_cases hk : p.1 = k
    · rw [List.filter_cons_of_neg (by simp [hk]), ih]
      show _ = if p.1 = j then p.2 else tblGet d r j
      rw [if_neg (by omega)]
    · rw [List.filter_cons_of_pos (by simp [hk])]
      show (if p.1 = j then p.2 else _) = if p.1 = j then p.2 else _
      rw [ih]

theorem tblGet_insert_same (d : α) (t : Tbl α) (k : Nat) (v : α) (h : t.all (fun p => p.1 != k) = true) :
    tblGet d (tblInsert k v t) k = v := by
  induction t with
  | nil => simp [tblInsert, tblGet]
  | cons p r ih =>
    simp only [List.all_cons, Bool.and_eq_true, bne_iff_ne] at h
    unfold tblInsert
    split
    · simp [tblGet]
    · simp [tblGet, h.1, ih h.2]

theorem tblGet_insert_other (d : α) (t : Tbl α) (k j : Nat) (v : α) (h : j ≠ k) :
    tblGet d (tblInsert k v t) j = tblGet d t j := by
  induction t with
  | nil => simp [tblInsert, tblGet, Ne.symm h]
  | cons p r ih =>
    unfold tblInsert
    split
    · simp [tblGet, Ne.symm h]
    · simp [tblGet, ih]

theorem tblErase_all (t : Tbl α) (k : Nat) : (tblErase t k).all (fun p => p.1 != k) = true := by
  simp [tblErase, List.all_filter]

/-- A read at the key that was written. -/
@[simp] theorem tblGet_set_same [DecidableEq α] (d : α) (t : Tbl α) (k : Nat) (v : α) : tblGet d (tblSet d t k v) k = v := by
  unfold tblSet
  split
  · rw [tblGet_erase_same]; exact (‹v = d›).symm
  · exact tblGet_insert_same d _ k v (tblErase_all t k)

/-- A read at any other key. -/
theorem tblGet_set_other [DecidableEq α] (d : α) (t : Tbl α) (k j : Nat) (v : α) (h : j ≠ k) :
    tblGet d (tblSet d t k v) j = tblGet d t j := by
  unfold tblSet
  split
  · exact tblGet_erase_other d t k j h
  · rw [tblGet_insert_other d _ k j v h, tblGet_erase_other d t k j h]

theorem tblGet_set [DecidableEq α] (d : α) (t : Tbl α) (k j : Nat) (v : α) :
    tblGet d (tblSet d t k v) j = if j = k then v else tblGet d t j := by
  split
  · subst j; simp
  · exact tblGet_set_other d t k j v ‹_›

theorem tblErase_insert (t : Tbl α) (k : Nat) (v : α) : tblErase (tblInsert k v t) k = tblErase t k := by
  induction t with
  | nil => simp [tblInsert, tblErase]
  | cons p r ih =>
    unfold tblInsert
    split
    · simp [tblErase]
    · unfold tblErase at ih ⊢
      by_cases h : p.1 = k
      · rw [List.filter_cons_of_neg (by simp [h]), List.filter_cons_of_neg (by simp [h]), ih]
      · rw [List.filter_cons_of_pos (by simp [h]), List.filter_cons_of_pos (by simp [h]), ih]

theorem tblErase_erase (t : Tbl α) (k : Nat) : tblErase (tblErase t k) k = tblErase t k := by
  simp [tblErase, List.filter_filter]

/-- The later of two writes to one key. -/
@[simp] theorem tblSet_set [DecidableEq α] (d : α) (t : Tbl α) (k : Nat) (v w : α) :
    tblSet d (tblSet d t k v) k w = tblSet d t k w := by
  have h : tblErase (tblSet d t k v) k = tblErase t k := by
    unfold tblSet
    split
    · exact tblErase_erase t k
    · rw [tblErase_insert, tblErase_erase]
  rw [tblSet, tblSet.eq_1 d t k w, h]

@[simp] theorem memGet_set_same (m : Memory) (a : Nat) (b : Byte) : memGet (memSet m a b) a = b := tblGet_set_same 0 m a b

theorem memGet_set (m : Memory) (a j : Nat) (b : Byte) : memGet (memSet m a b) j = if j = a then b else memGet m j :=
  tblGet_set 0 m a j b

/-- A byte outside the bytes written. -/
theorem memGet_write_other (m : Memory) (a n v j : Nat) (h : j < a ∨ a + n ≤ j) : memGet (memWrite m a n v) j = memGet m j := by
  induction n generalizing m a v with
  | zero => rfl
  | succ n ih =>
    unfold memWrite
    rw [ih _ _ _ (by omega), memGet_set, if_neg (by omega)]

/-- A byte among the bytes written. -/
theorem memGet_write (m : Memory) (a n v i : Nat) (h : i < n) :
    memGet (memWrite m a n v) (a + i) = BitVec.ofNat 8 (v / 256 ^ i) := by
  induction n generalizing m a v i with
  | zero => omega
  | succ n ih =>
    unfold memWrite
    cases i with
    | zero => rw [memGet_write_other _ _ _ _ _ (by omega)]; simp
    | succ i =>
      rw [show a + (i + 1) = a + 1 + i by omega, ih _ _ _ _ (by omega), Nat.div_div_eq_div_mul, Nat.pow_succ']

/-- The number whose bytes were written, read back. -/
theorem memRead_write (m : Memory) (a n v : Nat) : memRead (memWrite m a n v) a n = v % 256 ^ n := by
  have key : ∀ (k i : Nat), i + k = n → memRead (memWrite m a n v) (a + i) k = v / 256 ^ i % 256 ^ k := by
    intro k
    induction k with
    | zero => intro i _; simp [memRead, Nat.mod_one]
    | succ k ih =>
      intro i h
      unfold memRead
      rw [memGet_write _ _ _ _ _ (by omega), show a + i + 1 = a + (i + 1) by omega, ih (i + 1) (by omega)]
      rw [Nat.pow_succ' (m := 256) (n := k), Nat.mod_mul, Nat.pow_succ, ← Nat.div_div_eq_div_mul]
      simp
  simpa using key n 0 (by omega)

/-! ## The canonical form -/

theorem tblSorted_cons (p : Nat × α) (t : Tbl α) :
    tblSorted (p :: t) = true ↔ (∀ q ∈ t, p.1 < q.1) ∧ tblSorted t = true := by
  induction t generalizing p with
  | nil => simp [tblSorted]
  | cons q r ih =>
    obtain ⟨k, v⟩ := p
    obtain ⟨k', v'⟩ := q
    show (decide (k < k') && tblSorted ((k', v') :: r)) = true ↔ _
    rw [Bool.and_eq_true, decide_eq_true_iff, ih]
    constructor
    · rintro ⟨h, h', hs⟩
      refine ⟨?_, h', hs⟩
      intro q hq
      rcases List.mem_cons.mp hq with rfl | hq
      · exact h
      · exact Nat.lt_trans h (h' q hq)
    · rintro ⟨h, h', hs⟩
      exact ⟨h _ List.mem_cons_self, h', hs⟩

theorem tblSorted_filter (p : Nat × α → Bool) (t : Tbl α) (h : tblSorted t = true) : tblSorted (t.filter p) = true := by
  induction t with
  | nil => rfl
  | cons q r ih =>
    rw [tblSorted_cons] at h
    by_cases hp : p q = true
    · rw [List.filter_cons_of_pos hp, tblSorted_cons]
      exact ⟨fun x hx => h.1 x (List.mem_of_mem_filter hx), ih h.2⟩
    · rw [List.filter_cons_of_neg hp]; exact ih h.2

theorem mem_tblInsert (k : Nat) (v : α) (t : Tbl α) (q : Nat × α) (h : q ∈ tblInsert k v t) : q = (k, v) ∨ q ∈ t := by
  induction t with
  | nil => simpa [tblInsert] using h
  | cons p r ih =>
    unfold tblInsert at h
    split at h
    · simpa using h
    · rcases List.mem_cons.mp h with rfl | h
      · exact .inr List.mem_cons_self
      · rcases ih h with h | h
        · exact .inl h
        · exact .inr (List.mem_cons_of_mem _ h)

theorem tblSorted_insert (k : Nat) (v : α) (t : Tbl α) (hk : ∀ q ∈ t, q.1 ≠ k) (h : tblSorted t = true) :
    tblSorted (tblInsert k v t) = true := by
  induction t with
  | nil => rfl
  | cons p r ih =>
    have hp := hk p List.mem_cons_self
    obtain ⟨k', v'⟩ := p
    unfold tblInsert
    split
    · rw [tblSorted_cons]
      refine ⟨?_, h⟩
      intro q hq
      rw [tblSorted_cons] at h
      rcases List.mem_cons.mp hq with rfl | hq
      · assumption
      · exact Nat.lt_trans ‹k < k'› (h.1 q hq)
    · rw [tblSorted_cons] at h ⊢
      refine ⟨?_, ih (fun q hq => hk q (List.mem_cons_of_mem _ hq)) h.2⟩
      intro q hq
      rcases mem_tblInsert k v r q hq with rfl | hq
      · show k' < k
        have : k' ≠ k := hp
        omega
      · exact h.1 q hq

theorem tblWf_iff [DecidableEq α] (d : α) (t : Tbl α) : tblWf d t = true ↔ tblSorted t = true ∧ ∀ q ∈ t, q.2 ≠ d := by
  simp [tblWf]

theorem tblWf_filter [DecidableEq α] (d : α) (p : Nat × α → Bool) (t : Tbl α) (h : tblWf d t = true) :
    tblWf d (t.filter p) = true := by
  rw [tblWf_iff] at h ⊢
  exact ⟨tblSorted_filter p t h.1, fun q hq => h.2 q (List.mem_of_mem_filter hq)⟩

/-- A write keeps the canonical form. -/
theorem tblWf_set [DecidableEq α] (d : α) (t : Tbl α) (k : Nat) (v : α) (h : tblWf d t = true) :
    tblWf d (tblSet d t k v) = true := by
  unfold tblSet
  have he : tblWf d (tblErase t k) = true := tblWf_filter d _ t h
  split
  · exact he
  · rw [tblWf_iff] at he ⊢
    refine ⟨tblSorted_insert k v _ (fun q hq => by simpa using (List.of_mem_filter hq)) he.1, fun q hq => ?_⟩
    rcases mem_tblInsert k v _ q hq with rfl | hq
    · assumption
    · exact he.2 q hq

/-- Clearing keys keeps the canonical form. -/
theorem tblWf_clear [DecidableEq α] (d : α) (t : Tbl α) (lo hi : Nat) (h : tblWf d t = true) :
    tblWf d (tblClear t lo hi) = true := tblWf_filter d _ t h

/-- Changing every listed value keeps the canonical form. -/
theorem tblWf_map [DecidableEq α] (d : α) (f : Nat → α → α) (t : Tbl α) (h : tblWf d t = true) :
    tblWf d (tblMap d f t) = true := by
  rw [tblWf_iff] at h
  rw [tblWf_iff]
  constructor
  · apply tblSorted_filter
    have hs := h.1
    clear h
    induction t with
    | nil => rfl
    | cons p r ih =>
      rw [tblSorted_cons] at hs
      rw [List.map_cons, tblSorted_cons]
      refine ⟨?_, ih hs.2⟩
      intro q hq
      obtain ⟨x, hx, rfl⟩ := List.mem_map.mp hq
      exact hs.1 x hx
  · intro q hq
    simpa using List.of_mem_filter hq

theorem memWf_set (m : Memory) (a : Nat) (b : Byte) (h : Memory.wf m = true) : Memory.wf (memSet m a b) = true :=
  tblWf_set 0 m a b h

theorem memWf_write (m : Memory) (a n v : Nat) (h : Memory.wf m = true) : Memory.wf (memWrite m a n v) = true := by
  induction n generalizing m a v with
  | zero => exact h
  | succ n ih => exact ih _ _ _ (memWf_set m a _ h)

theorem memWf_clear (m : Memory) (lo hi : Nat) (h : Memory.wf m = true) : Memory.wf (tblClear m lo hi) = true :=
  tblWf_clear 0 m lo hi h

end Sys2Proof.Machine
end

