-- ==== Sys2Proof/Laws/State.lean ====
section
/-! SUPPORT. What each update of the state leaves in each of its fields: one simp lemma for a field, over every effect of
Prog.lean; and one for a field of a strand, over every update of Ops.lean. No later proof unfolds a record update. -/

namespace Sys2Proof.Machine

/-! ## Fields of the state after an effect -/

@[simp] theorem apply_cfg (e : Effect) (s : State) : (e.apply s).cfg = s.cfg := by cases e <;> rfl

@[simp] theorem apply_strands (e : Effect) (s : State) : (e.apply s).strands =
    match e with
    | .strand n x => tblSet .free s.strands n x
    | .reset => (State.resetOf s.cfg).strands
    | _ => s.strands := by cases e <;> rfl

@[simp] theorem apply_cores (e : Effect) (s : State) : (e.apply s).cores =
    match e with
    | .core n x => tblSet .idle s.cores n x
    | .reset => (State.resetOf s.cfg).cores
    | _ => s.cores := by cases e <;> rfl

@[simp] theorem apply_clusters (e : Effect) (s : State) : (e.apply s).clusters =
    match e with
    | .cluster n x => tblSet .idle s.clusters n x
    | .reset => (State.resetOf s.cfg).clusters
    | _ => s.clusters := by cases e <;> rfl

@[simp] theorem apply_dies (e : Effect) (s : State) : (e.apply s).dies =
    match e with
    | .die n x => tblSet .idle s.dies n x
    | .reset => (State.resetOf s.cfg).dies
    | _ => s.dies := by cases e <;> rfl

@[simp] theorem apply_pkg (e : Effect) (s : State) : (e.apply s).pkg =
    match e with
    | .pkg x => x
    | .reset => (State.resetOf s.cfg).pkg
    | _ => s.pkg := by cases e <;> rfl

@[simp] theorem apply_mem (e : Effect) (s : State) : (e.apply s).mem =
    match e with
    | .mem a n v => memWrite s.mem a n v
    | .memClear lo hi => tblClear s.mem lo hi
    | .reset => (State.resetOf s.cfg).mem
    | _ => s.mem := by cases e <;> rfl

@[simp] theorem apply_pmem (e : Effect) (s : State) : (e.apply s).pmem =
    match e with
    | .pmem a n v => memWrite s.pmem a n v
    | .pmemClear lo hi => tblClear s.pmem lo hi
    | .reset => (State.resetOf s.cfg).pmem
    | _ => s.pmem := by cases e <;> rfl

@[simp] theorem apply_lmem (e : Effect) (s : State) : (e.apply s).lmem =
    match e with
    | .lmem a n v => memWrite s.lmem a n v
    | .lmemClear lo hi => tblClear s.lmem lo hi
    | .reset => (State.resetOf s.cfg).lmem
    | _ => s.lmem := by cases e <;> rfl

@[simp] theorem apply_dmem (e : Effect) (s : State) : (e.apply s).dmem =
    match e with
    | .dmem a n v => memWrite s.dmem a n v
    | .dmemClear lo hi => tblClear s.dmem lo hi
    | .reset => (State.resetOf s.cfg).dmem
    | _ => s.dmem := by cases e <;> rfl

@[simp] theorem apply_doms (e : Effect) (s : State) : (e.apply s).doms =
    match e with
    | .dom n x => tblSet .dead s.doms n x
    | .reset => (State.resetOf s.cfg).doms
    | _ => s.doms := by cases e <;> rfl

@[simp] theorem apply_gates (e : Effect) (s : State) : (e.apply s).gates =
    match e with
    | .gate n x => tblSet .free s.gates n x
    | .reset => (State.resetOf s.cfg).gates
    | _ => s.gates := by cases e <;> rfl

@[simp] theorem apply_frames (e : Effect) (s : State) : (e.apply s).frames =
    match e with
    | .frame n x => tblSet .reset s.frames n x
    | .reset => (State.resetOf s.cfg).frames
    | _ => s.frames := by cases e <;> rfl

@[simp] theorem apply_tenants (e : Effect) (s : State) : (e.apply s).tenants =
    match e with
    | .tenant n x => tblSet .reset s.tenants n x
    | .reset => (State.resetOf s.cfg).tenants
    | _ => s.tenants := by cases e <;> rfl

@[simp] theorem apply_groups (e : Effect) (s : State) : (e.apply s).groups =
    match e with
    | .group n x => tblSet none s.groups n x
    | .reset => (State.resetOf s.cfg).groups
    | _ => s.groups := by cases e <;> rfl

@[simp] theorem apply_tasks (e : Effect) (s : State) : (e.apply s).tasks =
    match e with
    | .task n x => tblSet none s.tasks n x
    | .reset => (State.resetOf s.cfg).tasks
    | _ => s.tasks := by cases e <;> rfl

@[simp] theorem apply_counters (e : Effect) (s : State) : (e.apply s).counters =
    match e with
    | .counter n x => tblSet .free s.counters n x
    | .reset => (State.resetOf s.cfg).counters
    | _ => s.counters := by cases e <;> rfl

@[simp] theorem apply_bells (e : Effect) (s : State) : (e.apply s).bells =
    match e with
    | .bell n x => tblSet .fresh s.bells n x
    | .reset => (State.resetOf s.cfg).bells
    | _ => s.bells := by cases e <;> rfl

@[simp] theorem apply_l1 (e : Effect) (s : State) : (e.apply s).l1 =
    match e with
    | .l1 n x => tblSet .empty s.l1 n x
    | .reset => (State.resetOf s.cfg).l1
    | _ => s.l1 := by cases e <;> rfl

@[simp] theorem apply_tlb (e : Effect) (s : State) : (e.apply s).tlb =
    match e with
    | .tlb n x => tblSet none s.tlb n x
    | .reset => (State.resetOf s.cfg).tlb
    | _ => s.tlb := by cases e <;> rfl

@[simp] theorem apply_dir (e : Effect) (s : State) : (e.apply s).dir =
    match e with
    | .dir n x => tblSet .none s.dir n x
    | .reset => (State.resetOf s.cfg).dir
    | _ => s.dir := by cases e <;> rfl

@[simp] theorem apply_held (e : Effect) (s : State) : (e.apply s).held =
    match e with
    | .held x => x
    | .reset => (State.resetOf s.cfg).held
    | _ => s.held := by cases e <;> rfl

@[simp] theorem apply_syncs (e : Effect) (s : State) : (e.apply s).syncs =
    match e with
    | .syncs x => x
    | .reset => (State.resetOf s.cfg).syncs
    | _ => s.syncs := by cases e <;> rfl

@[simp] theorem apply_poison (e : Effect) (s : State) : (e.apply s).poison =
    match e with
    | .poison n x => tblSet false s.poison n x
    | .reset => (State.resetOf s.cfg).poison
    | _ => s.poison := by cases e <;> rfl

@[simp] theorem apply_outputs (e : Effect) (s : State) : (e.apply s).outputs =
    match e with
    | .output x => s.outputs ++ [x]
    | _ => s.outputs := by cases e <;> rfl

@[simp] theorem apply_inputs (e : Effect) (s : State) : (e.apply s).inputs =
    match e with
    | .inputs x => x
    | _ => s.inputs := by cases e <;> rfl

@[simp] theorem apply_oracle (e : Effect) (s : State) : (e.apply s).oracle =
    match e with
    | .oracle x => x
    | _ => s.oracle := by cases e <;> rfl

@[simp] theorem apply_turn (e : Effect) (s : State) : (e.apply s).turn =
    match e with
    | .turn c st => (c, st)
    | .reset => (State.resetOf s.cfg).turn
    | _ => s.turn := by cases e <;> rfl

@[simp] theorem apply_focus (e : Effect) (s : State) : (e.apply s).focus =
    match e with
    | .focus n st => (n, st)
    | .reset => (State.resetOf s.cfg).focus
    | _ => s.focus := by cases e <;> rfl

@[simp] theorem apply_cycle (e : Effect) (s : State) : (e.apply s).cycle =
    match e with
    | .cycle n => n
    | .reset => (State.resetOf s.cfg).cycle
    | _ => s.cycle := by cases e <;> rfl

@[simp] theorem apply_nextId (e : Effect) (s : State) : (e.apply s).nextId =
    match e with
    | .fresh => s.nextId + 1
    | .reset => 1
    | _ => s.nextId := by cases e <;> rfl

/-! ## Fields of a strand after an update -/

@[simp] theorem setPc_st (x : Strand) (st : Stream) (pc : Word) : (x.setPc st pc).st = x.st := by cases st <;> rfl
@[simp] theorem setPc_job (x : Strand) (st : Stream) (pc : Word) : (x.setPc st pc).job = x.job := by cases st <;> rfl
@[simp] theorem setPc_gid (x : Strand) (st : Stream) (pc : Word) : (x.setPc st pc).gid = x.gid := by cases st <;> rfl
@[simp] theorem setPc_dom (x : Strand) (st : Stream) (pc : Word) : (x.setPc st pc).dom = x.dom := by cases st <;> rfl
@[simp] theorem setPc_base (x : Strand) (st : Stream) (pc : Word) : (x.setPc st pc).base = x.base := by cases st <;> rfl
@[simp] theorem setPc_spec (x : Strand) (st : Stream) (pc : Word) : (x.setPc st pc).spec = x.spec := by cases st <;> rfl
@[simp] theorem setPc_sys (x : Strand) (st : Stream) (pc : Word) : (x.setPc st pc).sys = x.sys := by cases st <;> rfl
@[simp] theorem setPc_q (x : Strand) (st : Stream) (pc : Word) : (x.setPc st pc).q = x.q := by cases st <;> rfl
@[simp] theorem setPc_await (x : Strand) (st : Stream) (pc : Word) : (x.setPc st pc).await = x.await := by cases st <;> rfl
@[simp] theorem setPc_res (x : Strand) (st : Stream) (pc : Word) : (x.setPc st pc).res = x.res := by cases st <;> rfl
@[simp] theorem setPc_resAt (x : Strand) (st : Stream) (pc : Word) : (x.setPc st pc).resAt = x.resAt := by cases st <;> rfl
@[simp] theorem setPc_frames (x : Strand) (st : Stream) (pc : Word) : (x.setPc st pc).frames = x.frames := by cases st <;> rfl
@[simp] theorem setPc_tops (x : Strand) (st : Stream) (pc : Word) : (x.setPc st pc).tops = x.tops := by cases st <;> rfl
@[simp] theorem setPc_seg (x : Strand) (st : Stream) (pc : Word) : (x.setPc st pc).seg = x.seg := by cases st <;> rfl
@[simp] theorem setPc_unw (x : Strand) (st : Stream) (pc : Word) : (x.setPc st pc).unw = x.unw := by cases st <;> rfl
@[simp] theorem setPc_inTrap (x : Strand) (st : Stream) (pc : Word) : (x.setPc st pc).inTrap = x.inTrap := by cases st <;> rfl
@[simp] theorem setPc_nest (x : Strand) (st : Stream) (pc : Word) : (x.setPc st pc).nest = x.nest := by cases st <;> rfl
@[simp] theorem setPc_entry (x : Strand) (st : Stream) (pc : Word) : (x.setPc st pc).entry = x.entry := by cases st <;> rfl
@[simp] theorem setPc_aligned (x : Strand) (st : Stream) (pc : Word) : (x.setPc st pc).aligned = x.aligned := by cases st <;> rfl
@[simp] theorem setPc_replied (x : Strand) (st : Stream) (pc : Word) : (x.setPc st pc).replied = x.replied := by cases st <;> rfl
@[simp] theorem setPc_got (x : Strand) (st : Stream) (pc : Word) : (x.setPc st pc).got = x.got := by cases st <;> rfl
@[simp] theorem setPc_due (x : Strand) (st : Stream) (pc : Word) : (x.setPc st pc).due = x.due := by cases st <;> rfl
@[simp] theorem setPc_bell (x : Strand) (st : Stream) (pc : Word) : (x.setPc st pc).bell = x.bell := by cases st <;> rfl
@[simp] theorem setPc_region (x : Strand) (st : Stream) (pc : Word) : (x.setPc st pc).region = x.region := by cases st <;> rfl
@[simp] theorem setPc_parks (x : Strand) (st : Stream) (pc : Word) : (x.setPc st pc).parks = x.parks := by cases st <;> rfl
@[simp] theorem setPc_podWin (x : Strand) (st : Stream) (pc : Word) : (x.setPc st pc).podWin = x.podWin := by cases st <;> rfl
@[simp] theorem setPc_preempt (x : Strand) (st : Stream) (pc : Word) : (x.setPc st pc).preempt = x.preempt := by cases st <;> rfl

@[simp] theorem setWait_st (x : Strand) (st : Stream) (w : Wait) : (x.setWait st w).st = x.st := by cases st <;> rfl
@[simp] theorem setWait_job (x : Strand) (st : Stream) (w : Wait) : (x.setWait st w).job = x.job := by cases st <;> rfl
@[simp] theorem setWait_gid (x : Strand) (st : Stream) (w : Wait) : (x.setWait st w).gid = x.gid := by cases st <;> rfl
@[simp] theorem setWait_dom (x : Strand) (st : Stream) (w : Wait) : (x.setWait st w).dom = x.dom := by cases st <;> rfl
@[simp] theorem setWait_base (x : Strand) (st : Stream) (w : Wait) : (x.setWait st w).base = x.base := by cases st <;> rfl
@[simp] theorem setWait_spec (x : Strand) (st : Stream) (w : Wait) : (x.setWait st w).spec = x.spec := by cases st <;> rfl
@[simp] theorem setWait_sys (x : Strand) (st : Stream) (w : Wait) : (x.setWait st w).sys = x.sys := by cases st <;> rfl
@[simp] theorem setWait_q (x : Strand) (st : Stream) (w : Wait) : (x.setWait st w).q = x.q := by cases st <;> rfl
@[simp] theorem setWait_await (x : Strand) (st : Stream) (w : Wait) : (x.setWait st w).await = x.await := by cases st <;> rfl
@[simp] theorem setWait_res (x : Strand) (st : Stream) (w : Wait) : (x.setWait st w).res = x.res := by cases st <;> rfl
@[simp] theorem setWait_resAt (x : Strand) (st : Stream) (w : Wait) : (x.setWait st w).resAt = x.resAt := by cases st <;> rfl
@[simp] theorem setWait_frames (x : Strand) (st : Stream) (w : Wait) : (x.setWait st w).frames = x.frames := by cases st <;> rfl
@[simp] theorem setWait_tops (x : Strand) (st : Stream) (w : Wait) : (x.setWait st w).tops = x.tops := by cases st <;> rfl
@[simp] theorem setWait_seg (x : Strand) (st : Stream) (w : Wait) : (x.setWait st w).seg = x.seg := by cases st <;> rfl
@[simp] theorem setWait_unw (x : Strand) (st : Stream) (w : Wait) : (x.setWait st w).unw = x.unw := by cases st <;> rfl
@[simp] theorem setWait_inTrap (x : Strand) (st : Stream) (w : Wait) : (x.setWait st w).inTrap = x.inTrap := by cases st <;> rfl
@[simp] theorem setWait_nest (x : Strand) (st : Stream) (w : Wait) : (x.setWait st w).nest = x.nest := by cases st <;> rfl
@[simp] theorem setWait_entry (x : Strand) (st : Stream) (w : Wait) : (x.setWait st w).entry = x.entry := by cases st <;> rfl
@[simp] theorem setWait_aligned (x : Strand) (st : Stream) (w : Wait) : (x.setWait st w).aligned = x.aligned := by cases st <;> rfl
@[simp] theorem setWait_replied (x : Strand) (st : Stream) (w : Wait) : (x.setWait st w).replied = x.replied := by cases st <;> rfl
@[simp] theorem setWait_got (x : Strand) (st : Stream) (w : Wait) : (x.setWait st w).got = x.got := by cases st <;> rfl
@[simp] theorem setWait_due (x : Strand) (st : Stream) (w : Wait) : (x.setWait st w).due = x.due := by cases st <;> rfl
@[simp] theorem setWait_bell (x : Strand) (st : Stream) (w : Wait) : (x.setWait st w).bell = x.bell := by cases st <;> rfl
@[simp] theorem setWait_region (x : Strand) (st : Stream) (w : Wait) : (x.setWait st w).region = x.region := by cases st <;> rfl
@[simp] theorem setWait_parks (x : Strand) (st : Stream) (w : Wait) : (x.setWait st w).parks = x.parks := by cases st <;> rfl
@[simp] theorem setWait_podWin (x : Strand) (st : Stream) (w : Wait) : (x.setWait st w).podWin = x.podWin := by cases st <;> rfl
@[simp] theorem setWait_preempt (x : Strand) (st : Stream) (w : Wait) : (x.setWait st w).preempt = x.preempt := by cases st <;> rfl

@[simp] theorem stepped_st (x : Strand) (st : Stream) (w : Nat) : (x.stepped st w).st = x.st := by cases st <;> rfl
@[simp] theorem stepped_job (x : Strand) (st : Stream) (w : Nat) : (x.stepped st w).job = x.job := by cases st <;> rfl
@[simp] theorem stepped_gid (x : Strand) (st : Stream) (w : Nat) : (x.stepped st w).gid = x.gid := by cases st <;> rfl
@[simp] theorem stepped_dom (x : Strand) (st : Stream) (w : Nat) : (x.stepped st w).dom = x.dom := by cases st <;> rfl
@[simp] theorem stepped_base (x : Strand) (st : Stream) (w : Nat) : (x.stepped st w).base = x.base := by cases st <;> rfl
@[simp] theorem stepped_spec (x : Strand) (st : Stream) (w : Nat) : (x.stepped st w).spec = x.spec := by cases st <;> rfl
@[simp] theorem stepped_sys (x : Strand) (st : Stream) (w : Nat) : (x.stepped st w).sys = x.sys := by cases st <;> rfl
@[simp] theorem stepped_q (x : Strand) (st : Stream) (w : Nat) : (x.stepped st w).q = x.q := by cases st <;> rfl
@[simp] theorem stepped_await (x : Strand) (st : Stream) (w : Nat) : (x.stepped st w).await = x.await := by cases st <;> rfl
@[simp] theorem stepped_res (x : Strand) (st : Stream) (w : Nat) : (x.stepped st w).res = x.res := by cases st <;> rfl
@[simp] theorem stepped_resAt (x : Strand) (st : Stream) (w : Nat) : (x.stepped st w).resAt = x.resAt := by cases st <;> rfl
@[simp] theorem stepped_frames (x : Strand) (st : Stream) (w : Nat) : (x.stepped st w).frames = x.frames := by cases st <;> rfl
@[simp] theorem stepped_tops (x : Strand) (st : Stream) (w : Nat) : (x.stepped st w).tops = x.tops := by cases st <;> rfl
@[simp] theorem stepped_seg (x : Strand) (st : Stream) (w : Nat) : (x.stepped st w).seg = x.seg := by cases st <;> rfl
@[simp] theorem stepped_unw (x : Strand) (st : Stream) (w : Nat) : (x.stepped st w).unw = x.unw := by cases st <;> rfl
@[simp] theorem stepped_inTrap (x : Strand) (st : Stream) (w : Nat) : (x.stepped st w).inTrap = x.inTrap := by cases st <;> rfl
@[simp] theorem stepped_nest (x : Strand) (st : Stream) (w : Nat) : (x.stepped st w).nest = x.nest := by cases st <;> rfl
@[simp] theorem stepped_aligned (x : Strand) (st : Stream) (w : Nat) : (x.stepped st w).aligned = x.aligned := by cases st <;> rfl
@[simp] theorem stepped_replied (x : Strand) (st : Stream) (w : Nat) : (x.stepped st w).replied = x.replied := by cases st <;> rfl
@[simp] theorem stepped_due (x : Strand) (st : Stream) (w : Nat) : (x.stepped st w).due = x.due := by cases st <;> rfl
@[simp] theorem stepped_bell (x : Strand) (st : Stream) (w : Nat) : (x.stepped st w).bell = x.bell := by cases st <;> rfl
@[simp] theorem stepped_region (x : Strand) (st : Stream) (w : Nat) : (x.stepped st w).region = x.region := by cases st <;> rfl
@[simp] theorem stepped_parks (x : Strand) (st : Stream) (w : Nat) : (x.stepped st w).parks = x.parks := by cases st <;> rfl
@[simp] theorem stepped_podWin (x : Strand) (st : Stream) (w : Nat) : (x.stepped st w).podWin = x.podWin := by cases st <;> rfl
@[simp] theorem stepped_preempt (x : Strand) (st : Stream) (w : Nat) : (x.stepped st w).preempt = x.preempt := by cases st <;> rfl

@[simp] theorem dropPend_st (x : Strand) (r : RegId) : (x.dropPend r).st = x.st := by unfold Strand.dropPend; split <;> rfl
@[simp] theorem dropPend_job (x : Strand) (r : RegId) : (x.dropPend r).job = x.job := by unfold Strand.dropPend; split <;> rfl
@[simp] theorem dropPend_gid (x : Strand) (r : RegId) : (x.dropPend r).gid = x.gid := by unfold Strand.dropPend; split <;> rfl
@[simp] theorem dropPend_dom (x : Strand) (r : RegId) : (x.dropPend r).dom = x.dom := by unfold Strand.dropPend; split <;> rfl
@[simp] theorem dropPend_base (x : Strand) (r : RegId) : (x.dropPend r).base = x.base := by unfold Strand.dropPend; split <;> rfl
@[simp] theorem dropPend_spec (x : Strand) (r : RegId) : (x.dropPend r).spec = x.spec := by unfold Strand.dropPend; split <;> rfl
@[simp] theorem dropPend_sys (x : Strand) (r : RegId) : (x.dropPend r).sys = x.sys := by unfold Strand.dropPend; split <;> rfl
@[simp] theorem dropPend_q (x : Strand) (r : RegId) : (x.dropPend r).q = x.q := by unfold Strand.dropPend; split <;> rfl
@[simp] theorem dropPend_await (x : Strand) (r : RegId) : (x.dropPend r).await = x.await := by unfold Strand.dropPend; split <;> rfl
@[simp] theorem dropPend_res (x : Strand) (r : RegId) : (x.dropPend r).res = x.res := by unfold Strand.dropPend; split <;> rfl
@[simp] theorem dropPend_resAt (x : Strand) (r : RegId) : (x.dropPend r).resAt = x.resAt := by unfold Strand.dropPend; split <;> rfl
@[simp] theorem dropPend_frames (x : Strand) (r : RegId) : (x.dropPend r).frames = x.frames := by unfold Strand.dropPend; split <;> rfl
@[simp] theorem dropPend_tops (x : Strand) (r : RegId) : (x.dropPend r).tops = x.tops := by unfold Strand.dropPend; split <;> rfl
@[simp] theorem dropPend_seg (x : Strand) (r : RegId) : (x.dropPend r).seg = x.seg := by unfold Strand.dropPend; split <;> rfl
@[simp] theorem dropPend_unw (x : Strand) (r : RegId) : (x.dropPend r).unw = x.unw := by unfold Strand.dropPend; split <;> rfl
@[simp] theorem dropPend_inTrap (x : Strand) (r : RegId) : (x.dropPend r).inTrap = x.inTrap := by unfold Strand.dropPend; split <;> rfl
@[simp] theorem dropPend_nest (x : Strand) (r : RegId) : (x.dropPend r).nest = x.nest := by unfold Strand.dropPend; split <;> rfl
@[simp] theorem dropPend_entry (x : Strand) (r : RegId) : (x.dropPend r).entry = x.entry := by unfold Strand.dropPend; split <;> rfl
@[simp] theorem dropPend_aligned (x : Strand) (r : RegId) : (x.dropPend r).aligned = x.aligned := by unfold Strand.dropPend; split <;> rfl
@[simp] theorem dropPend_replied (x : Strand) (r : RegId) : (x.dropPend r).replied = x.replied := by unfold Strand.dropPend; split <;> rfl
@[simp] theorem dropPend_got (x : Strand) (r : RegId) : (x.dropPend r).got = x.got := by unfold Strand.dropPend; split <;> rfl
@[simp] theorem dropPend_due (x : Strand) (r : RegId) : (x.dropPend r).due = x.due := by unfold Strand.dropPend; split <;> rfl
@[simp] theorem dropPend_bell (x : Strand) (r : RegId) : (x.dropPend r).bell = x.bell := by unfold Strand.dropPend; split <;> rfl
@[simp] theorem dropPend_region (x : Strand) (r : RegId) : (x.dropPend r).region = x.region := by unfold Strand.dropPend; split <;> rfl
@[simp] theorem dropPend_parks (x : Strand) (r : RegId) : (x.dropPend r).parks = x.parks := by unfold Strand.dropPend; split <;> rfl
@[simp] theorem dropPend_podWin (x : Strand) (r : RegId) : (x.dropPend r).podWin = x.podWin := by unfold Strand.dropPend; split <;> rfl
@[simp] theorem dropPend_preempt (x : Strand) (r : RegId) : (x.dropPend r).preempt = x.preempt := by unfold Strand.dropPend; split <;> rfl

@[simp] theorem setReg_st (x : Strand) (r : RegId) (p : PVal) : (x.setReg r p).st = x.st := by unfold Strand.setReg; split <;> first | rfl | (split <;> rfl)
@[simp] theorem setReg_job (x : Strand) (r : RegId) (p : PVal) : (x.setReg r p).job = x.job := by unfold Strand.setReg; split <;> first | rfl | (split <;> rfl)
@[simp] theorem setReg_gid (x : Strand) (r : RegId) (p : PVal) : (x.setReg r p).gid = x.gid := by unfold Strand.setReg; split <;> first | rfl | (split <;> rfl)
@[simp] theorem setReg_dom (x : Strand) (r : RegId) (p : PVal) : (x.setReg r p).dom = x.dom := by unfold Strand.setReg; split <;> first | rfl | (split <;> rfl)
@[simp] theorem setReg_base (x : Strand) (r : RegId) (p : PVal) : (x.setReg r p).base = x.base := by unfold Strand.setReg; split <;> first | rfl | (split <;> rfl)
@[simp] theorem setReg_spec (x : Strand) (r : RegId) (p : PVal) : (x.setReg r p).spec = x.spec := by unfold Strand.setReg; split <;> first | rfl | (split <;> rfl)
@[simp] theorem setReg_sys (x : Strand) (r : RegId) (p : PVal) : (x.setReg r p).sys = x.sys := by unfold Strand.setReg; split <;> first | rfl | (split <;> rfl)
@[simp] theorem setReg_q (x : Strand) (r : RegId) (p : PVal) : (x.setReg r p).q = x.q := by unfold Strand.setReg; split <;> first | rfl | (split <;> rfl)
@[simp] theorem setReg_await (x : Strand) (r : RegId) (p : PVal) : (x.setReg r p).await = x.await := by unfold Strand.setReg; split <;> first | rfl | (split <;> rfl)
@[simp] theorem setReg_res (x : Strand) (r : RegId) (p : PVal) : (x.setReg r p).res = x.res := by unfold Strand.setReg; split <;> first | rfl | (split <;> rfl)
@[simp] theorem setReg_resAt (x : Strand) (r : RegId) (p : PVal) : (x.setReg r p).resAt = x.resAt := by unfold Strand.setReg; split <;> first | rfl | (split <;> rfl)
@[simp] theorem setReg_frames (x : Strand) (r : RegId) (p : PVal) : (x.setReg r p).frames = x.frames := by unfold Strand.setReg; split <;> first | rfl | (split <;> rfl)
@[simp] theorem setReg_tops (x : Strand) (r : RegId) (p : PVal) : (x.setReg r p).tops = x.tops := by unfold Strand.setReg; split <;> first | rfl | (split <;> rfl)
@[simp] theorem setReg_seg (x : Strand) (r : RegId) (p : PVal) : (x.setReg r p).seg = x.seg := by unfold Strand.setReg; split <;> first | rfl | (split <;> rfl)
@[simp] theorem setReg_unw (x : Strand) (r : RegId) (p : PVal) : (x.setReg r p).unw = x.unw := by unfold Strand.setReg; split <;> first | rfl | (split <;> rfl)
@[simp] theorem setReg_inTrap (x : Strand) (r : RegId) (p : PVal) : (x.setReg r p).inTrap = x.inTrap := by unfold Strand.setReg; split <;> first | rfl | (split <;> rfl)
@[simp] theorem setReg_nest (x : Strand) (r : RegId) (p : PVal) : (x.setReg r p).nest = x.nest := by unfold Strand.setReg; split <;> first | rfl | (split <;> rfl)
@[simp] theorem setReg_entry (x : Strand) (r : RegId) (p : PVal) : (x.setReg r p).entry = x.entry := by unfold Strand.setReg; split <;> first | rfl | (split <;> rfl)
@[simp] theorem setReg_aligned (x : Strand) (r : RegId) (p : PVal) : (x.setReg r p).aligned = x.aligned := by unfold Strand.setReg; split <;> first | rfl | (split <;> rfl)
@[simp] theorem setReg_replied (x : Strand) (r : RegId) (p : PVal) : (x.setReg r p).replied = x.replied := by unfold Strand.setReg; split <;> first | rfl | (split <;> rfl)
@[simp] theorem setReg_got (x : Strand) (r : RegId) (p : PVal) : (x.setReg r p).got = x.got := by unfold Strand.setReg; split <;> first | rfl | (split <;> rfl)
@[simp] theorem setReg_due (x : Strand) (r : RegId) (p : PVal) : (x.setReg r p).due = x.due := by unfold Strand.setReg; split <;> first | rfl | (split <;> rfl)
@[simp] theorem setReg_bell (x : Strand) (r : RegId) (p : PVal) : (x.setReg r p).bell = x.bell := by unfold Strand.setReg; split <;> first | rfl | (split <;> rfl)
@[simp] theorem setReg_region (x : Strand) (r : RegId) (p : PVal) : (x.setReg r p).region = x.region := by unfold Strand.setReg; split <;> first | rfl | (split <;> rfl)
@[simp] theorem setReg_parks (x : Strand) (r : RegId) (p : PVal) : (x.setReg r p).parks = x.parks := by unfold Strand.setReg; split <;> first | rfl | (split <;> rfl)
@[simp] theorem setReg_podWin (x : Strand) (r : RegId) (p : PVal) : (x.setReg r p).podWin = x.podWin := by unfold Strand.setReg; split <;> first | rfl | (split <;> rfl)
@[simp] theorem setReg_preempt (x : Strand) (r : RegId) (p : PVal) : (x.setReg r p).preempt = x.preempt := by unfold Strand.setReg; split <;> first | rfl | (split <;> rfl)

@[simp] theorem write_st (x : Strand) (r : RegId) (p : PVal) : (x.write r p).st = x.st := by simp [Strand.write]
@[simp] theorem write_job (x : Strand) (r : RegId) (p : PVal) : (x.write r p).job = x.job := by simp [Strand.write]
@[simp] theorem write_gid (x : Strand) (r : RegId) (p : PVal) : (x.write r p).gid = x.gid := by simp [Strand.write]
@[simp] theorem write_dom (x : Strand) (r : RegId) (p : PVal) : (x.write r p).dom = x.dom := by simp [Strand.write]
@[simp] theorem write_base (x : Strand) (r : RegId) (p : PVal) : (x.write r p).base = x.base := by simp [Strand.write]
@[simp] theorem write_spec (x : Strand) (r : RegId) (p : PVal) : (x.write r p).spec = x.spec := by simp [Strand.write]
@[simp] theorem write_sys (x : Strand) (r : RegId) (p : PVal) : (x.write r p).sys = x.sys := by simp [Strand.write]
@[simp] theorem write_q (x : Strand) (r : RegId) (p : PVal) : (x.write r p).q = x.q := by simp [Strand.write]
@[simp] theorem write_await (x : Strand) (r : RegId) (p : PVal) : (x.write r p).await = x.await := by simp [Strand.write]
@[simp] theorem write_res (x : Strand) (r : RegId) (p : PVal) : (x.write r p).res = x.res := by simp [Strand.write]
@[simp] theorem write_resAt (x : Strand) (r : RegId) (p : PVal) : (x.write r p).resAt = x.resAt := by simp [Strand.write]
@[simp] theorem write_frames (x : Strand) (r : RegId) (p : PVal) : (x.write r p).frames = x.frames := by simp [Strand.write]
@[simp] theorem write_tops (x : Strand) (r : RegId) (p : PVal) : (x.write r p).tops = x.tops := by simp [Strand.write]
@[simp] theorem write_seg (x : Strand) (r : RegId) (p : PVal) : (x.write r p).seg = x.seg := by simp [Strand.write]
@[simp] theorem write_unw (x : Strand) (r : RegId) (p : PVal) : (x.write r p).unw = x.unw := by simp [Strand.write]
@[simp] theorem write_inTrap (x : Strand) (r : RegId) (p : PVal) : (x.write r p).inTrap = x.inTrap := by simp [Strand.write]
@[simp] theorem write_nest (x : Strand) (r : RegId) (p : PVal) : (x.write r p).nest = x.nest := by simp [Strand.write]
@[simp] theorem write_entry (x : Strand) (r : RegId) (p : PVal) : (x.write r p).entry = x.entry := by simp [Strand.write]
@[simp] theorem write_aligned (x : Strand) (r : RegId) (p : PVal) : (x.write r p).aligned = x.aligned := by simp [Strand.write]
@[simp] theorem write_replied (x : Strand) (r : RegId) (p : PVal) : (x.write r p).replied = x.replied := by simp [Strand.write]
@[simp] theorem write_got (x : Strand) (r : RegId) (p : PVal) : (x.write r p).got = x.got := by simp [Strand.write]
@[simp] theorem write_due (x : Strand) (r : RegId) (p : PVal) : (x.write r p).due = x.due := by simp [Strand.write]
@[simp] theorem write_bell (x : Strand) (r : RegId) (p : PVal) : (x.write r p).bell = x.bell := by simp [Strand.write]
@[simp] theorem write_region (x : Strand) (r : RegId) (p : PVal) : (x.write r p).region = x.region := by simp [Strand.write]
@[simp] theorem write_parks (x : Strand) (r : RegId) (p : PVal) : (x.write r p).parks = x.parks := by simp [Strand.write]
@[simp] theorem write_podWin (x : Strand) (r : RegId) (p : PVal) : (x.write r p).podWin = x.podWin := by simp [Strand.write]
@[simp] theorem write_preempt (x : Strand) (r : RegId) (p : PVal) : (x.write r p).preempt = x.preempt := by simp [Strand.write]

@[simp] theorem later_st (x : Strand) (r : RegId) (p : PVal) (l : Nat) : (x.later r p l).st = x.st := by unfold Strand.later; split <;> first | rfl | (split <;> rfl)
@[simp] theorem later_job (x : Strand) (r : RegId) (p : PVal) (l : Nat) : (x.later r p l).job = x.job := by unfold Strand.later; split <;> first | rfl | (split <;> rfl)
@[simp] theorem later_gid (x : Strand) (r : RegId) (p : PVal) (l : Nat) : (x.later r p l).gid = x.gid := by unfold Strand.later; split <;> first | rfl | (split <;> rfl)
@[simp] theorem later_dom (x : Strand) (r : RegId) (p : PVal) (l : Nat) : (x.later r p l).dom = x.dom := by unfold Strand.later; split <;> first | rfl | (split <;> rfl)
@[simp] theorem later_base (x : Strand) (r : RegId) (p : PVal) (l : Nat) : (x.later r p l).base = x.base := by unfold Strand.later; split <;> first | rfl | (split <;> rfl)
@[simp] theorem later_spec (x : Strand) (r : RegId) (p : PVal) (l : Nat) : (x.later r p l).spec = x.spec := by unfold Strand.later; split <;> first | rfl | (split <;> rfl)
@[simp] theorem later_sys (x : Strand) (r : RegId) (p : PVal) (l : Nat) : (x.later r p l).sys = x.sys := by unfold Strand.later; split <;> first | rfl | (split <;> rfl)
@[simp] theorem later_q (x : Strand) (r : RegId) (p : PVal) (l : Nat) : (x.later r p l).q = x.q := by unfold Strand.later; split <;> first | rfl | (split <;> rfl)
@[simp] theorem later_await (x : Strand) (r : RegId) (p : PVal) (l : Nat) : (x.later r p l).await = x.await := by unfold Strand.later; split <;> first | rfl | (split <;> rfl)
@[simp] theorem later_res (x : Strand) (r : RegId) (p : PVal) (l : Nat) : (x.later r p l).res = x.res := by unfold Strand.later; split <;> first | rfl | (split <;> rfl)
@[simp] theorem later_resAt (x : Strand) (r : RegId) (p : PVal) (l : Nat) : (x.later r p l).resAt = x.resAt := by unfold Strand.later; split <;> first | rfl | (split <;> rfl)
@[simp] theorem later_frames (x : Strand) (r : RegId) (p : PVal) (l : Nat) : (x.later r p l).frames = x.frames := by unfold Strand.later; split <;> first | rfl | (split <;> rfl)
@[simp] theorem later_tops (x : Strand) (r : RegId) (p : PVal) (l : Nat) : (x.later r p l).tops = x.tops := by unfold Strand.later; split <;> first | rfl | (split <;> rfl)
@[simp] theorem later_seg (x : Strand) (r : RegId) (p : PVal) (l : Nat) : (x.later r p l).seg = x.seg := by unfold Strand.later; split <;> first | rfl | (split <;> rfl)
@[simp] theorem later_unw (x : Strand) (r : RegId) (p : PVal) (l : Nat) : (x.later r p l).unw = x.unw := by unfold Strand.later; split <;> first | rfl | (split <;> rfl)
@[simp] theorem later_inTrap (x : Strand) (r : RegId) (p : PVal) (l : Nat) : (x.later r p l).inTrap = x.inTrap := by unfold Strand.later; split <;> first | rfl | (split <;> rfl)
@[simp] theorem later_nest (x : Strand) (r : RegId) (p : PVal) (l : Nat) : (x.later r p l).nest = x.nest := by unfold Strand.later; split <;> first | rfl | (split <;> rfl)
@[simp] theorem later_entry (x : Strand) (r : RegId) (p : PVal) (l : Nat) : (x.later r p l).entry = x.entry := by unfold Strand.later; split <;> first | rfl | (split <;> rfl)
@[simp] theorem later_aligned (x : Strand) (r : RegId) (p : PVal) (l : Nat) : (x.later r p l).aligned = x.aligned := by unfold Strand.later; split <;> first | rfl | (split <;> rfl)
@[simp] theorem later_replied (x : Strand) (r : RegId) (p : PVal) (l : Nat) : (x.later r p l).replied = x.replied := by unfold Strand.later; split <;> first | rfl | (split <;> rfl)
@[simp] theorem later_got (x : Strand) (r : RegId) (p : PVal) (l : Nat) : (x.later r p l).got = x.got := by unfold Strand.later; split <;> first | rfl | (split <;> rfl)
@[simp] theorem later_due (x : Strand) (r : RegId) (p : PVal) (l : Nat) : (x.later r p l).due = x.due := by unfold Strand.later; split <;> first | rfl | (split <;> rfl)
@[simp] theorem later_bell (x : Strand) (r : RegId) (p : PVal) (l : Nat) : (x.later r p l).bell = x.bell := by unfold Strand.later; split <;> first | rfl | (split <;> rfl)
@[simp] theorem later_region (x : Strand) (r : RegId) (p : PVal) (l : Nat) : (x.later r p l).region = x.region := by unfold Strand.later; split <;> first | rfl | (split <;> rfl)
@[simp] theorem later_parks (x : Strand) (r : RegId) (p : PVal) (l : Nat) : (x.later r p l).parks = x.parks := by unfold Strand.later; split <;> first | rfl | (split <;> rfl)
@[simp] theorem later_podWin (x : Strand) (r : RegId) (p : PVal) (l : Nat) : (x.later r p l).podWin = x.podWin := by unfold Strand.later; split <;> first | rfl | (split <;> rfl)
@[simp] theorem later_preempt (x : Strand) (r : RegId) (p : PVal) (l : Nat) : (x.later r p l).preempt = x.preempt := by unfold Strand.later; split <;> first | rfl | (split <;> rfl)

@[simp] theorem result_st (x : Strand) (r : RegId) (p : PVal) (l : Nat) : (x.result r p l).st = x.st := by unfold Strand.result; split <;> simp
@[simp] theorem result_job (x : Strand) (r : RegId) (p : PVal) (l : Nat) : (x.result r p l).job = x.job := by unfold Strand.result; split <;> simp
@[simp] theorem result_gid (x : Strand) (r : RegId) (p : PVal) (l : Nat) : (x.result r p l).gid = x.gid := by unfold Strand.result; split <;> simp
@[simp] theorem result_dom (x : Strand) (r : RegId) (p : PVal) (l : Nat) : (x.result r p l).dom = x.dom := by unfold Strand.result; split <;> simp
@[simp] theorem result_base (x : Strand) (r : RegId) (p : PVal) (l : Nat) : (x.result r p l).base = x.base := by unfold Strand.result; split <;> simp
@[simp] theorem result_spec (x : Strand) (r : RegId) (p : PVal) (l : Nat) : (x.result r p l).spec = x.spec := by unfold Strand.result; split <;> simp
@[simp] theorem result_sys (x : Strand) (r : RegId) (p : PVal) (l : Nat) : (x.result r p l).sys = x.sys := by unfold Strand.result; split <;> simp
@[simp] theorem result_q (x : Strand) (r : RegId) (p : PVal) (l : Nat) : (x.result r p l).q = x.q := by unfold Strand.result; split <;> simp
@[simp] theorem result_await (x : Strand) (r : RegId) (p : PVal) (l : Nat) : (x.result r p l).await = x.await := by unfold Strand.result; split <;> simp
@[simp] theorem result_res (x : Strand) (r : RegId) (p : PVal) (l : Nat) : (x.result r p l).res = x.res := by unfold Strand.result; split <;> simp
@[simp] theorem result_resAt (x : Strand) (r : RegId) (p : PVal) (l : Nat) : (x.result r p l).resAt = x.resAt := by unfold Strand.result; split <;> simp
@[simp] theorem result_frames (x : Strand) (r : RegId) (p : PVal) (l : Nat) : (x.result r p l).frames = x.frames := by unfold Strand.result; split <;> simp
@[simp] theorem result_tops (x : Strand) (r : RegId) (p : PVal) (l : Nat) : (x.result r p l).tops = x.tops := by unfold Strand.result; split <;> simp
@[simp] theorem result_seg (x : Strand) (r : RegId) (p : PVal) (l : Nat) : (x.result r p l).seg = x.seg := by unfold Strand.result; split <;> simp
@[simp] theorem result_unw (x : Strand) (r : RegId) (p : PVal) (l : Nat) : (x.result r p l).unw = x.unw := by unfold Strand.result; split <;> simp
@[simp] theorem result_inTrap (x : Strand) (r : RegId) (p : PVal) (l : Nat) : (x.result r p l).inTrap = x.inTrap := by unfold Strand.result; split <;> simp
@[simp] theorem result_nest (x : Strand) (r : RegId) (p : PVal) (l : Nat) : (x.result r p l).nest = x.nest := by unfold Strand.result; split <;> simp
@[simp] theorem result_entry (x : Strand) (r : RegId) (p : PVal) (l : Nat) : (x.result r p l).entry = x.entry := by unfold Strand.result; split <;> simp
@[simp] theorem result_aligned (x : Strand) (r : RegId) (p : PVal) (l : Nat) : (x.result r p l).aligned = x.aligned := by unfold Strand.result; split <;> simp
@[simp] theorem result_replied (x : Strand) (r : RegId) (p : PVal) (l : Nat) : (x.result r p l).replied = x.replied := by unfold Strand.result; split <;> simp
@[simp] theorem result_got (x : Strand) (r : RegId) (p : PVal) (l : Nat) : (x.result r p l).got = x.got := by unfold Strand.result; split <;> simp
@[simp] theorem result_due (x : Strand) (r : RegId) (p : PVal) (l : Nat) : (x.result r p l).due = x.due := by unfold Strand.result; split <;> simp
@[simp] theorem result_bell (x : Strand) (r : RegId) (p : PVal) (l : Nat) : (x.result r p l).bell = x.bell := by unfold Strand.result; split <;> simp
@[simp] theorem result_region (x : Strand) (r : RegId) (p : PVal) (l : Nat) : (x.result r p l).region = x.region := by unfold Strand.result; split <;> simp
@[simp] theorem result_parks (x : Strand) (r : RegId) (p : PVal) (l : Nat) : (x.result r p l).parks = x.parks := by unfold Strand.result; split <;> simp
@[simp] theorem result_podWin (x : Strand) (r : RegId) (p : PVal) (l : Nat) : (x.result r p l).podWin = x.podWin := by unfold Strand.result; split <;> simp
@[simp] theorem result_preempt (x : Strand) (r : RegId) (p : PVal) (l : Nat) : (x.result r p l).preempt = x.preempt := by unfold Strand.result; split <;> simp

@[simp] theorem setTile_st (x : Strand) (n : Nat) (y : Tile) : (x.setTile n y).st = x.st := rfl
@[simp] theorem setTile_job (x : Strand) (n : Nat) (y : Tile) : (x.setTile n y).job = x.job := rfl
@[simp] theorem setTile_gid (x : Strand) (n : Nat) (y : Tile) : (x.setTile n y).gid = x.gid := rfl
@[simp] theorem setTile_dom (x : Strand) (n : Nat) (y : Tile) : (x.setTile n y).dom = x.dom := rfl
@[simp] theorem setTile_base (x : Strand) (n : Nat) (y : Tile) : (x.setTile n y).base = x.base := rfl
@[simp] theorem setTile_spec (x : Strand) (n : Nat) (y : Tile) : (x.setTile n y).spec = x.spec := rfl
@[simp] theorem setTile_c (x : Strand) (n : Nat) (y : Tile) : (x.setTile n y).c = x.c := rfl
@[simp] theorem setTile_sys (x : Strand) (n : Nat) (y : Tile) : (x.setTile n y).sys = x.sys := rfl
@[simp] theorem setTile_q (x : Strand) (n : Nat) (y : Tile) : (x.setTile n y).q = x.q := rfl
@[simp] theorem setTile_await (x : Strand) (n : Nat) (y : Tile) : (x.setTile n y).await = x.await := rfl
@[simp] theorem setTile_res (x : Strand) (n : Nat) (y : Tile) : (x.setTile n y).res = x.res := rfl
@[simp] theorem setTile_resAt (x : Strand) (n : Nat) (y : Tile) : (x.setTile n y).resAt = x.resAt := rfl
@[simp] theorem setTile_frames (x : Strand) (n : Nat) (y : Tile) : (x.setTile n y).frames = x.frames := rfl
@[simp] theorem setTile_tops (x : Strand) (n : Nat) (y : Tile) : (x.setTile n y).tops = x.tops := rfl
@[simp] theorem setTile_seg (x : Strand) (n : Nat) (y : Tile) : (x.setTile n y).seg = x.seg := rfl
@[simp] theorem setTile_unw (x : Strand) (n : Nat) (y : Tile) : (x.setTile n y).unw = x.unw := rfl
@[simp] theorem setTile_inTrap (x : Strand) (n : Nat) (y : Tile) : (x.setTile n y).inTrap = x.inTrap := rfl
@[simp] theorem setTile_nest (x : Strand) (n : Nat) (y : Tile) : (x.setTile n y).nest = x.nest := rfl
@[simp] theorem setTile_entry (x : Strand) (n : Nat) (y : Tile) : (x.setTile n y).entry = x.entry := rfl
@[simp] theorem setTile_aligned (x : Strand) (n : Nat) (y : Tile) : (x.setTile n y).aligned = x.aligned := rfl
@[simp] theorem setTile_replied (x : Strand) (n : Nat) (y : Tile) : (x.setTile n y).replied = x.replied := rfl
@[simp] theorem setTile_got (x : Strand) (n : Nat) (y : Tile) : (x.setTile n y).got = x.got := rfl
@[simp] theorem setTile_due (x : Strand) (n : Nat) (y : Tile) : (x.setTile n y).due = x.due := rfl
@[simp] theorem setTile_bell (x : Strand) (n : Nat) (y : Tile) : (x.setTile n y).bell = x.bell := rfl
@[simp] theorem setTile_region (x : Strand) (n : Nat) (y : Tile) : (x.setTile n y).region = x.region := rfl
@[simp] theorem setTile_parks (x : Strand) (n : Nat) (y : Tile) : (x.setTile n y).parks = x.parks := rfl
@[simp] theorem setTile_podWin (x : Strand) (n : Nat) (y : Tile) : (x.setTile n y).podWin = x.podWin := rfl
@[simp] theorem setTile_preempt (x : Strand) (n : Nat) (y : Tile) : (x.setTile n y).preempt = x.preempt := rfl

@[simp] theorem raise_st (x : Strand) (f : BitVec 6) : (x.raise f).st = x.st := rfl
@[simp] theorem raise_job (x : Strand) (f : BitVec 6) : (x.raise f).job = x.job := rfl
@[simp] theorem raise_gid (x : Strand) (f : BitVec 6) : (x.raise f).gid = x.gid := rfl
@[simp] theorem raise_dom (x : Strand) (f : BitVec 6) : (x.raise f).dom = x.dom := rfl
@[simp] theorem raise_base (x : Strand) (f : BitVec 6) : (x.raise f).base = x.base := rfl
@[simp] theorem raise_spec (x : Strand) (f : BitVec 6) : (x.raise f).spec = x.spec := rfl
@[simp] theorem raise_c (x : Strand) (f : BitVec 6) : (x.raise f).c = x.c := rfl
@[simp] theorem raise_v (x : Strand) (f : BitVec 6) : (x.raise f).v = x.v := rfl
@[simp] theorem raise_q (x : Strand) (f : BitVec 6) : (x.raise f).q = x.q := rfl
@[simp] theorem raise_await (x : Strand) (f : BitVec 6) : (x.raise f).await = x.await := rfl
@[simp] theorem raise_res (x : Strand) (f : BitVec 6) : (x.raise f).res = x.res := rfl
@[simp] theorem raise_resAt (x : Strand) (f : BitVec 6) : (x.raise f).resAt = x.resAt := rfl
@[simp] theorem raise_frames (x : Strand) (f : BitVec 6) : (x.raise f).frames = x.frames := rfl
@[simp] theorem raise_tops (x : Strand) (f : BitVec 6) : (x.raise f).tops = x.tops := rfl
@[simp] theorem raise_seg (x : Strand) (f : BitVec 6) : (x.raise f).seg = x.seg := rfl
@[simp] theorem raise_unw (x : Strand) (f : BitVec 6) : (x.raise f).unw = x.unw := rfl
@[simp] theorem raise_inTrap (x : Strand) (f : BitVec 6) : (x.raise f).inTrap = x.inTrap := rfl
@[simp] theorem raise_nest (x : Strand) (f : BitVec 6) : (x.raise f).nest = x.nest := rfl
@[simp] theorem raise_entry (x : Strand) (f : BitVec 6) : (x.raise f).entry = x.entry := rfl
@[simp] theorem raise_aligned (x : Strand) (f : BitVec 6) : (x.raise f).aligned = x.aligned := rfl
@[simp] theorem raise_replied (x : Strand) (f : BitVec 6) : (x.raise f).replied = x.replied := rfl
@[simp] theorem raise_got (x : Strand) (f : BitVec 6) : (x.raise f).got = x.got := rfl
@[simp] theorem raise_due (x : Strand) (f : BitVec 6) : (x.raise f).due = x.due := rfl
@[simp] theorem raise_bell (x : Strand) (f : BitVec 6) : (x.raise f).bell = x.bell := rfl
@[simp] theorem raise_region (x : Strand) (f : BitVec 6) : (x.raise f).region = x.region := rfl
@[simp] theorem raise_parks (x : Strand) (f : BitVec 6) : (x.raise f).parks = x.parks := rfl
@[simp] theorem raise_podWin (x : Strand) (f : BitVec 6) : (x.raise f).podWin = x.podWin := rfl
@[simp] theorem raise_preempt (x : Strand) (f : BitVec 6) : (x.raise f).preempt = x.preempt := rfl

@[simp] theorem seed_st (x : Strand) (w : Word) : (x.seed w).st = x.st := rfl
@[simp] theorem seed_job (x : Strand) (w : Word) : (x.seed w).job = x.job := rfl
@[simp] theorem seed_gid (x : Strand) (w : Word) : (x.seed w).gid = x.gid := rfl
@[simp] theorem seed_dom (x : Strand) (w : Word) : (x.seed w).dom = x.dom := rfl
@[simp] theorem seed_base (x : Strand) (w : Word) : (x.seed w).base = x.base := rfl
@[simp] theorem seed_spec (x : Strand) (w : Word) : (x.seed w).spec = x.spec := rfl
@[simp] theorem seed_c (x : Strand) (w : Word) : (x.seed w).c = x.c := rfl
@[simp] theorem seed_q (x : Strand) (w : Word) : (x.seed w).q = x.q := rfl
@[simp] theorem seed_await (x : Strand) (w : Word) : (x.seed w).await = x.await := rfl
@[simp] theorem seed_res (x : Strand) (w : Word) : (x.seed w).res = x.res := rfl
@[simp] theorem seed_resAt (x : Strand) (w : Word) : (x.seed w).resAt = x.resAt := rfl
@[simp] theorem seed_frames (x : Strand) (w : Word) : (x.seed w).frames = x.frames := rfl
@[simp] theorem seed_tops (x : Strand) (w : Word) : (x.seed w).tops = x.tops := rfl
@[simp] theorem seed_seg (x : Strand) (w : Word) : (x.seed w).seg = x.seg := rfl
@[simp] theorem seed_unw (x : Strand) (w : Word) : (x.seed w).unw = x.unw := rfl
@[simp] theorem seed_inTrap (x : Strand) (w : Word) : (x.seed w).inTrap = x.inTrap := rfl
@[simp] theorem seed_nest (x : Strand) (w : Word) : (x.seed w).nest = x.nest := rfl
@[simp] theorem seed_entry (x : Strand) (w : Word) : (x.seed w).entry = x.entry := rfl
@[simp] theorem seed_aligned (x : Strand) (w : Word) : (x.seed w).aligned = x.aligned := rfl
@[simp] theorem seed_replied (x : Strand) (w : Word) : (x.seed w).replied = x.replied := rfl
@[simp] theorem seed_got (x : Strand) (w : Word) : (x.seed w).got = x.got := rfl
@[simp] theorem seed_due (x : Strand) (w : Word) : (x.seed w).due = x.due := rfl
@[simp] theorem seed_bell (x : Strand) (w : Word) : (x.seed w).bell = x.bell := rfl
@[simp] theorem seed_region (x : Strand) (w : Word) : (x.seed w).region = x.region := rfl
@[simp] theorem seed_parks (x : Strand) (w : Word) : (x.seed w).parks = x.parks := rfl
@[simp] theorem seed_podWin (x : Strand) (w : Word) : (x.seed w).podWin = x.podWin := rfl
@[simp] theorem seed_preempt (x : Strand) (w : Word) : (x.seed w).preempt = x.preempt := rfl

theorem landList_field {α : Type} (g : Strand → α) (hg : ∀ x r p, g (Strand.setReg x r p) = g x) (x : Strand) (n : Nat)
    (ps : List Pend) : g (landList x n ps).1 = g x := by
  induction ps generalizing x with
  | nil => rfl
  | cons p ps ih =>
    unfold landList
    split
    · rw [ih, hg]
    · exact ih x

theorem foldl_setReg_field {α : Type} (g : Strand → α) (hg : ∀ x r p, g (Strand.setReg x r p) = g x) (x : Strand)
    (ps : List Pend) : g (ps.foldl (fun y p => y.setReg p.reg p.val) x) = g x := by
  induction ps generalizing x with
  | nil => rfl
  | cons p ps ih => rw [List.foldl_cons, ih, hg]

@[simp] theorem landC_st (x : Strand) : x.landC.st = x.st := landList_field (·.st) setReg_st x _ _
@[simp] theorem landV_st (x : Strand) : x.landV.st = x.st := landList_field (·.st) setReg_st x _ _
@[simp] theorem landSt_st (x : Strand) (st : Stream) : (x.landSt st).st = x.st := by cases st <;> simp [Strand.landSt]
@[simp] theorem landAllC_st (x : Strand) : x.landAllC.st = x.st := foldl_setReg_field (·.st) setReg_st x _
@[simp] theorem landAllV_st (x : Strand) : x.landAllV.st = x.st := foldl_setReg_field (·.st) setReg_st x _
@[simp] theorem landAll_st (x : Strand) : x.landAll.st = x.st := by simp [Strand.landAll]

@[simp] theorem landC_job (x : Strand) : x.landC.job = x.job := landList_field (·.job) setReg_job x _ _
@[simp] theorem landV_job (x : Strand) : x.landV.job = x.job := landList_field (·.job) setReg_job x _ _
@[simp] theorem landSt_job (x : Strand) (st : Stream) : (x.landSt st).job = x.job := by cases st <;> simp [Strand.landSt]
@[simp] theorem landAllC_job (x : Strand) : x.landAllC.job = x.job := foldl_setReg_field (·.job) setReg_job x _
@[simp] theorem landAllV_job (x : Strand) : x.landAllV.job = x.job := foldl_setReg_field (·.job) setReg_job x _
@[simp] theorem landAll_job (x : Strand) : x.landAll.job = x.job := by simp [Strand.landAll]

@[simp] theorem landC_gid (x : Strand) : x.landC.gid = x.gid := landList_field (·.gid) setReg_gid x _ _
@[simp] theorem landV_gid (x : Strand) : x.landV.gid = x.gid := landList_field (·.gid) setReg_gid x _ _
@[simp] theorem landSt_gid (x : Strand) (st : Stream) : (x.landSt st).gid = x.gid := by cases st <;> simp [Strand.landSt]
@[simp] theorem landAllC_gid (x : Strand) : x.landAllC.gid = x.gid := foldl_setReg_field (·.gid) setReg_gid x _
@[simp] theorem landAllV_gid (x : Strand) : x.landAllV.gid = x.gid := foldl_setReg_field (·.gid) setReg_gid x _
@[simp] theorem landAll_gid (x : Strand) : x.landAll.gid = x.gid := by simp [Strand.landAll]

@[simp] theorem landC_dom (x : Strand) : x.landC.dom = x.dom := landList_field (·.dom) setReg_dom x _ _
@[simp] theorem landV_dom (x : Strand) : x.landV.dom = x.dom := landList_field (·.dom) setReg_dom x _ _
@[simp] theorem landSt_dom (x : Strand) (st : Stream) : (x.landSt st).dom = x.dom := by cases st <;> simp [Strand.landSt]
@[simp] theorem landAllC_dom (x : Strand) : x.landAllC.dom = x.dom := foldl_setReg_field (·.dom) setReg_dom x _
@[simp] theorem landAllV_dom (x : Strand) : x.landAllV.dom = x.dom := foldl_setReg_field (·.dom) setReg_dom x _
@[simp] theorem landAll_dom (x : Strand) : x.landAll.dom = x.dom := by simp [Strand.landAll]

@[simp] theorem landC_base (x : Strand) : x.landC.base = x.base := landList_field (·.base) setReg_base x _ _
@[simp] theorem landV_base (x : Strand) : x.landV.base = x.base := landList_field (·.base) setReg_base x _ _
@[simp] theorem landSt_base (x : Strand) (st : Stream) : (x.landSt st).base = x.base := by cases st <;> simp [Strand.landSt]
@[simp] theorem landAllC_base (x : Strand) : x.landAllC.base = x.base := foldl_setReg_field (·.base) setReg_base x _
@[simp] theorem landAllV_base (x : Strand) : x.landAllV.base = x.base := foldl_setReg_field (·.base) setReg_base x _
@[simp] theorem landAll_base (x : Strand) : x.landAll.base = x.base := by simp [Strand.landAll]

@[simp] theorem landC_spec (x : Strand) : x.landC.spec = x.spec := landList_field (·.spec) setReg_spec x _ _
@[simp] theorem landV_spec (x : Strand) : x.landV.spec = x.spec := landList_field (·.spec) setReg_spec x _ _
@[simp] theorem landSt_spec (x : Strand) (st : Stream) : (x.landSt st).spec = x.spec := by cases st <;> simp [Strand.landSt]
@[simp] theorem landAllC_spec (x : Strand) : x.landAllC.spec = x.spec := foldl_setReg_field (·.spec) setReg_spec x _
@[simp] theorem landAllV_spec (x : Strand) : x.landAllV.spec = x.spec := foldl_setReg_field (·.spec) setReg_spec x _
@[simp] theorem landAll_spec (x : Strand) : x.landAll.spec = x.spec := by simp [Strand.landAll]

@[simp] theorem landC_sys (x : Strand) : x.landC.sys = x.sys := landList_field (·.sys) setReg_sys x _ _
@[simp] theorem landV_sys (x : Strand) : x.landV.sys = x.sys := landList_field (·.sys) setReg_sys x _ _
@[simp] theorem landSt_sys (x : Strand) (st : Stream) : (x.landSt st).sys = x.sys := by cases st <;> simp [Strand.landSt]
@[simp] theorem landAllC_sys (x : Strand) : x.landAllC.sys = x.sys := foldl_setReg_field (·.sys) setReg_sys x _
@[simp] theorem landAllV_sys (x : Strand) : x.landAllV.sys = x.sys := foldl_setReg_field (·.sys) setReg_sys x _
@[simp] theorem landAll_sys (x : Strand) : x.landAll.sys = x.sys := by simp [Strand.landAll]

@[simp] theorem landC_q (x : Strand) : x.landC.q = x.q := landList_field (·.q) setReg_q x _ _
@[simp] theorem landV_q (x : Strand) : x.landV.q = x.q := landList_field (·.q) setReg_q x _ _
@[simp] theorem landSt_q (x : Strand) (st : Stream) : (x.landSt st).q = x.q := by cases st <;> simp [Strand.landSt]
@[simp] theorem landAllC_q (x : Strand) : x.landAllC.q = x.q := foldl_setReg_field (·.q) setReg_q x _
@[simp] theorem landAllV_q (x : Strand) : x.landAllV.q = x.q := foldl_setReg_field (·.q) setReg_q x _
@[simp] theorem landAll_q (x : Strand) : x.landAll.q = x.q := by simp [Strand.landAll]

@[simp] theorem landC_await (x : Strand) : x.landC.await = x.await := landList_field (·.await) setReg_await x _ _
@[simp] theorem landV_await (x : Strand) : x.landV.await = x.await := landList_field (·.await) setReg_await x _ _
@[simp] theorem landSt_await (x : Strand) (st : Stream) : (x.landSt st).await = x.await := by cases st <;> simp [Strand.landSt]
@[simp] theorem landAllC_await (x : Strand) : x.landAllC.await = x.await := foldl_setReg_field (·.await) setReg_await x _
@[simp] theorem landAllV_await (x : Strand) : x.landAllV.await = x.await := foldl_setReg_field (·.await) setReg_await x _
@[simp] theorem landAll_await (x : Strand) : x.landAll.await = x.await := by simp [Strand.landAll]

@[simp] theorem landC_res (x : Strand) : x.landC.res = x.res := landList_field (·.res) setReg_res x _ _
@[simp] theorem landV_res (x : Strand) : x.landV.res = x.res := landList_field (·.res) setReg_res x _ _
@[simp] theorem landSt_res (x : Strand) (st : Stream) : (x.landSt st).res = x.res := by cases st <;> simp [Strand.landSt]
@[simp] theorem landAllC_res (x : Strand) : x.landAllC.res = x.res := foldl_setReg_field (·.res) setReg_res x _
@[simp] theorem landAllV_res (x : Strand) : x.landAllV.res = x.res := foldl_setReg_field (·.res) setReg_res x _
@[simp] theorem landAll_res (x : Strand) : x.landAll.res = x.res := by simp [Strand.landAll]

@[simp] theorem landC_resAt (x : Strand) : x.landC.resAt = x.resAt := landList_field (·.resAt) setReg_resAt x _ _
@[simp] theorem landV_resAt (x : Strand) : x.landV.resAt = x.resAt := landList_field (·.resAt) setReg_resAt x _ _
@[simp] theorem landSt_resAt (x : Strand) (st : Stream) : (x.landSt st).resAt = x.resAt := by cases st <;> simp [Strand.landSt]
@[simp] theorem landAllC_resAt (x : Strand) : x.landAllC.resAt = x.resAt := foldl_setReg_field (·.resAt) setReg_resAt x _
@[simp] theorem landAllV_resAt (x : Strand) : x.landAllV.resAt = x.resAt := foldl_setReg_field (·.resAt) setReg_resAt x _
@[simp] theorem landAll_resAt (x : Strand) : x.landAll.resAt = x.resAt := by simp [Strand.landAll]

@[simp] theorem landC_frames (x : Strand) : x.landC.frames = x.frames := landList_field (·.frames) setReg_frames x _ _
@[simp] theorem landV_frames (x : Strand) : x.landV.frames = x.frames := landList_field (·.frames) setReg_frames x _ _
@[simp] theorem landSt_frames (x : Strand) (st : Stream) : (x.landSt st).frames = x.frames := by cases st <;> simp [Strand.landSt]
@[simp] theorem landAllC_frames (x : Strand) : x.landAllC.frames = x.frames := foldl_setReg_field (·.frames) setReg_frames x _
@[simp] theorem landAllV_frames (x : Strand) : x.landAllV.frames = x.frames := foldl_setReg_field (·.frames) setReg_frames x _
@[simp] theorem landAll_frames (x : Strand) : x.landAll.frames = x.frames := by simp [Strand.landAll]

@[simp] theorem landC_tops (x : Strand) : x.landC.tops = x.tops := landList_field (·.tops) setReg_tops x _ _
@[simp] theorem landV_tops (x : Strand) : x.landV.tops = x.tops := landList_field (·.tops) setReg_tops x _ _
@[simp] theorem landSt_tops (x : Strand) (st : Stream) : (x.landSt st).tops = x.tops := by cases st <;> simp [Strand.landSt]
@[simp] theorem landAllC_tops (x : Strand) : x.landAllC.tops = x.tops := foldl_setReg_field (·.tops) setReg_tops x _
@[simp] theorem landAllV_tops (x : Strand) : x.landAllV.tops = x.tops := foldl_setReg_field (·.tops) setReg_tops x _
@[simp] theorem landAll_tops (x : Strand) : x.landAll.tops = x.tops := by simp [Strand.landAll]

@[simp] theorem landC_seg (x : Strand) : x.landC.seg = x.seg := landList_field (·.seg) setReg_seg x _ _
@[simp] theorem landV_seg (x : Strand) : x.landV.seg = x.seg := landList_field (·.seg) setReg_seg x _ _
@[simp] theorem landSt_seg (x : Strand) (st : Stream) : (x.landSt st).seg = x.seg := by cases st <;> simp [Strand.landSt]
@[simp] theorem landAllC_seg (x : Strand) : x.landAllC.seg = x.seg := foldl_setReg_field (·.seg) setReg_seg x _
@[simp] theorem landAllV_seg (x : Strand) : x.landAllV.seg = x.seg := foldl_setReg_field (·.seg) setReg_seg x _
@[simp] theorem landAll_seg (x : Strand) : x.landAll.seg = x.seg := by simp [Strand.landAll]

@[simp] theorem landC_unw (x : Strand) : x.landC.unw = x.unw := landList_field (·.unw) setReg_unw x _ _
@[simp] theorem landV_unw (x : Strand) : x.landV.unw = x.unw := landList_field (·.unw) setReg_unw x _ _
@[simp] theorem landSt_unw (x : Strand) (st : Stream) : (x.landSt st).unw = x.unw := by cases st <;> simp [Strand.landSt]
@[simp] theorem landAllC_unw (x : Strand) : x.landAllC.unw = x.unw := foldl_setReg_field (·.unw) setReg_unw x _
@[simp] theorem landAllV_unw (x : Strand) : x.landAllV.unw = x.unw := foldl_setReg_field (·.unw) setReg_unw x _
@[simp] theorem landAll_unw (x : Strand) : x.landAll.unw = x.unw := by simp [Strand.landAll]

@[simp] theorem landC_inTrap (x : Strand) : x.landC.inTrap = x.inTrap := landList_field (·.inTrap) setReg_inTrap x _ _
@[simp] theorem landC_nest (x : Strand) : x.landC.nest = x.nest := landList_field (·.nest) setReg_nest x _ _
@[simp] theorem landV_inTrap (x : Strand) : x.landV.inTrap = x.inTrap := landList_field (·.inTrap) setReg_inTrap x _ _
@[simp] theorem landV_nest (x : Strand) : x.landV.nest = x.nest := landList_field (·.nest) setReg_nest x _ _
@[simp] theorem landSt_inTrap (x : Strand) (st : Stream) : (x.landSt st).inTrap = x.inTrap := by cases st <;> simp [Strand.landSt]
@[simp] theorem landSt_nest (x : Strand) (st : Stream) : (x.landSt st).nest = x.nest := by cases st <;> simp [Strand.landSt]
@[simp] theorem landAllC_inTrap (x : Strand) : x.landAllC.inTrap = x.inTrap := foldl_setReg_field (·.inTrap) setReg_inTrap x _
@[simp] theorem landAllC_nest (x : Strand) : x.landAllC.nest = x.nest := foldl_setReg_field (·.nest) setReg_nest x _
@[simp] theorem landAllV_inTrap (x : Strand) : x.landAllV.inTrap = x.inTrap := foldl_setReg_field (·.inTrap) setReg_inTrap x _
@[simp] theorem landAllV_nest (x : Strand) : x.landAllV.nest = x.nest := foldl_setReg_field (·.nest) setReg_nest x _
@[simp] theorem landAll_inTrap (x : Strand) : x.landAll.inTrap = x.inTrap := by simp [Strand.landAll]
@[simp] theorem landAll_nest (x : Strand) : x.landAll.nest = x.nest := by simp [Strand.landAll]

@[simp] theorem landC_entry (x : Strand) : x.landC.entry = x.entry := landList_field (·.entry) setReg_entry x _ _
@[simp] theorem landV_entry (x : Strand) : x.landV.entry = x.entry := landList_field (·.entry) setReg_entry x _ _
@[simp] theorem landSt_entry (x : Strand) (st : Stream) : (x.landSt st).entry = x.entry := by cases st <;> simp [Strand.landSt]
@[simp] theorem landAllC_entry (x : Strand) : x.landAllC.entry = x.entry := foldl_setReg_field (·.entry) setReg_entry x _
@[simp] theorem landAllV_entry (x : Strand) : x.landAllV.entry = x.entry := foldl_setReg_field (·.entry) setReg_entry x _
@[simp] theorem landAll_entry (x : Strand) : x.landAll.entry = x.entry := by simp [Strand.landAll]

@[simp] theorem landC_aligned (x : Strand) : x.landC.aligned = x.aligned := landList_field (·.aligned) setReg_aligned x _ _
@[simp] theorem landV_aligned (x : Strand) : x.landV.aligned = x.aligned := landList_field (·.aligned) setReg_aligned x _ _
@[simp] theorem landSt_aligned (x : Strand) (st : Stream) : (x.landSt st).aligned = x.aligned := by cases st <;> simp [Strand.landSt]
@[simp] theorem landAllC_aligned (x : Strand) : x.landAllC.aligned = x.aligned := foldl_setReg_field (·.aligned) setReg_aligned x _
@[simp] theorem landAllV_aligned (x : Strand) : x.landAllV.aligned = x.aligned := foldl_setReg_field (·.aligned) setReg_aligned x _
@[simp] theorem landAll_aligned (x : Strand) : x.landAll.aligned = x.aligned := by simp [Strand.landAll]

@[simp] theorem landC_replied (x : Strand) : x.landC.replied = x.replied := landList_field (·.replied) setReg_replied x _ _
@[simp] theorem landV_replied (x : Strand) : x.landV.replied = x.replied := landList_field (·.replied) setReg_replied x _ _
@[simp] theorem landSt_replied (x : Strand) (st : Stream) : (x.landSt st).replied = x.replied := by cases st <;> simp [Strand.landSt]
@[simp] theorem landAllC_replied (x : Strand) : x.landAllC.replied = x.replied := foldl_setReg_field (·.replied) setReg_replied x _
@[simp] theorem landAllV_replied (x : Strand) : x.landAllV.replied = x.replied := foldl_setReg_field (·.replied) setReg_replied x _
@[simp] theorem landAll_replied (x : Strand) : x.landAll.replied = x.replied := by simp [Strand.landAll]

@[simp] theorem landC_got (x : Strand) : x.landC.got = x.got := landList_field (·.got) setReg_got x _ _
@[simp] theorem landV_got (x : Strand) : x.landV.got = x.got := landList_field (·.got) setReg_got x _ _
@[simp] theorem landSt_got (x : Strand) (st : Stream) : (x.landSt st).got = x.got := by cases st <;> simp [Strand.landSt]
@[simp] theorem landAllC_got (x : Strand) : x.landAllC.got = x.got := foldl_setReg_field (·.got) setReg_got x _
@[simp] theorem landAllV_got (x : Strand) : x.landAllV.got = x.got := foldl_setReg_field (·.got) setReg_got x _
@[simp] theorem landAll_got (x : Strand) : x.landAll.got = x.got := by simp [Strand.landAll]

@[simp] theorem landC_due (x : Strand) : x.landC.due = x.due := landList_field (·.due) setReg_due x _ _
@[simp] theorem landV_due (x : Strand) : x.landV.due = x.due := landList_field (·.due) setReg_due x _ _
@[simp] theorem landSt_due (x : Strand) (st : Stream) : (x.landSt st).due = x.due := by cases st <;> simp [Strand.landSt]
@[simp] theorem landAllC_due (x : Strand) : x.landAllC.due = x.due := foldl_setReg_field (·.due) setReg_due x _
@[simp] theorem landAllV_due (x : Strand) : x.landAllV.due = x.due := foldl_setReg_field (·.due) setReg_due x _
@[simp] theorem landAll_due (x : Strand) : x.landAll.due = x.due := by simp [Strand.landAll]

@[simp] theorem landC_bell (x : Strand) : x.landC.bell = x.bell := landList_field (·.bell) setReg_bell x _ _
@[simp] theorem landV_bell (x : Strand) : x.landV.bell = x.bell := landList_field (·.bell) setReg_bell x _ _
@[simp] theorem landSt_bell (x : Strand) (st : Stream) : (x.landSt st).bell = x.bell := by cases st <;> simp [Strand.landSt]
@[simp] theorem landAllC_bell (x : Strand) : x.landAllC.bell = x.bell := foldl_setReg_field (·.bell) setReg_bell x _
@[simp] theorem landAllV_bell (x : Strand) : x.landAllV.bell = x.bell := foldl_setReg_field (·.bell) setReg_bell x _
@[simp] theorem landAll_bell (x : Strand) : x.landAll.bell = x.bell := by simp [Strand.landAll]

@[simp] theorem landC_region (x : Strand) : x.landC.region = x.region := landList_field (·.region) setReg_region x _ _
@[simp] theorem landV_region (x : Strand) : x.landV.region = x.region := landList_field (·.region) setReg_region x _ _
@[simp] theorem landSt_region (x : Strand) (st : Stream) : (x.landSt st).region = x.region := by cases st <;> simp [Strand.landSt]
@[simp] theorem landAllC_region (x : Strand) : x.landAllC.region = x.region := foldl_setReg_field (·.region) setReg_region x _
@[simp] theorem landAllV_region (x : Strand) : x.landAllV.region = x.region := foldl_setReg_field (·.region) setReg_region x _
@[simp] theorem landAll_region (x : Strand) : x.landAll.region = x.region := by simp [Strand.landAll]

@[simp] theorem landC_parks (x : Strand) : x.landC.parks = x.parks := landList_field (·.parks) setReg_parks x _ _
@[simp] theorem landV_parks (x : Strand) : x.landV.parks = x.parks := landList_field (·.parks) setReg_parks x _ _
@[simp] theorem landSt_parks (x : Strand) (st : Stream) : (x.landSt st).parks = x.parks := by cases st <;> simp [Strand.landSt]
@[simp] theorem landAllC_parks (x : Strand) : x.landAllC.parks = x.parks := foldl_setReg_field (·.parks) setReg_parks x _
@[simp] theorem landAllV_parks (x : Strand) : x.landAllV.parks = x.parks := foldl_setReg_field (·.parks) setReg_parks x _
@[simp] theorem landAll_parks (x : Strand) : x.landAll.parks = x.parks := by simp [Strand.landAll]

@[simp] theorem landC_podWin (x : Strand) : x.landC.podWin = x.podWin := landList_field (·.podWin) setReg_podWin x _ _
@[simp] theorem landV_podWin (x : Strand) : x.landV.podWin = x.podWin := landList_field (·.podWin) setReg_podWin x _ _
@[simp] theorem landSt_podWin (x : Strand) (st : Stream) : (x.landSt st).podWin = x.podWin := by cases st <;> simp [Strand.landSt]
@[simp] theorem landAllC_podWin (x : Strand) : x.landAllC.podWin = x.podWin := foldl_setReg_field (·.podWin) setReg_podWin x _
@[simp] theorem landAllV_podWin (x : Strand) : x.landAllV.podWin = x.podWin := foldl_setReg_field (·.podWin) setReg_podWin x _
@[simp] theorem landAll_podWin (x : Strand) : x.landAll.podWin = x.podWin := by simp [Strand.landAll]

@[simp] theorem landC_preempt (x : Strand) : x.landC.preempt = x.preempt := landList_field (·.preempt) setReg_preempt x _ _
@[simp] theorem landV_preempt (x : Strand) : x.landV.preempt = x.preempt := landList_field (·.preempt) setReg_preempt x _ _
@[simp] theorem landSt_preempt (x : Strand) (st : Stream) : (x.landSt st).preempt = x.preempt := by cases st <;> simp [Strand.landSt]
@[simp] theorem landAllC_preempt (x : Strand) : x.landAllC.preempt = x.preempt := foldl_setReg_field (·.preempt) setReg_preempt x _
@[simp] theorem landAllV_preempt (x : Strand) : x.landAllV.preempt = x.preempt := foldl_setReg_field (·.preempt) setReg_preempt x _
@[simp] theorem landAll_preempt (x : Strand) : x.landAll.preempt = x.preempt := by simp [Strand.landAll]

end Sys2Proof.Machine
end

