-- ==== Sys2Proof/Laws/Run.lean ====
section
/-! SUPPORT. How a meaning runs: one lemma for each operation of Prog.lean and Ops.lean, in continuation form, and what an
instruction that issues, or an event, answers. -/

namespace Sys2Proof.Machine

/-! ## The state after effects -/

@[simp] theorem applyAll_nil (s : State) : applyAll [] s = s := rfl
@[simp] theorem applyAll_cons (e : Effect) (es : List Effect) (s : State) : applyAll (e :: es) s = applyAll es (e.apply s) := rfl
@[simp] theorem applyAll_append (es fs : List Effect) (s : State) : applyAll (es ++ fs) s = applyAll fs (applyAll es s) := by
  simp [applyAll]

/-- Effects in sequence: those of the first, then those of the others in the state it leaves. -/
theorem applyAll_chain_cons (f : State → List Effect) (fs : List (State → List Effect)) (s : State) :
    applyAll (chain (f :: fs) s) s = applyAll (chain fs (applyAll (f s) s)) (applyAll (f s) s) := by
  simp [chain]

@[simp] theorem chain_nil (s : State) : chain [] s = [] := rfl

/-! ## The issuing strand -/

@[simp] theorem strand_withMe (s : State) (x : Strand) : (s.withMe x).strand s.six = x := by
  simp [State.withMe, State.strand, State.six]

@[simp] theorem withMe_me (s : State) (x : Strand) : (s.withMe x).me = x := by
  simp [State.withMe, State.me, State.six, State.strand]

@[simp] theorem withMe_six (s : State) (x : Strand) : (s.withMe x).six = s.six := by simp [State.withMe, State.six]
@[simp] theorem withMe_stream (s : State) (x : Strand) : (s.withMe x).stream = s.stream := by simp [State.withMe, State.stream]
@[simp] theorem withMe_withMe (s : State) (x y : Strand) : (s.withMe x).withMe y = s.withMe y := by
  simp only [State.withMe, State.six, Effect.apply]
  rw [tblSet_set]

theorem strand_withMe_other (s : State) (x : Strand) (k : Nat) (h : k ≠ s.six) : (s.withMe x).strand k = s.strand k := by
  simp [State.withMe, State.strand, tblGet_set_other _ _ _ _ _ h]

theorem apply_strand_six (s : State) (x : Strand) : (Effect.strand s.six x).apply s = s.withMe x := rfl

theorem landed_eq (s : State) : s.landed = s.withMe (s.me.landSt s.stream) := rfl
@[simp] theorem landed_me (s : State) : s.landed.me = s.me.landSt s.stream := withMe_me s _
@[simp] theorem landed_six (s : State) : s.landed.six = s.six := withMe_six s _
@[simp] theorem landed_stream (s : State) : s.landed.stream = s.stream := withMe_stream s _

/-! ## What landing leaves -/

theorem setReg_pcOf (st : Stream) (x : Strand) (r : RegId) (p : PVal) : (x.setReg r p).pcOf st = x.pcOf st := by
  cases st <;> cases r <;> cases p <;> simp only [Strand.setReg, Strand.pcOf] <;> split <;> rfl

theorem setReg_waitOf (st : Stream) (x : Strand) (r : RegId) (p : PVal) : (x.setReg r p).waitOf st = x.waitOf st := by
  cases st <;> cases r <;> cases p <;> simp only [Strand.setReg, Strand.waitOf] <;> split <;> rfl

/-- Landing leaves every stream where it is. -/
@[simp] theorem landSt_pcOf (x : Strand) (st st' : Stream) : (x.landSt st).pcOf st' = x.pcOf st' := by
  cases st <;> cases st' <;>
    first
    | exact landList_field (Strand.pcOf · .c) (setReg_pcOf .c) x _ _
    | exact landList_field (Strand.pcOf · .v) (setReg_pcOf .v) x _ _

@[simp] theorem landSt_waitOf (x : Strand) (st st' : Stream) : (x.landSt st).waitOf st' = x.waitOf st' := by
  cases st <;> cases st' <;>
    first
    | exact landList_field (Strand.waitOf · .c) (setReg_waitOf .c) x _ _
    | exact landList_field (Strand.waitOf · .v) (setReg_waitOf .v) x _ _

/-! ## Running -/

variable {α β : Type} (f : Stop → State → State) (s0 s : State)

@[simp] theorem run_done : Prog.run f s0 .done s = s := rfl
@[simp] theorem run_stop (x : Stop) : Prog.run f s0 (.stop x) s = f x s0 := rfl
@[simp] theorem run_get (k : State → Prog) : Prog.run f s0 (.get k) s = Prog.run f s0 (k s) s := rfl
@[simp] theorem run_put (e : Effect) (k : Prog) : Prog.run f s0 (.put e k) s = Prog.run f s0 k (e.apply s) := rfl

@[simp] theorem m_bind (m : M α) (g : α → M β) (k : β → Prog) : (m >>= g) k = m (fun a => g a k) := rfl
@[simp] theorem m_pure (a : α) (k : α → Prog) : (pure a : M α) k = k a := rfl
@[simp] theorem m_map (g : α → β) (m : M α) (k : β → Prog) : (g <$> m) k = m (fun a => k (g a)) := rfl
@[simp] theorem m_getS (k : State → Prog) : getS k = .get k := rfl
@[simp] theorem m_put (e : Effect) (k : Unit → Prog) : put e k = .put e (k ()) := rfl
@[simp] theorem m_halt (x : Stop) (k : α → Prog) : (halt x : M α) k = .stop x := rfl
@[simp] theorem m_finish (k : α → Prog) : (finish : M α) k = .done := rfl
@[simp] theorem m_stall (w : Wait) (k : α → Prog) : (stall w : M α) k = .stop (.wait w) := rfl
theorem m_ite (c : Prop) [Decidable c] (m n : M α) (k : α → Prog) : (if c then m else n) k = if c then m k else n k := by
  split <;> rfl

@[simp] theorem run_puts (es : List Effect) (k : Unit → Prog) :
    Prog.run f s0 (puts es k) s = Prog.run f s0 (k ()) (applyAll es s) := by
  induction es generalizing s with
  | nil => rfl
  | cons e es ih => exact ih (e.apply s)

@[simp] theorem m_trapIf_false (c u : Nat) (a : Word) (k : Unit → Prog) : trapIf false c u a k = k () := rfl
@[simp] theorem m_stallIf_false (w : Wait) (k : Unit → Prog) : stallIf false w k = k () := rfl
@[simp] theorem m_trapIf_true (c u : Nat) (a : Word) (k : Unit → Prog) :
    trapIf true c u a k = .get (fun s => .stop (.trap { cause := c, sub := u, addr := a, strm := s.stream })) := rfl
@[simp] theorem m_stallIf_true (w : Wait) (k : Unit → Prog) : stallIf true w k = .stop (.wait w) := rfl
@[simp] theorem m_trap (c u : Nat) (a : Word) (k : α → Prog) :
    (trap c u a : M α) k = .get (fun s => .stop (.trap { cause := c, sub := u, addr := a, strm := s.stream })) := rfl

@[simp] theorem run_modMe (g : Strand → Strand) (k : Unit → Prog) :
    Prog.run f s0 (modMe g k) s = Prog.run f s0 (k ()) (s.withMe (g s.me)) := rfl

@[simp] theorem run_land (r : RegId) (p : PVal) (l : Nat) (k : Unit → Prog) :
    Prog.run f s0 (land r p l k) s = Prog.run f s0 (k ()) (s.wrote r p l) := rfl

theorem wrote_one (r : RegId) (p : PVal) : s.wrote r p 1 = s.withMe (s.me.write r p) := rfl

@[simp] theorem run_scored (r : RegId) (p : PVal) (k : Unit → Prog) :
    Prog.run f s0 (scored r p k) s = Prog.run f s0 (k ()) (s.wrote r p 1) := rfl

@[simp] theorem run_giveS (d : BitVec 5) (w : Word) (k : Unit → Prog) :
    Prog.run f s0 (giveS d w k) s = Prog.run f s0 (k ()) (s.wrote (.s d.toNat) (.word w) 1) := rfl

@[simp] theorem run_writeS (d : Nat) (w : Word) (k : Unit → Prog) :
    Prog.run f s0 (writeS d w k) s = Prog.run f s0 (k ()) (s.wrote (.s d) (.word w) 1) := rfl

@[simp] theorem run_writeX (d : Nat) (w : Word) (k : Unit → Prog) :
    Prog.run f s0 (writeX d w k) s = Prog.run f s0 (k ()) (s.wrote (regOf s.stream d) (.word w) 1) := rfl

@[simp] theorem run_getSr (a : BitVec 5) (k : Word → Prog) :
    Prog.run f s0 (getSr a k) s = Prog.run f s0 (k (s.me.readS a.toNat)) s := rfl
@[simp] theorem run_getX (a : Nat) (k : Word → Prog) :
    Prog.run f s0 (getX a k) s = Prog.run f s0 (k (s.me.readX s.stream a)) s := rfl
@[simp] theorem run_getK (a : Nat) (k : Word → Prog) : Prog.run f s0 (getK a k) s = Prog.run f s0 (k (s.me.readK a)) s := rfl
@[simp] theorem run_getOx (a : Nat) (k : Word → Prog) :
    Prog.run f s0 (getOx a k) s = Prog.run f s0 (k (s.me.readOx a)) s := rfl
@[simp] theorem run_getV (a : BitVec 5) (k : VReg → Prog) :
    Prog.run f s0 (getV a k) s = Prog.run f s0 (k (s.me.readV a.toNat)) s := rfl
@[simp] theorem run_getM (a : Nat) (k : Lane → Prog) :
    Prog.run f s0 (getM a k) s = Prog.run f s0 (k (s.me.readM a)) s := rfl
@[simp] theorem run_getPc (k : Word → Prog) :
    Prog.run f s0 (getPc k) s = Prog.run f s0 (k (s.me.pcOf s.stream)) s := rfl

@[simp] theorem run_newId (k : Nat → Prog) :
    Prog.run f s0 (newId k) s = Prog.run f s0 (k s.nextId) (Effect.fresh.apply s) := rfl

/-! ## Before issue -/

/-- A ready stream passes the checks before issue of an instruction of its own (R24, R36, R38, R56). -/
theorem issueStop_ready (i : Info) (st : Stream) (s : State) (h : s.ready st) (hs : i.strms.contains st = true)
    (hp : i.priv = true → s.me.sys.pm = true) : issueStop i s.stream (s.me.landSt s.stream) = none := by
  obtain ⟨h1, h2, h3⟩ := h
  have hp' : (i.priv && !s.me.sys.pm) = false := by
    cases hi : i.priv <;> simp [hp, hi]
  have hs' : st ∈ i.strms := by simpa using hs
  simp [issueStop, h1, h2, h3, hs', hp']

/-- What an instruction that passes the checks before issue answers: its body run from the landed state, then its end. -/
theorem issue_next (i : Info) (body : M Ctl) (s : State) (h : issueStop i s.stream (s.me.landSt s.stream) = none) :
    issue i body s = .next (Prog.run onStop s (body (fun c => finishIssue i s.stream c (fun _ => .done))) s.landed) := by
  simp only [issue, issueProg, M.prog, m_bind, m_getS, run_get, h, m_put, run_put]
  rfl

/-- What an instruction that fails a check before issue answers (R33, R38). -/
theorem issue_stop (i : Info) (body : M Ctl) (s : State) (x : Stop) (h : issueStop i s.stream (s.me.landSt s.stream) = some x) :
    issue i body s = .next (onStop x s) := by
  simp only [issue, issueProg, M.prog, m_bind, m_getS, run_get, h, m_halt, run_stop]

/-! ## Issue and events -/

@[simp] theorem infoC_len (e w : Nat) (u : List RegId) : (infoC e w u).len = 4 := rfl
@[simp] theorem infoC_w (e w : Nat) (u : List RegId) : (infoC e w u).w = w := rfl
@[simp] theorem infoV_len (e w : Nat) (u : List RegId) : (infoV e w u).len = 4 := rfl
@[simp] theorem infoV_w (e w : Nat) (u : List RegId) : (infoV e w u).w = w := rfl
@[simp] theorem infoB_len (e w : Nat) (u : List RegId) : (infoB e w u).len = 4 := rfl
@[simp] theorem infoB_w (e w : Nat) (u : List RegId) : (infoB e w u).w = w := rfl
@[simp] theorem infoP_len (e w : Nat) (u : List RegId) : (infoP e w u).len = 4 := rfl
@[simp] theorem infoP_w (e w : Nat) (u : List RegId) : (infoP e w u).w = w := rfl
@[simp] theorem infoM_len (e sp : Nat) (u : List RegId) : (infoM e sp u).len = 4 := rfl
@[simp] theorem infoM_w (e sp : Nat) (u : List RegId) : (infoM e sp u).w = 0 := rfl
@[simp] theorem info16_len (e : Nat) (u : List RegId) : (info16 e u).len = 2 := rfl
@[simp] theorem info16_w (e : Nat) (u : List RegId) : (info16 e u).w = 0 := rfl

/-- What a ready stream issues: an instruction of its own, in the mode it needs. -/
theorem issue_ready (i : Info) (body : M Ctl) (st : Stream) (s : State) (h : s.ready st) (hs : i.strms.contains st = true)
    (hp : i.priv = true → s.me.sys.pm = true) :
    issue i body s = .next (Prog.run onStop s (body (fun c => finishIssue i st c (fun _ => .done))) s.landed) := by
  rw [issue_next i body s (issueStop_ready i st s h hs hp), h.1]

theorem issue_infoC (e w : Nat) (u : List RegId) (body : M Ctl) (s : State) (h : s.ready .c) :
    issue (infoC e w u) body s
      = .next (Prog.run onStop s (body (fun c => finishIssue (infoC e w u) .c c (fun _ => .done))) s.landed) :=
  issue_ready _ _ _ _ h rfl (by simp [infoC])

theorem issue_info16 (e : Nat) (u : List RegId) (body : M Ctl) (s : State) (h : s.ready .c) :
    issue (info16 e u) body s
      = .next (Prog.run onStop s (body (fun c => finishIssue (info16 e u) .c c (fun _ => .done))) s.landed) :=
  issue_ready _ _ _ _ h rfl (by simp [info16])

theorem issue_infoV (e w : Nat) (u : List RegId) (body : M Ctl) (s : State) (h : s.ready .v) :
    issue (infoV e w u) body s
      = .next (Prog.run onStop s (body (fun c => finishIssue (infoV e w u) .v c (fun _ => .done))) s.landed) :=
  issue_ready _ _ _ _ h rfl (by simp [infoV])

theorem issue_infoB (e w : Nat) (u : List RegId) (body : M Ctl) (st : Stream) (s : State) (h : s.ready st) :
    issue (infoB e w u) body s
      = .next (Prog.run onStop s (body (fun c => finishIssue (infoB e w u) st c (fun _ => .done))) s.landed) :=
  issue_ready _ _ _ _ h (by cases st <;> rfl) (by simp [infoB])

theorem issue_infoP (e w : Nat) (u : List RegId) (body : M Ctl) (s : State) (h : s.ready .c) (hp : s.me.sys.pm = true) :
    issue (infoP e w u) body s
      = .next (Prog.run onStop s (body (fun c => finishIssue (infoP e w u) .c c (fun _ => .done))) s.landed) :=
  issue_ready _ _ _ _ h rfl (fun _ => hp)

theorem issue_infoM (e sp : Nat) (u : List RegId) (body : M Ctl) (s : State) (h : s.ready .c) (hsp : sp ≠ 3) :
    issue (infoM e sp u) body s
      = .next (Prog.run onStop s (body (fun c => finishIssue (infoM e sp u) .c c (fun _ => .done))) s.landed) :=
  issue_ready _ _ _ _ h (by simp [infoM, hsp]) (by simp [infoM])

@[simp] theorem wrote_me (r : RegId) (p : PVal) (l : Nat) : (s.wrote r p l).me = s.me.result r p l := withMe_me s _
@[simp] theorem wrote_six (r : RegId) (p : PVal) (l : Nat) : (s.wrote r p l).six = s.six := withMe_six s _
@[simp] theorem wrote_stream (r : RegId) (p : PVal) (l : Nat) : (s.wrote r p l).stream = s.stream := withMe_stream s _

@[simp] theorem run_finish_next (i : Info) (st : Stream) (k : Unit → Prog) (h : s.stream = st) :
    Prog.run f s0 (finishIssue i st .next k) s = Prog.run f s0 (k ()) (s.advanced i.len i.w) := by
  subst h; rfl
@[simp] theorem run_finish_jump (i : Info) (st : Stream) (t : Word) (k : Unit → Prog) (h : s.stream = st) :
    Prog.run f s0 (finishIssue i st (.jump t) k) s = Prog.run f s0 (k ()) (s.jumped t i.w) := by
  subst h; rfl
@[simp] theorem run_finish_placed (i : Info) (st : Stream) (k : Unit → Prog) (h : s.stream = st) :
    Prog.run f s0 (finishIssue i st .placed k) s = Prog.run f s0 (k ()) (s.stayed i.w) := by
  subst h; rfl

@[simp] theorem run_jumpTo (t : Word) (k : Ctl → Prog) (h : t.getLsbD 0 = false) :
    jumpTo t k = k (.jump t) := by
  show trapIf (t.getLsbD 0) 4 0 t (fun _ => k (.jump t)) = _
  rw [h]; rfl

/-- An event whose condition holds: its effects. -/
theorem event_whenever (b : Bool) (g : State → List Effect) (s : State) (h : b = true) :
    event (whenever b g) s = .next (applyAll (g s) s) := by
  simp [event, whenever, M.prog, h]

/-- An event whose condition does not hold changes nothing. -/
theorem event_disabled (b : Bool) (g : State → List Effect) (s : State) (h : b = false) :
    event (whenever b g) s = .next s := by
  simp [event, whenever, M.prog, h]

/-! ## Ends, whatever the body did -/

theorem run_finish_ended (i : Info) (st : Stream) (k : Unit → Prog) :
    Prog.run f s0 (finishIssue i st .next k) s = Prog.run f s0 (k ()) (s.ended st i.len i.w) := rfl
theorem run_finish_endedHere (i : Info) (st : Stream) (k : Unit → Prog) :
    Prog.run f s0 (finishIssue i st .placed k) s = Prog.run f s0 (k ()) (s.endedHere st i.w) := rfl

theorem advanced_eq (n w : Nat) : s.advanced n w = s.ended s.stream n w := rfl

/-- A strand that is not speculative need not wait to be the oldest (R97). -/
theorem run_beOldest (k : Unit → Prog) (h : s.me.spec = false) : Prog.run f s0 (beOldest k) s = Prog.run f s0 (k ()) s := by
  simp only [beOldest, m_bind, m_getS, run_get, m_ite, h]
  rfl

/-- A release of a strand whose accesses have all performed (R98). -/
theorem run_release (k : Unit → Prog) (h : outstanding s s.six = false) :
    Prog.run f s0 (release k) s = Prog.run f s0 (k ()) s := by
  simp only [release, releaseIn, m_bind, m_getS, run_get, h, m_stallIf_false]

@[simp] theorem run_acquireHere (k : Unit → Prog) :
    Prog.run f s0 (acquireHere k) s = Prog.run f s0 (k ()) (applyAll (acquire s.coreNo s) s) := by
  simp only [acquireHere, m_bind, m_getS, run_get, run_puts]

@[simp] theorem run_request (op : MemOp) (va : Word) (acq rel : Bool) (k : Held → Prog) :
    Prog.run f s0 (request op va acq rel k) s = Prog.run f s0 (k (s.asks op va acq rel)) (Effect.fresh.apply s) := rfl

/-- A choice the manual leaves to the device (log entry 12). -/
@[simp] theorem run_choose (n : Nat) (k : Nat → Prog) :
    Prog.run f s0 (choose n k) s = Prog.run f s0 (k (s.choice n)) s.chose := by
  simp only [choose, m_bind, m_getS, run_get, State.choice, State.chose]
  cases s.oracle <;> rfl

@[simp] theorem chose_me : s.chose.me = s.me := by unfold State.chose; split <;> rfl
@[simp] theorem chose_six : s.chose.six = s.six := by unfold State.chose; split <;> rfl
@[simp] theorem chose_stream : s.chose.stream = s.stream := by unfold State.chose; split <;> rfl

end Sys2Proof.Machine
end

