-- ==== Sys2Proof/Laws/Access.lean ====
section
/-! SUPPORT. What a scalar access does when it performs (R92 to R98): one lemma for space G, one for each operation of a local
space. -/

namespace Sys2Proof.Machine

variable (f : Stop → State → State) (s0 s : State)

/-- A check that does not trap, a wait that is over. -/
theorem trapIf_pass {b : Bool} (h : b = false) (c u : Nat) (a : Word) (k : Unit → Prog) : trapIf b c u a k = k () := by
  subst h; rfl
theorem stallIf_pass {b : Bool} (h : b = false) (w : Wait) (k : Unit → Prog) : stallIf b w k = k () := by
  subst h; rfl

/-- A scalar field that the issuing stream's registers cover goes on; one past k15 in the V-stream is ILLEGAL (R49). -/
theorem run_scalarIf_pass {n : BitVec 5} (h : s.stream = .v → n.toNat < 16) (enc : Nat) (k : Unit → Prog) :
    Prog.run f s0 (scalarIf n enc k) s = Prog.run f s0 (k ()) s := by
  have c : decide (s.stream = .v ∧ 16 ≤ n.toNat) = false := decide_eq_false fun g => absurd (h g.1) (by omega)
  simp only [scalarIf, m_bind, m_getS, run_get]
  rw [trapIf_pass c]
theorem run_scalarIf_stop {n : BitVec 5} (h : s.stream = .v) (hn : 16 ≤ n.toNat) (enc : Nat) (k : Unit → Prog) :
    Prog.run f s0 (scalarIf n enc k) s = f (.trap { cause := 1, sub := 0, addr := BitVec.ofNat 64 enc, strm := .v }) s0 := by
  have c : decide (s.stream = .v ∧ 16 ≤ n.toNat) = true := decide_eq_true ⟨h, hn⟩
  simp only [scalarIf, m_bind, m_getS, run_get]
  rw [c]; simp only [m_trapIf_true, run_get, run_stop, h]

theorem asks_spec (s : State) (op : MemOp) (va : Word) (acq rel : Bool) : (s.asks op va acq rel).six = s.six := rfl

@[simp] theorem fresh_me (s : State) : (Effect.fresh.apply s).me = s.me := rfl
@[simp] theorem fresh_six (s : State) : (Effect.fresh.apply s).six = s.six := rfl
@[simp] theorem fresh_stream (s : State) : (Effect.fresh.apply s).stream = s.stream := rfl

/-- A strand that is not speculative passes a conditional wait to be the oldest. -/
theorem run_ite_beOldest {α : Type} (c : Prop) [Decidable c] (m : M α) (k : α → Prog) (h : s.me.spec = false) :
    Prog.run f s0 ((if c then (do beOldest; m) else m) k) s = Prog.run f s0 (m k) s := by
  split
  · simp only [m_bind, run_beOldest f s0 s _ h]
  · rfl

theorem run_ite_release {α : Type} (c : Prop) [Decidable c] (m : M α) (k : α → Prog) (h : c → outstanding s s.six = false) :
    Prog.run f s0 ((if c then (do release; m) else m) k) s = Prog.run f s0 (m k) s := by
  split
  · rename_i hc
    simp only [m_bind, run_release f s0 s _ (h hc)]
  · rfl

/-- An access to space G that performs (R94): its effects, with one identity taken. -/
theorem run_accessG {op : MemOp} {va : Word} {acq rel : Bool} {es : List Effect} (h : Reaches s op va acq rel es)
    (k : Unit → Prog) :
    Prog.run f s0 (accessG op va acq rel k) s = Prog.run f s0 (k ()) (applyAll es (Effect.fresh.apply s)) := by
  obtain ⟨ha, hu, hp, hi, hq, hr, hd⟩ := h
  have ha' : (!op.anyAlign && decide (va.toNat % op.bytes ≠ 0)) = false := by
    rcases ha with ha | ha <;> simp [ha]
  simp only [accessG, m_bind, m_getS, run_get, hi, ha', hu, hq, m_trapIf_false, m_stallIf_false]
  rw [run_ite_release f s0 s _ _ _ hr]
  rw [run_ite_beOldest f s0 s _ _ _ hp]
  simp only [m_bind, run_request, submit, finishAccess, m_getS, run_get, hd, run_puts]

/-- An acquire that has not performed is an access that has not (R98). -/
theorem acqPending_of_performed {s : State} {six : Nat} (h : outstanding s six = false) : acqPending s six = false := by
  simp only [outstanding, openIssued, Bool.or_eq_false_iff] at h
  obtain ⟨h1, ⟨⟨h2, h3⟩, h4⟩, h5⟩ := h
  simp only [acqPending, Bool.or_eq_false_iff]
  refine ⟨⟨⟨⟨?_, ?_⟩, ?_⟩, ?_⟩, ?_⟩ <;> rw [List.any_eq_false] at * <;> intro x hx
  · have := h1 x hx; simp_all
  · have := h2 x hx; simp_all
  · have := h3 x hx; simp_all
  · have := h4 x hx
    cases hr : x.req <;> simp_all
  · have := h5 x hx
    rw [Bool.not_eq_true, List.any_eq_false] at this ⊢
    intro e he
    have := this e he
    cases e <;> simp_all

/-- A load of a local space (R92, R93). -/
theorem run_localLoad {space : Space} {d n : Nat} {sg : Bool} {ea : Word} {acq rel : Bool} {l : Loc}
    (h : ReachesLocal s space (.load d n sg) ea rel l) (hp : l.poisoned s n = false) (k : Unit → Prog) :
    Prog.run f s0 (accessLocal space (.load d n sg) ea acq rel k) s =
      (let t := if d = 0 then s else s.wrote (.s d) (.word (extendLoad n sg (l.read s n))) 1
       Prog.run f s0 (k ()) (if acq then applyAll (acquire t.coreNo t) t else t)) := by
  obtain ⟨ha, hl, hu, hs, hq, hr⟩ := h
  simp only [accessLocal, m_bind, m_getS, run_get]
  rw [trapIf_pass (by simpa using ha), hl]
  simp only [m_bind]
  rw [trapIf_pass hu, stallIf_pass hq]
  rw [run_ite_release f s0 s _ _ _ hr]
  simp only [m_bind]
  rw [run_beOldest f s0 s _ hs]
  simp only [m_getS, run_get]
  rw [trapIf_pass hp]
  by_cases hd : d = 0
  · subst hd
    cases acq <;> simp
  · cases acq <;> simp [hd]

/-- A store of a local space (R92, R93). -/
theorem run_localStore {space : Space} {n : Nat} {v ea : Word} {rel : Bool} {l : Loc}
    (h : ReachesLocal s space (.store n v) ea rel l) (k : Unit → Prog) :
    Prog.run f s0 (accessLocal space (.store n v) ea false rel k) s
      = Prog.run f s0 (k ()) (applyAll (l.write n v.toNat s) s) := by
  obtain ⟨ha, hl, hu, hs, hq, hr⟩ := h
  simp only [accessLocal, m_bind, m_getS, run_get]
  rw [trapIf_pass (by simpa using ha), hl]
  simp only [m_bind]
  rw [trapIf_pass hu, stallIf_pass hq]
  rw [run_ite_release f s0 s _ _ _ hr]
  simp only [m_bind]
  rw [run_beOldest f s0 s _ hs]
  simp only [m_getS, run_get]
  simp

theorem run_finish_endedAt (i : Info) (st : Stream) (t : Word) (k : Unit → Prog) :
    Prog.run f s0 (finishIssue i st (.jump t) k) s = Prog.run f s0 (k ()) (s.endedAt st t i.w) := rfl

/-- A table or descriptor load that performs (R90). -/
theorem run_loadTable {va : Word} {n v : Nat} {fx : List Effect} (h : TableLoad s va n v fx) (k : Nat → Prog) :
    Prog.run f s0 (loadTable va n k) s = Prog.run f s0 (k v) (applyAll fx s) := by
  obtain ⟨hu, hs, hq, hp⟩ := h
  simp only [loadTable, m_bind, m_getS, run_get]
  rw [trapIf_pass hu, stallIf_pass hq, run_ite_beOldest f s0 s _ _ _ hs]
  simp only [m_bind, m_getS, run_get, finishLoad, hp, run_puts, m_pure]

end Sys2Proof.Machine
end

