-- ==== Sys2Proof/Laws/Canonical.lean ====
section
/-! SUPPORT. Every effect keeps the canonical form of a state, and with it every list of effects, every program and every outcome
that is built from them. -/

namespace Sys2Proof.Machine

theorem wf_iff (s : State) : s.wf = true ↔
    (tblWf .free s.strands = true ∧ tblWf .idle s.cores = true ∧ tblWf .idle s.clusters = true ∧ tblWf .idle s.dies = true)
    ∧ (Memory.wf s.mem = true ∧ Memory.wf s.pmem = true ∧ Memory.wf s.lmem = true ∧ Memory.wf s.dmem = true)
    ∧ (tblWf .dead s.doms = true ∧ tblWf .free s.gates = true ∧ tblWf .reset s.frames = true ∧ tblWf .reset s.tenants = true)
    ∧ (tblWf none s.groups = true ∧ tblWf none s.tasks = true ∧ tblWf .free s.counters = true ∧ tblWf .fresh s.bells = true)
    ∧ tblWf .empty s.l1 = true ∧ tblWf none s.tlb = true ∧ tblWf .none s.dir = true ∧ tblWf false s.poison = true := by
  simp only [State.wf, Bool.and_eq_true, and_assoc]

theorem resetOf_wf (cfg : Cfg) (i : List Input) (o : List Nat) (u : List Output) :
    ({ State.resetOf cfg with inputs := i, oracle := o, outputs := u } : State).wf = true := by
  rw [wf_iff]
  refine ⟨⟨?_, rfl, rfl, rfl⟩, ⟨rfl, rfl, rfl, rfl⟩, ⟨rfl, rfl, rfl, rfl⟩, ⟨rfl, rfl, rfl, rfl⟩, rfl, rfl, rfl, rfl⟩
  show tblWf .free ((bootSix, .boot) :: (List.range 31).map (fun i => (bootSix + 8 * (i + 1), Strand.waiting))) = true
  decide +kernel

/-- An effect keeps the canonical form. -/
theorem apply_wf (e : Effect) (s : State) (h : s.wf = true) : (e.apply s).wf = true := by
  rw [wf_iff] at h
  obtain ⟨⟨a1, a2, a3, a4⟩, ⟨b1, b2, b3, b4⟩, ⟨c1, c2, c3, c4⟩, ⟨d1, d2, d3, d4⟩, e1, e2, e3, e4⟩ := h
  cases e
  case reset => exact resetOf_wf s.cfg s.inputs s.oracle s.outputs
  all_goals
    rw [wf_iff]
    simp only [Effect.apply, tblWf_set, memWf_write, memWf_clear, a1, a2, a3, a4, b1, b2, b3, b4, c1, c2, c3, c4,
      d1, d2, d3, d4, e1, e2, e3, e4, and_self]

theorem applyAll_wf (es : List Effect) (s : State) (h : s.wf = true) : (applyAll es s).wf = true := by
  induction es generalizing s with
  | nil => exact h
  | cons e es ih => exact ih _ (apply_wf e s h)

/-- A program keeps the canonical form where its stop does. -/
theorem run_wf (f : Stop → State → State) (s0 : State) (p : Prog) (s : State) (hf : ∀ x, (f x s0).wf = true)
    (h : s.wf = true) : (Prog.run f s0 p s).wf = true := by
  induction p generalizing s with
  | done => exact h
  | stop x => exact hf x
  | get k ih => exact ih s s h
  | put e k ih => exact ih _ (apply_wf e s h)

end Sys2Proof.Machine
end

