-- ==== Sys2Proof/Laws/Registers.lean ====
section
/-! SUPPORT. What a register reads after a result: the one register written, and no other of any file. -/

namespace Sys2Proof.Machine

theorem dropPend_c_s (x : Strand) (r : RegId) : (x.dropPend r).c.s = x.c.s := by simp only [Strand.dropPend]; split <;> rfl
theorem dropPend_c_ox (x : Strand) (r : RegId) : (x.dropPend r).c.ox = x.c.ox := by simp only [Strand.dropPend]; split <;> rfl
theorem dropPend_v_k (x : Strand) (r : RegId) : (x.dropPend r).v.k = x.v.k := by simp only [Strand.dropPend]; split <;> rfl
theorem dropPend_v_v (x : Strand) (r : RegId) : (x.dropPend r).v.v = x.v.v := by simp only [Strand.dropPend]; split <;> rfl
theorem dropPend_v_m (x : Strand) (r : RegId) : (x.dropPend r).v.m = x.v.m := by simp only [Strand.dropPend]; split <;> rfl
theorem dropPend_v_t (x : Strand) (r : RegId) : (x.dropPend r).v.t = x.v.t := by simp only [Strand.dropPend]; split <;> rfl

/-- A result in an s register: s0 discards it (R25). -/
theorem readS_writeS (x : Strand) (n m : Nat) (w : Word) :
    (x.write (.s n) (.word w)).readS m = if m = n ∧ n ≠ 0 then w else x.readS m := by
  simp only [Strand.write, Strand.setReg, Strand.readS]
  by_cases hn : n = 0
  · subst hn; simp [dropPend_c_s]
  · by_cases hm : m = 0
    · subst hm; simp [hn]; intro h; exact absurd h.symm hn
    · simp only [hn, hm, if_false, tblGet_set, dropPend_c_s]
      by_cases h : m = n <;> simp [h, hn]

@[simp] theorem readOx_writeS (x : Strand) (n m : Nat) (w : Word) : (x.write (.s n) (.word w)).readOx m = x.readOx m := by
  by_cases hn : n = 0 <;> simp [Strand.write, Strand.setReg, Strand.readOx, hn, dropPend_c_ox]
@[simp] theorem readK_writeS (x : Strand) (n m : Nat) (w : Word) : (x.write (.s n) (.word w)).readK m = x.readK m := by
  by_cases hn : n = 0 <;> simp [Strand.write, Strand.setReg, Strand.readK, hn, dropPend_v_k]
@[simp] theorem readV_writeS (x : Strand) (n m : Nat) (w : Word) : (x.write (.s n) (.word w)).readV m = x.readV m := by
  by_cases hn : n = 0 <;> simp [Strand.write, Strand.setReg, Strand.readV, hn, dropPend_v_v]
@[simp] theorem readM_writeS (x : Strand) (n m : Nat) (w : Word) : (x.write (.s n) (.word w)).readM m = x.readM m := by
  by_cases hn : n = 0 <;> simp [Strand.write, Strand.setReg, Strand.readM, hn, dropPend_v_m]
@[simp] theorem readT_writeS (x : Strand) (n m : Nat) (w : Word) : (x.write (.s n) (.word w)).readT m = x.readT m := by
  by_cases hn : n = 0 <;> simp [Strand.write, Strand.setReg, Strand.readT, hn, dropPend_v_t]

/-- A result in an s register changes nothing else that `sameBut` names. -/
theorem sameBut_writeS (x : Strand) (d : Nat) (w : Word) : x.sameBut (x.write (.s d) (.word w)) d := by
  refine ⟨fun n hn => ?_, ?_, ?_, ?_, ?_, ?_, ?_, ?_, ?_, ?_⟩
  · rw [readS_writeS]; simp [hn]
  all_goals simp

theorem sameBut_refl (x : Strand) (d : Nat) : x.sameBut x d := by
  refine ⟨fun n hn => rfl, ?_, ?_, ?_, ?_, ?_, ?_, ?_, ?_, ?_⟩ <;> simp

/-- A pending result changes no register yet (R35). -/
theorem later_c_s (x : Strand) (r : RegId) (p : PVal) (l : Nat) : (x.later r p l).c.s = x.c.s ∧ (x.later r p l).c.ox = x.c.ox := by
  unfold Strand.later; split
  · exact ⟨rfl, rfl⟩
  · split <;> exact ⟨rfl, rfl⟩
theorem later_v (x : Strand) (r : RegId) (p : PVal) (l : Nat) : (x.later r p l).v.k = x.v.k ∧ (x.later r p l).v.v = x.v.v
    ∧ (x.later r p l).v.m = x.v.m ∧ (x.later r p l).v.t = x.v.t := by
  unfold Strand.later; split
  · exact ⟨rfl, rfl, rfl, rfl⟩
  · split <;> exact ⟨rfl, rfl, rfl, rfl⟩

end Sys2Proof.Machine
end

