-- ==== Sys2Proof/Laws/Memory.lean ====
section
/-! SUPPORT. What lists of effects leave alone: the memories, and a strand that none of them names; and which operations of
Access.lean leave which alone. -/

namespace Sys2Proof.Machine

/-- Whether an effect writes a memory. -/
def Effect.writesMem : Effect → Bool
  | .mem .. => true
  | .memClear .. => true
  | .pmem .. => true
  | .pmemClear .. => true
  | .lmem .. => true
  | .lmemClear .. => true
  | .dmem .. => true
  | .dmemClear .. => true
  | .reset => true
  | _ => false

/-- Whether an effect names a strand. -/
def Effect.names (six : Nat) : Effect → Bool
  | .strand k _ => k == six
  | .reset => true
  | _ => false

/-- An effect that changes which stream issues. -/
def Effect.refocuses : Effect → Bool
  | .focus .. => true
  | .reset => true
  | _ => false

theorem apply_keepsMem (e : Effect) (s : State) (h : e.writesMem = false) :
    (e.apply s).mem = s.mem ∧ (e.apply s).pmem = s.pmem ∧ (e.apply s).lmem = s.lmem ∧ (e.apply s).dmem = s.dmem := by
  cases e <;> first | (simp [Effect.writesMem] at h; done) | simp [Effect.apply]

theorem applyAll_keepsMem (es : List Effect) (s : State) (h : ∀ e ∈ es, e.writesMem = false) :
    (applyAll es s).mem = s.mem ∧ (applyAll es s).pmem = s.pmem ∧ (applyAll es s).lmem = s.lmem ∧ (applyAll es s).dmem = s.dmem := by
  induction es generalizing s with
  | nil => exact ⟨rfl, rfl, rfl, rfl⟩
  | cons e es ih =>
    obtain ⟨a, b, c, d⟩ := ih (e.apply s) (fun x hx => h x (List.mem_cons_of_mem _ hx))
    obtain ⟨a', b', c', d'⟩ := apply_keepsMem e s (h e (List.mem_cons_self ..))
    rw [applyAll_cons]
    exact ⟨a.trans a', b.trans b', c.trans c', d.trans d'⟩

theorem apply_strandOf (e : Effect) (s : State) (six : Nat) (h : e.names six = false) : (e.apply s).strand six = s.strand six := by
  cases e <;> simp [Effect.names] at h
  case strand k x => simp [State.strand, Effect.apply, tblGet_set_other _ _ _ _ _ (Ne.symm h)]
  all_goals rfl

theorem applyAll_strandOf (es : List Effect) (s : State) (six : Nat) (h : ∀ e ∈ es, e.names six = false) :
    (applyAll es s).strand six = s.strand six := by
  induction es generalizing s with
  | nil => rfl
  | cons e es ih =>
    rw [applyAll_cons, ih (e.apply s) (fun x hx => h x (List.mem_cons_of_mem _ hx))]
    exact apply_strandOf e s six (h e (List.mem_cons_self ..))

theorem applyAll_focusOf (es : List Effect) (s : State) (h : ∀ e ∈ es, e.refocuses = false) :
    (applyAll es s).focus = s.focus := by
  induction es generalizing s with
  | nil => rfl
  | cons e es ih =>
    rw [applyAll_cons, ih (e.apply s) (fun x hx => h x (List.mem_cons_of_mem _ hx))]
    have := h e (List.mem_cons_self ..)
    cases e <;> first | (simp [Effect.refocuses] at this; done) | simp [Effect.apply]

/-- Effects that only change one strand, tables of caches, tasks and clusters: what a store does beside the bytes. -/
theorem chain_all (p : Effect → Prop) (fs : List (State → List Effect)) (s : State)
    (h : ∀ f ∈ fs, ∀ s, ∀ e ∈ f s, p e) : ∀ e ∈ chain fs s, p e := by
  induction fs generalizing s with
  | nil => intro e he; simp [chain] at he
  | cons f fs ih =>
    intro e he
    simp only [chain, List.mem_append] at he
    rcases he with he | he
    · exact h f (List.mem_cons_self ..) s e he
    · exact ih _ (fun g hg => h g (List.mem_cons_of_mem _ hg)) e he

/-- What holds of each effect of a list holds of each effect of the list under a guard. -/
theorem unless_all (p : Effect → Prop) (c : Prop) [Decidable c] {es : List Effect} (h : ∀ e ∈ es, p e) :
    ∀ e ∈ (if c then [] else es), p e := by
  split
  · intro e he; simp at he
  · exact h

/-! ## Operations of Access.lean -/

/-- What a store may do beside its bytes: neither memories, nor the strand `six`, nor the focus. -/
def Effect.aside (six : Nat) (e : Effect) : Bool := !e.writesMem && !e.names six && !e.refocuses

/-- An effect on an L1 line, or an identity taken. -/
def Effect.onL1 : Effect → Bool
  | .l1 .. => true
  | .fresh => true
  | _ => false

theorem onL1_aside (six : Nat) {e : Effect} (h : e.onL1 = true) : e.aside six = true := by
  cases e <;> first | (simp [Effect.onL1] at h; done) | rfl

theorem recallOldest_onL1 (agent : Nat) (s : State) : ∀ e ∈ recallOldest agent s, e.onL1 = true := by
  intro e he
  simp only [recallOldest] at he
  split at he
  · simp at he
  · split at he
    · simp at he
    · simp only [List.mem_singleton] at he; subst he; rfl

theorem registerWord_onL1 (k base : Nat) (cls : MClass) (i : Nat) (s : State) :
    ∀ e ∈ registerWord k base cls i s, e.onL1 = true := by
  refine unless_all _ _ (chain_all (fun e => e.onL1 = true) _ s (fun f hf s e he => ?_))
  simp only [List.mem_cons, List.not_mem_nil, or_false] at hf
  rcases hf with rfl | rfl
  · exact recallOldest_onL1 _ s e he
  · simp only [List.mem_cons, List.not_mem_nil, or_false] at he
    rcases he with rfl | rfl <;> rfl

theorem registerWords_onL1 (k base : Nat) (cls : MClass) (m : BitVec 16) (s : State) :
    ∀ e ∈ registerWords k base cls m s, e.onL1 = true := by
  refine chain_all (fun e => e.onL1 = true) _ s (fun f hf s e he => ?_)
  simp only [List.mem_append, List.mem_map, List.mem_singleton] at hf
  rcases hf with ⟨_, _, rfl⟩ | rfl
  · exact registerWord_onL1 k base cls _ s e he
  · exact unless_all (fun e => e.onL1 = true) _ (fun e he => by simp only [List.mem_singleton] at he; subst he; rfl) e he

theorem l1Write_onL1 (s : State) (core key : Option Nat) (cls : MClass) (pa n : Nat) :
    ∀ e ∈ l1Write s core key cls pa n, e.onL1 = true := by
  refine chain_all (fun e => e.onL1 = true) _ s (fun f hf t e he => ?_)
  simp only [List.mem_cons, List.not_mem_nil, or_false] at hf
  rcases hf with rfl | rfl
  · simp only [List.mem_map] at he
    obtain ⟨p, _, rfl⟩ := he
    rfl
  · dsimp only at he
    split at he
    · simp at he
    · exact registerWords_onL1 _ _ _ _ t e he

theorem l1Write_aside (six : Nat) (s : State) (core key : Option Nat) (cls : MClass) (pa n : Nat) :
    ∀ e ∈ l1Write s core key cls pa n, e.aside six = true := fun e he => onL1_aside six (l1Write_onL1 s core key cls pa n e he)

theorem unpoison_aside (six : Nat) (s : State) (base a n : Nat) : ∀ e ∈ unpoison s base a n, e.aside six = true := by
  intro e he
  simp only [unpoison, List.mem_filterMap] at he
  obtain ⟨w, _, hw⟩ := he
  split at hw
  · simp only [Option.some.injEq] at hw; subst hw; rfl
  · simp at hw

theorem invalidateSlots_aside (six : Nat) (p : TutorSlot → Bool) (s : State) :
    ∀ e ∈ invalidateSlots p s, e.aside six = true := by
  intro e he
  simp only [invalidateSlots, List.mem_filterMap] at he
  obtain ⟨c, _, hc⟩ := he
  split at hc
  · simp only [Option.some.injEq] at hc; subst hc; rfl
  · simp at hc

theorem aside_iff (six : Nat) (e : Effect) : e.aside six = true ↔ e.writesMem = false ∧ e.names six = false ∧ e.refocuses = false := by
  simp [Effect.aside, and_assoc]

/-- The tasks an effect list leaves as they were. -/
def Effect.touchesTasks : Effect → Bool
  | .task .. => true
  | .reset => true
  | _ => false

theorem apply_tasksOf (e : Effect) (s : State) (h : e.touchesTasks = false) : (e.apply s).tasks = s.tasks := by
  cases e <;> first | (simp [Effect.touchesTasks] at h; done) | simp [Effect.apply]

theorem applyAll_tasksOf (es : List Effect) (s : State) (h : ∀ e ∈ es, e.touchesTasks = false) : (applyAll es s).tasks = s.tasks := by
  induction es generalizing s with
  | nil => rfl
  | cons e es ih =>
    rw [applyAll_cons, ih (e.apply s) (fun x hx => h x (List.mem_cons_of_mem _ hx)), apply_tasksOf e s (h e (List.mem_cons_self ..))]

theorem readersOf_congr {s t : State} (h : t.tasks = s.tasks) (ws : List Nat) : readersOf t ws = readersOf s ws := by
  simp only [readersOf, State.taskList, h]

/-- What a list of effects leaves: memories, the strand `six` but for its reservation, the focus and the tasks. -/
structure Leaves (six : Nat) (s t : State) : Prop where
  mem : t.mem = s.mem
  pmem : t.pmem = s.pmem
  lmem : t.lmem = s.lmem
  dmem : t.dmem = s.dmem
  strand : ∃ r, t.strand six = { s.strand six with res := r }
  focus : t.focus = s.focus
  tasks : t.tasks = s.tasks

theorem Leaves.trans {six : Nat} {s t u : State} (a : Leaves six s t) (b : Leaves six t u) : Leaves six s u :=
  ⟨b.mem.trans a.mem, b.pmem.trans a.pmem, b.lmem.trans a.lmem, b.dmem.trans a.dmem,
    by obtain ⟨r, hr⟩ := a.strand; obtain ⟨q, hq⟩ := b.strand; exact ⟨q, by rw [hq, hr]⟩,
    b.focus.trans a.focus, b.tasks.trans a.tasks⟩

theorem Leaves.refl (six : Nat) (s : State) : Leaves six s s := ⟨rfl, rfl, rfl, rfl, ⟨_, rfl⟩, rfl, rfl⟩

theorem leaves_of (six : Nat) (es : List Effect) (s : State) (h : ∀ e ∈ es, e.aside six = true ∧ e.touchesTasks = false) :
    Leaves six s (applyAll es s) := by
  have h1 := fun e he => (aside_iff six e).mp (h e he).1
  obtain ⟨a, b, c, d⟩ := applyAll_keepsMem es s (fun e he => (h1 e he).1)
  exact ⟨a, b, c, d, ⟨_, applyAll_strandOf es s six (fun e he => (h1 e he).2.1)⟩, applyAll_focusOf es s (fun e he => (h1 e he).2.2),
    applyAll_tasksOf es s (fun e he => (h e he).2)⟩

theorem onL1_tasks {e : Effect} (h : e.onL1 = true) : e.touchesTasks = false := by
  cases e <;> first | (simp [Effect.onL1] at h; done) | rfl

theorem l1Write_leaves (six : Nat) (s : State) (core key : Option Nat) (cls : MClass) (pa n : Nat) :
    Leaves six s (applyAll (l1Write s core key cls pa n) s) :=
  leaves_of six _ s (fun e he =>
    ⟨l1Write_aside six s core key cls pa n e he, onL1_tasks (l1Write_onL1 s core key cls pa n e he)⟩)

theorem unpoison_leaves (six : Nat) (s t : State) (base a n : Nat) : Leaves six t (applyAll (unpoison s base a n) t) := by
  refine leaves_of six _ t (fun e he => ⟨unpoison_aside six s base a n e he, ?_⟩)
  simp only [unpoison, List.mem_filterMap] at he
  obtain ⟨w, _, hw⟩ := he
  split at hw
  · simp only [Option.some.injEq] at hw; subst hw; rfl
  · simp at hw

/-- Effects that record no more of the strand than a cleared reservation. -/
theorem leaves_res (six : Nat) (s : State) (es : List Effect)
    (h : ∀ e ∈ es, (e.aside six = true ∧ e.touchesTasks = false) ∨ e = .strand six { s.strand six with res := none }) :
    Leaves six s (applyAll es s) := by
  suffices H : ∀ (es : List Effect) (t : State),
      (∀ e ∈ es, (e.aside six = true ∧ e.touchesTasks = false) ∨ e = .strand six { s.strand six with res := none }) →
      Leaves six s t → Leaves six s (applyAll es t) from H es s h (Leaves.refl six s)
  intro es
  induction es with
  | nil => intro t _ l; exact l
  | cons e es ih =>
    intro t h l
    rw [applyAll_cons]
    refine ih _ (fun x hx => h x (List.mem_cons_of_mem _ hx)) ?_
    rcases h e (List.mem_cons_self ..) with he | rfl
    · have l2 := leaves_of six [e] t (fun x hx => by simp only [List.mem_singleton] at hx; subst hx; exact he)
      exact l.trans l2
    · exact ⟨l.mem, l.pmem, l.lmem, l.dmem, ⟨none, by simp [Effect.apply, State.strand]⟩, l.focus, l.tasks⟩

theorem dropPodRes_leaves (six : Nat) (gone : Nat × Nat × Nat → Bool) (s : State) :
    ∀ e ∈ dropPodRes gone s, e.aside six = true ∧ e.touchesTasks = false := by
  intro e he
  simp only [dropPodRes] at he
  split at he
  · simp only [List.mem_singleton] at he; subst he; exact ⟨rfl, rfl⟩
  · simp at he

/-- A strand's record in a reservation list: another strand's, or this one's with its reservation cleared. -/
theorem strand_res (six k : Nat) (s : State) :
    ((Effect.strand k { s.strand k with res := none }).aside six = true
      ∧ (Effect.strand k { s.strand k with res := none }).touchesTasks = false)
    ∨ Effect.strand k { s.strand k with res := none } = .strand six { s.strand six with res := none } := by
  by_cases h : k = six
  · subst h; exact .inr rfl
  · exact .inl ⟨by simp [Effect.aside, Effect.writesMem, Effect.names, Effect.refocuses, h], rfl⟩

theorem clearRes_leaves (six : Nat) (by' : Option Nat) (ag pa n : Nat) (s : State) :
    Leaves six s (applyAll (clearRes by' ag pa n s) s) := by
  refine leaves_res six s _ (fun e he => ?_)
  simp only [clearRes, List.mem_append, List.mem_filterMap] at he
  rcases he with ⟨p, _, hp⟩ | he
  · split at hp
    · split at hp
      · simp only [Option.some.injEq] at hp; subst hp; exact strand_res six p.1 s
      · simp at hp
    · simp at hp
  · exact .inl (dropPodRes_leaves six _ s e he)

theorem takeLine_leaves (six agent pa : Nat) (s : State) : Leaves six s (applyAll (takeLine agent pa s) s) := by
  refine leaves_res six s _ (fun e he => ?_)
  simp only [takeLine, List.mem_append, List.mem_filterMap, List.mem_singleton] at he
  rcases he with ⟨p, _, hp⟩ | rfl
  · split at hp
    · split at hp
      · simp only [Option.some.injEq] at hp; subst hp; exact strand_res six p.1 s
      · simp at hp
    · simp at hp
  · exact .inl ⟨rfl, rfl⟩

theorem invalidateSlots_leaves (six : Nat) (p : TutorSlot → Bool) (s : State) :
    Leaves six s (applyAll (invalidateSlots p s) s) := by
  refine leaves_of six _ s (fun e he => ⟨invalidateSlots_aside six p s e he, ?_⟩)
  simp only [invalidateSlots, List.mem_filterMap] at he
  obtain ⟨c, _, hc⟩ := he
  split at hc
  · simp only [Option.some.injEq] at hc; subst hc; rfl
  · simp at hc

/-- A write whose bytes no task has read: the bytes, and nothing else of the memories, of a strand but its reservation, or of the
focus. -/
theorem memStore_leaves (six : Nat) (by' : Option Nat) (ag pa n v : Nat) (s : State) (h : readersOf s (wordsOf pa n) = []) :
    (applyAll (memStore by' ag pa n v s) s).mem = memWrite s.mem pa n v
    ∧ Leaves six s { applyAll (memStore by' ag pa n v s) s with mem := s.mem } := by
  simp only [memStore]
  rw [applyAll_chain_cons, applyAll_append]
  generalize hs1 : applyAll [Effect.mem pa n v] s = s1
  have e1 : s1 = { s with mem := memWrite s.mem pa n v } := by subst hs1; rfl
  have l2 := unpoison_leaves six s s1 poisonMem pa n
  generalize hs2 : applyAll (unpoison s poisonMem pa n) s1 = s2 at l2
  rw [applyAll_chain_cons]
  have l3 := clearRes_leaves six by' ag pa n s2
  generalize hs3 : applyAll (clearRes by' ag pa n s2) s2 = s3 at l3
  rw [applyAll_chain_cons]
  have l4 : Leaves six s3 (applyAll (match frameIndex s3.cfg pa with
       | some i => invalidateSlots (fun t => t.frames.contains i) s3
       | none => []) s3) := by
    split
    · exact invalidateSlots_leaves six _ s3
    · exact Leaves.refl six s3
  generalize hs4 : applyAll (match frameIndex s3.cfg pa with
       | some i => invalidateSlots (fun t => t.frames.contains i) s3
       | none => []) s3 = s4 at l4
  rw [applyAll_chain_cons]
  have l5 : Leaves six s4 (applyAll [.dir (dirKey pa) { owner := some ag, dirty := true, sharers := [] }] s4) := by
    refine leaves_of six _ s4 (fun e he => ?_)
    simp only [List.mem_singleton] at he; subst he; exact ⟨rfl, rfl⟩
  generalize hs5 : applyAll [.dir (dirKey pa) { owner := some ag, dirty := true, sharers := [] }] s4 = s5 at l5
  have l := ((l2.trans l3).trans l4).trans l5
  have hr : readersOf s5 (wordsOf pa n) = [] := by
    rw [readersOf_congr (s := s) (by rw [l.tasks, e1])]; exact h
  rw [applyAll_chain_cons]
  simp only [hr, abortTasks, List.map_nil, chain_nil, applyAll_nil]
  subst e1
  exact ⟨l.mem, rfl, l.pmem, l.lmem, l.dmem, l.strand, l.focus, l.tasks⟩

/-- What a translation leaves beside its entry: records of directory lines, of the page-table entries read (R247, R255). -/
theorem shareLine_dir (agent pa : Nat) (s : State) : ∀ e ∈ shareLine agent pa s, ∃ k d, e = Effect.dir k d := by
  intro e he
  simp only [shareLine] at he
  split at he
  · simp at he
  · simp only [List.mem_singleton] at he; exact ⟨_, _, he⟩

theorem translate_fx {s : State} {core asid : Nat} {pm : Bool} {va : Word} {need : Need} {x : Xl}
    (h : translate s core asid pm va need = some x) :
    ∀ e ∈ x.fx, (∃ k d, e = Effect.dir k d) ∨ ∃ k t, e = Effect.tlb k t := by
  have key : ∀ {t : Tlb} {es fx : List Effect} {k : Nat}, (∀ e ∈ es, ∃ k d, e = Effect.dir k d) → fx = es ++ [Effect.tlb k (some t)] →
      ∀ e ∈ fx, (∃ k d, e = Effect.dir k d) ∨ ∃ k t, e = Effect.tlb k t := by
    intro t es fx k hes hfx e he
    subst hfx
    rcases List.mem_append.mp he with he | he
    · exact .inl (hes e he)
    · simp only [List.mem_singleton] at he; exact .inr ⟨_, _, he⟩
  simp only [translate] at h
  split at h
  · simp at h
  · split at h
    · rename_i t es hl
      have hes : ∀ e ∈ es, ∃ k d, e = Effect.dir k d := by
        simp only [lookup] at hl
        split at hl
        · simp only [Prod.mk.injEq] at hl; obtain ⟨_, rfl⟩ := hl; simp
        · simp only [Prod.mk.injEq] at hl
          obtain ⟨_, rfl⟩ := hl
          refine chain_all (fun e => ∃ k d, e = Effect.dir k d) _ s (fun f hf s e he => ?_)
          simp only [List.mem_map] at hf
          obtain ⟨a, _, rfl⟩ := hf
          exact shareLine_dir _ _ s e he
      split at h
      · simp at h
      · split at h
        · simp only [Option.some.injEq] at h; subst h; exact key hes rfl
        · split at h
          · simp only [Option.some.injEq] at h; subst h; exact key hes rfl
          · split at h
            · simp at h
            · split at h
              · simp at h
              · simp only [Option.map_eq_some_iff] at h
                obtain ⟨c, _, rfl⟩ := h
                exact key hes rfl
    · simp at h

/-- A write performed at its home, of bytes no task has read. -/
theorem homeStore_leaves (six : Nat) (by' core : Option Nat) (ag pa n v : Nat) (s : State) (h : readersOf s (wordsOf pa n) = []) :
    (applyAll (homeStore by' core ag pa n v s) s).mem = memWrite s.mem pa n v
    ∧ Leaves six s { applyAll (homeStore by' core ag pa n v s) s with mem := s.mem } := by
  simp only [homeStore]
  rw [applyAll_chain_cons, applyAll_chain_cons, chain_nil, applyAll_nil]
  have l := l1Write_leaves six s core none .normal pa n
  generalize applyAll (l1Write s core none .normal pa n) s = s1 at l
  have hr : readersOf s1 (wordsOf pa n) = [] := by rw [readersOf_congr l.tasks]; exact h
  obtain ⟨m, l2⟩ := memStore_leaves six by' ag pa n v s1 hr
  exact ⟨by rw [m, l.mem], l.trans (Leaves.mk l.mem.symm l2.pmem l2.lmem l2.dmem l2.strand l2.focus l2.tasks)⟩

/-! A fresh number changes nothing that a walk reads. -/

theorem walkFrom_fresh (s : State) (va : Nat) (ls : List (Nat × Nat × Bool)) (base : Nat) :
    walkFrom (Effect.fresh.apply s) va ls base = walkFrom s va ls base := by
  induction ls generalizing base with
  | nil => rfl
  | cons l ls ih =>
    obtain ⟨a, b, c⟩ := l
    simp only [walkFrom, ih]
    rfl

theorem shares_fresh (agent : Nat) (xs : List Nat) (s : State) :
    chain (xs.map (shareLine agent)) (Effect.fresh.apply s) = chain (xs.map (shareLine agent)) s := by
  suffices H : ∀ (s t : State), t.dir = s.dir → chain (xs.map (shareLine agent)) t = chain (xs.map (shareLine agent)) s from H s _ rfl
  induction xs with
  | nil => intro _ _ _; rfl
  | cons x xs ih =>
    intro s t h
    have e : shareLine agent x t = shareLine agent x s := by simp only [shareLine, h]
    simp only [List.map_cons, chain, e]
    rw [ih (applyAll (shareLine agent x s) s) (applyAll (shareLine agent x s) t)]
    simp only [shareLine]
    split <;> simp [applyAll, Effect.apply, h]

theorem walkReads_fresh (s : State) (va : Nat) (ls : List (Nat × Nat × Bool)) (base : Nat) :
    walkReads (Effect.fresh.apply s) va ls base = walkReads s va ls base := by
  induction ls generalizing base with
  | nil => rfl
  | cons l ls ih =>
    obtain ⟨a, b, c⟩ := l
    simp only [walkReads, ih]
    rfl

/-- A fresh number changes no translation. -/
theorem translate_fresh (s : State) (core asid : Nat) (pm : Bool) (va : Word) (need : Need) :
    translate (Effect.fresh.apply s) core asid pm va need = translate s core asid pm va need := by
  have h : ∀ v, lookup (Effect.fresh.apply s) core asid v = lookup s core asid v := by
    intro v
    have ed : (Effect.fresh.apply s).dom asid = s.dom asid := rfl
    have et : (Effect.fresh.apply s).tlb = s.tlb := rfl
    simp only [lookup, ed, et, walkFrom_fresh, walkReads_fresh, shares_fresh]
  simp only [translate, h]
  rfl

end Sys2Proof.Machine
end

