-- ==== Sys2Proof/Laws/PerInstr.lean ====
section
/-! SUPPORT. A statement made for each instruction: the shape of its encoding (R41). -/

namespace Sys2Proof

/-! ## What each operand format contributes to a word: only bits above bit 0, and no bit above its highest field -/

theorem A3.bits_shape (o : A3) : o.bits % 2 = 0 ∧ o.bits ≤ 3762290560 := by
  have h0 := o.w.isLt; have h1 := o.b.isLt; have h2 := o.a.isLt; have h3 := o.d.isLt
  unfold A3.bits; omega
theorem A2.bits_shape (o : A2) : o.bits % 2 = 0 ∧ o.bits ≤ 3758227328 := by
  have h0 := o.w.isLt; have h1 := o.a.isLt; have h2 := o.d.isLt
  unfold A2.bits; omega
theorem AB.bits_shape (o : AB) : o.bits % 2 = 0 ∧ o.bits ≤ 3762286592 := by
  have h0 := o.w.isLt; have h1 := o.b.isLt; have h2 := o.a.isLt
  unfold AB.bits; omega
theorem AD.bits_shape (o : AD) : o.bits % 2 = 0 ∧ o.bits ≤ 3758100352 := by
  have h0 := o.w.isLt; have h1 := o.d.isLt
  unfold AD.bits; omega
theorem AA.bits_shape (o : AA) : o.bits % 2 = 0 ∧ o.bits ≤ 3758223360 := by
  have h0 := o.w.isLt; have h1 := o.a.isLt
  unfold AA.bits; omega
theorem A0.bits_shape (o : A0) : o.bits % 2 = 0 ∧ o.bits ≤ 3758096384 := by
  have h0 := o.w.isLt
  unfold A0.bits; omega
theorem Imm.bits_shape (o : Imm) : o.bits % 2 = 0 ∧ o.bits ≤ 4294967168 := by
  have h0 := o.imm.isLt; have h1 := o.a.isLt; have h2 := o.d.isLt
  unfold Imm.bits; omega
theorem Shift.bits_shape (o : Shift) : o.bits % 2 = 0 ∧ o.bits ≤ 8388480 := by
  have h0 := o.c.isLt; have h1 := o.a.isLt; have h2 := o.d.isLt
  unfold Shift.bits; omega
theorem Field.bits_shape (o : Field) : o.bits % 2 = 0 ∧ o.bits ≤ 536870784 := by
  have h0 := o.n.isLt; have h1 := o.p.isLt; have h2 := o.a.isLt; have h3 := o.d.isLt
  unfold Field.bits; omega
theorem Upper.bits_shape (o : Upper) : o.bits % 2 = 0 ∧ o.bits ≤ 4294967168 := by
  have h0 := o.imm.isLt; have h1 := o.d.isLt
  unfold Upper.bits; omega
theorem Mem.bits_shape (o : Mem) : o.bits % 2 = 0 ∧ o.bits ≤ 4291821440 := by
  have h0 := o.off.isLt; have h1 := o.space.isLt; have h2 := o.base.isLt; have h3 := o.d.isLt
  unfold Mem.bits; omega
theorem MemO.bits_shape (o : MemO) : o.bits % 2 = 0 ∧ o.bits ≤ 2147483520 := by
  have h0 := o.off.isLt; have h1 := o.ord.isLt; have h2 := o.space.isLt; have h3 := o.base.isLt; have h4 := o.d.isLt
  unfold MemO.bits; omega
theorem Atom.bits_shape (o : Atom) : o.bits % 2 = 0 ∧ o.bits ≤ 3791650694 := by
  have h0 := o.w.isLt; have h1 := o.sp.isLt; have h2 := o.z.isLt; have h3 := o.b.isLt; have h4 := o.a.isLt; have h5 := o.d.isLt; have h6 := o.q.isLt
  unfold Atom.bits; omega
theorem AtomLr.bits_shape (o : AtomLr) : o.bits % 2 = 0 ∧ o.bits ≤ 3762421638 := by
  have h0 := o.w.isLt; have h1 := o.z.isLt; have h2 := o.a.isLt; have h3 := o.d.isLt; have h4 := o.q.isLt
  unfold AtomLr.bits; omega
theorem AtomG.bits_shape (o : AtomG) : o.bits % 2 = 0 ∧ o.bits ≤ 3766484870 := by
  have h0 := o.w.isLt; have h1 := o.z.isLt; have h2 := o.b.isLt; have h3 := o.a.isLt; have h4 := o.d.isLt; have h5 := o.q.isLt
  unfold AtomG.bits; omega
theorem AtomC.bits_shape (o : AtomC) : o.bits % 2 = 0 ∧ o.bits ≤ 3787456390 := by
  have h0 := o.w.isLt; have h1 := o.sp.isLt; have h2 := o.b.isLt; have h3 := o.a.isLt; have h4 := o.d.isLt; have h5 := o.q.isLt
  unfold AtomC.bits; omega
theorem Br.bits_shape (o : Br) : o.bits % 2 = 0 ∧ o.bits ≤ 4294049664 := by
  have h0 := o.disp.isLt; have h1 := o.b.isLt; have h2 := o.a.isLt
  unfold Br.bits; omega
theorem Jmp.bits_shape (o : Jmp) : o.bits % 2 = 0 ∧ o.bits ≤ 4294967168 := by
  have h0 := o.disp.isLt; have h1 := o.link.isLt
  unfold Jmp.bits; omega
theorem SysD.bits_shape (o : SysD) : o.bits % 2 = 0 ∧ o.bits ≤ 536743808 := by
  have h0 := o.n.isLt; have h1 := o.d.isLt
  unfold SysD.bits; omega
theorem SysA.bits_shape (o : SysA) : o.bits % 2 = 0 ∧ o.bits ≤ 536866816 := by
  have h0 := o.n.isLt; have h1 := o.a.isLt
  unfold SysA.bits; omega
theorem Code.bits_shape (o : Code) : o.bits % 2 = 0 ∧ o.bits ≤ 536739840 := by
  have h0 := o.c.isLt
  unfold Code.bits; omega
theorem X3.bits_shape (o : X3) : o.bits % 2 = 0 ∧ o.bits ≤ 3759144832 := by
  have h0 := o.w.isLt; have h1 := o.x.isLt; have h2 := o.a.isLt; have h3 := o.d.isLt
  unfold X3.bits; omega
theorem X2.bits_shape (o : X2) : o.bits % 2 = 0 ∧ o.bits ≤ 3759017856 := by
  have h0 := o.w.isLt; have h1 := o.x.isLt; have h2 := o.d.isLt
  unfold X2.bits; omega
theorem Bell.bits_shape (o : Bell) : o.bits % 2 = 0 ∧ o.bits ≤ 3787587456 := by
  have h0 := o.w.isLt; have h1 := o.c.isLt; have h2 := o.a.isLt; have h3 := o.d.isLt
  unfold Bell.bits; omega
theorem BellB.bits_shape (o : BellB) : o.bits % 2 = 0 ∧ o.bits ≤ 3791650688 := by
  have h0 := o.w.isLt; have h1 := o.c.isLt; have h2 := o.b.isLt; have h3 := o.a.isLt; have h4 := o.d.isLt
  unfold BellB.bits; omega
theorem V2.bits_shape (o : V2) : o.bits % 2 = 0 ∧ o.bits ≤ 3787587456 := by
  have h0 := o.w.isLt; have h1 := o.m.isLt; have h2 := o.a.isLt; have h3 := o.d.isLt
  unfold V2.bits; omega
theorem V3.bits_shape (o : V3) : o.bits % 2 = 0 ∧ o.bits ≤ 3791650688 := by
  have h0 := o.w.isLt; have h1 := o.m.isLt; have h2 := o.b.isLt; have h3 := o.a.isLt; have h4 := o.d.isLt
  unfold V3.bits; omega
theorem VImm.bits_shape (o : VImm) : o.bits % 2 = 0 ∧ o.bits ≤ 3791650688 := by
  have h0 := o.w.isLt; have h1 := o.imm.isLt; have h2 := o.d.isLt
  unfold VImm.bits; omega
theorem VT.bits_shape (o : VT) : o.bits % 2 = 0 ∧ o.bits ≤ 3791650688 := by
  have h0 := o.w.isLt; have h1 := o.m.isLt; have h2 := o.t.isLt; have h3 := o.a.isLt; have h4 := o.d.isLt
  unfold VT.bits; omega
theorem VTag.bits_shape (o : VTag) : o.bits % 2 = 0 ∧ o.bits ≤ 3762290560 := by
  have h0 := o.w.isLt; have h1 := o.t.isLt; have h2 := o.a.isLt; have h3 := o.d.isLt
  unfold VTag.bits; omega
theorem VR3.bits_shape (o : VR3) : o.bits % 2 = 0 ∧ o.bits ≤ 3791650702 := by
  have h0 := o.w.isLt; have h1 := o.m.isLt; have h2 := o.b.isLt; have h3 := o.a.isLt; have h4 := o.d.isLt; have h5 := o.r.isLt
  unfold VR3.bits; omega
theorem VR2.bits_shape (o : VR2) : o.bits % 2 = 0 ∧ o.bits ≤ 3787587470 := by
  have h0 := o.w.isLt; have h1 := o.m.isLt; have h2 := o.a.isLt; have h3 := o.d.isLt; have h4 := o.r.isLt
  unfold VR2.bits; omega
theorem Cvt.bits_shape (o : Cvt) : o.bits % 2 = 0 ∧ o.bits ≤ 4294967168 := by
  have h0 := o.w.isLt; have h1 := o.nan.isLt; have h2 := o.r.isLt; have h3 := o.m.isLt; have h4 := o.t.isLt; have h5 := o.a.isLt; have h6 := o.d.isLt
  unfold Cvt.bits; omega
theorem Pack.bits_shape (o : Pack) : o.bits % 2 = 0 ∧ o.bits ≤ 4265607040 := by
  have h0 := o.w.isLt; have h1 := o.nan.isLt; have h2 := o.r.isLt; have h3 := o.t.isLt; have h4 := o.a.isLt; have h5 := o.d.isLt
  unfold Pack.bits; omega
theorem Scale.bits_shape (o : Scale) : o.bits % 2 = 0 ∧ o.bits ≤ 4026531712 := by
  have h0 := o.w.isLt; have h1 := o.r.isLt; have h2 := o.m.isLt; have h3 := o.b.isLt; have h4 := o.a.isLt; have h5 := o.d.isLt
  unfold Scale.bits; omega
theorem Unpk.bits_shape (o : Unpk) : o.bits % 2 = 0 ∧ o.bits ≤ 3791650688 := by
  have h0 := o.w.isLt; have h1 := o.p.isLt; have h2 := o.t.isLt; have h3 := o.a.isLt; have h4 := o.d.isLt
  unfold Unpk.bits; omega
theorem VLoad.bits_shape (o : VLoad) : o.bits % 2 = 0 ∧ o.bits ≤ 4026531712 := by
  have h0 := o.w.isLt; have h1 := o.s.isLt; have h2 := o.m.isLt; have h3 := o.t.isLt; have h4 := o.a.isLt; have h5 := o.d.isLt
  unfold VLoad.bits; omega
theorem VStore.bits_shape (o : VStore) : o.bits % 2 = 0 ∧ o.bits ≤ 4022468480 := by
  have h0 := o.w.isLt; have h1 := o.s.isLt; have h2 := o.m.isLt; have h3 := o.a.isLt; have h4 := o.d.isLt
  unfold VStore.bits; omega
theorem VIdx.bits_shape (o : VIdx) : o.bits % 2 = 0 ∧ o.bits ≤ 4026531712 := by
  have h0 := o.w.isLt; have h1 := o.s.isLt; have h2 := o.m.isLt; have h3 := o.b.isLt; have h4 := o.a.isLt; have h5 := o.d.isLt
  unfold VIdx.bits; omega
theorem VSv.bits_shape (o : VSv) : o.bits % 2 = 0 ∧ o.bits ≤ 3993108352 := by
  have h0 := o.w.isLt; have h1 := o.s.isLt; have h2 := o.a.isLt; have h3 := o.d.isLt
  unfold VSv.bits; omega
theorem J0.bits_shape (o : J0) : o.bits % 2 = 0 ∧ o.bits ≤ 4294963200 := by
  have h0 := o.disp.isLt
  unfold J0.bits; omega
theorem B0.bits_shape (o : B0) : o.bits % 2 = 0 ∧ o.bits ≤ 4293918720 := by
  have h0 := o.disp.isLt
  unfold B0.bits; omega
theorem B1.bits_shape (o : B1) : o.bits % 2 = 0 ∧ o.bits ≤ 4293922688 := by
  have h0 := o.disp.isLt; have h1 := o.a.isLt
  unfold B1.bits; omega
theorem Mz.bits_shape (o : Mz) : o.bits % 2 = 0 ∧ o.bits ≤ 3758227328 := by
  have h0 := o.w.isLt; have h1 := o.t.isLt; have h2 := o.d.isLt
  unfold Mz.bits; omega
theorem CR.bits_shape (o : CR) : o.bits % 2 = 0 ∧ o.bits ≤ 32736 := by
  have h0 := o.a.isLt; have h1 := o.d.isLt
  unfold CR.bits; omega
theorem CI.bits_shape (o : CI) : o.bits % 2 = 0 ∧ o.bits ≤ 65504 := by
  have h0 := o.imm.isLt; have h1 := o.d.isLt
  unfold CI.bits; omega
theorem CB.bits_shape (o : CB) : o.bits % 2 = 0 ∧ o.bits ≤ 65504 := by
  have h0 := o.disp.isLt; have h1 := o.a.isLt
  unfold CB.bits; omega
theorem CA.bits_shape (o : CA) : o.bits % 2 = 0 ∧ o.bits ≤ 31744 := by
  have h0 := o.a.isLt
  unfold CA.bits; omega

end Sys2Proof

namespace Sys2Proof.Laws.EncodeShape

/-- Bit 0 of an instruction's first halfword tells its length (R41), and the encoding fits that length. -/
def Statement (i : Instr) : Prop :=
  (i.len = 4 → encode i < 2 ^ 32 ∧ encode i % 2 = 1) ∧ (i.len = 2 → encode i < 2 ^ 16 ∧ encode i % 2 = 0)

/-- From an instruction's constant bits and what its operands contribute. -/
theorem of_long {i : Instr} {c b n : Nat} (hl : i.len = 4) (he : encode i = c + b) (hb : b % 2 = 0 ∧ b ≤ n)
    (hc : c % 2 = 1) (hn : c + n < 2 ^ 32) : Statement i := by
  refine ⟨fun _ => ?_, fun h => ?_⟩ <;> omega

theorem of_short {i : Instr} {c b n : Nat} (hl : i.len = 2) (he : encode i = c + b) (hb : b % 2 = 0 ∧ b ≤ n)
    (hc : c % 2 = 0) (hn : c + n < 2 ^ 16) : Statement i := by
  refine ⟨fun h => ?_, fun _ => ?_⟩ <;> omega

/-- An event has no encoding. -/
theorem of_event {i : Instr} (hl : i.len = 0) : Statement i := by
  refine ⟨fun h => ?_, fun h => ?_⟩ <;> omega

theorem add (o : A3) : Statement (.add o) := of_long rfl rfl o.bits_shape (by decide) (by decide)
theorem sub (o : A3) : Statement (.sub o) := of_long rfl rfl o.bits_shape (by decide) (by decide)
theorem and (o : A3) : Statement (.and o) := of_long rfl rfl o.bits_shape (by decide) (by decide)
theorem or (o : A3) : Statement (.or o) := of_long rfl rfl o.bits_shape (by decide) (by decide)
theorem xor (o : A3) : Statement (.xor o) := of_long rfl rfl o.bits_shape (by decide) (by decide)
theorem andn (o : A3) : Statement (.andn o) := of_long rfl rfl o.bits_shape (by decide) (by decide)
theorem orn (o : A3) : Statement (.orn o) := of_long rfl rfl o.bits_shape (by decide) (by decide)
theorem xnor (o : A3) : Statement (.xnor o) := of_long rfl rfl o.bits_shape (by decide) (by decide)
theorem shl (o : A3) : Statement (.shl o) := of_long rfl rfl o.bits_shape (by decide) (by decide)
theorem shr (o : A3) : Statement (.shr o) := of_long rfl rfl o.bits_shape (by decide) (by decide)
theorem shra (o : A3) : Statement (.shra o) := of_long rfl rfl o.bits_shape (by decide) (by decide)
theorem rot (o : A3) : Statement (.rot o) := of_long rfl rfl o.bits_shape (by decide) (by decide)
theorem min (o : A3) : Statement (.min o) := of_long rfl rfl o.bits_shape (by decide) (by decide)
theorem max (o : A3) : Statement (.max o) := of_long rfl rfl o.bits_shape (by decide) (by decide)
theorem minn (o : A3) : Statement (.minn o) := of_long rfl rfl o.bits_shape (by decide) (by decide)
theorem maxn (o : A3) : Statement (.maxn o) := of_long rfl rfl o.bits_shape (by decide) (by decide)
theorem cmpeq (o : A3) : Statement (.cmpeq o) := of_long rfl rfl o.bits_shape (by decide) (by decide)
theorem cmplt (o : A3) : Statement (.cmplt o) := of_long rfl rfl o.bits_shape (by decide) (by decide)
theorem cmpltn (o : A3) : Statement (.cmpltn o) := of_long rfl rfl o.bits_shape (by decide) (by decide)
theorem cmple (o : A3) : Statement (.cmple o) := of_long rfl rfl o.bits_shape (by decide) (by decide)
theorem cmplen (o : A3) : Statement (.cmplen o) := of_long rfl rfl o.bits_shape (by decide) (by decide)
theorem sel (o : A3) : Statement (.sel o) := of_long rfl rfl o.bits_shape (by decide) (by decide)
theorem mul (o : A3) : Statement (.mul o) := of_long rfl rfl o.bits_shape (by decide) (by decide)
theorem mulh (o : A3) : Statement (.mulh o) := of_long rfl rfl o.bits_shape (by decide) (by decide)
theorem mulhn (o : A3) : Statement (.mulhn o) := of_long rfl rfl o.bits_shape (by decide) (by decide)
theorem div (o : A3) : Statement (.div o) := of_long rfl rfl o.bits_shape (by decide) (by decide)
theorem divn (o : A3) : Statement (.divn o) := of_long rfl rfl o.bits_shape (by decide) (by decide)
theorem rem (o : A3) : Statement (.rem o) := of_long rfl rfl o.bits_shape (by decide) (by decide)
theorem remn (o : A3) : Statement (.remn o) := of_long rfl rfl o.bits_shape (by decide) (by decide)
theorem clz (o : A2) : Statement (.clz o) := of_long rfl rfl o.bits_shape (by decide) (by decide)
theorem ctz (o : A2) : Statement (.ctz o) := of_long rfl rfl o.bits_shape (by decide) (by decide)
theorem popc (o : A2) : Statement (.popc o) := of_long rfl rfl o.bits_shape (by decide) (by decide)
theorem bswap (o : A2) : Statement (.bswap o) := of_long rfl rfl o.bits_shape (by decide) (by decide)
theorem sextb (o : A2) : Statement (.sextb o) := of_long rfl rfl o.bits_shape (by decide) (by decide)
theorem sexth (o : A2) : Statement (.sexth o) := of_long rfl rfl o.bits_shape (by decide) (by decide)
theorem sextw (o : A2) : Statement (.sextw o) := of_long rfl rfl o.bits_shape (by decide) (by decide)
theorem addi (o : Imm) : Statement (.addi o) := of_long rfl rfl o.bits_shape (by decide) (by decide)
theorem andi (o : Imm) : Statement (.andi o) := of_long rfl rfl o.bits_shape (by decide) (by decide)
theorem ori (o : Imm) : Statement (.ori o) := of_long rfl rfl o.bits_shape (by decide) (by decide)
theorem xori (o : Imm) : Statement (.xori o) := of_long rfl rfl o.bits_shape (by decide) (by decide)
theorem shli (o : Shift) : Statement (.shli o) := of_long rfl rfl o.bits_shape (by decide) (by decide)
theorem shri (o : Shift) : Statement (.shri o) := of_long rfl rfl o.bits_shape (by decide) (by decide)
theorem shrai (o : Shift) : Statement (.shrai o) := of_long rfl rfl o.bits_shape (by decide) (by decide)
theorem roti (o : Shift) : Statement (.roti o) := of_long rfl rfl o.bits_shape (by decide) (by decide)
theorem bfx (o : Field) : Statement (.bfx o) := of_long rfl rfl o.bits_shape (by decide) (by decide)
theorem bfi (o : Field) : Statement (.bfi o) := of_long rfl rfl o.bits_shape (by decide) (by decide)
theorem lui (o : Upper) : Statement (.lui o) := of_long rfl rfl o.bits_shape (by decide) (by decide)
theorem lea (o : Upper) : Statement (.lea o) := of_long rfl rfl o.bits_shape (by decide) (by decide)
theorem ldbn (o : Mem) : Statement (.ldbn o) := of_long rfl rfl o.bits_shape (by decide) (by decide)
theorem ldhn (o : Mem) : Statement (.ldhn o) := of_long rfl rfl o.bits_shape (by decide) (by decide)
theorem ldwn (o : Mem) : Statement (.ldwn o) := of_long rfl rfl o.bits_shape (by decide) (by decide)
theorem ldd (o : Mem) : Statement (.ldd o) := of_long rfl rfl o.bits_shape (by decide) (by decide)
theorem ldb (o : Mem) : Statement (.ldb o) := of_long rfl rfl o.bits_shape (by decide) (by decide)
theorem ldh (o : Mem) : Statement (.ldh o) := of_long rfl rfl o.bits_shape (by decide) (by decide)
theorem ldw (o : Mem) : Statement (.ldw o) := of_long rfl rfl o.bits_shape (by decide) (by decide)
theorem stb (o : Mem) : Statement (.stb o) := of_long rfl rfl o.bits_shape (by decide) (by decide)
theorem sth (o : Mem) : Statement (.sth o) := of_long rfl rfl o.bits_shape (by decide) (by decide)
theorem stw (o : Mem) : Statement (.stw o) := of_long rfl rfl o.bits_shape (by decide) (by decide)
theorem std (o : Mem) : Statement (.std o) := of_long rfl rfl o.bits_shape (by decide) (by decide)
theorem ldacq (o : MemO) : Statement (.ldacq o) := of_long rfl rfl o.bits_shape (by decide) (by decide)
theorem strel (o : MemO) : Statement (.strel o) := of_long rfl rfl o.bits_shape (by decide) (by decide)
theorem aadd (o : Atom) : Statement (.aadd o) := of_long rfl rfl o.bits_shape (by decide) (by decide)
theorem aand (o : Atom) : Statement (.aand o) := of_long rfl rfl o.bits_shape (by decide) (by decide)
theorem aor (o : Atom) : Statement (.aor o) := of_long rfl rfl o.bits_shape (by decide) (by decide)
theorem axor (o : Atom) : Statement (.axor o) := of_long rfl rfl o.bits_shape (by decide) (by decide)
theorem amin (o : Atom) : Statement (.amin o) := of_long rfl rfl o.bits_shape (by decide) (by decide)
theorem amax (o : Atom) : Statement (.amax o) := of_long rfl rfl o.bits_shape (by decide) (by decide)
theorem aminn (o : Atom) : Statement (.aminn o) := of_long rfl rfl o.bits_shape (by decide) (by decide)
theorem amaxn (o : Atom) : Statement (.amaxn o) := of_long rfl rfl o.bits_shape (by decide) (by decide)
theorem aswap (o : Atom) : Statement (.aswap o) := of_long rfl rfl o.bits_shape (by decide) (by decide)
theorem acas (o : Atom) : Statement (.acas o) := of_long rfl rfl o.bits_shape (by decide) (by decide)
theorem afadd (o : Atom) : Statement (.afadd o) := of_long rfl rfl o.bits_shape (by decide) (by decide)
theorem lr (o : AtomLr) : Statement (.lr o) := of_long rfl rfl o.bits_shape (by decide) (by decide)
theorem sc (o : AtomG) : Statement (.sc o) := of_long rfl rfl o.bits_shape (by decide) (by decide)
theorem acas2 (o : AtomC) : Statement (.acas2 o) := of_long rfl rfl o.bits_shape (by decide) (by decide)
theorem appnd (o : AtomG) : Statement (.appnd o) := of_long rfl rfl o.bits_shape (by decide) (by decide)
theorem tailq (o : A2) : Statement (.tailq o) := of_long rfl rfl o.bits_shape (by decide) (by decide)
theorem sealPage (o : A2) : Statement (.sealPage o) := of_long rfl rfl o.bits_shape (by decide) (by decide)
theorem bEq (o : Br) : Statement (.bEq o) := of_long rfl rfl o.bits_shape (by decide) (by decide)
theorem bNe (o : Br) : Statement (.bNe o) := of_long rfl rfl o.bits_shape (by decide) (by decide)
theorem bLt (o : Br) : Statement (.bLt o) := of_long rfl rfl o.bits_shape (by decide) (by decide)
theorem bGe (o : Br) : Statement (.bGe o) := of_long rfl rfl o.bits_shape (by decide) (by decide)
theorem bLtn (o : Br) : Statement (.bLtn o) := of_long rfl rfl o.bits_shape (by decide) (by decide)
theorem bGen (o : Br) : Statement (.bGen o) := of_long rfl rfl o.bits_shape (by decide) (by decide)
theorem jmp (o : Jmp) : Statement (.jmp o) := of_long rfl rfl o.bits_shape (by decide) (by decide)
theorem jr (o : A2) : Statement (.jr o) := of_long rfl rfl o.bits_shape (by decide) (by decide)
theorem jtab (o : AB) : Statement (.jtab o) := of_long rfl rfl o.bits_shape (by decide) (by decide)
theorem fin (o : A0) : Statement (.fin o) := of_long rfl rfl o.bits_shape (by decide) (by decide)
theorem yield (o : A0) : Statement (.yield o) := of_long rfl rfl o.bits_shape (by decide) (by decide)
theorem align (o : A0) : Statement (.align o) := of_long rfl rfl o.bits_shape (by decide) (by decide)
theorem mfs (o : SysD) : Statement (.mfs o) := of_long rfl rfl o.bits_shape (by decide) (by decide)
theorem mts (o : SysA) : Statement (.mts o) := of_long rfl rfl o.bits_shape (by decide) (by decide)
theorem trap (o : Code) : Statement (.trap o) := of_long rfl rfl o.bits_shape (by decide) (by decide)
theorem loxi (o : Upper) : Statement (.loxi o) := of_long rfl rfl o.bits_shape (by decide) (by decide)
theorem lox (o : A2) : Statement (.lox o) := of_long rfl rfl o.bits_shape (by decide) (by decide)
theorem sox (o : A2) : Statement (.sox o) := of_long rfl rfl o.bits_shape (by decide) (by decide)
theorem fenceAcq (o : A0) : Statement (.fenceAcq o) := of_long rfl rfl o.bits_shape (by decide) (by decide)
theorem fenceRel (o : A0) : Statement (.fenceRel o) := of_long rfl rfl o.bits_shape (by decide) (by decide)
theorem fenceFull (o : A0) : Statement (.fenceFull o) := of_long rfl rfl o.bits_shape (by decide) (by decide)
theorem persist (o : A3) : Statement (.persist o) := of_long rfl rfl o.bits_shape (by decide) (by decide)
theorem winwait (o : AD) : Statement (.winwait o) := of_long rfl rfl o.bits_shape (by decide) (by decide)
theorem featq (o : A2) : Statement (.featq o) := of_long rfl rfl o.bits_shape (by decide) (by decide)
theorem implq (o : A2) : Statement (.implq o) := of_long rfl rfl o.bits_shape (by decide) (by decide)
theorem tret (o : A0) : Statement (.tret o) := of_long rfl rfl o.bits_shape (by decide) (by decide)
theorem wfi (o : A0) : Statement (.wfi o) := of_long rfl rfl o.bits_shape (by decide) (by decide)
theorem migr (o : A2) : Statement (.migr o) := of_long rfl rfl o.bits_shape (by decide) (by decide)
theorem migret (o : AB) : Statement (.migret o) := of_long rfl rfl o.bits_shape (by decide) (by decide)
theorem tlbinv (o : AB) : Statement (.tlbinv o) := of_long rfl rfl o.bits_shape (by decide) (by decide)
theorem harvest (o : A3) : Statement (.harvest o) := of_long rfl rfl o.bits_shape (by decide) (by decide)
theorem wbinv (o : AB) : Statement (.wbinv o) := of_long rfl rfl o.bits_shape (by decide) (by decide)
theorem pfree (o : A2) : Statement (.pfree o) := of_long rfl rfl o.bits_shape (by decide) (by decide)
theorem kill (o : A2) : Statement (.kill o) := of_long rfl rfl o.bits_shape (by decide) (by decide)
theorem send (o : AB) : Statement (.send o) := of_long rfl rfl o.bits_shape (by decide) (by decide)
theorem sendm (o : AB) : Statement (.sendm o) := of_long rfl rfl o.bits_shape (by decide) (by decide)
theorem recv (o : AD) : Statement (.recv o) := of_long rfl rfl o.bits_shape (by decide) (by decide)
theorem amsg (o : AB) : Statement (.amsg o) := of_long rfl rfl o.bits_shape (by decide) (by decide)
theorem amret (o : AB) : Statement (.amret o) := of_long rfl rfl o.bits_shape (by decide) (by decide)
theorem mboxq (o : A2) : Statement (.mboxq o) := of_long rfl rfl o.bits_shape (by decide) (by decide)
theorem loopb (o : A3) : Statement (.loopb o) := of_long rfl rfl o.bits_shape (by decide) (by decide)
theorem rget (o : AB) : Statement (.rget o) := of_long rfl rfl o.bits_shape (by decide) (by decide)
theorem rput (o : AB) : Statement (.rput o) := of_long rfl rfl o.bits_shape (by decide) (by decide)
theorem tspawn (o : A3) : Statement (.tspawn o) := of_long rfl rfl o.bits_shape (by decide) (by decide)
theorem tstamp (o : A2) : Statement (.tstamp o) := of_long rfl rfl o.bits_shape (by decide) (by decide)
theorem tabort (o : AA) : Statement (.tabort o) := of_long rfl rfl o.bits_shape (by decide) (by decide)
theorem fpush (o : A3) : Statement (.fpush o) := of_long rfl rfl o.bits_shape (by decide) (by decide)
theorem fpop (o : A2) : Statement (.fpop o) := of_long rfl rfl o.bits_shape (by decide) (by decide)
theorem fcnt (o : A2) : Statement (.fcnt o) := of_long rfl rfl o.bits_shape (by decide) (by decide)
theorem dcset (o : A2) : Statement (.dcset o) := of_long rfl rfl o.bits_shape (by decide) (by decide)
theorem dcdec (o : A2) : Statement (.dcdec o) := of_long rfl rfl o.bits_shape (by decide) (by decide)
theorem adecl (o : A3) : Statement (.adecl o) := of_long rfl rfl o.bits_shape (by decide) (by decide)
theorem gcall (o : AB) : Statement (.gcall o) := of_long rfl rfl o.bits_shape (by decide) (by decide)
theorem gret (o : A0) : Statement (.gret o) := of_long rfl rfl o.bits_shape (by decide) (by decide)
theorem gstat (o : AD) : Statement (.gstat o) := of_long rfl rfl o.bits_shape (by decide) (by decide)
theorem gpub (o : A3) : Statement (.gpub o) := of_long rfl rfl o.bits_shape (by decide) (by decide)
theorem grevoke (o : A2) : Statement (.grevoke o) := of_long rfl rfl o.bits_shape (by decide) (by decide)
theorem gqry (o : A3) : Statement (.gqry o) := of_long rfl rfl o.bits_shape (by decide) (by decide)
theorem copy (o : X3) : Statement (.copy o) := of_long rfl rfl o.bits_shape (by decide) (by decide)
theorem copymm (o : X3) : Statement (.copymm o) := of_long rfl rfl o.bits_shape (by decide) (by decide)
theorem bpref (o : X3) : Statement (.bpref o) := of_long rfl rfl o.bits_shape (by decide) (by decide)
theorem bar (o : Bell) : Statement (.bar o) := of_long rfl rfl o.bits_shape (by decide) (by decide)
theorem bara (o : BellB) : Statement (.bara o) := of_long rfl rfl o.bits_shape (by decide) (by decide)
theorem barw (o : BellB) : Statement (.barw o) := of_long rfl rfl o.bits_shape (by decide) (by decide)
theorem barph (o : BellB) : Statement (.barph o) := of_long rfl rfl o.bits_shape (by decide) (by decide)
theorem ipdep (o : A3) : Statement (.ipdep o) := of_long rfl rfl o.bits_shape (by decide) (by decide)
theorem ipdraw (o : A3) : Statement (.ipdraw o) := of_long rfl rfl o.bits_shape (by decide) (by decide)
theorem apxcall (o : X3) : Statement (.apxcall o) := of_long rfl rfl o.bits_shape (by decide) (by decide)
theorem apxret (o : X2) : Statement (.apxret o) := of_long rfl rfl o.bits_shape (by decide) (by decide)
theorem apxcfg (o : X3) : Statement (.apxcfg o) := of_long rfl rfl o.bits_shape (by decide) (by decide)
theorem apxqry (o : A2) : Statement (.apxqry o) := of_long rfl rfl o.bits_shape (by decide) (by decide)
theorem apxinv (o : A2) : Statement (.apxinv o) := of_long rfl rfl o.bits_shape (by decide) (by decide)
theorem vmov (o : V2) : Statement (.vmov o) := of_long rfl rfl o.bits_shape (by decide) (by decide)
theorem vsel (o : V3) : Statement (.vsel o) := of_long rfl rfl o.bits_shape (by decide) (by decide)
theorem vshuf (o : V3) : Statement (.vshuf o) := of_long rfl rfl o.bits_shape (by decide) (by decide)
theorem vrot (o : V3) : Statement (.vrot o) := of_long rfl rfl o.bits_shape (by decide) (by decide)
theorem vext (o : V3) : Statement (.vext o) := of_long rfl rfl o.bits_shape (by decide) (by decide)
theorem vli (o : VImm) : Statement (.vli o) := of_long rfl rfl o.bits_shape (by decide) (by decide)
theorem vbcast (o : VT) : Statement (.vbcast o) := of_long rfl rfl o.bits_shape (by decide) (by decide)
theorem vabs (o : V2) : Statement (.vabs o) := of_long rfl rfl o.bits_shape (by decide) (by decide)
theorem vneg (o : V2) : Statement (.vneg o) := of_long rfl rfl o.bits_shape (by decide) (by decide)
theorem vcps (o : V3) : Statement (.vcps o) := of_long rfl rfl o.bits_shape (by decide) (by decide)
theorem vtag (o : VTag) : Statement (.vtag o) := of_long rfl rfl o.bits_shape (by decide) (by decide)
theorem vclass (o : V2) : Statement (.vclass o) := of_long rfl rfl o.bits_shape (by decide) (by decide)
theorem vadd (o : VR3) : Statement (.vadd o) := of_long rfl rfl o.bits_shape (by decide) (by decide)
theorem vsub (o : VR3) : Statement (.vsub o) := of_long rfl rfl o.bits_shape (by decide) (by decide)
theorem vmul (o : VR3) : Statement (.vmul o) := of_long rfl rfl o.bits_shape (by decide) (by decide)
theorem vfma (o : VR3) : Statement (.vfma o) := of_long rfl rfl o.bits_shape (by decide) (by decide)
theorem vfms (o : VR3) : Statement (.vfms o) := of_long rfl rfl o.bits_shape (by decide) (by decide)
theorem vfnma (o : VR3) : Statement (.vfnma o) := of_long rfl rfl o.bits_shape (by decide) (by decide)
theorem vdiv (o : VR3) : Statement (.vdiv o) := of_long rfl rfl o.bits_shape (by decide) (by decide)
theorem vsqrt (o : VR2) : Statement (.vsqrt o) := of_long rfl rfl o.bits_shape (by decide) (by decide)
theorem vrcp (o : VR2) : Statement (.vrcp o) := of_long rfl rfl o.bits_shape (by decide) (by decide)
theorem vrsq (o : VR2) : Statement (.vrsq o) := of_long rfl rfl o.bits_shape (by decide) (by decide)
theorem vmin (o : V3) : Statement (.vmin o) := of_long rfl rfl o.bits_shape (by decide) (by decide)
theorem vmax (o : V3) : Statement (.vmax o) := of_long rfl rfl o.bits_shape (by decide) (by decide)
theorem vexp2 (o : VR2) : Statement (.vexp2 o) := of_long rfl rfl o.bits_shape (by decide) (by decide)
theorem vlog2 (o : VR2) : Statement (.vlog2 o) := of_long rfl rfl o.bits_shape (by decide) (by decide)
theorem viadd (o : V3) : Statement (.viadd o) := of_long rfl rfl o.bits_shape (by decide) (by decide)
theorem visub (o : V3) : Statement (.visub o) := of_long rfl rfl o.bits_shape (by decide) (by decide)
theorem vimul (o : V3) : Statement (.vimul o) := of_long rfl rfl o.bits_shape (by decide) (by decide)
theorem vimulh (o : V3) : Statement (.vimulh o) := of_long rfl rfl o.bits_shape (by decide) (by decide)
theorem vand (o : V3) : Statement (.vand o) := of_long rfl rfl o.bits_shape (by decide) (by decide)
theorem vor (o : V3) : Statement (.vor o) := of_long rfl rfl o.bits_shape (by decide) (by decide)
theorem vxor (o : V3) : Statement (.vxor o) := of_long rfl rfl o.bits_shape (by decide) (by decide)
theorem vshl (o : V3) : Statement (.vshl o) := of_long rfl rfl o.bits_shape (by decide) (by decide)
theorem vshr (o : V3) : Statement (.vshr o) := of_long rfl rfl o.bits_shape (by decide) (by decide)
theorem vshra (o : V3) : Statement (.vshra o) := of_long rfl rfl o.bits_shape (by decide) (by decide)
theorem vimin (o : V3) : Statement (.vimin o) := of_long rfl rfl o.bits_shape (by decide) (by decide)
theorem vimax (o : V3) : Statement (.vimax o) := of_long rfl rfl o.bits_shape (by decide) (by decide)
theorem viminn (o : V3) : Statement (.viminn o) := of_long rfl rfl o.bits_shape (by decide) (by decide)
theorem vimaxn (o : V3) : Statement (.vimaxn o) := of_long rfl rfl o.bits_shape (by decide) (by decide)
theorem vsadd (o : V3) : Statement (.vsadd o) := of_long rfl rfl o.bits_shape (by decide) (by decide)
theorem vssub (o : V3) : Statement (.vssub o) := of_long rfl rfl o.bits_shape (by decide) (by decide)
theorem vabsd (o : V3) : Statement (.vabsd o) := of_long rfl rfl o.bits_shape (by decide) (by decide)
theorem vcmpEq (o : V3) : Statement (.vcmpEq o) := of_long rfl rfl o.bits_shape (by decide) (by decide)
theorem vcmpNe (o : V3) : Statement (.vcmpNe o) := of_long rfl rfl o.bits_shape (by decide) (by decide)
theorem vcmpLt (o : V3) : Statement (.vcmpLt o) := of_long rfl rfl o.bits_shape (by decide) (by decide)
theorem vcmpLe (o : V3) : Statement (.vcmpLe o) := of_long rfl rfl o.bits_shape (by decide) (by decide)
theorem vcmpLtn (o : V3) : Statement (.vcmpLtn o) := of_long rfl rfl o.bits_shape (by decide) (by decide)
theorem vcmpLen (o : V3) : Statement (.vcmpLen o) := of_long rfl rfl o.bits_shape (by decide) (by decide)
theorem vcvt (o : Cvt) : Statement (.vcvt o) := of_long rfl rfl o.bits_shape (by decide) (by decide)
theorem vpack (o : Pack) : Statement (.vpack o) := of_long rfl rfl o.bits_shape (by decide) (by decide)
theorem vscale (o : Scale) : Statement (.vscale o) := of_long rfl rfl o.bits_shape (by decide) (by decide)
theorem vunpk (o : Unpk) : Statement (.vunpk o) := of_long rfl rfl o.bits_shape (by decide) (by decide)
theorem vredAdd (o : V2) : Statement (.vredAdd o) := of_long rfl rfl o.bits_shape (by decide) (by decide)
theorem vredMin (o : V2) : Statement (.vredMin o) := of_long rfl rfl o.bits_shape (by decide) (by decide)
theorem vredMax (o : V2) : Statement (.vredMax o) := of_long rfl rfl o.bits_shape (by decide) (by decide)
theorem vredMinn (o : V2) : Statement (.vredMinn o) := of_long rfl rfl o.bits_shape (by decide) (by decide)
theorem vredMaxn (o : V2) : Statement (.vredMaxn o) := of_long rfl rfl o.bits_shape (by decide) (by decide)
theorem vredAnd (o : V2) : Statement (.vredAnd o) := of_long rfl rfl o.bits_shape (by decide) (by decide)
theorem vredOr (o : V2) : Statement (.vredOr o) := of_long rfl rfl o.bits_shape (by decide) (by decide)
theorem vredXor (o : V2) : Statement (.vredXor o) := of_long rfl rfl o.bits_shape (by decide) (by decide)
theorem vdot (o : V3) : Statement (.vdot o) := of_long rfl rfl o.bits_shape (by decide) (by decide)
theorem vscanAdd (o : V2) : Statement (.vscanAdd o) := of_long rfl rfl o.bits_shape (by decide) (by decide)
theorem vscanMin (o : V2) : Statement (.vscanMin o) := of_long rfl rfl o.bits_shape (by decide) (by decide)
theorem vscanMax (o : V2) : Statement (.vscanMax o) := of_long rfl rfl o.bits_shape (by decide) (by decide)
theorem vld (o : VLoad) : Statement (.vld o) := of_long rfl rfl o.bits_shape (by decide) (by decide)
theorem vst (o : VStore) : Statement (.vst o) := of_long rfl rfl o.bits_shape (by decide) (by decide)
theorem vgath (o : VIdx) : Statement (.vgath o) := of_long rfl rfl o.bits_shape (by decide) (by decide)
theorem vscat (o : VIdx) : Statement (.vscat o) := of_long rfl rfl o.bits_shape (by decide) (by decide)
theorem vldl (o : VT) : Statement (.vldl o) := of_long rfl rfl o.bits_shape (by decide) (by decide)
theorem vstl (o : V2) : Statement (.vstl o) := of_long rfl rfl o.bits_shape (by decide) (by decide)
theorem vrest (o : VSv) : Statement (.vrest o) := of_long rfl rfl o.bits_shape (by decide) (by decide)
theorem vsave (o : VSv) : Statement (.vsave o) := of_long rfl rfl o.bits_shape (by decide) (by decide)
theorem qpush (o : AA) : Statement (.qpush o) := of_long rfl rfl o.bits_shape (by decide) (by decide)
theorem qpop (o : AD) : Statement (.qpop o) := of_long rfl rfl o.bits_shape (by decide) (by decide)
theorem fset (o : AA) : Statement (.fset o) := of_long rfl rfl o.bits_shape (by decide) (by decide)
theorem fwait (o : AA) : Statement (.fwait o) := of_long rfl rfl o.bits_shape (by decide) (by decide)
theorem bqpush (o : AA) : Statement (.bqpush o) := of_long rfl rfl o.bits_shape (by decide) (by decide)
theorem vend (o : A0) : Statement (.vend o) := of_long rfl rfl o.bits_shape (by decide) (by decide)
theorem mand (o : A3) : Statement (.mand o) := of_long rfl rfl o.bits_shape (by decide) (by decide)
theorem mor (o : A3) : Statement (.mor o) := of_long rfl rfl o.bits_shape (by decide) (by decide)
theorem mnot (o : A2) : Statement (.mnot o) := of_long rfl rfl o.bits_shape (by decide) (by decide)
theorem mpop (o : A2) : Statement (.mpop o) := of_long rfl rfl o.bits_shape (by decide) (by decide)
theorem mfirst (o : A2) : Statement (.mfirst o) := of_long rfl rfl o.bits_shape (by decide) (by decide)
theorem vstart (o : J0) : Statement (.vstart o) := of_long rfl rfl o.bits_shape (by decide) (by decide)
theorem vbr (o : B0) : Statement (.vbr o) := of_long rfl rfl o.bits_shape (by decide) (by decide)
theorem vloop (o : B1) : Statement (.vloop o) := of_long rfl rfl o.bits_shape (by decide) (by decide)
theorem vjmp (o : Jmp) : Statement (.vjmp o) := of_long rfl rfl o.bits_shape (by decide) (by decide)
theorem mma (o : X3) : Statement (.mma o) := of_long rfl rfl o.bits_shape (by decide) (by decide)
theorem mmaz (o : X3) : Statement (.mmaz o) := of_long rfl rfl o.bits_shape (by decide) (by decide)
theorem mtcx (o : X3) : Statement (.mtcx o) := of_long rfl rfl o.bits_shape (by decide) (by decide)
theorem mldt (o : A2) : Statement (.mldt o) := of_long rfl rfl o.bits_shape (by decide) (by decide)
theorem mstt (o : A2) : Statement (.mstt o) := of_long rfl rfl o.bits_shape (by decide) (by decide)
theorem mzt (o : Mz) : Statement (.mzt o) := of_long rfl rfl o.bits_shape (by decide) (by decide)
theorem mcvt (o : X3) : Statement (.mcvt o) := of_long rfl rfl o.bits_shape (by decide) (by decide)
theorem mtrn (o : A2) : Statement (.mtrn o) := of_long rfl rfl o.bits_shape (by decide) (by decide)
theorem tmov (o : X3) : Statement (.tmov o) := of_long rfl rfl o.bits_shape (by decide) (by decide)
theorem tcfg (o : X3) : Statement (.tcfg o) := of_long rfl rfl o.bits_shape (by decide) (by decide)
theorem cAdd (o : CR) : Statement (.cAdd o) := of_short rfl rfl o.bits_shape (by decide) (by decide)
theorem cSub (o : CR) : Statement (.cSub o) := of_short rfl rfl o.bits_shape (by decide) (by decide)
theorem cMov (o : CR) : Statement (.cMov o) := of_short rfl rfl o.bits_shape (by decide) (by decide)
theorem cAnd (o : CR) : Statement (.cAnd o) := of_short rfl rfl o.bits_shape (by decide) (by decide)
theorem cOr (o : CR) : Statement (.cOr o) := of_short rfl rfl o.bits_shape (by decide) (by decide)
theorem cXor (o : CR) : Statement (.cXor o) := of_short rfl rfl o.bits_shape (by decide) (by decide)
theorem cAddi (o : CI) : Statement (.cAddi o) := of_short rfl rfl o.bits_shape (by decide) (by decide)
theorem cLi (o : CI) : Statement (.cLi o) := of_short rfl rfl o.bits_shape (by decide) (by decide)
theorem cShli (o : CI) : Statement (.cShli o) := of_short rfl rfl o.bits_shape (by decide) (by decide)
theorem cShri (o : CI) : Statement (.cShri o) := of_short rfl rfl o.bits_shape (by decide) (by decide)
theorem cShrai (o : CI) : Statement (.cShrai o) := of_short rfl rfl o.bits_shape (by decide) (by decide)
theorem cBz (o : CB) : Statement (.cBz o) := of_short rfl rfl o.bits_shape (by decide) (by decide)
theorem cBnz (o : CB) : Statement (.cBnz o) := of_short rfl rfl o.bits_shape (by decide) (by decide)
theorem cLdw (o : CR) : Statement (.cLdw o) := of_short rfl rfl o.bits_shape (by decide) (by decide)
theorem cStw (o : CR) : Statement (.cStw o) := of_short rfl rfl o.bits_shape (by decide) (by decide)
theorem cLdd (o : CR) : Statement (.cLdd o) := of_short rfl rfl o.bits_shape (by decide) (by decide)
theorem cStd (o : CR) : Statement (.cStd o) := of_short rfl rfl o.bits_shape (by decide) (by decide)
theorem cJr (o : CA) : Statement (.cJr o) := of_short rfl rfl o.bits_shape (by decide) (by decide)
theorem cRet : Statement .cRet := of_short (b := 0) (n := 0) rfl rfl (by decide) (by decide) (by decide)
theorem cFin : Statement .cFin := of_short (b := 0) (n := 0) rfl rfl (by decide) (by decide) (by decide)
theorem cYield : Statement .cYield := of_short (b := 0) (n := 0) rfl rfl (by decide) (by decide) (by decide)
theorem taskDispatch (six : Nat) : Statement (.taskDispatch six) := of_event rfl
theorem strandPark (six : Nat) : Statement (.strandPark six) := of_event rfl
theorem replayClassTrap (six : Nat) : Statement (.replayClassTrap six) := of_event rfl
theorem quantExpiry (six : Nat) : Statement (.quantExpiry six) := of_event rfl
theorem preemptOrder (gid : Nat) : Statement (.preemptOrder gid) := of_event rfl
theorem preemptEntry (six : Nat) : Statement (.preemptEntry six) := of_event rfl
theorem interruptEntry (six : Nat) : Statement (.interruptEntry six) := of_event rfl
theorem streamAging (six : Nat) (st : Stream) : Statement (.streamAging six st) := of_event rfl
theorem alignTimeout (six : Nat) : Statement (.alignTimeout six) := of_event rfl
theorem reservationExpiry (six : Nat) : Statement (.reservationExpiry six) := of_event rfl
theorem l1Eviction (core asid va : Nat) : Statement (.l1Eviction core asid va) := of_event rfl
theorem syncValidation (id : Nat) : Statement (.syncValidation id) := of_event rfl
theorem translationEviction (unit asid page : Nat) : Statement (.translationEviction unit asid page) := of_event rfl
theorem unwindStart (six : Nat) : Statement (.unwindStart six) := of_event rfl
theorem cleanupBudgetExpiry (six : Nat) : Statement (.cleanupBudgetExpiry six) := of_event rfl
theorem grevokeComplete (six : Nat) : Statement (.grevokeComplete six) := of_event rfl
theorem machineCheck (gid sub six : Nat) : Statement (.machineCheck gid sub six) := of_event rfl
theorem taskCommit (gid : Nat) : Statement (.taskCommit gid) := of_event rfl
theorem queueNotify (die q : Nat) : Statement (.queueNotify die q) := of_event rfl
theorem queueMap (die q : Nat) : Statement (.queueMap die q) := of_event rfl
theorem packetLaunch (die q : Nat) : Statement (.packetLaunch die q) := of_event rfl
theorem packetSignal (die q : Nat) : Statement (.packetSignal die q) := of_event rfl
theorem packetResume (die q : Nat) : Statement (.packetResume die q) := of_event rfl
theorem packetReject (die q : Nat) : Statement (.packetReject die q) := of_event rfl
theorem groupCompletion (gid : Nat) : Statement (.groupCompletion gid) := of_event rfl
theorem spillWrite (gid : Nat) : Statement (.spillWrite gid) := of_event rfl
theorem messageArrival (core idx : Nat) : Statement (.messageArrival core idx) := of_event rfl
theorem requestPortRelease (core idx : Nat) : Statement (.requestPortRelease core idx) := of_event rfl
theorem handlerDispatch (core : Nat) : Statement (.handlerDispatch core) := of_event rfl
theorem hwAtomicEntry (core : Nat) : Statement (.hwAtomicEntry core) := of_event rfl
theorem overflowDispatch (core : Nat) : Statement (.overflowDispatch core) := of_event rfl
theorem actorFire (six actor : Nat) : Statement (.actorFire six actor) := of_event rfl
theorem fifoOutputSend (core actor out : Nat) : Statement (.fifoOutputSend core actor out) := of_event rfl
theorem engineCommandStart (cl id : Nat) : Statement (.engineCommandStart cl id) := of_event rfl
theorem copyCompletion (cl id : Nat) : Statement (.copyCompletion cl id) := of_event rfl
theorem copymmFollowOn (cl id : Nat) : Statement (.copymmFollowOn cl id) := of_event rfl
theorem remoteTransferCompletion (cl id : Nat) : Statement (.remoteTransferCompletion cl id) := of_event rfl
theorem matrixCommandStart (cl id : Nat) : Statement (.matrixCommandStart cl id) := of_event rfl
theorem matrixCommandCompletion (cl id : Nat) : Statement (.matrixCommandCompletion cl id) := of_event rfl
theorem matrixReplay (cl id : Nat) : Statement (.matrixReplay cl id) := of_event rfl
theorem matrixDeferredTrap (six : Nat) : Statement (.matrixDeferredTrap six) := of_event rfl
theorem tutorSample (cl : Nat) : Statement (.tutorSample cl) := of_event rfl
theorem domainRootStore (asid : Nat) (v : Word) : Statement (.domainRootStore asid v) := of_event rfl
theorem domainActivate (asid : Nat) (v : Word) : Statement (.domainActivate asid v) := of_event rfl
theorem frameAssignOwner (fr : Nat) (v : Word) : Statement (.frameAssignOwner fr v) := of_event rfl
theorem frameSetAppend (fr : Nat) (v : Word) : Statement (.frameSetAppend fr v) := of_event rfl
theorem cspBlockStore (die b : Nat) (v : Word) : Statement (.cspBlockStore die b v) := of_event rfl
theorem cspBlockInstall (die b : Nat) : Statement (.cspBlockInstall die b) := of_event rfl
theorem pmarkWrite (p : Nat) (v : Word) : Statement (.pmarkWrite p v) := of_event rfl
theorem pbudgetWrite (v : Word) : Statement (.pbudgetWrite v) := of_event rfl
theorem gatereqWrite (v : Word) : Statement (.gatereqWrite v) := of_event rfl
theorem clusterGating (cl : Nat) : Statement (.clusterGating cl) := of_event rfl
theorem clusterUngating (cl : Nat) : Statement (.clusterUngating cl) := of_event rfl
theorem powerInterval (throt : Word) : Statement (.powerInterval throt) := of_event rfl
theorem freezePin : Statement .freezePin := of_event rfl
theorem freezeWrite (v : Word) : Statement (.freezeWrite v) := of_event rfl
theorem extend : Statement .extend := of_event rfl
theorem quote : Statement .quote := of_event rfl
theorem reset : Statement .reset := of_event rfl
theorem wincfgWrite (v : Word) : Statement (.wincfgWrite v) := of_event rfl
theorem hostint (f : Nat) (v : Word) : Statement (.hostint f v) := of_event rfl
theorem registerWrite (pa : Nat) (v : Word) : Statement (.registerWrite pa v) := of_event rfl
theorem hostWrite (f pa : Nat) (v : Lane) : Statement (.hostWrite f pa v) := of_event rfl
theorem hostRead (f pa : Nat) : Statement (.hostRead f pa) := of_event rfl
theorem hostNotify (f die q : Nat) : Statement (.hostNotify f die q) := of_event rfl
theorem flrVf (t : Nat) : Statement (.flrVf t) := of_event rfl
theorem flrPf : Statement .flrPf := of_event rfl
theorem pcieLoadTimeout (id : Nat) : Statement (.pcieLoadTimeout id) := of_event rfl
theorem flitReceive (link : Nat) (flit : BitVec 2048) : Statement (.flitReceive link flit) := of_event rfl
theorem linkRetrain (link lanes : Nat) : Statement (.linkRetrain link lanes) := of_event rfl
theorem routeChange (dest cls link : Nat) : Statement (.routeChange dest cls link) := of_event rfl
theorem ptpMessage (ptp : PtpMsg) : Statement (.ptpMessage ptp) := of_event rfl
theorem windowClose : Statement .windowClose := of_event rfl
theorem closeMarker (p n : Nat) : Statement (.closeMarker p n) := of_event rfl
theorem windowEntry : Statement .windowEntry := of_event rfl
theorem memberFailure (p : Nat) : Statement (.memberFailure p) := of_event rfl
theorem podAccess (req : PodReq) : Statement (.podAccess req) := of_event rfl
theorem poisonedLine (sp : Nat) (addr : Nat) : Statement (.poisonedLine sp addr) := of_event rfl
theorem replyNetworkArrival (core idx : Nat) : Statement (.replyNetworkArrival core idx) := of_event rfl
theorem remoteInvalidation (p fr : Nat) : Statement (.remoteInvalidation p fr) := of_event rfl
theorem timerInterrupt (core src : Nat) : Statement (.timerInterrupt core src) := of_event rfl

end Sys2Proof.Laws.EncodeShape
end

