-- ==== Sys2Proof/Laws/Perform.lean ====
section
/-! SUPPORT. What an access to a page of this package does where it performs (R94 to R96): its translation, its write, its result. -/

namespace Sys2Proof.Machine

/-- A byte after a write (R93). -/
theorem memGet_memWrite (m : Memory) (a n v j : Nat) :
    memGet (memWrite m a n v) j = if a ≤ j ∧ j < a + n then BitVec.ofNat 8 (v / 256 ^ (j - a)) else memGet m j := by
  split
  · rename_i h
    obtain ⟨i, rfl⟩ : ∃ i, j = a + i := ⟨j - a, by omega⟩
    rw [memGet_write _ _ _ _ _ (by omega)]; congr 3; omega
  · rename_i h
    exact memGet_write_other _ _ _ _ _ (by omega)

/-- A strand with the same streams, system registers, coupling state and domain stack. -/
theorem sameBut_of {x y : Strand} {d : Nat} (hc : y.c = x.c) (hv : y.v = x.v) (hy : y.sys = x.sys) (hq : y.q = x.q)
    (hf : y.frames = x.frames) (hd : y.dom = x.dom) : x.sameBut y d := by
  simp [Strand.sameBut, Strand.readS, Strand.readOx, Strand.readK, Strand.readV, Strand.readM, Strand.readT, hc, hv, hy, hq, hf, hd]

/-- Two changes of one register are one. -/
theorem sameBut_trans {x y z : Strand} {d : Nat} (a : x.sameBut y d) (b : y.sameBut z d) : x.sameBut z d := by
  obtain ⟨a1,a2,a3,a4,a5,a6,a7,a8,a9,a10⟩ := a
  obtain ⟨b1,b2,b3,b4,b5,b6,b7,b8,b9,b10⟩ := b
  exact ⟨fun n h => (b1 n h).trans (a1 n h), fun n => (b2 n).trans (a2 n), fun n => (b3 n).trans (a3 n),
    fun n => (b4 n).trans (a4 n), fun n => (b5 n).trans (a5 n), fun n => (b6 n).trans (a6 n),
    b7.trans a7, b8.trans a8, b9.trans a9, b10.trans a10⟩

/-- A state in which, of the memories and the issuing strand, register d and the reservation alone may differ. -/
structure Gives (d : Nat) (s t : State) : Prop where
  mem : t.mem = s.mem
  pmem : t.pmem = s.pmem
  lmem : t.lmem = s.lmem
  dmem : t.dmem = s.dmem
  me : s.me.sameBut t.me d
  focus : t.focus = s.focus

/-- A result delivered to register d changes that register alone (R38). -/
theorem deliver_one (id d : Nat) (w : Word) (s : State) :
  let t := applyAll (deliver s.six id ([(d, w)].filter (fun r => r.1 ≠ 0)) s) s
  Gives d s t ∧ t.me.res = s.me.res ∧ (d ≠ 0 → t.me.readS d = w) := by
  by_cases hd : d = 0
  · subst hd
    simp only [deliver, applyAll_cons, applyAll_nil]
    have e : [(0, w)].filter (fun r => r.1 ≠ 0) = [] := by simp
    rw [e]
    simp only [List.foldl_nil]
    generalize hy : ({ s.strand s.six with await := (s.strand s.six).await.filter (fun a => a.2 ≠ id) } : Strand) = y
    have : ((Effect.strand s.six y).apply s).me = y := by simp [State.me, State.strand, Effect.apply, State.six]
    have l : s.me.sameBut y 0 := by subst hy; exact sameBut_of rfl rfl rfl rfl rfl rfl
    exact ⟨⟨rfl, rfl, rfl, rfl, by rw [this]; exact l, rfl⟩, by rw [this]; subst hy; rfl, fun h => absurd rfl h⟩
  · simp only [deliver, applyAll_cons, applyAll_nil]
    have e : [(d, w)].filter (fun r => r.1 ≠ 0) = [(d, w)] := by simp [hd]
    rw [e]
    simp only [List.foldl_cons, List.foldl_nil]
    generalize hy : ({ s.strand s.six with await := (s.strand s.six).await.filter (fun a => a.2 ≠ id) } : Strand) = y
    have : ((Effect.strand s.six (y.write (.s d) (.word w))).apply s).me = y.write (.s d) (.word w) := by
      simp [State.me, State.strand, Effect.apply, State.six]
    have l : s.me.sameBut y d := by subst hy; exact sameBut_of rfl rfl rfl rfl rfl rfl
    refine ⟨⟨rfl, rfl, rfl, rfl, by rw [this]; exact sameBut_trans l (sameBut_writeS y d w), rfl⟩, ?_, fun _ => ?_⟩
    · rw [this]; simp; subst hy; rfl
    · rw [this, readS_writeS]; simp [hd]

/-- A NORMAL page is read as its bytes (R260). -/
theorem bytesSeen_normal (s : State) (pa n : Nat) : bytesSeen s .normal pa n = memRead s.mem pa n := by
  induction n generalizing pa with
  | zero => rfl
  | succ n ih => simp [bytesSeen, memRead, ih, byteSeen]

/-- An access within a line covers a word of it. -/
theorem wordMask_ne (off n : Nat) (h : 0 < n) (ho : off < 64) : wordMask off n ≠ 0 := by
  have h1 : off / 4 < (off + n + 3) / 4 := by omega
  obtain ⟨k, hk⟩ : ∃ k, (off + n + 3) / 4 = off / 4 + (k + 1) := ⟨(off + n + 3) / 4 - off / 4 - 1, by omega⟩
  intro hz
  have h2 : (wordMask off n).toNat = 0 := by rw [hz]; rfl
  simp only [wordMask, BitVec.toNat_ofNat, hk] at h2
  have h3 : 2 ^ (off / 4 + (k + 1)) - 2 ^ (off / 4) = 2 ^ (off / 4) * (2 ^ (k + 1) - 1) := by
    rw [Nat.pow_add, Nat.mul_sub_one]
  rw [h3] at h2
  have h4 : 2 ^ 16 ∣ 2 ^ (off / 4) * (2 ^ (k + 1) - 1) := Nat.dvd_of_mod_eq_zero h2
  have h5 : Nat.Coprime (2 ^ 16) (2 ^ (k + 1) - 1) := by
    apply Nat.Coprime.pow_left
    rw [Nat.coprime_two_left]
    have : 2 ^ (k + 1) = 2 * 2 ^ k := by rw [Nat.pow_succ]; ring
    rw [this]
    have : 0 < 2 ^ k := Nat.pos_of_ne_zero (by positivity)
    exact ⟨2 ^ k - 1, by omega⟩
  have h6 := h5.dvd_of_dvd_mul_right h4
  have h7 : 2 ^ 16 ≤ 2 ^ (off / 4) := Nat.le_of_dvd (by positivity) h6
  have h8 : off / 4 < 16 := by omega
  have := Nat.pow_lt_pow_right (a := 2) (by norm_num) h8
  omega

/-- The records that a translation leaves change the directory and the translation caches alone. -/
theorem applyAll_translation {es : List Effect} (h : ∀ e ∈ es, (∃ k d, e = Effect.dir k d) ∨ ∃ k t, e = Effect.tlb k t)
    (s : State) :
    ∃ d t, applyAll es s = { s with dir := d, tlb := t } := by
  induction es generalizing s with
  | nil => exact ⟨s.dir, s.tlb, rfl⟩
  | cons e es ih =>
    rw [applyAll_cons]
    obtain ⟨d, t, e1⟩ := ih (fun x hx => h x (List.mem_cons_of_mem _ hx)) (e.apply s)
    rw [e1]
    rcases h e (List.mem_cons_self ..) with ⟨k, x, rfl⟩ | ⟨k, x, rfl⟩ <;> exact ⟨_, _, rfl⟩

/-- An access that meets no held request and translates to a page of this package performs there (R94, R95). -/
theorem performOp_here {s : State} {op : MemOp} {va : Word} {x : Xl} {rel : Bool} (h1 : inWindow va = false)
    (h2 : translate s s.coreNo s.me.dom s.me.sys.pm va op.need = some x)
    (hb : behindHeld (Effect.fresh.apply s) s.nextId s.me.dom va op.bytes = false) (h3 : x.pod = false) (h4 : x.cls ≠ .device)
    (hop : ∀ d n, op ≠ .persist d n) {u t s' : _}
    (_ : s' = { Effect.fresh.apply s with dir := u, tlb := t })
    (he : applyAll x.fx (Effect.fresh.apply s) = s') :
    performOp (s.asks op va false rel) (Effect.fresh.apply s)
      = (match performMem (s.asks op va false rel) s.coreNo s.me.dom va x s' with
         | .error (.send es) => .error (.send (x.fx ++ es))
         | .error e => .error e
         | .ok es => .ok (x.fx ++ es)) := by
  have : performOp (s.asks op va false rel) (Effect.fresh.apply s) = performOne (s.asks op va false rel) (Effect.fresh.apply s) := by
    simp only [performOp]; split
    · rename_i d n hh; exact absurd hh (hop d n)
    · rfl
  rw [this]
  simp only [performOne]
  rw [throughRefills_direct _ _ _ (s.asks op va false rel).va _ _ h1]
  simp only [performHere]
  have e1 : resolveAt (Effect.fresh.apply s) (s.asks op va false rel).six (s.asks op va false rel).asid
      (s.asks op va false rel).depth (s.asks op va false rel).va (s.asks op va false rel).op.need.writes = .ok (s.me.dom, va) := by
    simp only [resolveAt, State.asks, h1]; rfl
  rw [e1]
  have e2 : translate (Effect.fresh.apply s) (coreOf (s.asks op va false rel).six) s.me.dom (s.asks op va false rel).pm va
      (s.asks op va false rel).op.need = some x := (translate_fresh s _ _ _ _ _).trans h2
  have e3 : behindHeld (Effect.fresh.apply s) (s.asks op va false rel).id s.me.dom va (s.asks op va false rel).op.bytes = false := hb
  have e4 : coreOf (s.asks op va false rel).six = s.coreNo := rfl
  simp only [e2, e3, h4, h3, he, if_false, Bool.false_eq_true]
  simp only [e4]
  all_goals
    generalize performMem (s.asks op va false rel) s.coreNo s.me.dom va x s' = r
    rcases r with e | es
    · cases e <;> rfl
    · rfl

/-- The state after a translation. -/
theorem translate_state {s : State} {va : Word} {need : Need} {x : Xl} (h : translate s s.coreNo s.me.dom s.me.sys.pm va need = some x) :
   ∃ u t, applyAll x.fx (Effect.fresh.apply s) = { Effect.fresh.apply s with dir := u, tlb := t } :=
  applyAll_translation (translate_fx h) _

/-- A reservation is no register. -/
theorem sameBut_res (x : Strand) (r) (d : Nat) : x.sameBut { x with res := r } d :=
  sameBut_of rfl rfl rfl rfl rfl rfl

/-- The issuing strand after a change of its reservation alone. -/
theorem me_leaves {s t : State} (l : Leaves s.six s t) : ∃ r, t.me = { s.me with res := r } := by
  obtain ⟨r, hr⟩ := l.strand
  refine ⟨r, ?_⟩
  simp only [State.me]; rw [show t.focus.1 = s.six by rw [l.focus]; rfl]; exact hr

/-- The note of the window of a write (R100). -/
theorem notePod_gives (s : State) (d : Nat) : Gives d s (applyAll (notePod s.six s) s) := by
  simp only [notePod]
  split
  · have : (applyAll [Effect.strand s.six { s.strand s.six with podWin := some s.pkg.fab.window }] s).me
        = { s.me with podWin := some s.pkg.fab.window } := by
      simp [State.me, State.strand, Effect.apply, State.six]
    exact ⟨rfl, rfl, rfl, rfl, by rw [this]; exact sameBut_of rfl rfl rfl rfl rfl rfl, rfl⟩
  · exact ⟨rfl, rfl, rfl, rfl, sameBut_of rfl rfl rfl rfl rfl rfl, rfl⟩

/-- The D record of a page (R250). -/
theorem dirtyPage_leaves (six core asid : Nat) (va : Word) (s : State) : Leaves six s (applyAll (dirtyPage core asid va s) s) := by
  refine leaves_of six _ s (fun e he => ?_)
  simp only [dirtyPage] at he
  split at he
  · simp only [List.mem_singleton] at he; subst he; exact ⟨rfl, rfl⟩
  · simp at he

/-- A write at its home slice changes its bytes and nothing of the strand but its reservation (R252, R103). -/
theorem homeWrite_ok (s : State) (h : Held) (hs : h.six = s.six) (asid : Nat) (va : Word) (pa n v d : Nat)
    (hr : readersOf s (wordsOf pa n) = []) :
   let t := applyAll (homeWrite h asid va pa n v s) s
   t.mem = memWrite s.mem pa n v ∧ t.pmem = s.pmem ∧ t.lmem = s.lmem ∧ t.dmem = s.dmem ∧ s.me.sameBut t.me d
     ∧ t.focus = s.focus := by
  simp only [homeWrite]
  rw [applyAll_chain_cons, applyAll_chain_cons, applyAll_chain_cons, chain_nil, applyAll_nil]
  obtain ⟨m, l⟩ := homeStore_leaves s.six (some h.six) (some (coreOf h.six)) (agentOf (coreOf h.six) (va.toNat % 2 ^ 48)) pa n v s hr
  generalize applyAll (homeStore (some h.six) (some (coreOf h.six)) (agentOf (coreOf h.six) (va.toNat % 2 ^ 48)) pa n v s) s = s1 at m l
  have l2 := dirtyPage_leaves s.six (coreOf h.six) asid va s1
  generalize applyAll (dirtyPage (coreOf h.six) asid va s1) s1 = s2 at l2
  have f2 : s2.focus = s.focus := l2.focus.trans l.focus
  have e6 : s2.six = s.six := by simp only [State.six, f2]
  have p := notePod_gives s2 d
  rw [hs, ← e6]
  have me2 : ∃ r, s2.me = { s.me with res := r } := by
    obtain ⟨r, hr⟩ := l.strand; obtain ⟨q, hq⟩ := l2.strand
    refine ⟨q, ?_⟩
    simp only [State.me]; rw [f2]
    show s2.strand s.six = _
    rw [hq]; have : s1.strand s.six = { s.strand s.six with res := r } := hr
    rw [this]; rfl
  obtain ⟨q, hq⟩ := me2
  refine ⟨?_, ?_, ?_, ?_, ?_, p.focus.trans f2⟩
  · rw [p.mem, l2.mem, m]
  · rw [p.pmem, l2.pmem]; exact l.pmem
  · rw [p.lmem, l2.lmem]; exact l.lmem
  · rw [p.dmem, l2.dmem]; exact l.dmem
  · have := p.me
    rw [hq] at this
    exact sameBut_trans (sameBut_res s.me q d) (by rw [← hq] at this ⊢; exact this)

/-- What an access gives its register. -/
theorem give_one (h : Held) (s : State) (hs : h.six = s.six) (rs : List (Nat × Word)) (d : Nat) (w : Word)
    (hrs : rs.filter (fun r => r.1 ≠ 0) = [(d, w)].filter (fun r => r.1 ≠ 0)) :
  let t := applyAll (give h rs s) s
  Gives d s t ∧ t.me.res = s.me.res ∧ (d ≠ 0 → t.me.readS d = w) := by
  simp only [give, hrs, hs]
  exact deliver_one h.id d w s

end Sys2Proof.Machine
end

