-- ==== Sys2Proof/Laws/Vector.lean ====
section
/-! SUPPORT. Reading operands in the state an instruction issues in, raising conditions, and element-wise operations: one lemma
for each. -/

namespace Sys2Proof.Machine

variable (f : Stop → State → State) (s0 s : State)

/-! ## Operands of the landed state -/

theorem run_getSr_landed (a : BitVec 5) (k : Word → Prog) :
    Prog.run f s0 (getSr a k) s.landed = Prog.run f s0 (k (s.sreg a)) s.landed := rfl
theorem run_getK_landed (a : Nat) (k : Word → Prog) :
    Prog.run f s0 (getK a k) s.landed = Prog.run f s0 (k (s.kreg a)) s.landed := rfl
theorem run_getOx_landed (a : BitVec 5) (k : Word → Prog) :
    Prog.run f s0 (getOx a.toNat k) s.landed = Prog.run f s0 (k (s.oxreg a)) s.landed := rfl
theorem run_getV_landed (a : BitVec 5) (k : VReg → Prog) :
    Prog.run f s0 (getV a k) s.landed = Prog.run f s0 (k (s.vreg a)) s.landed := rfl
theorem run_getM_landed (a : BitVec 3) (k : Lane → Prog) :
    Prog.run f s0 (getM a.toNat k) s.landed = Prog.run f s0 (k (s.mreg a)) s.landed := rfl

/-! ## Conditions (R30, R114) -/

/-- Conditions none of which is enabled accumulate. -/
theorem run_raiseAll (cs : List (Nat × BitVec 6)) (k : Unit → Prog) (h : fpeIndex s.me.sys.fenable cs = none) :
    Prog.run f s0 (raiseAll cs k) s = Prog.run f s0 (k ()) (s.withMe (s.me.raise (allFlags cs))) := by
  simp only [raiseAll, m_bind, m_getS, run_get, h, run_modMe]

/-- An enabled condition traps FPE with the lowest element that raised one. -/
theorem run_raiseAll_trap (cs : List (Nat × BitVec 6)) (n : Nat) (k : Unit → Prog)
    (h : fpeIndex s.me.sys.fenable cs = some n) :
    Prog.run f s0 (raiseAll cs k) s
      = f (.trap { cause := 11, sub := 0, addr := BitVec.ofNat 64 n, strm := s.stream }) s0 := by
  simp only [raiseAll, m_bind, m_getS, run_get, h, m_trap, run_stop]

/-- Operations that raise nothing enable no trap and leave FLAGS. -/
theorem fpeIndex_quiet (e : BitVec 6) (cs : List (Nat × BitVec 6)) (h : ∀ c ∈ cs, c.2 = 0) : fpeIndex e cs = none := by
  induction cs with
  | nil => rfl
  | cons c cs ih =>
    have hc := h c (by simp)
    simp only [fpeIndex, ih (fun d hd => h d (by simp [hd]))]
    rw [hc]; simp

/-- An element-wise operation whose conditions are not enabled (R113). -/
theorem run_mapElems (d : BitVec 5) (m : BitVec 3) (src t lat : Nat) (g : Nat → Nat × BitVec 6) (k : Unit → Prog)
    (h : fpeIndex s.me.sys.fenable (condsOf (overElems src (s.me.readM m.toNat) g)) = none) :
    Prog.run f s0 (mapElems d m src t lat g k) s =
      (let rs := overElems src (s.me.readM m.toNat) g
       Prog.run f s0 (k ()) ((s.withMe (s.me.raise (allFlags (condsOf rs)))).wrote (.v d.toNat)
         (.vec (vreg (mergeElems src (s.me.readM m.toNat) (s.me.readV d.toNat).data.toNat rs) 0 t)) lat)) := by
  simp only [mapElems, m_bind, run_getV, run_getM]
  rw [run_raiseAll f s0 s _ _ h]
  rfl

end Sys2Proof.Machine
end

