-- ==== Sys2Proof/Laws/Wide.lean ====
section
/-! SUPPORT. What an access of many words does where it performs: its words one after another (R134), and a descriptor's doublewords. -/

namespace Sys2Proof.Machine

theorem runs_pure {α : Type} (a : α) (s : State) : Runs (pure a : M α) s a s := fun _ _ _ => rfl

theorem runs_bind {α β : Type} {m : M α} {g : α → M β} {s t u : State} {a : α} {b : β} (h : Runs m s a t) (h' : Runs (g a) t b u) :
    Runs (m >>= g) s b u := fun f s0 k => by rw [m_bind, h f s0, h' f s0]

theorem runs_getS (s : State) : Runs getS s s s := fun _ _ _ => rfl
theorem runs_put (e : Effect) (s : State) : Runs (put e) s () (e.apply s) := fun _ _ _ => rfl
theorem runs_puts (es : List Effect) (s : State) : Runs (puts es) s () (applyAll es s) := by
  induction es generalizing s with
  | nil => exact runs_pure _ _
  | cons e es ih => exact runs_bind (runs_put e s) (ih _)
theorem runs_stallIf {b : Bool} (w : Wait) (s : State) (h : b = false) : Runs (stallIf b w) s () s := by subst h; exact runs_pure _ _
/-- With no choice of the device left, each is the first. -/
theorem runs_choose {s : State} (n : Nat) (h : s.oracle = []) : Runs (choose n) s 0 s :=
  runs_bind (runs_getS s) (by rw [h]; exact runs_pure _ _)

/-- What a load of one word gives, where it performs. -/
def loadOne (s : State) (sp : Space) (n : Nat) (ea : Word) : Option (Nat × State) :=
  match sp with
  | .g =>
    match plainLoad s s.six s.me.dom s.me.sys.pm ea n with
    | .ok (v, fx) => some (v, applyAll fx s)
    | .error _ => none
  | sp => (localLoc s s.six sp ea n).map (fun l => (l.read s n, s))

theorem runs_loadWord {s t : State} {sp : Space} {n v : Nat} {ea : Word} (h : loadOne s sp n ea = some (v, t)) :
    Runs (loadWord sp n ea) s v t := by
  intro f s0 k
  unfold loadWord
  rw [m_bind, m_getS, run_get]
  unfold loadOne at h
  cases sp <;> simp only [] at h ⊢
  case g =>
    split at h
    · rename_i e
      simp only [Option.some.injEq, Prod.mk.injEq] at h
      simp only [e, finishLoad, m_bind, m_getS, run_get, run_puts, m_pure, h.1, h.2]
    · cases h
  all_goals
    rw [Option.map_eq_some_iff] at h
    obtain ⟨l, e, h⟩ := h
    simp only [Prod.mk.injEq] at h
    obtain ⟨rfl, rfl⟩ := h
    simp only [e, m_pure]

/-- The loads of a list of words. -/
def loadAll (sp : Space) (n : Nat) : List Word → State → Option (List Nat × State)
  | [], s => some ([], s)
  | a :: r, s =>
    match loadOne s sp n a with
    | none => none
    | some (v, t) => (loadAll sp n r t).map (fun p => (v :: p.1, p.2))

theorem runs_loadEach {sp : Space} {n : Nat} {eas : List Word} {s t : State} {vs : List Nat}
    (h : loadAll sp n eas s = some (vs, t)) : Runs (loadEach sp n eas) s vs t := by
  induction eas generalizing s vs with
  | nil => cases h; exact runs_pure [] _
  | cons a r ih =>
    unfold loadAll at h
    split at h
    · cases h
    · rename_i v u e
      rw [Option.map_eq_some_iff] at h
      obtain ⟨p, hp, h⟩ := h
      cases h
      exact runs_bind (runs_loadWord e) (runs_bind (ih hp) (runs_pure _ _))

/-- Words that pass their checks, with nothing to be fetched for them and no atomic of the strand on them that has not performed. -/
def wordsPass (s : State) (sp : Space) (isLoad : Bool) (n : Nat) (eas : List Word) : Bool :=
  eas.all (fun a => (wordFail s sp isLoad a n).isNone) && (copiesLacking s sp isLoad n eas).isEmpty && !banksPending s sp n eas

theorem runs_checkWords {s : State} {sp : Space} {isLoad : Bool} {n : Nat} {eas : List Word}
    (h : wordsPass s sp isLoad n eas = true) : Runs (checkWords sp isLoad n eas) s () s := by
  intro f s0 k
  unfold checkWords
  rw [m_bind, m_getS, run_get]
  have : eas.filterMap (fun a => wordFail s sp isLoad a n) = [] := by
    rw [List.filterMap_eq_nil_iff]
    intro a ha
    simp only [wordsPass, Bool.and_eq_true] at h
    exact Option.isNone_iff_eq_none.mp (List.all_eq_true.mp h.1.1 a ha)
  simp only [this, List.foldl_nil, m_pure]

theorem runs_awaitCopies {s : State} {sp : Space} {isLoad : Bool} {n : Nat} {eas : List Word}
    (h : wordsPass s sp isLoad n eas = true) : Runs (awaitCopies sp isLoad n eas) s () s := by
  intro f s0 k
  simp only [wordsPass, Bool.and_eq_true] at h
  simp only [awaitCopies, m_bind, m_getS, run_get, h.1.2, if_true, m_pure]

theorem runs_waitBanks {s : State} {sp : Space} {isLoad : Bool} {n : Nat} {eas : List Word}
    (h : wordsPass s sp isLoad n eas = true) : Runs (waitBanks sp n eas) s () s := by
  simp only [wordsPass, Bool.and_eq_true, Bool.not_eq_true'] at h
  exact runs_bind (runs_getS s) (runs_stallIf _ _ h.2)

theorem runs_speculationWaits {s : State} (sp : Space) (isLoad : Bool) (n : Nat) (eas : List Word) (h : s.me.spec = false) :
    Runs (speculationWaits sp isLoad n eas) s () s := by
  intro f s0 k
  unfold speculationWaits
  rw [m_bind, m_getS, run_get]
  have hb : ∀ b : Bool, Prog.run f s0 ((if b then beOldest else pure ()) k) s = Prog.run f s0 (k ()) s := by
    intro b
    cases b
    · rfl
    · exact run_beOldest f s0 s k h
  exact hb _

theorem runs_waitAcquires {s : State} (h : acqPending s s.six = false) : Runs waitAcquires s () s :=
  runs_bind (runs_getS s) (runs_stallIf _ _ h)

theorem runs_wideLoad {sp : Space} {n : Nat} {eas : List Word} {s t : State} {vs : List Nat} (hs : s.me.spec = false)
    (hq : acqPending s s.six = false)
    (hw : wordsPass s sp true n eas = true) (h : loadAll sp n eas s = some (vs, t)) : Runs (wideLoad sp n eas) s vs t :=
  runs_bind (runs_awaitCopies hw) (runs_bind (runs_checkWords hw)
    (runs_bind (runs_waitAcquires hq) (runs_bind (runs_waitBanks hw) (runs_bind (runs_speculationWaits _ _ _ _ hs) (runs_loadEach h)))))

/-- What a store of one word leaves, where it performs. -/
def storeOne (s : State) (sp : Space) (n : Nat) (ea : Word) (v : Nat) : Option State :=
  match sp with
  | .g =>
    let t := Effect.fresh.apply s
    let h := s.asks (.store n (BitVec.ofNat 64 v)) ea false false
    match (if (syncWord t ea).isSome then throughRefills t h.six h.depth ea List.append (storeSync h ea n v)
      else performOp { h with now := false } t) with
    | .ok es => some (applyAll (chain [fun _ => es, clearOwn ea n] t) t)
    | .error _ => none
  | sp => (localLoc s s.six sp ea n).map (fun l => applyAll (l.write n v s) s)

theorem runs_storeWord {s t : State} {sp : Space} {n v : Nat} {ea : Word} (h : storeOne s sp n ea v = some t) :
    Runs (storeWord sp n ea v) s () t := by
  intro f s0 k
  unfold storeWord
  unfold storeOne at h
  cases sp <;> simp only [] at h ⊢
  case g =>
    rw [m_bind, run_request, m_bind, m_getS, run_get]
    split at h
    · rename_i es he
      cases h
      simp only [he, run_puts]
    · cases h
  all_goals
    rw [m_bind, m_getS, run_get]
    rw [Option.map_eq_some_iff] at h
    obtain ⟨l, e, h⟩ := h
    simp only [e, run_puts, h]

/-- The stores of a list of words. -/
def storeAll (sp : Space) (n : Nat) : List (Word × Nat) → State → Option State
  | [], s => some s
  | p :: r, s =>
    match storeOne s sp n p.1 p.2 with
    | none => none
    | some t => storeAll sp n r t

theorem runs_storeEach {sp : Space} {n : Nat} {ws : List (Word × Nat)} {s t : State} (h : storeAll sp n ws s = some t) :
    Runs (storeEach sp n ws) s () t := by
  induction ws generalizing s with
  | nil => cases h; exact runs_pure () _
  | cons p r ih =>
    unfold storeAll at h
    split at h
    · cases h
    · rename_i u e
      exact runs_bind (runs_storeWord e) (ih h)

theorem runs_impure {s : State} (h : s.me.region = none) : Runs impure s () s := by
  intro f s0 k
  unfold impure
  rw [m_bind, m_getS, run_get, h]
  cases s.stream <;> rfl

theorem runs_wideStore {sp : Space} {n : Nat} {ws : List (Word × Nat)} {s t : State} (hs : s.me.spec = false)
    (hq : acqPending s s.six = false)
    (hw : wordsPass s sp false n (ws.map Prod.fst) = true)
    (hy : (decide (sp = .g) && (ws.map Prod.fst).any (fun a => (syncWord s a).any (fun p => syncWaits s s.six p.2.2.pa n))) = false)
    (h : storeAll sp n ws s = some t) (hr : t.me.region = none) : Runs (wideStore sp n ws) s () t := by
  have hst : Runs (storeWaits sp n (ws.map Prod.fst)) s () s := ?_
  · exact runs_bind (runs_awaitCopies hw) (runs_bind (runs_checkWords hw) (runs_bind hst (runs_bind (runs_storeEach h) (runs_impure hr))))
  exact runs_bind (runs_waitAcquires hq) (runs_bind (runs_waitBanks hw)
    (runs_bind (runs_speculationWaits _ _ _ _ hs) (runs_bind (runs_getS s) (runs_stallIf _ _ hy))))

/-- A descriptor's doublewords. -/
def wordsAt (s : State) (va : Word) : Nat → Option (List Word × State)
  | 0 => some ([], s)
  | n + 1 =>
    if rangeHit s s.coreNo .g s.me.dom va.toNat (va.toNat + 8) true || s.me.spec || acqPending s s.six then none
    else match plainLoad s s.six s.me.dom s.me.sys.pm va 8 with
      | .error _ => none
      | .ok (v, fx) => (wordsAt (applyAll fx s) (va + 8) n).map (fun p => (BitVec.ofNat 64 v :: p.1, p.2))

theorem runs_loadWords {n : Nat} {va : Word} {s t : State} {ws : List Word} (h : wordsAt s va n = some (ws, t)) :
    Runs (loadWords va n) s ws t := by
  induction n generalizing s va ws with
  | zero => cases h; exact runs_pure [] _
  | succ n ih =>
    unfold wordsAt at h
    split at h
    · cases h
    · rename_i hb
      simp only [Bool.or_eq_true, not_or, Bool.not_eq_true] at hb
      split at h
      · cases h
      · rename_i v fx e
        rw [Option.map_eq_some_iff] at h
        obtain ⟨p, hp, h⟩ := h
        cases h
        refine runs_bind (t := applyAll fx s) (a := v) ?_ (runs_bind (ih hp) (runs_pure _ _))
        intro f s0 k
        exact run_loadTable f s0 s ⟨hb.1.1, hb.1.2, hb.2, e⟩ k

end Sys2Proof.Machine
end

