-- ==== Sys2Proof/Tests/Slice0.lean ====
section
/-! SUPPORT. Tests of the model: encodings written out from the manual's tables, ill-formed instructions that the checks refuse,
instructions with the manual's values, and for the hypotheses of each statement a state that meets them. -/

namespace Sys2Proof
open Sys2Proof.Machine
set_option Elab.async false

/-! ## Checks of an instruction's fields -/

/-- A term for each check of an instruction's fields, which the check refuses (the other fields of each are legal). -/
theorem test_illFormed : ([
    .bfx { n := 40, p := 40, a := 1, d := 1 }, .bfx { n := 1, p := 63, a := 1, d := 1 },
    .bfi { n := 40, p := 40, a := 1, d := 1 }, .bfi { n := 1, p := 63, a := 1, d := 1 },
    .ldbn { off := 1, space := 5, base := 1, d := 1 },
    .ldhn { off := 1, space := 5, base := 1, d := 1 },
    .ldwn { off := 1, space := 5, base := 1, d := 1 },
    .ldd { off := 1, space := 5, base := 1, d := 1 },
    .ldb { off := 1, space := 5, base := 1, d := 1 },
    .ldh { off := 1, space := 5, base := 1, d := 1 },
    .ldw { off := 1, space := 5, base := 1, d := 1 },
    .stb { off := 1, space := 5, base := 1, d := 1 },
    .sth { off := 1, space := 5, base := 1, d := 1 },
    .stw { off := 1, space := 5, base := 1, d := 1 },
    .std { off := 1, space := 5, base := 1, d := 1 },
    .ldacq { off := 1, ord := 1, space := 5, base := 1, d := 1 },
    .strel { off := 1, ord := 1, space := 5, base := 1, d := 1 },
    .acas2 { w := 1, sp := 1, b := 2, a := 1, d := 1, q := 1 }, .acas2 { w := 1, sp := 1, b := 1, a := 1, d := 2, q := 1 }, .acas2 { w := 1, sp := 1, b := 2, a := 1, d := 0, q := 1 },
    .mfs { n := 13, d := 1 },
    .mts { n := 13, a := 1 },
    .loxi { imm := 1, d := 8 },
    .lox { w := 1, a := 1, d := 8 },
    .sox { w := 1, a := 8, d := 1 },
    .recv { w := 1, d := 0 }, .recv { w := 1, d := 28 },
    .fpop { w := 1, a := 1, d := 0 }, .fpop { w := 1, a := 1, d := 28 },
    .copy { w := 1, x := 1, a := 1, d := 0 }, .copy { w := 1, x := 7, a := 1, d := 1 },
    .copymm { w := 1, x := 1, a := 1, d := 0 }, .copymm { w := 1, x := 6, a := 1, d := 1 },
    .bpref { w := 1, x := 1, a := 1, d := 0 },
    .bar { w := 1, c := 1, a := 1, d := 1 }, .bar { w := 1, c := 7, a := 1, d := 1 },
    .bara { w := 1, c := 1, b := 1, a := 1, d := 1 }, .bara { w := 1, c := 7, b := 1, a := 1, d := 1 },
    .barw { w := 1, c := 1, b := 1, a := 1, d := 1 }, .barw { w := 1, c := 7, b := 1, a := 1, d := 1 },
    .barph { w := 1, c := 1, b := 1, a := 1, d := 1 }, .barph { w := 1, c := 7, b := 1, a := 1, d := 1 },
    .vbcast { w := 1, m := 1, t := 1, a := 16, d := 1 }, .vbcast { w := 1, m := 1, t := 24, a := 1, d := 1 }, .vbcast { w := 1, m := 1, t := 15, a := 1, d := 1 },
    .vtag { w := 1, t := 24, a := 1, d := 1 },
    .vadd { w := 1, m := 1, b := 1, a := 1, d := 1, r := 0 }, .vadd { w := 1, m := 1, b := 1, a := 1, d := 1, r := 6 },
    .vsub { w := 1, m := 1, b := 1, a := 1, d := 1, r := 0 }, .vsub { w := 1, m := 1, b := 1, a := 1, d := 1, r := 6 },
    .vmul { w := 1, m := 1, b := 1, a := 1, d := 1, r := 0 }, .vmul { w := 1, m := 1, b := 1, a := 1, d := 1, r := 6 },
    .vfma { w := 1, m := 1, b := 1, a := 1, d := 1, r := 0 }, .vfma { w := 1, m := 1, b := 1, a := 1, d := 1, r := 6 },
    .vfms { w := 1, m := 1, b := 1, a := 1, d := 1, r := 0 }, .vfms { w := 1, m := 1, b := 1, a := 1, d := 1, r := 6 },
    .vfnma { w := 1, m := 1, b := 1, a := 1, d := 1, r := 0 }, .vfnma { w := 1, m := 1, b := 1, a := 1, d := 1, r := 6 },
    .vdiv { w := 1, m := 1, b := 1, a := 1, d := 1, r := 0 }, .vdiv { w := 1, m := 1, b := 1, a := 1, d := 1, r := 6 },
    .vsqrt { w := 1, m := 1, a := 1, d := 1, r := 0 }, .vsqrt { w := 1, m := 1, a := 1, d := 1, r := 6 },
    .vrcp { w := 1, m := 1, a := 1, d := 1, r := 0 }, .vrcp { w := 1, m := 1, a := 1, d := 1, r := 6 },
    .vrsq { w := 1, m := 1, a := 1, d := 1, r := 0 }, .vrsq { w := 1, m := 1, a := 1, d := 1, r := 6 },
    .vexp2 { w := 1, m := 1, a := 1, d := 1, r := 0 }, .vexp2 { w := 1, m := 1, a := 1, d := 1, r := 6 },
    .vlog2 { w := 1, m := 1, a := 1, d := 1, r := 0 }, .vlog2 { w := 1, m := 1, a := 1, d := 1, r := 6 },
    .vcmpEq { w := 1, m := 1, b := 1, a := 1, d := 0 }, .vcmpEq { w := 1, m := 1, b := 1, a := 1, d := 8 },
    .vcmpNe { w := 1, m := 1, b := 1, a := 1, d := 0 }, .vcmpNe { w := 1, m := 1, b := 1, a := 1, d := 8 },
    .vcmpLt { w := 1, m := 1, b := 1, a := 1, d := 0 }, .vcmpLt { w := 1, m := 1, b := 1, a := 1, d := 8 },
    .vcmpLe { w := 1, m := 1, b := 1, a := 1, d := 0 }, .vcmpLe { w := 1, m := 1, b := 1, a := 1, d := 8 },
    .vcmpLtn { w := 1, m := 1, b := 1, a := 1, d := 0 }, .vcmpLtn { w := 1, m := 1, b := 1, a := 1, d := 8 },
    .vcmpLen { w := 1, m := 1, b := 1, a := 1, d := 0 }, .vcmpLen { w := 1, m := 1, b := 1, a := 1, d := 8 },
    .vcvt { w := 1, nan := 1, r := 1, m := 1, t := 0, a := 1, d := 1 }, .vcvt { w := 1, nan := 1, r := 1, m := 1, t := 24, a := 1, d := 1 }, .vcvt { w := 1, nan := 1, r := 6, m := 1, t := 1, a := 1, d := 1 }, .vcvt { w := 1, nan := 1, r := 1, m := 1, t := 15, a := 1, d := 1 },
    .vpack { w := 1, nan := 1, r := 1, t := 0, a := 1, d := 1 }, .vpack { w := 1, nan := 1, r := 1, t := 24, a := 1, d := 1 }, .vpack { w := 1, nan := 1, r := 6, t := 1, a := 1, d := 1 },
    .vscale { w := 1, r := 5, m := 1, b := 1, a := 1, d := 1 },
    .vunpk { w := 1, p := 1, t := 0, a := 1, d := 1 }, .vunpk { w := 1, p := 1, t := 24, a := 1, d := 1 },
    .vredAdd { w := 1, m := 1, a := 1, d := 16 },
    .vredMin { w := 1, m := 1, a := 1, d := 16 },
    .vredMax { w := 1, m := 1, a := 1, d := 16 },
    .vredMinn { w := 1, m := 1, a := 1, d := 16 },
    .vredMaxn { w := 1, m := 1, a := 1, d := 16 },
    .vredAnd { w := 1, m := 1, a := 1, d := 16 },
    .vredOr { w := 1, m := 1, a := 1, d := 16 },
    .vredXor { w := 1, m := 1, a := 1, d := 16 },
    .vdot { w := 1, m := 1, b := 1, a := 1, d := 16 },
    .vld { w := 1, s := 1, m := 1, t := 1, a := 16, d := 1 }, .vld { w := 1, s := 3, m := 1, t := 1, a := 1, d := 1 }, .vld { w := 1, s := 5, m := 1, t := 1, a := 1, d := 1 }, .vld { w := 1, s := 1, m := 1, t := 24, a := 1, d := 1 }, .vld { w := 1, s := 1, m := 1, t := 15, a := 1, d := 1 },
    .vst { w := 1, s := 1, m := 1, a := 16, d := 1 }, .vst { w := 1, s := 3, m := 1, a := 1, d := 1 }, .vst { w := 1, s := 5, m := 1, a := 1, d := 1 },
    .vgath { w := 1, s := 1, m := 1, b := 1, a := 16, d := 1 }, .vgath { w := 1, s := 3, m := 1, b := 1, a := 1, d := 1 }, .vgath { w := 1, s := 5, m := 1, b := 1, a := 1, d := 1 },
    .vscat { w := 1, s := 1, m := 1, b := 1, a := 16, d := 1 }, .vscat { w := 1, s := 3, m := 1, b := 1, a := 1, d := 1 }, .vscat { w := 1, s := 5, m := 1, b := 1, a := 1, d := 1 },
    .vrest { w := 1, s := 1, a := 16, d := 1 }, .vrest { w := 1, s := 3, a := 1, d := 1 }, .vrest { w := 1, s := 5, a := 1, d := 1 },
    .vsave { w := 1, s := 1, a := 16, d := 1 }, .vsave { w := 1, s := 3, a := 1, d := 1 }, .vsave { w := 1, s := 5, a := 1, d := 1 },
    .vldl { w := 1, m := 1, t := 1, a := 16, d := 1 }, .vldl { w := 1, m := 1, t := 24, a := 1, d := 1 }, .vldl { w := 1, m := 1, t := 15, a := 1, d := 1 },
    .vstl { w := 1, m := 1, a := 16, d := 1 },
    .fset { w := 1, a := 8 },
    .fwait { w := 1, a := 8 },
    .mand { w := 1, b := 1, a := 1, d := 0 }, .mand { w := 1, b := 1, a := 1, d := 8 }, .mand { w := 1, b := 1, a := 8, d := 1 }, .mand { w := 1, b := 8, a := 1, d := 1 },
    .mor { w := 1, b := 1, a := 1, d := 0 }, .mor { w := 1, b := 1, a := 1, d := 8 }, .mor { w := 1, b := 1, a := 8, d := 1 }, .mor { w := 1, b := 8, a := 1, d := 1 },
    .mnot { w := 1, a := 1, d := 0 }, .mnot { w := 1, a := 1, d := 8 }, .mnot { w := 1, a := 8, d := 1 },
    .mpop { w := 1, a := 1, d := 16 }, .mpop { w := 1, a := 8, d := 1 },
    .mfirst { w := 1, a := 1, d := 16 }, .mfirst { w := 1, a := 8, d := 1 },
    .vloop { disp := 1, a := 16 },
    .vjmp { disp := 1, link := 16 },
    .mma { w := 1, x := 1, a := 1, d := 4 }, .mma { w := 1, x := 1, a := 16, d := 1 },
    .mmaz { w := 1, x := 1, a := 1, d := 4 }, .mmaz { w := 1, x := 1, a := 16, d := 1 },
    .mtcx { w := 1, x := 1, a := 1, d := 4 }, .mtcx { w := 1, x := 1, a := 16, d := 1 },
    .mldt { w := 1, a := 1, d := 4 }, .mldt { w := 1, a := 16, d := 1 },
    .mstt { w := 1, a := 1, d := 4 }, .mstt { w := 1, a := 16, d := 1 },
    .mzt { w := 1, t := 1, d := 4 }, .mzt { w := 1, t := 24, d := 1 }, .mzt { w := 1, t := 15, d := 1 },
    .mcvt { w := 1, x := 1, a := 1, d := 4 }, .mcvt { w := 1, x := 1, a := 4, d := 1 },
    .mtrn { w := 1, a := 1, d := 4 }, .mtrn { w := 1, a := 4, d := 1 },
    .tmov { w := 1, x := 1, a := 4, d := 1 },
    .tcfg { w := 1, x := 1, a := 1, d := 15 }, .tcfg { w := 1, x := 1, a := 16, d := 1 }] : List Instr).all (fun i => !i.wf) = true := by decide +kernel

/-- The same terms with the refused field legal. -/
theorem test_wellFormed : ([
    .bfx { n := 1, p := 1, a := 1, d := 1 },
    .bfi { n := 1, p := 1, a := 1, d := 1 },
    .ldbn { off := 1, space := 1, base := 1, d := 1 },
    .ldhn { off := 1, space := 1, base := 1, d := 1 },
    .ldwn { off := 1, space := 1, base := 1, d := 1 },
    .ldd { off := 1, space := 1, base := 1, d := 1 },
    .ldb { off := 1, space := 1, base := 1, d := 1 },
    .ldh { off := 1, space := 1, base := 1, d := 1 },
    .ldw { off := 1, space := 1, base := 1, d := 1 },
    .stb { off := 1, space := 1, base := 1, d := 1 },
    .sth { off := 1, space := 1, base := 1, d := 1 },
    .stw { off := 1, space := 1, base := 1, d := 1 },
    .std { off := 1, space := 1, base := 1, d := 1 },
    .ldacq { off := 1, ord := 1, space := 1, base := 1, d := 1 },
    .strel { off := 1, ord := 1, space := 1, base := 1, d := 1 },
    .acas2 { w := 1, sp := 1, b := 2, a := 1, d := 2, q := 1 },
    .mfs { n := 1, d := 1 },
    .mts { n := 1, a := 1 },
    .loxi { imm := 1, d := 1 },
    .lox { w := 1, a := 1, d := 1 },
    .sox { w := 1, a := 1, d := 1 },
    .recv { w := 1, d := 1 },
    .fpop { w := 1, a := 1, d := 1 },
    .copy { w := 1, x := 1, a := 1, d := 1 },
    .copymm { w := 1, x := 1, a := 1, d := 1 },
    .bpref { w := 1, x := 1, a := 1, d := 1 },
    .bar { w := 1, c := 2, a := 1, d := 1 },
    .bara { w := 1, c := 2, b := 1, a := 1, d := 1 },
    .barw { w := 1, c := 2, b := 1, a := 1, d := 1 },
    .barph { w := 1, c := 2, b := 1, a := 1, d := 1 },
    .vbcast { w := 1, m := 1, t := 1, a := 1, d := 1 },
    .vtag { w := 1, t := 1, a := 1, d := 1 },
    .vadd { w := 1, m := 1, b := 1, a := 1, d := 1, r := 1 },
    .vsub { w := 1, m := 1, b := 1, a := 1, d := 1, r := 1 },
    .vmul { w := 1, m := 1, b := 1, a := 1, d := 1, r := 1 },
    .vfma { w := 1, m := 1, b := 1, a := 1, d := 1, r := 1 },
    .vfms { w := 1, m := 1, b := 1, a := 1, d := 1, r := 1 },
    .vfnma { w := 1, m := 1, b := 1, a := 1, d := 1, r := 1 },
    .vdiv { w := 1, m := 1, b := 1, a := 1, d := 1, r := 1 },
    .vsqrt { w := 1, m := 1, a := 1, d := 1, r := 1 },
    .vrcp { w := 1, m := 1, a := 1, d := 1, r := 1 },
    .vrsq { w := 1, m := 1, a := 1, d := 1, r := 1 },
    .vexp2 { w := 1, m := 1, a := 1, d := 1, r := 1 },
    .vlog2 { w := 1, m := 1, a := 1, d := 1, r := 1 },
    .vcmpEq { w := 1, m := 1, b := 1, a := 1, d := 1 },
    .vcmpNe { w := 1, m := 1, b := 1, a := 1, d := 1 },
    .vcmpLt { w := 1, m := 1, b := 1, a := 1, d := 1 },
    .vcmpLe { w := 1, m := 1, b := 1, a := 1, d := 1 },
    .vcmpLtn { w := 1, m := 1, b := 1, a := 1, d := 1 },
    .vcmpLen { w := 1, m := 1, b := 1, a := 1, d := 1 },
    .vcvt { w := 1, nan := 1, r := 1, m := 1, t := 1, a := 1, d := 1 },
    .vpack { w := 1, nan := 1, r := 1, t := 1, a := 1, d := 1 },
    .vscale { w := 1, r := 1, m := 1, b := 1, a := 1, d := 1 },
    .vunpk { w := 1, p := 1, t := 1, a := 1, d := 1 },
    .vredAdd { w := 1, m := 1, a := 1, d := 1 },
    .vredMin { w := 1, m := 1, a := 1, d := 1 },
    .vredMax { w := 1, m := 1, a := 1, d := 1 },
    .vredMinn { w := 1, m := 1, a := 1, d := 1 },
    .vredMaxn { w := 1, m := 1, a := 1, d := 1 },
    .vredAnd { w := 1, m := 1, a := 1, d := 1 },
    .vredOr { w := 1, m := 1, a := 1, d := 1 },
    .vredXor { w := 1, m := 1, a := 1, d := 1 },
    .vdot { w := 1, m := 1, b := 1, a := 1, d := 1 },
    .vld { w := 1, s := 1, m := 1, t := 1, a := 1, d := 1 },
    .vst { w := 1, s := 1, m := 1, a := 1, d := 1 },
    .vgath { w := 1, s := 1, m := 1, b := 1, a := 1, d := 1 },
    .vscat { w := 1, s := 1, m := 1, b := 1, a := 1, d := 1 },
    .vrest { w := 1, s := 1, a := 1, d := 1 },
    .vsave { w := 1, s := 1, a := 1, d := 1 },
    .vldl { w := 1, m := 1, t := 1, a := 1, d := 1 },
    .vstl { w := 1, m := 1, a := 1, d := 1 },
    .fset { w := 1, a := 1 },
    .fwait { w := 1, a := 1 },
    .mand { w := 1, b := 1, a := 1, d := 1 },
    .mor { w := 1, b := 1, a := 1, d := 1 },
    .mnot { w := 1, a := 1, d := 1 },
    .mpop { w := 1, a := 1, d := 1 },
    .mfirst { w := 1, a := 1, d := 1 },
    .vloop { disp := 1, a := 1 },
    .vjmp { disp := 1, link := 1 },
    .mma { w := 1, x := 1, a := 1, d := 1 },
    .mmaz { w := 1, x := 1, a := 1, d := 1 },
    .mtcx { w := 1, x := 1, a := 1, d := 1 },
    .mldt { w := 1, a := 1, d := 1 },
    .mstt { w := 1, a := 1, d := 1 },
    .mzt { w := 1, t := 1, d := 1 },
    .mcvt { w := 1, x := 1, a := 1, d := 1 },
    .mtrn { w := 1, a := 1, d := 1 },
    .tmov { w := 1, x := 1, a := 1, d := 1 },
    .tcfg { w := 1, x := 1, a := 1, d := 1 }] : List Instr).all Instr.wf = true := by decide +kernel

/-- Events of units that the package does not have. -/
theorem test_illFormed_events : ([
    .taskDispatch 8704, .strandPark 8704, .replayClassTrap 8704, .quantExpiry 8704, .preemptOrder 4096, .preemptEntry 8704,
    .interruptEntry 8704, .streamAging 8704 .c, .alignTimeout 8704, .reservationExpiry 8704, .l1Eviction 1088 0 0, .l1Eviction 0 4096 0,
    .translationEviction 0 4096 0, .unwindStart 8704, .cleanupBudgetExpiry 8704, .grevokeComplete 8704, .machineCheck 4096 0 0, .machineCheck 0 0 8704,
    .taskCommit 4096, .queueNotify 4 0, .queueNotify 0 1024, .queueMap 4 0, .queueMap 0 1024, .packetLaunch 4 0,
    .packetLaunch 0 1024, .packetSignal 4 0, .packetSignal 0 1024, .packetResume 4 0, .packetResume 0 1024, .packetReject 4 0,
    .packetReject 0 1024, .groupCompletion 4096, .spillWrite 4096, .messageArrival 1088 0, .requestPortRelease 1088 0, .handlerDispatch 1088,
    .hwAtomicEntry 1088, .overflowDispatch 1088, .actorFire 8704 0, .actorFire 0 32, .fifoOutputSend 1088 0 0, .fifoOutputSend 0 32 0,
    .fifoOutputSend 0 0 4, .engineCommandStart 32 0, .copyCompletion 32 0, .copymmFollowOn 32 0, .remoteTransferCompletion 32 0, .matrixCommandStart 32 0,
    .matrixCommandCompletion 32 0, .matrixReplay 32 0, .matrixDeferredTrap 8704, .tutorSample 32, .domainRootStore 4096 0, .domainActivate 4096 0,
    .cspBlockStore 4 0 0, .cspBlockStore 0 64 0, .cspBlockInstall 4 0, .cspBlockInstall 0 64, .pmarkWrite 8 0, .clusterGating 32,
    .clusterUngating 32, .hostWrite 65 0 0, .hostWrite 0 2 0, .hostRead 65 0, .hostRead 0 2, .hostNotify 64 0 0,
    .hostNotify 0 4 0, .hostNotify 0 0 1024, .flrVf 64, .flitReceive 12 0, .linkRetrain 12 8, .linkRetrain 0 9,
    .routeChange 0 0 12, .routeChange 0 3 0, .routeChange 128 0 0, .closeMarker 128 0, .memberFailure 128, .replyNetworkArrival 1088 0,
    .remoteInvalidation 128 0, .timerInterrupt 1088 0] : List Instr).all (fun i => !i.wf) = true := by decide +kernel

/-! ## Decoding -/

/-- Each word, of so many bits, decodes to its instruction. -/
noncomputable def decodesTo (l : List (Nat × Nat × Instr)) : Bool :=
  l.all (fun e => decide (decodeTableWord e.1 e.2.1 = some e.2.2))
theorem test_decode_scalar : decodesTo [
    (32, 0x60117F01, .add { w := 3, b := 8, a := 23, d := 30 }),
    (32, 0x2054F881, .sub { w := 1, b := 10, a := 15, d := 17 }),
    (32, 0x808D5381, .and { w := 4, b := 6, a := 21, d := 7 }),
    (32, 0xC0E79281, .or { w := 6, b := 19, a := 25, d := 5 }),
    (32, 0xE13BAB81, .xor { w := 7, b := 29, a := 26, d := 23 }),
    (32, 0xA173CB81, .andn { w := 5, b := 25, a := 28, d := 23 }),
    (32, 0xE198A501, .orn { w := 7, b := 12, a := 10, d := 10 }),
    (32, 0xA1CD0F01, .xnor { w := 5, b := 6, a := 16, d := 30 }),
    (32, 0x021BB401, .shl { w := 0, b := 13, a := 27, d := 8 }),
    (32, 0x427C5601, .shr { w := 2, b := 30, a := 5, d := 12 }),
    (32, 0x82A44401, .shra { w := 4, b := 18, a := 4, d := 8 }),
    (32, 0x82EC1681, .rot { w := 4, b := 22, a := 1, d := 13 }),
    (32, 0xA31B3601, .min { w := 5, b := 13, a := 19, d := 12 }),
    (32, 0x8344F881, .max { w := 4, b := 2, a := 15, d := 17 }),
    (32, 0x23BFC381, .minn { w := 1, b := 31, a := 28, d := 7 }),
    (32, 0xA3E2EB81, .maxn { w := 5, b := 17, a := 14, d := 23 }),
    (32, 0x44347E81, .cmpeq { w := 2, b := 26, a := 7, d := 29 }),
    (32, 0xA4432581, .cmplt { w := 5, b := 1, a := 18, d := 11 }),
    (32, 0x64AC1481, .cmpltn { w := 3, b := 22, a := 1, d := 9 }),
    (32, 0xC4FC6F01, .cmple { w := 6, b := 30, a := 6, d := 30 }),
    (32, 0xE514A601, .cmplen { w := 7, b := 10, a := 10, d := 12 }),
    (32, 0xC57C9681, .sel { w := 6, b := 30, a := 9, d := 13 }),
    (32, 0xC625D401, .mul { w := 6, b := 18, a := 29, d := 8 }),
    (32, 0x8676FC01, .mulh { w := 4, b := 27, a := 15, d := 24 }),
    (32, 0x068A0701, .mulhn { w := 0, b := 5, a := 0, d := 14 }),
    (32, 0xC7236B81, .div { w := 6, b := 17, a := 22, d := 23 }),
    (32, 0x475A7E01, .divn { w := 2, b := 13, a := 7, d := 28 }),
    (32, 0xA79E5801, .rem { w := 5, b := 15, a := 5, d := 16 }),
    (32, 0x87DC5301, .remn { w := 4, b := 14, a := 5, d := 6 }),
    (32, 0x88014381, .clz { w := 4, a := 20, d := 7 }),
    (32, 0x28407881, .ctz { w := 1, a := 7, d := 17 }),
    (32, 0xA880F481, .popc { w := 5, a := 15, d := 9 }),
    (32, 0xC8C1C481, .bswap { w := 6, a := 28, d := 9 }),
    (32, 0x29011D81, .sextb { w := 1, a := 17, d := 27 }),
    (32, 0x2941C681, .sexth { w := 1, a := 28, d := 13 }),
    (32, 0x69807581, .sextw { w := 3, a := 7, d := 11 }),
    (32, 0x29851983, .addi { imm := 5314, a := 17, d := 19 }),
    (32, 0x2FBE3405, .andi { imm := 6111, a := 3, d := 8 }),
    (32, 0xF8147587, .ori { imm := 31754, a := 7, d := 11 }),
    (32, 0x24634E09, .xori { imm := 4657, a := 20, d := 28 }),
    (32, 0x0060878B, .shli { c := 48, a := 8, d := 15 }),
    (32, 0x2006308B, .shri { c := 3, a := 3, d := 1 }),
    (32, 0x401C6F0B, .shrai { c := 14, a := 6, d := 30 }),
    (32, 0x601CF88B, .roti { c := 14, a := 15, d := 17 }),
    (32, 0x838CB70B, .bfx { n := 7, p := 6, a := 11, d := 14 }),
    (32, 0xAF32858B, .bfi { n := 30, p := 25, a := 8, d := 11 }),
    (32, 0xCF632A0D, .lui { imm := 849458, d := 20 }),
    (32, 0x9C66878F, .lea { imm := 640616, d := 15 }),
    (32, 0xE8E1B021, .bEq { disp := 3726, b := 27, a := 0 }),
    (32, 0x1492BDA1, .bNe { disp := 329, b := 11, a := 27 }),
    (32, 0x738415A1, .bLt { disp := 1848, b := 1, a := 11 }),
    (32, 0x90173621, .bGe { disp := 2305, b := 19, a := 12 }),
    (32, 0x57D8D621, .bLtn { disp := 1405, b := 13, a := 12 }),
    (32, 0x537B42A1, .bGen { disp := 1335, b := 20, a := 5 }),
    (32, 0x476B6CA3, .jmp { disp := 292534, link := 25 }),
    (32, 0xE00079A5, .jr { w := 7, a := 7, d := 19 }),
    (32, 0x805DE025, .jtab { w := 4, b := 14, a := 30 }),
    (32, 0x40000027, .fin { w := 2 }),
    (32, 0xE0400027, .yield { w := 7 }),
    (32, 0x60014069, .qpush { w := 3, a := 20 }),
    (32, 0x80400C69, .qpop { w := 4, d := 24 }),
    (32, 0xE0807069, .fset { w := 7, a := 7 }),
    (32, 0x60C03069, .fwait { w := 3, a := 3 }),
    (32, 0xA651206B, .vstart { disp := 681234 })] = true := by decide +kernel

theorem test_decode_memory : decodesTo [
    (32, 0x6F864E91, .ldbn { off := 446, space := 3, base := 4, d := 29 }),
    (32, 0x00102911, .ldhn { off := 0, space := 0, base := 2, d := 18 }),
    (32, 0xB2A91E11, .ldwn { off := 714, space := 4, base := 17, d := 28 }),
    (32, 0x0FB24811, .ldd { off := 62, space := 1, base := 4, d := 16 }),
    (32, 0x44071593, .ldb { off := 272, space := 3, base := 17, d := 11 }),
    (32, 0xD5991793, .ldh { off := 854, space := 4, base := 17, d := 15 }),
    (32, 0x6124D613, .ldw { off := 388, space := 2, base := 13, d := 12 }),
    (32, 0xD8484B15, .stb { off := 865, space := 4, base := 4, d := 22 }),
    (32, 0x1118CD95, .sth { off := 68, space := 4, base := 12, d := 27 }),
    (32, 0x29A99B95, .stw { off := 166, space := 4, base := 25, d := 23 }),
    (32, 0xA236AD95, .std { off := 648, space := 3, base := 10, d := 27 }),
    (32, 0x7D71B697, .ldacq { off := 501, ord := 3, space := 0, base := 27, d := 13 }),
    (32, 0xFCF07917, .strel { off := 499, ord := 3, space := 0, base := 7, d := 18 }),
    (32, 0xC1A7A49F, .aadd { w := 6, sp := 3, z := 0, b := 19, a := 26, d := 9, q := 3 }),
    (32, 0x228BDD1F, .aand { w := 1, sp := 1, z := 0, b := 5, a := 29, d := 26, q := 3 }),
    (32, 0x854B5A1F, .aor { w := 4, sp := 2, z := 1, b := 5, a := 21, d := 20, q := 3 }),
    (32, 0x664EAC9D, .axor { w := 3, sp := 0, z := 1, b := 7, a := 10, d := 25, q := 2 }),
    (32, 0x68DB771F, .amin { w := 3, sp := 1, z := 1, b := 13, a := 23, d := 14, q := 3 }),
    (32, 0xAA21F719, .amax { w := 5, sp := 0, z := 0, b := 16, a := 31, d := 14, q := 0 }),
    (32, 0xADC3E41B, .aminn { w := 5, sp := 3, z := 1, b := 1, a := 30, d := 8, q := 1 }),
    (32, 0x8F27521F, .amaxn { w := 4, sp := 2, z := 0, b := 19, a := 21, d := 4, q := 3 }),
    (32, 0x5190991F, .aswap { w := 2, sp := 3, z := 0, b := 8, a := 9, d := 18, q := 3 }),
    (32, 0x72812B9D, .acas { w := 3, sp := 1, z := 0, b := 0, a := 18, d := 23, q := 2 }),
    (32, 0x5529A39D, .afadd { w := 2, sp := 2, z := 0, b := 20, a := 26, d := 7, q := 2 }),
    (32, 0x3600FD9B, .lr { w := 1, z := 0, a := 15, d := 27, q := 1 }),
    (32, 0x584EF71F, .sc { w := 2, z := 1, b := 7, a := 15, d := 14, q := 3 }),
    (32, 0x1BDCEB1B, .acas2 { w := 0, sp := 3, b := 14, a := 14, d := 22, q := 1 }),
    (32, 0x1C0E0A99, .appnd { w := 0, z := 0, b := 7, a := 0, d := 21, q := 0 }),
    (32, 0x7E00B219, .tailq { w := 3, a := 11, d := 4 }),
    (32, 0x5E00C19D, .sealPage { w := 2, a := 12, d := 3 }),
    (32, 0x6200002D, .fenceAcq { w := 3 }),
    (32, 0x4240002D, .fenceRel { w := 2 }),
    (32, 0xE280002D, .fenceFull { w := 7 }),
    (32, 0xA2CA41AD, .persist { w := 5, b := 5, a := 4, d := 3 }),
    (32, 0x830004AD, .winwait { w := 4, d := 9 })] = true := by decide +kernel

theorem test_decode_cluster : decodesTo [
    (32, 0xE0800027, .align { w := 7 }),
    (32, 0x8055002F, .migret { w := 4, b := 10, a := 16 }),
    (32, 0xC00021B9, .copy { w := 6, x := 0, a := 2, d := 3 }),
    (32, 0xC0186D39, .copymm { w := 6, x := 4, a := 6, d := 26 }),
    (32, 0x002E7839, .bpref { w := 0, x := 7, a := 7, d := 16 }),
    (32, 0x810084BB, .bar { w := 4, c := 4, a := 8, d := 9 }),
    (32, 0x22A399BB, .bara { w := 1, c := 2, b := 17, a := 25, d := 19 }),
    (32, 0x059323BB, .barw { w := 0, c := 6, b := 9, a := 18, d := 7 }),
    (32, 0xE7AA45BB, .barph { w := 7, c := 6, b := 21, a := 4, d := 11 }),
    (32, 0x201DDD3D, .ipdep { w := 1, b := 14, a := 29, d := 26 }),
    (32, 0xA04577BD, .ipdraw { w := 5, b := 2, a := 23, d := 15 })] = true := by decide +kernel

theorem test_decode_system : decodesTo [
    (32, 0x000A00A9, .mfs { n := 5, d := 1 }),
    (32, 0x40060029, .mts { n := 3, a := 0 }),
    (32, 0x9AC40029, .trap { c := 3426 }),
    (32, 0xDBE283AB, .loxi { imm := 900648, d := 7 }),
    (32, 0x600051AD, .lox { w := 3, a := 5, d := 3 }),
    (32, 0x804024AD, .sox { w := 4, a := 2, d := 9 }),
    (32, 0x0401C02D, .featq { w := 0, a := 28, d := 0 }),
    (32, 0xA44066AD, .implq { w := 5, a := 6, d := 13 }),
    (32, 0x4600002D, .tret { w := 2 }),
    (32, 0x0640002D, .wfi { w := 0 }),
    (32, 0x4001EF2F, .migr { w := 2, a := 30, d := 30 }),
    (32, 0xC111502F, .wbinv { w := 6, b := 8, a := 21 }),
    (32, 0xE180E5AF, .kill { w := 7, a := 14, d := 11 })] = true := by decide +kernel

theorem test_decode_rest : decodesTo [
    (32, 0x20A1202F, .tlbinv { w := 1, b := 16, a := 18 }),
    (32, 0xE0D06FAF, .harvest { w := 7, b := 8, a := 6, d := 31 }),
    (32, 0xC14048AF, .pfree { w := 6, a := 4, d := 17 }),
    (32, 0xC01000B3, .tspawn { w := 6, b := 8, a := 0, d := 1 }),
    (32, 0x604169B3, .tstamp { w := 3, a := 22, d := 19 }),
    (32, 0x20802033, .tabort { w := 1, a := 2 }),
    (32, 0x40F2E733, .fpush { w := 2, b := 25, a := 14, d := 14 }),
    (32, 0xC101DAB3, .fpop { w := 6, a := 29, d := 21 }),
    (32, 0x014172B3, .fcnt { w := 0, a := 23, d := 5 }),
    (32, 0x6180E733, .dcset { w := 3, a := 14, d := 14 }),
    (32, 0xE1C0AFB3, .dcdec { w := 7, a := 10, d := 31 }),
    (32, 0xE2303833, .adecl { w := 7, b := 24, a := 3, d := 16 }),
    (32, 0x200E4ABF, .apxcall { w := 1, x := 7, a := 4, d := 21 }),
    (32, 0x2010033F, .apxret { w := 1, x := 0, d := 6 }),
    (32, 0x00248A3F, .apxcfg { w := 0, x := 2, a := 8, d := 20 }),
    (32, 0xA030813F, .apxqry { w := 5, a := 8, d := 2 }),
    (32, 0x2040D73F, .apxinv { w := 1, a := 13, d := 14 })] = true := by decide +kernel

theorem test_decode_message : decodesTo [
    (32, 0xC020C031, .send { w := 6, b := 16, a := 12 }),
    (32, 0x60609031, .sendm { w := 3, b := 16, a := 9 }),
    (32, 0xC0800B31, .recv { w := 6, d := 22 }),
    (32, 0x00D0D031, .amsg { w := 0, b := 8, a := 13 }),
    (32, 0x01213031, .amret { w := 0, b := 16, a := 19 }),
    (32, 0x614126B1, .mboxq { w := 3, a := 18, d := 13 }),
    (32, 0x218B92B1, .loopb { w := 1, b := 5, a := 25, d := 5 }),
    (32, 0xC1DFD031, .rget { w := 6, b := 15, a := 29 }),
    (32, 0x2221E031, .rput { w := 1, b := 16, a := 30 })] = true := by decide +kernel

theorem test_decode_gate : decodesTo [
    (32, 0xC025F035, .gcall { w := 6, b := 18, a := 31 }),
    (32, 0x60400035, .gret { w := 3 }),
    (32, 0xC0800D35, .gstat { w := 6, d := 26 }),
    (32, 0x40CED5B5, .gpub { w := 2, b := 7, a := 13, d := 11 }),
    (32, 0x610022B5, .grevoke { w := 3, a := 2, d := 5 }),
    (32, 0x017F2935, .gqry { w := 0, b := 31, a := 18, d := 18 })] = true := by decide +kernel

theorem test_decode_vectorMove : decodesTo [
    (32, 0x4081DC41, .vmov { w := 2, m := 2, a := 29, d := 24 }),
    (32, 0x42C433C1, .vsel { w := 2, m := 3, b := 2, a := 3, d := 7 }),
    (32, 0xE57C0C41, .vshuf { w := 7, m := 5, b := 30, a := 0, d := 24 }),
    (32, 0xA61BA441, .vrot { w := 5, m := 0, b := 13, a := 26, d := 8 }),
    (32, 0xC891FBC1, .vext { w := 6, m := 2, b := 8, a := 31, d := 23 }),
    (32, 0x8B2D12C1, .vli { w := 4, imm := 4817, d := 5 }),
    (32, 0xAD9429C1, .vbcast { w := 5, m := 6, t := 10, a := 2, d := 19 }),
    (32, 0x6E019F41, .vabs { w := 3, m := 0, a := 25, d := 30 }),
    (32, 0xD00035C1, .vneg { w := 6, m := 0, a := 3, d := 11 }),
    (32, 0xD2D608C1, .vcps { w := 6, m := 3, b := 11, a := 0, d := 17 }),
    (32, 0x14076741, .vtag { w := 0, t := 3, a := 22, d := 14 }),
    (32, 0xF781D8C1, .vclass { w := 7, m := 6, a := 29, d := 17 })] = true := by decide +kernel

theorem test_decode_vectorFloat : decodesTo [
    (32, 0x01ADD347, .vadd { w := 0, m := 6, b := 22, a := 29, d := 6, r := 3 }),
    (32, 0x22333BC7, .vsub { w := 1, m := 0, b := 25, a := 19, d := 23, r := 3 }),
    (32, 0xC44FA74B, .vmul { w := 6, m := 1, b := 7, a := 26, d := 14, r := 5 }),
    (32, 0x46F30A49, .vfma { w := 2, m := 3, b := 25, a := 16, d := 20, r := 4 }),
    (32, 0xA8CC29C5, .vfms { w := 5, m := 3, b := 6, a := 2, d := 19, r := 2 }),
    (32, 0x8AD49CC9, .vfnma { w := 4, m := 3, b := 10, a := 9, d := 25, r := 4 }),
    (32, 0xADF99F47, .vdiv { w := 5, m := 7, b := 28, a := 25, d := 30, r := 3 }),
    (32, 0x8F4151C9, .vsqrt { w := 4, m := 5, a := 21, d := 3, r := 4 }),
    (32, 0x7000CBCB, .vrcp { w := 3, m := 0, a := 12, d := 23, r := 5 }),
    (32, 0xD2C123C3, .vrsq { w := 6, m := 3, a := 18, d := 7, r := 1 }),
    (32, 0xF52E78C3, .vmin { w := 7, m := 4, b := 23, a := 7, d := 17 }),
    (32, 0x174CBA43, .vmax { w := 0, m := 5, b := 6, a := 11, d := 20 }),
    (32, 0x39C00645, .vexp2 { w := 1, m := 7, a := 0, d := 12, r := 2 }),
    (32, 0xDB4122C5, .vlog2 { w := 6, m := 5, a := 18, d := 5, r := 2 })] = true := by decide +kernel

theorem test_decode_vectorInteger : decodesTo [
    (32, 0x402E624D, .viadd { w := 2, m := 0, b := 23, a := 6, d := 4 }),
    (32, 0x62E3CBCD, .visub { w := 3, m := 3, b := 17, a := 28, d := 23 }),
    (32, 0x64FDD8CD, .vimul { w := 3, m := 3, b := 30, a := 29, d := 17 }),
    (32, 0xC7B66ACD, .vimulh { w := 6, m := 6, b := 27, a := 6, d := 21 }),
    (32, 0x68EE074D, .vand { w := 3, m := 3, b := 23, a := 0, d := 14 }),
    (32, 0x0A6F604D, .vor { w := 0, m := 1, b := 23, a := 22, d := 0 }),
    (32, 0x6CB171CD, .vxor { w := 3, m := 2, b := 24, a := 23, d := 3 }),
    (32, 0x0E8E504D, .vshl { w := 0, m := 2, b := 7, a := 5, d := 0 }),
    (32, 0x91B46BCD, .vshr { w := 4, m := 6, b := 26, a := 6, d := 23 }),
    (32, 0xD27129CD, .vshra { w := 6, m := 1, b := 24, a := 18, d := 19 }),
    (32, 0x1594424D, .vimin { w := 0, m := 6, b := 10, a := 4, d := 4 }),
    (32, 0x77B2AACD, .vimax { w := 3, m := 6, b := 25, a := 10, d := 21 }),
    (32, 0x5859D4CD, .viminn { w := 2, m := 1, b := 12, a := 29, d := 9 }),
    (32, 0xDAA7C34D, .vimaxn { w := 6, m := 2, b := 19, a := 28, d := 6 }),
    (32, 0x7CA9964D, .vsadd { w := 3, m := 2, b := 20, a := 25, d := 12 }),
    (32, 0x5EAD294D, .vssub { w := 2, m := 2, b := 22, a := 18, d := 18 }),
    (32, 0x601B0ECF, .vabsd { w := 3, m := 0, b := 13, a := 16, d := 29 }),
    (32, 0x6210634F, .vcmpEq { w := 3, m := 0, b := 8, a := 6, d := 6 }),
    (32, 0xA422024F, .vcmpNe { w := 5, m := 0, b := 17, a := 0, d := 4 }),
    (32, 0xE64830CF, .vcmpLt { w := 7, m := 1, b := 4, a := 3, d := 1 }),
    (32, 0xE8F2334F, .vcmpLe { w := 7, m := 3, b := 25, a := 3, d := 6 }),
    (32, 0x8BECB1CF, .vcmpLtn { w := 4, m := 7, b := 22, a := 11, d := 3 }),
    (32, 0x2C42F2CF, .vcmpLen { w := 1, m := 1, b := 1, a := 15, d := 5 }),
    (32, 0xA2022169, .mand { w := 5, b := 1, a := 2, d := 2 }),
    (32, 0xC24C03E9, .mor { w := 6, b := 6, a := 0, d := 7 }),
    (32, 0x02800269, .mnot { w := 0, a := 0, d := 4 }),
    (32, 0x02C00769, .mpop { w := 0, a := 0, d := 14 }),
    (32, 0x63005569, .mfirst { w := 3, a := 5, d := 10 })] = true := by decide +kernel

theorem test_decode_vectorConvert : decodesTo [
    (32, 0x3A6C4DD1, .vcvt { w := 1, nan := 1, r := 5, m := 1, t := 22, a := 4, d := 27 }),
    (32, 0x98089253, .vpack { w := 4, nan := 1, r := 4, t := 4, a := 9, d := 4 }),
    (32, 0x876C6655, .vscale { w := 4, r := 3, m := 5, b := 22, a := 6, d := 12 }),
    (32, 0x00D68BD7, .vunpk { w := 0, p := 3, t := 11, a := 8, d := 23 }),
    (32, 0x42805157, .vredAdd { w := 2, m := 2, a := 5, d := 2 }),
    (32, 0xA4009257, .vredMin { w := 5, m := 0, a := 9, d := 4 }),
    (32, 0x2781E5D7, .vredMax { w := 1, m := 6, a := 30, d := 11 }),
    (32, 0xA9C03657, .vredMinn { w := 5, m := 7, a := 3, d := 12 }),
    (32, 0x6A01B4D7, .vredMaxn { w := 3, m := 0, a := 27, d := 9 }),
    (32, 0xCCC0A757, .vredAnd { w := 6, m := 3, a := 10, d := 14 }),
    (32, 0x8E802757, .vredOr { w := 4, m := 2, a := 2, d := 14 }),
    (32, 0xB04127D7, .vredXor { w := 5, m := 1, a := 18, d := 15 }),
    (32, 0x72D445D7, .vdot { w := 3, m := 3, b := 10, a := 4, d := 11 }),
    (32, 0xF40114D7, .vscanAdd { w := 7, m := 0, a := 17, d := 9 }),
    (32, 0x7780FB57, .vscanMin { w := 3, m := 6, a := 15, d := 22 }),
    (32, 0x99805AD7, .vscanMax { w := 4, m := 6, a := 5, d := 21 })] = true := by decide +kernel

theorem test_decode_vectorMemory : decodesTo [
    (32, 0xE9DCCB61, .vld { w := 7, s := 4, m := 7, t := 14, a := 12, d := 22 }),
    (32, 0xB0C02DE1, .vst { w := 5, s := 0, m := 3, a := 2, d := 27 }),
    (32, 0x29D2D063, .vgath { w := 1, s := 4, m := 7, b := 9, a := 13, d := 0 }),
    (32, 0x94D06963, .vscat { w := 4, s := 2, m := 3, b := 8, a := 6, d := 18 }),
    (32, 0x80ACD665, .vldl { w := 4, m := 2, t := 22, a := 13, d := 12 }),
    (32, 0xD1C085E5, .vstl { w := 6, m := 7, a := 8, d := 11 }),
    (32, 0xC400EA67, .vrest { w := 6, s := 2, a := 14, d := 20 }),
    (32, 0xD40084E7, .vsave { w := 6, s := 2, a := 8, d := 9 }),
    (32, 0x4100E069, .bqpush { w := 2, a := 14 }),
    (32, 0x81400069, .vend { w := 4 }),
    (32, 0x58B0006D, .vbr { disp := 1419 }),
    (32, 0xD12203ED, .vloop { disp := 3346, a := 7 }),
    (32, 0x9A5E656F, .vjmp { disp := 632294, link := 10 })] = true := by decide +kernel

theorem test_decode_matrix : decodesTo [
    (32, 0xA00080F1, .mma { w := 5, x := 0, a := 8, d := 1 }),
    (32, 0x801630F1, .mmaz { w := 4, x := 3, a := 3, d := 1 }),
    (32, 0xC022C0F1, .mtcx { w := 6, x := 1, a := 12, d := 1 }),
    (32, 0x80009073, .mldt { w := 4, a := 9, d := 0 }),
    (32, 0xE010A0F3, .mstt { w := 7, a := 10, d := 1 }),
    (32, 0xA0201073, .mzt { w := 5, t := 1, d := 0 }),
    (32, 0x003E0173, .mcvt { w := 0, x := 7, a := 0, d := 2 }),
    (32, 0x20403073, .mtrn { w := 1, a := 3, d := 0 }),
    (32, 0xA0520773, .tmov { w := 5, x := 1, a := 0, d := 14 }),
    (32, 0x8062C673, .tcfg { w := 4, x := 1, a := 12, d := 12 })] = true := by decide +kernel

theorem test_decode_short : decodesTo [
    (16, 0x5002, .cAdd { a := 20, d := 0 }),
    (16, 0x9C42, .cSub { a := 7, d := 2 }),
    (16, 0x7804, .cMov { a := 30, d := 0 }),
    (16, 0xA124, .cAnd { a := 8, d := 9 }),
    (16, 0x1706, .cOr { a := 5, d := 24 }),
    (16, 0xDFC6, .cXor { a := 23, d := 30 }),
    (16, 0xC948, .cAddi { imm := 50, d := 10 }),
    (16, 0xE0CA, .cLi { imm := 56, d := 6 }),
    (16, 0x4C2C, .cShli { imm := 19, d := 1 }),
    (16, 0x41CE, .cShri { imm := 16, d := 14 }),
    (16, 0x6EF0, .cShrai { imm := 27, d := 23 }),
    (16, 0x7372, .cBz { disp := 115, a := 3 }),
    (16, 0x6BF4, .cBnz { disp := 107, a := 7 }),
    (16, 0x57B6, .cLdw { a := 21, d := 29 }),
    (16, 0xDF56, .cStw { a := 23, d := 26 }),
    (16, 0x2378, .cLdd { a := 8, d := 27 }),
    (16, 0xB718, .cStd { a := 13, d := 24 }),
    (16, 0x2C1A, .cJr { a := 11 }),
    (16, 0x801A, .cRet),
    (16, 0x001C, .cFin),
    (16, 0x801C, .cYield)] = true := by decide +kernel

/-- The example encodings of chapters 4, 5 and 7 to 18. -/
theorem test_decode_manual_core : decodesTo [
    (32, 0x00A01315, .stw { off := 2, space := 0, base := 1, d := 6 }),
    (32, 0x000E629B, .aadd { w := 0, sp := 0, z := 0, b := 7, a := 6, d := 5, q := 1 }),
    (32, 0x1314C59B, .acas { w := 0, sp := 2, z := 0, b := 10, a := 12, d := 11, q := 1 }),
    (32, 0x1294BA1D, .acas { w := 0, sp := 1, z := 0, b := 10, a := 11, d := 20, q := 2 }),
    (32, 0x1101F31B, .aswap { w := 0, sp := 2, z := 0, b := 0, a := 31, d := 6, q := 1 }),
    (32, 0x1C5CA019, .appnd { w := 0, z := 1, b := 14, a := 10, d := 0, q := 0 }),
    (32, 0x1E00629D, .sealPage { w := 0, a := 6, d := 5 }),
    (32, 0x1E00A599, .tailq { w := 0, a := 10, d := 11 }),
    (32, 0x0020C697, .ldacq { off := 0, ord := 2, space := 0, base := 12, d := 13 }),
    (32, 0x00A06297, .ldacq { off := 2, ord := 2, space := 0, base := 6, d := 5 }),
    (32, 0x8060C897, .strel { off := 1, ord := 2, space := 0, base := 12, d := 17 }),
    (32, 0x80A06297, .strel { off := 2, ord := 2, space := 0, base := 6, d := 5 }),
    (32, 0x8032A28B, .bfx { n := 0, p := 25, a := 10, d := 5 }),
    (32, 0x3FC0028D, .lui { imm := 0x3FC00, d := 5 }),
    (32, 0xA100030D, .lui { imm := 0xA1000, d := 6 }),
    (32, 0x09806301, .sextw { w := 0, a := 6, d := 6 }),
    (32, 0x004C5025, .jtab { w := 0, b := 6, a := 5 }),
    (32, 0x4007B029, .mts { n := 3, a := 27 }),
    (32, 0x80020029, .trap { c := 1 }),
    (32, 0x008C502F, .tlbinv { w := 0, b := 6, a := 5 }),
    (32, 0x00CE62AF, .harvest { w := 0, b := 7, a := 6, d := 5 }),
    (32, 0x010C502F, .wbinv { w := 0, b := 6, a := 5 }),
    (32, 0x014062AF, .pfree { w := 0, a := 6, d := 5 }),
    (16, 0xFC34, .cBnz { disp := 0xFC, a := 1 }),
    (16, 0x9016, .cStw { a := 4, d := 0 })] = true := by decide +kernel

theorem test_decode_manual_units : decodesTo [
    (32, 0x000C5031, .send { w := 0, b := 6, a := 5 }),
    (32, 0x004C5031, .sendm { w := 0, b := 6, a := 5 }),
    (32, 0x00800531, .recv { w := 0, d := 10 }),
    (32, 0x00CC5031, .amsg { w := 0, b := 6, a := 5 }),
    (32, 0x010C5031, .amret { w := 0, b := 6, a := 5 }),
    (32, 0x0140B531, .mboxq { w := 0, a := 11, d := 10 }),
    (32, 0x018C5531, .loopb { w := 0, b := 6, a := 5, d := 10 }),
    (32, 0x01CC5031, .rget { w := 0, b := 6, a := 5 }),
    (32, 0x020C5031, .rput { w := 0, b := 6, a := 5 }),
    (32, 0x000E62B3, .tspawn { w := 0, b := 7, a := 6, d := 5 }),
    (32, 0x004062B3, .tstamp { w := 0, a := 6, d := 5 }),
    (32, 0x00806033, .tabort { w := 0, a := 6 }),
    (32, 0x00CE62B3, .fpush { w := 0, b := 7, a := 6, d := 5 }),
    (32, 0x01006533, .fpop { w := 0, a := 6, d := 10 }),
    (32, 0x014062B3, .fcnt { w := 0, a := 6, d := 5 }),
    (32, 0x018062B3, .dcset { w := 0, a := 6, d := 5 }),
    (32, 0x01C062B3, .dcdec { w := 0, a := 6, d := 5 }),
    (32, 0x020E62B3, .adecl { w := 0, b := 7, a := 6, d := 5 }),
    (32, 0x00149035, .gcall { w := 0, b := 10, a := 9 }),
    (32, 0x00400035, .gret { w := 0 }),
    (32, 0x00800535, .gstat { w := 0, d := 10 }),
    (32, 0x00CE62B5, .gpub { w := 0, b := 7, a := 6, d := 5 }),
    (32, 0x010062B5, .grevoke { w := 0, a := 6, d := 5 }),
    (32, 0x014E62B5, .gqry { w := 0, b := 7, a := 6, d := 5 }),
    (32, 0x000214B9, .copy { w := 0, x := 1, a := 1, d := 9 }),
    (32, 0x001214B9, .copymm { w := 0, x := 1, a := 1, d := 9 }),
    (32, 0x00265539, .bpref { w := 0, x := 3, a := 5, d := 10 }),
    (32, 0x00C062BB, .bar { w := 0, c := 3, a := 6, d := 5 }),
    (32, 0x030E62BB, .bara { w := 0, c := 4, b := 7, a := 6, d := 5 }),
    (32, 0x050A62BB, .barw { w := 0, c := 4, b := 5, a := 6, d := 5 }),
    (32, 0x074E62BB, .barph { w := 0, c := 5, b := 7, a := 6, d := 5 }),
    (32, 0x000E62BD, .ipdep { w := 0, b := 7, a := 6, d := 5 }),
    (32, 0x004E643D, .ipdraw { w := 0, b := 7, a := 6, d := 8 }),
    (32, 0x002262BF, .apxcfg { w := 0, x := 1, a := 6, d := 5 }),
    (32, 0x004062BF, .apxinv { w := 0, a := 6, d := 5 }),
    (32, 0x003062BF, .apxqry { w := 0, a := 6, d := 5 }),
    (32, 0x0002113F, .apxcall { w := 0, x := 1, a := 1, d := 2 }),
    (32, 0x0012013F, .apxret { w := 0, x := 1, d := 2 }),
    (32, 0x664411C3, .vfma { w := 3, m := 1, b := 2, a := 1, d := 3, r := 1 }),
    (32, 0xFE4207ED, .vloop { disp := 0xFE4, a := 15 }),
    (32, 0x00022071, .mma { w := 0, x := 1, a := 2, d := 0 }),
    (32, 0x00122071, .mmaz { w := 0, x := 1, a := 2, d := 0 }),
    (32, 0x002220F1, .mtcx { w := 0, x := 1, a := 2, d := 1 }),
    (32, 0x00003073, .mldt { w := 0, a := 3, d := 0 }),
    (32, 0x00103073, .mstt { w := 0, a := 3, d := 0 }),
    (32, 0x00202173, .mzt { w := 0, t := 2, d := 2 }),
    (32, 0x003200F3, .mcvt { w := 0, x := 1, a := 0, d := 1 }),
    (32, 0x004000F3, .mtrn { w := 0, a := 0, d := 1 }),
    (32, 0x005002F3, .tmov { w := 0, x := 0, a := 0, d := 5 }),
    (32, 0x00601273, .tcfg { w := 0, x := 0, a := 1, d := 4 })] = true := by decide +kernel

/-- Words that R41, R48, R53 to R56 make illegal: a reserved major, a reserved function, a nonzero should-be-zero field, a field that a
check of `Instr.wf` refuses; and bytes that end before the instruction does. -/
theorem test_decode_reserved :
    [(32, 0x00000077), (32, 0x0FC00001), (32, 0x08020001), (16, 0x0000), (32, 0x000DA001 + 22 * 4194304), (32, 0x401BB029)].all
      (fun e => decide (decodeTableWord e.1 e.2 = none)) = true := by decide +kernel

theorem test_decode_truncated : decode [0x01#8] = .error .truncated ∧ decode [0x01#8, 0#8, 0#8] = .error .truncated := by decide +kernel

/-! ## States of the tests -/

/-- Strand 0 of compute core 0 in user mode, its C-stream or its V-stream next, on a mapped page at 0x10000 whose first word is an odd
number (Place.lean). -/
def atC : State := (placed1 State.reset 32 1).focused 0 .c
def atV : State := (placed1 State.reset 32 0x41).focused 0 .v

/-- A state with its issuing strand changed. -/
def tweak (s : State) (f : Strand → Strand) : State := s.withMe (f s.me)

/-- With an s register, a k register, a v register, an m register set. -/
def setS (n : Nat) (w : Word) (s : State) : State := tweak s (fun x => x.setReg (.s n) (.word w))
def setK (n : Nat) (w : Word) (s : State) : State := tweak s (fun x => x.setReg (.k n) (.word w))
def setV (n : Nat) (v : VReg) (s : State) : State := tweak s (fun x => x.setReg (.v n) (.vec v))
def setM (n : Nat) (v : Lane) (s : State) : State := tweak s (fun x => x.setReg (.m n) (.mask v))
def setX (n : Nat) (w : Word) (s : State) : State := tweak s (fun x => x.setReg (.ox n) (.word w))

/-- In privileged mode. -/
def priv (s : State) : State := tweak s (fun x => { x with sys := { x.sys with pm := true } })

def okResult (r : Except Fail (List Effect)) : Bool := match r with | .ok _ => true | .error _ => false

theorem ok_of {r : Except Fail (List Effect)} (h : okResult r = true) : ∃ es, r = .ok es := by
  cases r with
  | ok es => exact ⟨es, rfl⟩
  | error e => cases h

/-- An access that reaches its home slice, from its checks as one Boolean. -/
theorem reaches_of {s : State} {op : MemOp} {va : Word} {acq rel : Bool}
    (h : ((op.anyAlign || va.toNat % op.bytes == 0)
      && !rangeHit s s.coreNo .g s.me.dom va.toNat (va.toNat + op.bytes) op.isLoad && !s.me.spec
      && s.sent.isNone && !acqPending s s.six && !(rel && outstanding s s.six) && okResult (performOp (s.asks op va acq rel) (Effect.fresh.apply s))) = true) :
    ∃ es, Reaches s op va acq rel es := by
  simp only [Bool.and_eq_true, Bool.or_eq_true, Bool.not_eq_true', Bool.and_eq_false_iff, beq_iff_eq, Option.isNone_iff_eq_none] at h
  obtain ⟨⟨⟨⟨⟨⟨a, b⟩, c⟩, i⟩, q⟩, d⟩, e⟩ := h
  obtain ⟨es, he⟩ := ok_of e
  exact ⟨es, a, b, c, i, q, fun hr => by rcases d with d | d; simp [hr] at d; exact d, he⟩

/-- An access that reaches its local place. -/
theorem reachesLocal_of {s : State} {sp : Space} {op : MemOp} {ea : Word} {rel : Bool} {n : Nat} (l : Loc)
    (h : decide (ea.toNat % op.bytes = 0 ∧ localLoc s s.six sp ea op.bytes = some l
      ∧ rangeHit s s.coreNo l.span.1 l.span.2.1 l.span.2.2 (l.span.2.2 + op.bytes) op.isLoad = false
      ∧ s.me.spec = false ∧ localWaits s op l = false ∧ (rel = true → outstanding s s.six = false) ∧ l.poisoned s n = false) = true) :
    ReachesLocal s sp op ea rel l ∧ l.poisoned s n = false := by
  obtain ⟨a, b, c, d, q, e, f⟩ := of_decide_eq_true h
  exact ⟨⟨a, b, c, d, q, e⟩, f⟩

/-- A page that an access finds, from its checks as one Boolean. -/
theorem onPage_of {s : State} {va : Word} {need : Need} (p : Xl → Bool)
    (h : (match Machine.translate s s.coreNo s.me.dom s.me.sys.pm va need with
      | some x => !inWindow va && decide (x.cls = .normal) && !x.pod && p x
      | none => false) = true) : ∃ x, OnNormalPage s va need x ∧ p x = true := by
  split at h
  · rename_i x hx
    simp only [Bool.and_eq_true, Bool.not_eq_true', decide_eq_true_eq] at h
    exact ⟨x, ⟨h.1.1.1, hx, h.1.1.2, h.1.2⟩, h.2⟩
  · cases h

def valueOf (r : Except Fail (Nat × List Effect)) : Option (Nat × List Effect) := match r with | .ok v => some v | .error _ => none

/-- A table load that performs with a value. -/
theorem tableLoad_of {s : State} {va : Word} {n v : Nat}
    (h : (!rangeHit s s.coreNo .g s.me.dom va.toNat (va.toNat + n) true && !s.me.spec && !acqPending s s.six
      && (valueOf (plainLoad s s.six s.me.dom s.me.sys.pm va n)).any (fun r => r.1 == v)) = true) :
    ∃ fx, TableLoad s va n v fx := by
  simp only [Bool.and_eq_true, Bool.not_eq_true'] at h
  obtain ⟨⟨⟨a, b⟩, q⟩, c⟩ := h
  cases e : plainLoad s s.six s.me.dom s.me.sys.pm va n with
  | ok r =>
    rw [e] at c
    obtain ⟨w, fx⟩ := r
    simp [valueOf] at c
    exact ⟨fx, a, b, q, by rw [e, c]⟩
  | error x => rw [e] at c; cases c

theorem atC_ready : atC.ready .c := by unfold State.ready; decide +kernel
theorem atV_ready : atV.ready .v := by unfold State.ready; decide +kernel

theorem storesWide {s : State} {sp : Space} {n : Nat} {ws : List (Word × Nat)}
    (h : (!s.me.spec && !acqPending s s.six
      && wordsPass s sp false n (ws.map Prod.fst)
      && !(decide (sp = .g) && (ws.map Prod.fst).any (fun a => (syncWord s a).any (fun p => syncWaits s s.six p.2.2.pa n)))
      && (storeAll sp n ws s).any (fun t => t.me.region.isNone)) = true) : ∃ t, Runs (wideStore sp n ws) s () t := by
  simp only [Bool.and_eq_true, Bool.not_eq_true'] at h
  obtain ⟨⟨⟨⟨a, q⟩, b⟩, c⟩, d⟩ := h
  cases e : storeAll sp n ws s with
  | none => rw [e] at d; cases d
  | some t => rw [e] at d; exact ⟨t, runs_wideStore a q b c e (by simpa using d)⟩

theorem loadsWide {s : State} {sp : Space} {n : Nat} {eas : List Word} (vs : List Nat)
    (h : (!s.me.spec && !acqPending s s.six && wordsPass s sp true n eas
      && (loadAll sp n eas s).any (fun p => p.1 == vs)) = true) :
    ∃ t, Runs (wideLoad sp n eas) s vs t := by
  simp only [Bool.and_eq_true, Bool.not_eq_true'] at h
  obtain ⟨⟨⟨a, q⟩, b⟩, c⟩ := h
  cases e : loadAll sp n eas s with
  | none => rw [e] at c; cases c
  | some p => rw [e] at c; obtain ⟨ws, t⟩ := p; simp at c; subst c; exact ⟨t, runs_wideLoad a q b e⟩

theorem readsWords {s : State} {va : Word} {n : Nat} (ws : List Word) (p : State → Bool)
    (h : (wordsAt s va n).any (fun q => q.1 == ws && p q.2) = true) : ∃ t, Runs (loadWords va n) s ws t ∧ p t = true := by
  cases e : wordsAt s va n with
  | none => rw [e] at h; cases h
  | some q => rw [e] at h; obtain ⟨us, t⟩ := q; simp at h; obtain ⟨rfl, hp⟩ := h; exact ⟨t, runs_loadWords e, hp⟩

/-! ## Single instructions: values from the manual's rules and worked examples -/

/-- What an s register, a v register of the issuing strand reads once every fixed latency has passed. -/
def sAfter (o : Out) (n : Nat) : Option Word := match o with | .next t => some (((t.me.after 20).landSt .c).readS n) | _ => none
def vAfter (o : Out) (n : Nat) : Option VReg := match o with | .next t => some (((t.me.after 20).landSt .v).readV n) | _ => none

/-- R86: a division by zero gives all ones, and the most negative number divided by −1 itself; R85: the high half of (−1)(−1) is 0. -/
theorem test_div_zero : sAfter (exec (.div { w := 0, b := 2, a := 1, d := 3 }) (setS 1 5 atC)) 3 = some (BitVec.allOnes 64) := by decide +kernel
theorem test_div_least : sAfter (exec (.div { w := 0, b := 2, a := 1, d := 3 }) (setS 1 (BitVec.intMin 64) (setS 2 (-1) atC))) 3
    = some (BitVec.intMin 64) := by decide +kernel
theorem test_rem_sign : sAfter (exec (.rem { w := 0, b := 2, a := 1, d := 3 }) (setS 1 (-7) (setS 2 2 atC))) 3 = some (-1) := by decide +kernel
theorem test_mulh_minus : sAfter (exec (.mulh { w := 0, b := 2, a := 1, d := 3 }) (setS 1 (-1) (setS 2 (-1) atC))) 3 = some 0 := by decide +kernel
theorem test_s0_discards : sAfter (exec (.addi { imm := 5, a := 1, d := 0 }) atC) 0 = some 0 := by decide +kernel
/-- R93: the loaded byte is sign-extended by LDB and zero-extended by LDBN. -/
theorem test_ldb_sign : sAfter (exec (.ldb { off := 0, space := 0, base := 2, d := 3 })
    ((Effect.mem placePa 8 0xFF80).apply (setS 2 0x10000 atC))) 3 = some (-128) := by decide +kernel
theorem test_ldbn_zero : sAfter (exec (.ldbn { off := 1, space := 0, base := 2, d := 3 })
    ((Effect.mem placePa 8 0xFF80).apply (setS 2 0x10000 atC))) 3 = some 0xFF := by decide +kernel
/-- R66, R76 and the example of chapter 6: 0, 0.5, 1, 1.5 pack to lanes 0x7640_7640 and the scale byte 0x7D. -/
def quarters : VReg :=
  vreg (packLanes ((List.range 32).map (fun i => [0, 0x3F000000, 0x3F800000, 0x3FC00000].getD (i % 4) 0))) 0 2
theorem test_vpack_example : (vAfter (exec (.vpack { w := 0, nan := 0, r := 0, t := 19, a := 1, d := 2 }) (setV 1 quarters atV)) 2).map
    (fun v => (laneOf v.data.toNat 0, laneOf v.data.toNat 3, v.side, v.t)) = some (0x76407640, 0x76407640, 0x7D, 19) := by decide +kernel
/-- The example of R72: under stochastic rounding from seed 0, 1.25 becomes the E2M1 value 1.0 in lane 0 and 1.5 in lane 1. -/
theorem test_vcvt_stochastic : (vAfter (exec (.vcvt { w := 0, nan := 0, r := 5, m := 0, t := 9, a := 1, d := 2 })
    (setV 1 (vreg (packLanes (List.replicate 32 0x3FA00000)) 0 2) atV)) 2).map
    (fun v => (laneOf v.data.toNat 0 % 16, laneOf v.data.toNat 1 % 16)) = some (2, 3) := by decide +kernel
/-- R70: the generators of lanes 0 and 1 at dispatch, from the same example. -/
theorem test_generators_dispatch : (genSeeds 0).take 2 = [0x9E3779B9, 0x3C6EF372] := by decide +kernel

/-! ## Witnesses: each hypothesis of a statement is met by some state and operands -/

theorem witness_IntegerResult : atC.ready .c ∧ (1 : Word) ≠ 0 := ⟨atC_ready, by decide⟩
theorem witness_DivisionRules : atC.ready .c ∧ ((1 : Word) ≠ 0 ∧ ¬((BitVec.intMin 64 : Word) = BitVec.intMin 64 ∧ (1 : Word) = -1)) :=
  ⟨atC_ready, by decide +kernel⟩
theorem witness_ImmediateResult : atC.ready .c := atC_ready
theorem witness_TransferResult_branch : atC.ready .c ∧ atC.pc.getLsbD 0 = false := ⟨atC_ready, by decide +kernel⟩
theorem witness_TransferResult_even : (setS 29 0x10002 atC).ready .c ∧ ((setS 29 0x10002 atC).sreg 29).getLsbD 0 = false :=
  by unfold State.ready; decide +kernel
theorem witness_TransferResult_odd : (setS 1 0x10001 atC).ready .c ∧ ((setS 1 0x10001 atC).sreg 1).getLsbD 0 = true :=
  by unfold State.ready; decide +kernel
/-- JTAB at a table whose count is 1, with index 1 and with index 0. -/
theorem witness_TransferResult_table : (setS 1 1 (setS 2 0x10000 atC)).ready .c
    ∧ ((setS 1 1 (setS 2 0x10000 atC)).sreg 2).toNat % 4 = 0
    ∧ (∃ fx, TableLoad (setS 1 1 (setS 2 0x10000 atC)).landed ((setS 1 1 (setS 2 0x10000 atC)).sreg 2) 4 1 fx)
    ∧ 1 ≤ ((setS 1 1 (setS 2 0x10000 atC)).sreg 1).toNat :=
  ⟨by unfold State.ready; decide +kernel, by decide +kernel, tableLoad_of (by decide +kernel), by decide +kernel⟩
def atTable : State := setS 1 0 (setS 2 0x10000 atC)
def atTableFx : List Effect :=
  ((valueOf (plainLoad atTable.landed atTable.landed.six atTable.landed.me.dom atTable.landed.me.sys.pm (atTable.sreg 2) 4)).getD (0, [])).2
theorem witness_TransferResult_entry : TableLoad atTable.landed (atTable.sreg 2) 4 1 atTableFx
    ∧ (atTable.sreg 1).toNat < 1
    ∧ (∃ gx, TableLoad (applyAll atTableFx atTable.landed) (atTable.sreg 2 + 4 + 4 * atTable.sreg 1) 4 0 gx)
    ∧ (atTable.sreg 2 + (BitVec.ofNat 32 0).signExtend 64).getLsbD 0 = false :=
  ⟨⟨by decide +kernel, by decide +kernel, by decide +kernel, by decide +kernel⟩, by decide +kernel, tableLoad_of (by decide +kernel), by decide +kernel⟩

theorem witness_TransferResult_short : (setS 29 0x10001 atC).ready .c ∧ ((setS 29 0x10001 atC).sreg 29).getLsbD 0 = true := by
  unfold State.ready; decide +kernel
/-- JTAB at an address that is no multiple of 4, at an unmapped page, at the last word of the mapped page with a count of 1, and with an odd
entry. -/
def atLastWord : State := setS 1 0 (setS 2 0x1FFFC ((Effect.mem (placePa + 0xFFFC) 4 1).apply atC))
def atOddEntry : State := (Effect.mem (placePa + 4) 4 1).apply atTable
theorem tableFault_of {s : State} {va : Word} {n : Nat}
    (h : (!rangeHit s s.coreNo .g s.me.dom va.toNat (va.toNat + n) true && !s.me.spec && !acqPending s s.six
      && (match plainLoad s s.six s.me.dom s.me.sys.pm va n with | .error .page => true | _ => false)) = true) : TableFault s va n := by
  simp only [Bool.and_eq_true, Bool.not_eq_true'] at h
  obtain ⟨⟨⟨a, b⟩, c⟩, d⟩ := h
  refine ⟨a, b, c, ?_⟩
  split at d
  · assumption
  · cases d
theorem witness_TransferResult_faults : ((setS 2 0x10002 atC).sreg 2).toNat % 4 ≠ 0 ∧ ((setS 2 0x50000 atC).sreg 2).toNat % 4 = 0
    ∧ TableFault (setS 2 0x50000 atC).landed ((setS 2 0x50000 atC).sreg 2) 4
    ∧ (atLastWord.sreg 2).toNat % 4 = 0 ∧ (atLastWord.sreg 1).toNat < 1
    ∧ ∃ fx, TableLoad atLastWord.landed (atLastWord.sreg 2) 4 1 fx
      ∧ TableFault (applyAll fx atLastWord.landed) (atLastWord.sreg 2 + 4 + 4 * atLastWord.sreg 1) 4 := by
  refine ⟨by decide +kernel, by decide +kernel, tableFault_of (by decide +kernel), by decide +kernel, by decide +kernel, _,
    ⟨by decide +kernel, by decide +kernel, by decide +kernel, rfl⟩, tableFault_of (by decide +kernel)⟩
theorem witness_TransferResult_oddEntry : ∃ fx, TableLoad atOddEntry.landed (atOddEntry.sreg 2) 4 1 fx
    ∧ (∃ gx, TableLoad (applyAll fx atOddEntry.landed) (atOddEntry.sreg 2 + 4 + 4 * atOddEntry.sreg 1) 4 1 gx)
    ∧ (atOddEntry.sreg 2 + (BitVec.ofNat 32 1).signExtend 64).getLsbD 0 = true :=
  ⟨_, ⟨by decide +kernel, by decide +kernel, by decide +kernel, rfl⟩, tableLoad_of (by decide +kernel), by decide +kernel⟩

/-- s2 names the mapped page. -/
def atPage : State := setS 2 0x10000 atC
theorem witness_GlobalAccess_load :
    ∃ es, Reaches atPage.landed (.load 1 8 false) (effAddr (atPage.sreg 2) 1#10 8) false false es := reaches_of (by decide +kernel)
theorem witness_GlobalAccess_store :
    ∃ es, Reaches atPage.landed (.store 4 7) (effAddr (atPage.sreg 2) 2#10 4) false false es := reaches_of (by decide +kernel)
theorem witness_GlobalAccess_acquire :
    ∃ es, Reaches atPage.landed (.load 1 (2 ^ 2) false) (effAddr (atPage.sreg 2) 0#9 (2 ^ 2)) true false es :=
  reaches_of (by decide +kernel)
theorem witness_GlobalAccess_release :
    ∃ es, Reaches atPage.landed (.store (2 ^ 0) 7) (effAddr (atPage.sreg 2) 0#9 (2 ^ 0)) false true es := reaches_of (by decide +kernel)
theorem witness_GlobalAccess_short : ∃ es, Reaches atPage.landed (.load 1 4 true) (atPage.sreg 2) false false es :=
  reaches_of (by decide +kernel)

/-- The first and the last word of P, of C in a group of one core, and of D in a block of tenant 0. -/
def atBlock : State := (Effect.die 0 { atC.die 0 with blocks := [(0, { assigned := true, tenant := 0, change := none })] }).apply atC
theorem witness_LocalAccess_p : ReachesLocal atC.landed .p (.load 1 8 false) (2 ^ 19 - 8) false (.p 0 (2 ^ 19 - 8))
    ∧ (Loc.p 0 (2 ^ 19 - 8)).poisoned atC.landed 8 = false := reachesLocal_of _ (by decide +kernel)
theorem witness_LocalAccess_c : ReachesLocal atC.landed .c (.store 4 1) 16 true (.p 0 16)
    ∧ (Loc.p 0 16).poisoned atC.landed 4 = false := reachesLocal_of _ (by decide +kernel)
theorem witness_LocalAccess_d : ReachesLocal atBlock.landed .d (.load 1 4 true) 0 false (.d 0 0)
    ∧ (Loc.d 0 0).poisoned atBlock.landed 4 = false := reachesLocal_of _ (by decide +kernel)

/-- The mapped page as an APPEND page of class 2 (R245, R246), with a tail of 6. -/
def atAppend : State :=
  (Effect.frame 2 { st := .append, owner := 1, tail := 6 }).apply
    ((Effect.mem (placeRoot + 0x3008) 8 (placePa + 0x3F + 2 ^ 59)).apply atPage)
def atSealed : State := (Effect.frame 2 { st := .sealed, owner := 1, tail := 6 }).apply atAppend

theorem witness_GlobalAtomic_atomic : ∃ es,
    Reaches atPage.landed (.atomic 1 (atPage.atomicArgs 9 { w := 0, sp := 0, z := 1, b := 3, a := 2, d := 1, q := 3 })) (atPage.sreg 2)
      true true es := reaches_of (by decide +kernel)
theorem witness_GlobalAtomic_pair : ∃ es,
    Reaches atPage.landed (.atomic 4 ⟨13, 16, 1, 2, 3, 4⟩) (atPage.sreg 2) false false es := reaches_of (by decide +kernel)
theorem witness_GlobalAtomic_reserve : ∃ es, Reaches atPage.landed (.lr 1 8) (atPage.sreg 2) true false es :=
  reaches_of (by decide +kernel)
theorem witness_GlobalAtomic_conditional : ∃ es, Reaches atPage.landed (.sc 1 4 9) (atPage.sreg 2) false true es :=
  reaches_of (by decide +kernel)
theorem witness_GlobalAtomic_append : (∃ es, Reaches atAppend.landed (.appnd 1 8 9) (atAppend.sreg 2) false false es)
    ∧ (∃ es, Reaches atAppend.landed (.tailq 1) (atAppend.sreg 2) false false es)
    ∧ ∃ es, Reaches atAppend.landed (.seal 1) (atAppend.sreg 2) false true es :=
  ⟨reaches_of (by decide +kernel), reaches_of (by decide +kernel), reaches_of (by decide +kernel)⟩

/-- Atomics at the last word of P, in C with its release and in D, and an ACAS2 of P. -/
theorem reachesAtomic_of {s : State} {sp : Space} {d : Nat} {a : AtomicArgs} {ea : Word} {rel : Bool} (l : Loc)
    (h : ReachesLocal s sp (.atomic d a) ea rel l ∧ l.poisoned s a.size = false)
    (hr : (match l with | .p core _ => !portFull (s.core core) | .d .. => true) = true) : ReachesAtomic s sp d a ea rel l :=
  ⟨h.1, fun _ _ _ => h.2, fun core off e => by subst e; simpa using hr⟩
theorem witness_GlobalAtomic_p : ReachesAtomic atC.landed .p 1 ⟨0, 4, 3, 0, 0, 0⟩ (2 ^ 19 - 4) false (.p 0 (2 ^ 19 - 4)) :=
  reachesAtomic_of _ (reachesLocal_of _ (by decide +kernel)) (by decide +kernel)
theorem witness_GlobalAtomic_c : ReachesAtomic atC.landed .c 0 ⟨9, 8, 3, 1, 0, 0⟩ 16 true (.p 0 16) :=
  reachesAtomic_of _ (reachesLocal_of _ (by decide +kernel)) (by decide +kernel)
theorem witness_GlobalAtomic_d : ReachesAtomic atBlock.landed .d 1 ⟨8, 4, 3, 0, 0, 0⟩ (2 ^ 20 - 4) false (.d 0 (2 ^ 20 - 4)) :=
  reachesAtomic_of _ (reachesLocal_of _ (by decide +kernel)) (by decide +kernel)
theorem witness_GlobalAtomic_localPair : ReachesAtomic atC.landed .p 4 ⟨13, 16, 1, 2, 3, 4⟩ 32 false (.p 0 32) :=
  reachesAtomic_of _ (reachesLocal_of _ (by decide +kernel)) (by decide +kernel)

theorem witness_OrderingResult : atC.ready .c ∧ outstanding atC.landed atC.six = false ∧ atC.me.spec = false ∧ atC.pkg.fab.en = false :=
  ⟨atC_ready, by decide +kernel, by decide +kernel, by decide +kernel⟩
theorem witness_OrderingResult_persist :
    ∃ es, performOp (atPage.landed.asks (.persist 1 64) (atPage.sreg 2) false true) (Effect.fresh.apply atPage.landed) = .ok es :=
  ok_of (by decide +kernel)
/-- A package with time windows whose window is 0, and a strand that has touched no other package. -/
def atPod : State := setFabOf atC
where setFabOf (s : State) : State := (Effect.pkg { s.pkg with fab := { s.pkg.fab with en := true } }).apply s
theorem witness_OrderingResult_windows : atPod.ready .c ∧ atPod.pkg.fab.en = true ∧ atPod.me.podWin = none
    ∧ outstanding atPod.landed atPod.six = false := by unfold State.ready; decide +kernel

/-- That nothing stands between the strand's access and its performing, as one Boolean. -/
def clears (s : State) (reads : Bool) (va : Word) (x : Xl) (n : Nat) : Bool :=
  (memCheck s reads x.pa n).isNone && !behindHeld (Effect.fresh.apply s) s.nextId s.me.dom va n
theorem clearFor_of {s : State} {reads : Bool} {va : Word} {x : Xl} {n : Nat} (h : clears s reads va x n = true) :
    s.clearFor reads va x n := by
  simpa [clears, State.clearFor, Option.isNone_iff_eq_none] using h
theorem witness_NormalLoad : ∃ x, OnNormalPage atPage 0x10008 .r x
    ∧ (clears atPage true 0x10008 x 8 && !atPage.me.spec
      && decide (tblGet .empty atPage.l1 (l1Key atPage.coreNo atPage.me.dom 0x10008) = .empty)) = true :=
  onPage_of _ (by decide +kernel)
theorem witness_NormalStore : ∃ x, OnNormalPage atPage 0x1FFF8 .w x
    ∧ (clears atPage false 0x1FFF8 x 8 && !atPage.me.spec && decide (readersOf atPage (wordsOf x.pa 8) = [])) = true := onPage_of _ (by decide +kernel)
theorem witness_NormalAtomic : ∃ x, OnNormalPage atPage 0x10000 .rw x
    ∧ (!atPage.me.spec && clears atPage true 0x10000 x 8 && decide (readersOf atPage (wordsOf x.pa 8) = [])) = true :=
  onPage_of _ (by decide +kernel)
/-- The reservation that SC needs, one cycle before it expires; the same at another directory agent; and none. -/
def atReserved : State :=
  (Effect.cycle 4095).apply (tweak atPage (fun x => { x with res := some (0x20000 / 64, 0), resAt := agentOf 0 0x10000 }))
def atMoved : State := tweak atReserved (fun x => { x with resAt := agentOf 0 0x10000 + 1 })
def scPage (s : State) : Prop := ∃ x, OnNormalPage s 0x10000 (MemOp.sc 1 8 7).need x
  ∧ (clears s false 0x10000 x 8 && decide (x.pa / 64 = 0x20000 / 64) && decide (readersOf s (wordsOf x.pa 8) = [])) = true
theorem witness_Reservation_take : ∃ x, OnNormalPage atPage 0x10000 (MemOp.lr 1 8).need x ∧ clears atPage true 0x10000 x 8 = true :=
  onPage_of _ (by decide +kernel)
theorem witness_Reservation_held : scPage atReserved ∧ atReserved.me.res = some (0x20000 / 64, 0) ∧ atReserved.cycle < 0 + 4096
    ∧ atReserved.me.resAt = agentOf atReserved.coreNo ((0x10000 : Word).toNat % 2 ^ 48) :=
  ⟨onPage_of _ (by decide +kernel), by decide +kernel, by decide +kernel, by decide +kernel⟩
theorem witness_Reservation_moved : scPage atMoved
    ∧ atMoved.me.resAt ≠ agentOf atMoved.coreNo ((0x10000 : Word).toNat % 2 ^ 48) :=
  ⟨onPage_of _ (by decide +kernel), by decide +kernel⟩
theorem witness_Reservation_none : scPage atPage ∧ atPage.me.res = none :=
  ⟨onPage_of _ (by decide +kernel), by decide +kernel⟩

/-- A translation with its class, its package and a further condition. -/
def finds (s : State) (va : Word) (need : Need) (p : Xl → Bool) : Bool :=
  !inWindow va && !behindHeld (Effect.fresh.apply s) s.nextId s.me.dom va 16
    && (Machine.translate s s.coreNo s.me.dom s.me.sys.pm va need).any (fun x => !x.pod && p x)
theorem witness_PageClasses_sealed : finds atSealed 0x10000 .w (fun x => x.cls == .sealed) = true := by decide +kernel
theorem witness_PageClasses_offTail : finds atAppend 0x10000 .w (fun x => x.cls == .append && frameIndex atAppend.cfg x.pa == some 2
    && x.pa % 65536 != (atAppend.frame 2).tail) = true := by decide +kernel
theorem witness_PageClasses_elsewhere : finds atPage 0x10000 .w (fun x => x.cls == .normal) = true
    ∧ finds atPage 0x10000 .r (fun x => x.cls == .normal) = true := by decide +kernel
theorem witness_PageClasses_append : finds atAppend 0x10000 (MemOp.appnd 1 8 9).need (fun x => x.cls == .append && (memCheck atAppend false x.pa 8).isNone
      && frameIndex atAppend.cfg x.pa == some 2 && readersOf atAppend (wordsOf (x.pa / 65536 * 65536 + 6) (8 + 8 - 6)) == []) = true
    ∧ (atAppend.frame 2).tail = 6 ∧ atAppend.me.spec = false := by decide +kernel
theorem witness_PageClasses_full : finds ((Effect.frame 2 { st := .append, owner := 1, tail := 65536 }).apply atAppend) 0x10000
    (MemOp.appnd 1 1 9).need (fun x => x.cls == .append && (memCheck atAppend false x.pa 1).isNone) = true := by decide +kernel

theorem witness_PageClasses_marks : finds atAppend 0x10000 (MemOp.tailq 1).need (fun x => x.cls == .append) = true
    ∧ finds atSealed 0x10000 (MemOp.tailq 1).need (fun x => x.cls == .sealed) = true
    ∧ finds atAppend 0x10000 (MemOp.seal 1).need (fun x => x.cls == .append) = true := by decide +kernel

theorem witness_MisalignedAccess : atPage.ready .c ∧ atPage.landed.sent = none ∧ (effAddr (atPage.sreg 2 + 1) 3#10 8).toNat % 8 ≠ 0 := by
  unfold State.ready; decide +kernel

theorem witness_WrongStream : Instr.only (.vli { w := 0, imm := 1, d := 2 }) = some .v ∧ atC.stream = other .v
    ∧ Instr.only (.add { w := 0, b := 1, a := 2, d := 3 }) = some .c ∧ atV.stream = other .c
    ∧ Instr.only (.mzt { w := 0, t := 2, d := 0 }) = some .v ∧ isCompute atC.coreNo = true := by decide +kernel
/-- The C-stream of slot 0 of the first principal core, in privileged mode. -/
def atPrincipal : State := ((Effect.strand 8192 { Strand.boot with gid := some 0 }).apply atC).focused 8192 .c
theorem witness_PrivilegeRule : Instr.privileged (.wfi { w := 0 }) = true ∧ atC.stream = .c ∧ atC.me.sys.pm = false := by
  decide +kernel
theorem witness_StopRule_await : (tweak atC (fun x => { x with await := [(.s 3, 9)] })).stream = .c
    ∧ ((RegId.s 3, 9) ∈ (tweak atC (fun x => { x with await := [(.s 3, 9)] })).me.await) := by decide +kernel
def atPending : State := tweak atC (fun x => { x with
  sys := { x.sys with chk := true }, c := { x.c with pend := [⟨.s 3, .word 6, 1, 0x10000⟩] } })
theorem witness_StopRule_check : atPending.stream = .c ∧ atPending.me.await = [] ∧ atPending.me.sys.chk = true
    ∧ atPending.landed.me.c.pend = [⟨.s 3, .word 6, 1, 0x10000⟩] := by decide +kernel
/-- Forms of every list with a register that awaits a result or has a pending write. -/
def vAwait (r : RegId) : State := tweak atV (fun x => { x with await := [(r, 9)] })
def vPending : State := tweak atV (fun x => { x with
  sys := { x.sys with chk := true }, v := { x.v with pend := [⟨.v 3, .vec (vreg 0 0 2), 1, 0x10000⟩] } })
theorem witness_StopRule_forms :
    NamesC (.addi { imm := 1, a := 2, d := 3 }) [.s 3, .s 2] ∧ NamesC (.cAdd { a := 2, d := 3 }) [.s 3, .s 2]
    ∧ NamesC (.ldd { space := 0, off := 0, base := 2, d := 3 }) [.s 3, .s 2]
    ∧ NamesC (.aadd { w := 0, sp := 0, z := 0, b := 4, a := 2, d := 3, q := 0 }) [.s 3, .s 2, .s 4]
    ∧ NamesC (.clz { w := 0, a := 2, d := 3 }) [.s 3, .s 2] := by
  refine ⟨.inr (.inr (.inl ⟨(_, _), List.mem_cons_self, _, rfl, rfl⟩)), ?_, ?_, ?_, .inr (.inl ⟨(_, _), List.mem_cons_self, _, rfl, rfl⟩)⟩
  · exact .inr (.inr (.inr (.inr (.inr (.inr (.inl ⟨(_, _), List.mem_cons_self, _, rfl, rfl⟩))))))
  · exact .inr (.inr (.inr (.inr (.inr (.inr (.inr (.inr (.inl
      ⟨(_, _), .tail _ (.tail _ (.tail _ List.mem_cons_self)), _, by decide, rfl, rfl⟩))))))))
  · exact .inr (.inr (.inr (.inr (.inr (.inr (.inr (.inr (.inr (.inr (.inr (.inr
      ⟨(_, _), List.mem_cons_self, _, rfl, rfl⟩)))))))))))
theorem witness_StopRule_vector : NamesV (.viadd { w := 0, m := 1, b := 5, a := 4, d := 3 }) [.v 3, .v 4, .v 5, .m 1]
    ∧ (vAwait (.v 3)).stream = .v ∧ (RegId.v 3, 9) ∈ (vAwait (.v 3)).me.await
    ∧ vPending.stream = .v ∧ vPending.me.await = [] ∧ vPending.me.sys.chk = true
    ∧ vPending.landed.me.v.pend = [⟨.v 3, .vec (vreg 0 0 2), 1, 0x10000⟩] := by
  refine ⟨.inr (.inl ⟨.viadd, by simp [vecOps3], _, rfl, rfl⟩), ?_⟩
  decide +kernel
theorem witness_StopRule_other : (atC.me.waitOf .v).first = false
    ∧ ((tweak atC (fun x => { x with v := { x.v with wait := .drain } })).me.waitOf .v).first = true := by decide +kernel
theorem witness_TrapEntry : parks (coreOf 0) { cause := 4, sub := 0, addr := 3, strm := .c } = false ∧ (atC.strand 0).bell = none
    ∧ (atC.strand 0).dom < 4096 := by decide +kernel
theorem witness_PageFaultPark : isCompute (coreOf 0) = true ∧ (atC.strand 0).bell = none ∧ (atC.strand 0).dom < 4096
    ∧ undrained ((Effect.strand 0 ((atC.strand 0).park ⟨5, 0, 0x10000, .c⟩)).apply atC) 0 = false := by decide +kernel
/-- A strand with a load of a PCIe window on its way (R33, R185). -/
def atAway : State := (Effect.pkg { atC.pkg with loads := [⟨3, 0, 0, 4, false, 0, 0, false⟩] }).apply atC
theorem witness_PageFaultPark_later :
    undrained ((Effect.strand 0 ((atAway.strand 0).park ⟨5, 0, 0x10000, .c⟩)).apply atAway) 0 = true := by decide +kernel
theorem witness_SystemRegisters : (priv atC).ready .c ∧ (priv atC).me.sys.pm = true ∧ atC.ready .c ∧ atC.me.sys.pm = false
    ∧ sysNoRead 3 = true ∧ sysNoWrite 3 = true ∧ sysNoRead 0 = false ∧ sysNoWrite 0 = false ∧ sysIllegal 0 ((setS 1 0x40 atC).xreg 1) = false
    ∧ statusPriv atC.me ((setS 1 0x40 atC).xreg 1) = false := by unfold State.ready; decide +kernel
theorem witness_SystemRegisters_vector : atV.ready .v ∧ (priv atV).ready .v ∧ (priv atV).me.sys.pm = true ∧ atV.me.sys.pm = false
    ∧ (15 : BitVec 5).toNat < 16 ∧ 16 ≤ (16 : BitVec 5).toNat ∧ sysIllegal 0 ((setK 15 0x40 atV).xreg 15) = false
    ∧ statusPriv atV.me ((setK 15 0x40 atV).xreg 15) = false := by unfold State.ready; decide +kernel
/-- Every other system register at the largest value its field map admits. -/
theorem witness_SystemRegisters_back : ∀ e ∈ [((1 : Nat), (0x0000FFF7FFFFFFFF : Word)), (2, -1), (3, -1), (4, -1), (5, -1), (6, -1), (7, 255),
    (8, 16), (9, 4), (10, 0), (11, 63), (12, 63)], 0 < e.1 ∧ e.1 ≤ 12 ∧ sysIllegal e.1 e.2 = false := by decide +kernel
theorem witness_TrapInstruction : atC.ready .c ∧ (atC.me.waitOf .v).first = false ∧ atV.ready .v ∧ (atV.me.waitOf .c).first = false := by
  unfold State.ready; decide +kernel
theorem witness_ExtensionAndTables : atC.ready .c := atC_ready
def atReturn (pc : Word) : State := tweak (priv atC) (fun x => { x with sys := { x.sys with tpc := pc } })
theorem witness_TrapReturn : (atReturn 0x10000).ready .c ∧ (atReturn 0x10000).me.sys.pm = true
    ∧ (atReturn 0x10000).me.sys.tpc.getLsbD 0 = false ∧ (atReturn 0x10001).ready .c ∧ (atReturn 0x10001).me.sys.pm = true
    ∧ (atReturn 0x10001).me.sys.tpc.getLsbD 0 = true := by unfold State.ready; decide +kernel
def atSignalled : State := (Effect.core 0 { (priv atC).core 0 with intr := [(3, 0)] }).apply (priv atC)
theorem witness_TrapReturn_wait : (priv atC).ready .c ∧ ((priv atC).core (priv atC).coreNo).intr = []
    ∧ ((priv atC).core (priv atC).coreNo).inbox = []
    ∧ (∀ k, k < 8 → ((priv atC).landed.strand (8 * (priv atC).coreNo + k)).preempt = false)
    ∧ atSignalled.ready .c ∧ atSignalled.me.sys.pm = true ∧ (atSignalled.core atSignalled.coreNo).intr ≠ [] := by
  unfold State.ready; decide +kernel

theorem witness_FiringEnd : atC.ready .c ∧ atC.me.saving = false ∧ atC.me.sys.dsdepth = 0 ∧ atC.me.sys.vrun = false
    ∧ outstanding atC.landed atC.six = false := by unfold State.ready; decide +kernel
def atSaving : State := tweak atC (fun x => { x with inTrap := true, sys := { x.sys with pm := true, tcause := 18 } })
theorem witness_FiringEnd_saving : atSaving.ready .c ∧ atSaving.me.saving = true ∧ outstanding atSaving.landed atSaving.six = false := by
  unfold State.ready; decide +kernel
theorem witness_FiringEnd_call : (tweak atC (fun x => { x with sys := { x.sys with dsdepth := 1 } })).ready .c
    ∧ (tweak atC (fun x => { x with sys := { x.sys with dsdepth := 1 } })).me.saving = false
    ∧ (tweak atC (fun x => { x with sys := { x.sys with dsdepth := 1 } })).me.sys.dsdepth ≠ 0 := by unfold State.ready; decide +kernel

/-- The V-stream runs; a token is awaited; a load is on its way, in a save routine. -/
theorem witness_FiringEnd_waits :
    (let s := tweak atC (fun x => { x with sys := { x.sys with vrun := true } })
     s.stream = .c ∧ s.me.sys.dsdepth = 0 ∧ s.me.saving = false ∧ s.me.sys.vrun = true)
    ∧ (let s := tweak atC (fun x => { x with await := [(.s 3, 9)] })
       s.stream = .c ∧ s.me.sys.dsdepth = 0 ∧ s.me.await ≠ [])
    ∧ (let s := tweak atAway (fun x => { x with inTrap := true, sys := { x.sys with pm := true, tcause := 18 } })
       s.stream = .c ∧ s.me.saving = true ∧ outstanding s.landed s.six = true) := by decide +kernel

theorem witness_YieldAlign : atC.ready .c ∧ alignMet atC.landed atC.six = true := by unfold State.ready; decide +kernel
/-- A strand of the same group in the same slot of the next core of the quad, which is not at the ALIGN, and its core 300 cycles old. -/
def atUnaligned (w : Wait) : State :=
  (Effect.strand 8 (atC.strand 0)).apply ((Effect.core 0 { atC.core 0 with cycle := 300 }).apply
    (tweak atC (fun x => { x with c := { x.c with wait := w } })))
def waitsAlign (s : State) : Prop := s.ready .c ∧ alignMet s.landed s.six = false
theorem witness_YieldAlign_wait : waitsAlign (atUnaligned .none) ∧ (∀ t w, (atUnaligned .none).landed.me.c.wait ≠ .align t w)
    ∧ (atUnaligned .none).landed.me.c.pc ∉ (atUnaligned .none).landed.me.aligned := by
  have h : (atUnaligned .none).landed.me.c.wait = .none := by decide +kernel
  refine ⟨by unfold waitsAlign State.ready; decide +kernel, ?_, by decide +kernel⟩
  rw [h]; intro t w e; cases e
theorem witness_YieldAlign_timeout : waitsAlign (atUnaligned (.align 44 3))
    ∧ (atUnaligned (.align 44 3)).landed.me.c.wait = .align 44 3
    ∧ 44 + 256 ≤ ((atUnaligned (.align 44 3)).core (atUnaligned (.align 44 3)).coreNo).cycle := by
  unfold waitsAlign State.ready; decide +kernel
def atEntered : State := tweak (atUnaligned .none) (fun x => { x with aligned := [x.c.pc] })
theorem witness_YieldAlign_entered : waitsAlign atEntered ∧ atEntered.landed.me.c.pc ∈ atEntered.landed.me.aligned := by
  unfold waitsAlign State.ready; decide +kernel

theorem witness_PrivilegedResult_none : (priv atC).ready .c ∧ (priv atC).me.sys.pm = true ∧ isPrincipal (priv atC).coreNo = false
    ∧ migTarget (priv atC).landed 0 = none := by unfold State.ready; decide +kernel
/-- A strand parked on compute core 0, queued at the principal core of its cluster, and the page mapped for the principal core. -/
def atMigration : State :=
  (Effect.dom 0 { (atPrincipal.dom 0) with st := .live, root := placeRoot }).apply
    ((Effect.cluster 0 { atPrincipal.cluster 0 with migq := [0] }).apply
      ((Effect.strand 0 { atPrincipal.strand 0 with st := .parked, parks := 1 }).apply (setS 2 0x10000 atPrincipal)))
theorem witness_PrivilegedResult_migr : atMigration.ready .c ∧ atMigration.me.sys.pm = true ∧ isPrincipal atMigration.coreNo = true
    ∧ (atMigration.cluster (clusterOf atMigration.coreNo)).migq = 0 :: [] ∧ (atMigration.sreg 2).toNat % 8 = 0
    ∧ ∃ t, Runs (wideStore .g 8 ((wordAddrs (atMigration.sreg 2) 8 64).zip (saveArea atMigration.landed 0))) atMigration.landed () t :=
  ⟨by unfold State.ready; decide +kernel, by decide +kernel, by decide +kernel, by decide +kernel, by decide +kernel,
    storesWide (by decide +kernel)⟩
def atTaken : State := setS 1 (migHandle 0 (atMigration.strand 0)) ((Effect.cluster 0 { atMigration.cluster 0 with migq := [] }).apply atMigration)
theorem witness_PrivilegedResult_migret : migTarget atTaken.landed (atTaken.sreg 1) = some 0 ∧ (atTaken.sreg 2).toNat % 8 = 0
    ∧ ∃ t, Runs (wideLoad .g 8 (wordAddrs (atTaken.sreg 2) 8 64)) atTaken.landed (1 :: List.replicate 63 0) t :=
  ⟨by decide +kernel, by decide +kernel, loadsWide _ (by decide +kernel)⟩
theorem witness_PrivilegedResult_tables : (priv atPage).ready .c ∧ (priv atPage).me.sys.pm = true
    ∧ tlbBusy (priv atPage).landed (tlbKeys (priv atPage).landed 0 0) = false
    ∧ ((priv atPage).sreg 1).toNat % 2 ^ 21 = 0 ∧ regionCheck (priv atPage).landed 0 ((priv atPage).sreg 1) = none ∧ ((priv atPage).sreg 2).toNat % 2 ^ 21 ≠ 0 := by unfold State.ready; decide +kernel
/-- The same domain with its root table poisoned, where HARVEST finds no leaves to read. -/
def atPoisonRoot : State := setS 1 1 ((Effect.poison (poisonMem + placeRoot / 4) true).apply (priv atPage))
theorem witness_PrivilegedResult_poison : atPoisonRoot.ready .c ∧ atPoisonRoot.me.sys.pm = true ∧ (atPoisonRoot.sreg 5).toNat % 2 ^ 21 = 0
    ∧ (regionCheck atPoisonRoot.landed ((atPoisonRoot.sreg 1).toNat % 4096) (atPoisonRoot.sreg 5)).isSome = true := by
  unfold State.ready; decide +kernel
theorem witness_PrivilegedResult_wbinv :
    ∃ xs, rangePages (priv atPage).landed (priv atPage).six (priv atPage).me.dom (priv atPage).me.sys.dsdepth true .r 0x10000 64 = .ok xs := by
  have h : (match rangePages (priv atPage).landed (priv atPage).six (priv atPage).me.dom (priv atPage).me.sys.dsdepth true .r 0x10000 64 with
    | .ok _ => true | .error _ => false) = true := by decide +kernel
  split at h
  · exact ⟨_, by assumption⟩
  · cases h
/-- PFREE of frame 3, of an address inside a frame, and KILL of group 0 and of a group that is not there. -/
theorem witness_PrivilegedResult_free : (priv atC).ready .c ∧ (priv atC).me.sys.pm = true
    ∧ outstanding (priv atC).landed (priv atC).six = false ∧ (priv atC).landed.me.c.wait = .none
    ∧ frameIndex (priv atC).cfg 0x30000 = some 3 ∧ 0x30000 % 65536 = 0
    ∧ (let t := applyAll (acquire (priv atC).coreNo (priv atC).landed) (priv atC).landed
       (t.frame 3).st ≠ .scrub ∧ (applyAll (pfreeStart 3 t) t).pkg.fab.en = false ∧ frameBusy (applyAll (pfreeStart 3 t) t) 3 = false)
    ∧ 0x30001 % 65536 ≠ 0 ∧ ((priv atC).group 0).isSome = true ∧ ((priv atC).group 5).isSome = false := by
  unfold State.ready; decide +kernel

theorem witness_MessageResult_send : atC.ready .c ∧ MaySend atC.landed 0 (badDest 0) (dwReply 0) 2 0 :=
  ⟨atC_ready, by decide +kernel, by decide +kernel, by decide +kernel, by decide +kernel, by decide +kernel, by decide +kernel⟩
theorem witness_MessageResult_sendm : MaySend atC.landed 0x2000000 (badDest 0x2000000) (dwReply 0x2000000) (31 + dwLen 0x2000000) 0 :=
  ⟨by decide +kernel, by decide +kernel, by decide +kernel, by decide +kernel, by decide +kernel, by decide +kernel⟩
theorem witness_MessageResult_amsg : MaySend (setS 3 0x10000 atC).landed 0 (badDest 0 || dwReply 0 || dwFifo 0) false (3 + 1 + dwLen 0) 0
    ∧ ((setS 3 0x10000 atC).sreg 3).getLsbD 0 = false :=
  ⟨⟨by decide +kernel, by decide +kernel, by decide +kernel, by decide +kernel, by decide +kernel, by decide +kernel⟩, by decide +kernel⟩
/-- The handler slot of core 0. -/
def atHandler : State := ((Effect.strand 6 (atC.strand 0)).apply atC).focused 6 .c
theorem witness_MessageResult_amret : atHandler.ready .c ∧ slotOf atHandler.six = 6 ∧ atHandler.me.sys.vrun = false
    ∧ MaySend atHandler.landed 0 (badDest (0 ||| 0x2000000)) true (2 + dwLen 0) 0 ∧ outstanding atHandler.landed atHandler.six = false :=
  ⟨by unfold State.ready; decide +kernel, by decide +kernel, by decide +kernel,
    ⟨by decide +kernel, by decide +kernel, by decide +kernel, by decide +kernel, by decide +kernel, by decide +kernel⟩, by decide +kernel⟩
def inboxOf (n : Nat) : State :=
  (Effect.core 0 { atC.core 0 with inbox := List.replicate n { gid := 0, hdr := 0, payload := [5], entry := none } }).apply atC
/-- The handler has replied, or replies with no payload register named (R178). -/
theorem witness_MessageResult_amret_once : atHandler.me.replied = false
    ∧ (tweak atHandler (fun x => { x with replied := true })).ready .c
    ∧ (tweak atHandler (fun x => { x with replied := true })).me.replied = true
    ∧ outstanding (tweak atHandler (fun x => { x with replied := true })).landed atHandler.six = false := by
  unfold State.ready; decide +kernel
theorem witness_MessageResult_recv : (inboxOf 1).ready .c ∧ (inboxOf 1).me.spec = false
    ∧ ((inboxOf 1).core (inboxOf 1).coreNo).inbox = { gid := 0, hdr := 0, payload := [5], entry := none } :: []
    ∧ ([] : List Nat).any (openAccess (inboxOf 1).landed) = false := by
  unfold State.ready; decide +kernel
theorem witness_MessageResult_loopb : (inboxOf 47).ready .c ∧ (inboxOf 47).me.spec = false
    ∧ outstanding (inboxOf 47).landed (inboxOf 47).six = false ∧ ((inboxOf 47).core (inboxOf 47).coreNo).inbox.length < 48
    ∧ 48 ≤ ((inboxOf 48).core (inboxOf 48).coreNo).inbox.length ∧ ((inboxOf 47).sreg 1).toNat < 2 ^ 34
    ∧ ((inboxOf 47).sreg 1).toNat / 2 ^ 28 % 16 = 0 ∧ ((inboxOf 47).sreg 1).toNat / 2 ^ 10 % 2 ^ 7 = 0
    ∧ dwFifo ((inboxOf 47).sreg 1) = false ∧ 31 + dwLen ((inboxOf 47).sreg 1) ≤ 31 := by unfold State.ready; decide +kernel
/-- A transfer of one word to word 1 of the core's own scratchpad, with no target, from global memory and from a scratchpad. -/
theorem witness_TransferIssue : atC.ready .c ∧ MayTransfer atC.landed 0x10000 0x0000000400000000 :=
  ⟨atC_ready, by decide +kernel, by decide +kernel, by decide +kernel, by decide +kernel, by decide +kernel, by decide +kernel,
    by decide +kernel, by decide +kernel⟩
theorem witness_TransferIssue_remote : MayTransfer atC.landed 0x7FFFC 0x0008000400000000 :=
  ⟨by decide +kernel, by decide +kernel, by decide +kernel, by decide +kernel, by decide +kernel, by decide +kernel,
    by decide +kernel, by decide +kernel⟩
theorem witness_TaskResult_stamp : atC.ready .c ∧ atC.me.spec = false := by unfold State.ready; decide +kernel
/-- A page of zeros at 0x10000, and room for tasks and counters in tenant 0. -/
def atTasks : State :=
  (Effect.tenant 0 { atC.tenant 0 with tq := 4, dq := 4 }).apply ((Effect.mem placePa 8 0).apply (setS 2 0x10000 atC))
theorem witness_TaskResult_spawn : (atTasks.sreg 2).toNat % 64 = 0 ∧ ∃ t, Runs (loadWords (atTasks.sreg 2) 8) atTasks.landed
      (List.replicate 8 0) t ∧ (!outstanding t t.six && !badTask t.chose t.chose.six (fun i => (List.replicate 8 (0 : Word)).getD i 0)
        && (counterOf t.chose t.chose.me.gid 0).isNone && decide (t.chose.me.gid = some 0) && (taskOf t.chose t.chose.me).isNone
        && (t.chose.group 0).any (fun g => decide (slotsHeld t.chose g.tenant < (t.chose.tenant g.tenant).tq.toNat))
        && decide (slotsInUse t.chose < 65536)) = true :=
  ⟨by decide +kernel, readsWords _ _ (by decide +kernel)⟩
theorem witness_TaskResult_bad : ∃ t, Runs (loadWords ((setS 2 0x10000 atC).sreg 2) 8) (setS 2 0x10000 atC).landed
      (1 :: List.replicate 7 0) t ∧ (badTask t.chose t.chose.six (fun i => ((1 : Word) :: List.replicate 7 0).getD i 0)) = true :=
  readsWords _ _ (by decide +kernel)
def atTask : State := tweak atC (fun x => { x with spec := true, job := .task 7 })
theorem witness_TaskResult_abort : atTask.ready .c ∧ atTask.me.spec = true ∧ atTask.me.taskId = some 7 := by
  unfold State.ready; decide +kernel
/-- A counter of group 0 with two decrements to go. -/
def atCounter : State :=
  (Effect.counter 5 { gen := 1, count := 2, gid := some 0 }).apply (setS 2 (1 * 65536 + 5) (setS 1 3 atTasks))
theorem witness_TaskResult_dcset : atCounter.ready .c ∧ atCounter.me.spec = false ∧ atCounter.sreg 1 ≠ 0
    ∧ (atCounter.sreg 1).toNat < 2 ^ 32 ∧ atCounter.me.gid = some 0 ∧ atCounter.group 0 = some placeGroup
    ∧ (if (atCounter.landed.counter (atCounter.landed.choice 65536)).gid.isNone then some (atCounter.landed.choice 65536)
        else freeCounter atCounter.landed) = some 0
    ∧ countersHeld atCounter.landed placeGroup.tenant < (atCounter.landed.tenant placeGroup.tenant).dq.toNat := by
  unfold State.ready; decide +kernel
theorem witness_TaskResult_quota : ((setS 1 3 atC).landed.tenant placeGroup.tenant).dq.toNat
    ≤ countersHeld (setS 1 3 atC).landed placeGroup.tenant := by decide +kernel
theorem witness_TaskResult_dcdec : outstanding atCounter.landed atCounter.six = false
    ∧ counterOf atCounter.landed atCounter.me.gid (atCounter.sreg 2) = some 5
    ∧ counterOf atCounter.landed atCounter.me.gid (atCounter.sreg 1) = none := by decide +kernel

/-- A descriptor of an actor whose input FIFO 0 has rate 1 and capacity 2 (R303), at 0x10000. -/
def fifoWord : Word := 0x8001000200000000
def actorWords : List Word := [0x10000, 0, fifoWord] ++ List.replicate 13 0
def atDescriptor : State := setS 3 31 ((Effect.mem (placePa + 16) 8 fifoWord.toNat).apply ((Effect.mem placePa 8 0x10000).apply (setS 2 0x10000 atC)))
theorem witness_ActorInstructions_declare : atDescriptor.ready .c ∧ (atDescriptor.sreg 2).toNat % 64 = 0
    ∧ (atDescriptor.sreg 3).toNat < 32 ∧ ∃ t, Runs (loadWords (atDescriptor.sreg 2) 16) atDescriptor.landed actorWords t
      ∧ (decide (t.coreNo = atDescriptor.coreNo) && decide (t.me.gid = some 0) && (actorOf t 0 actorWords).isSome
        && decide ((tblGet none (t.core atDescriptor.coreNo).actors 31).any Actor.busy = false)) = true :=
  ⟨by unfold State.ready; decide +kernel, by decide +kernel, by decide +kernel, readsWords _ _ (by decide +kernel)⟩
theorem witness_ActorInstructions_bad : ∃ t, Runs (loadWords ((setS 2 0x10000 atC).sreg 2) 16) (setS 2 0x10000 atC).landed
    (1 :: List.replicate 15 0) t ∧ (actorOf t 0 (1 :: List.replicate 15 0)).isNone = true := readsWords _ _ (by decide +kernel)
def oneFifo (n : Nat) : Fifo := { en := true, rate := 1, cap := 2, base := 0, head := 0, count := n }
def oneActor (busy : Bool) (n : Nat) : Actor :=
  { gid := 0, dom := 1, domGen := 1, entry := 0x10000, pri := 0, ins := [oneFifo n], outs := [oneFifo n], dests := [0x4000000],
    busy := busy, fired := 0 }
def withActor (busy : Bool) (n : Nat) : State :=
  (Effect.core 0 { atC.core 0 with actors := [(3, oneActor busy n)] }).apply (setS 1 12 atC)
theorem witness_ActorInstructions_busy : (tblGet none ((withActor true 0).core 0).actors 3).any Actor.busy = true := by decide +kernel
theorem witness_ActorInstructions_fifo : (withActor false 1).ready .c ∧ (withActor false 1).me.spec = false
    ∧ outstanding (withActor false 1).landed (withActor false 1).six = false
    ∧ selected (withActor false 1).landed ((withActor false 1).sreg 1) true = some (3, 0, oneActor false 1, oneFifo 1)
    ∧ selected (withActor false 1).landed ((withActor false 1).sreg 1) false = some (3, 0, oneActor false 1, oneFifo 1)
    ∧ (oneFifo 1).count < (oneFifo 1).cap ∧ (oneFifo 1).count ≠ 0 ∧ (oneFifo 2).cap ≤ (oneFifo 2).count
    ∧ 28 + ((withActor false 1).sreg 1).toNat / 256 % 4 ≤ 31
    ∧ entryPoisoned (withActor false 1).landed (withActor false 1).coreNo (oneFifo 1) = false
    ∧ selected atC.landed (atC.sreg 1) true = none := by unfold State.ready; decide +kernel

/-- Gate 7, open, into domain 2, which is LIVE; its handle in s1. -/
def gateInto2 : GateDesc := { word0 := 2, entry := 0x10000, cleanup := 0, stkbase := 0, callers := 0, wmax := 0 }
def atGate : State :=
  (Effect.gate 7 { gen := 1, desc := some gateInto2, retired := false }).apply
    ((Effect.dom 2 { gen := 1, owner := 1, hold := 0, st := .live, root := placeRoot }).apply (setS 1 (65536 + 7) atC))
theorem witness_GateCallReturn_call : atGate.ready .c ∧ MayCall atGate.landed (atGate.sreg 1) (atGate.sreg 2) gateInto2 [] []
    ∧ (let t := applyAll (acquire atGate.coreNo atGate.landed) atGate.landed
       savedStack gateInto2 (t.withMe t.me.quiet) = .ok []) :=
  ⟨by unfold State.ready; decide +kernel,
    ⟨by decide +kernel, by decide +kernel, by decide +kernel, by decide +kernel, by decide +kernel, by decide +kernel,
      by decide +kernel, by decide +kernel⟩, by decide +kernel⟩
/-- A stale handle, of generation 2. -/
theorem witness_GateCallReturn_closed : (setS 1 (2 * 65536 + 7) atGate).ready .c ∧ atGate.landed.me.inCleanup = false
    ∧ slotOf atGate.six ≠ 6 ∧ atGate.me.sys.vrun = false
    ∧ gateCheck (setS 1 (2 * 65536 + 7) atGate).landed (setS 1 (2 * 65536 + 7) atGate).landed.me.dom
        ((setS 1 (2 * 65536 + 7) atGate).sreg 1) ≠ 0 := by unfold State.ready; decide +kernel
/-- Inside a call from domain 1 into domain 2. -/
def callFrame : Frame :=
  { callerGen := 1, calleeGen := 1, callee := 2, caller := 1, vpol := 2, kind := 0, pm := false, ret := 0x10004, window := 0,
    cleanup := 0, budget := 0, rmode := 0, flags := 0, fenable := 0, srseed := 1, handle := 65536 + 7, regs := List.replicate 23 0 }
def atCall : State := tweak atGate (fun x => { x with dom := 2, frames := [callFrame], sys := { x.sys with dsdepth := 1 } })
theorem witness_GateCallReturn_return : atCall.ready .c ∧ atCall.landed.me.inCleanup = false ∧ atCall.me.sys.dsdepth ≠ 0
    ∧ atCall.me.sys.vrun = false ∧ cmdsOf atCall.landed atCall.six atCall.landed.me.dom = false ∧ atCall.landed.me.await = []
    ∧ outstanding atCall.landed atCall.six = false
    ∧ (let t := applyAll (acquire atCall.coreNo atCall.landed) atCall.landed
       let u := t.withMe t.me.quiet
       frameRead u atCall.coreNo u.me u.me.sys.dsdepth = .ok (callFrame, [])
         ∧ vpolOut u u.six u.me.sys.dsdepth callFrame u.me = .ok (u.me, []))
    ∧ callFrame.ret.getLsbD 0 = false := by unfold State.ready; decide +kernel
/-- The same with an odd return PC in the frame. -/
def atOddReturn : State := tweak atCall (fun x => { x with frames := [{ callFrame with ret := 0x10005 }] })
theorem witness_GateCallReturn_odd : atOddReturn.ready .c ∧ atOddReturn.landed.me.inCleanup = false ∧ atOddReturn.me.sys.dsdepth ≠ 0
    ∧ atOddReturn.me.sys.vrun = false ∧ cmdsOf atOddReturn.landed atOddReturn.six atOddReturn.landed.me.dom = false
    ∧ atOddReturn.landed.me.await = [] ∧ outstanding atOddReturn.landed atOddReturn.six = false
    ∧ (let t := applyAll (acquire atOddReturn.coreNo atOddReturn.landed) atOddReturn.landed
       let u := t.withMe t.me.quiet
       frameRead u atOddReturn.coreNo u.me u.me.sys.dsdepth = .ok ({ callFrame with ret := 0x10005 }, [])) := by
  unfold State.ready; decide +kernel
theorem witness_GateCallReturn_empty : atC.ready .c ∧ atC.landed.me.inCleanup = false ∧ atC.me.sys.dsdepth = 0 := by
  unfold State.ready; decide +kernel

/-- A descriptor of a gate into domain 2 at 0x10000, gate 9 free, gate 7 open. -/
def atPublish : State := setS 3 9 (setS 2 0x10000 ((Effect.mem placePa 8 2).apply (priv atGate)))
theorem witness_GateTables_publish : atPublish.ready .c ∧ atPublish.sreg 2 ≠ 0 ∧ (atPublish.sreg 2).toNat % 64 = 0
    ∧ (atPublish.sreg 3).toNat < 65536 ∧ (∃ g, gateDescOf (2 :: List.replicate 7 0) = some g ∧ g.tdom = 2)
    ∧ ∃ t, Runs (loadWords (atPublish.sreg 2) 8) atPublish.landed (2 :: List.replicate 7 0) t
      ∧ (decide ((t.dom 2).st = .live) && t.me.sys.pm && gateFree t 9) = true :=
  ⟨by unfold State.ready; decide +kernel, by decide +kernel, by decide +kernel, by decide +kernel,
    ⟨{ gateInto2 with entry := 0 }, by decide +kernel, by decide +kernel⟩, readsWords _ _ (by decide +kernel)⟩
theorem witness_GateTables_close : (setS 4 7 atPublish).sreg 5 = 0
    ∧ ((setS 4 7 atPublish).gate (((setS 4 7 atPublish).sreg 4).toNat % 65536)).desc = some gateInto2
    ∧ (setS 4 7 atPublish).me.sys.pm = true := by decide +kernel
theorem witness_GateTables_revoke : (setS 1 2 (priv atGate)).ready .c ∧ ((setS 1 2 (priv atGate)).sreg 1).toNat % 4096 = 2
    ∧ (setS 1 2 (priv atGate)).landed.me.sys.pm = true
    ∧ allFrames (setS 1 2 (priv atGate)).landed (setS 1 2 (priv atGate)).coreNo (setS 1 2 (priv atGate)).landed.me = .ok ([], [])
    ∧ onStack (setS 1 2 (priv atGate)).landed.me [] 2 = false
    ∧ (setS 1 2 (priv atGate)).landed.me.c.wait = .none ∧ ((setS 1 2 (priv atGate)).dom 2).st = .live
    ∧ ((setS 1 2 (priv atGate)).dom 2).hold = 0 ∧ (atC.sreg 1).toNat % 4096 = 0 := by unfold State.ready; decide +kernel
theorem witness_GateTables_query : atC.sreg 1 = 0 ∧ (setS 1 1 atC).sreg 1 = 1 ∧ (setS 1 2 atCall).sreg 1 = 2
    ∧ ((setS 1 2 atCall).sreg 2).toNat < (setS 1 2 atCall).landed.me.sys.dsdepth
    ∧ frameRead (setS 1 2 atCall).landed (setS 1 2 atCall).coreNo (setS 1 2 atCall).landed.me (((setS 1 2 atCall).sreg 2).toNat + 1)
        = .ok (callFrame, [])
    ∧ 2 < ((setS 1 3 atC).sreg 1).toNat ∧ (setS 1 2 atC).landed.me.sys.dsdepth ≤ ((setS 1 2 atC).sreg 2).toNat := by decide +kernel

/-- A copy of one word from 0x10000 in G to 64 in P, its shape in ox2, no bit set in the follow-on word. -/
def atCopy : State := setX 2 0x402 (setX 1 64 (setS 1 0x10000 atC))
theorem witness_EngineIssue_copy : atCopy.ready .c ∧ atCopy.me.spec = false
    ∧ MayCopy atCopy.landed (atCopy.sreg 1) (atCopy.landed.me.readOx 1) (atCopy.landed.me.readOx 2) true :=
  ⟨by unfold State.ready; decide +kernel, by decide +kernel,
    ⟨by decide +kernel, by decide +kernel, by decide +kernel, by decide +kernel, by decide +kernel⟩⟩
theorem witness_EngineIssue_empty : MayCopy (setX 2 2 atCopy).landed 0x10000 64 ((setX 2 2 atCopy).landed.me.readOx 2)
    (decide (shLen ((setX 2 2 atCopy).landed.me.readOx 2) ≠ 0)) ∧ shLen ((setX 2 2 atCopy).landed.me.readOx 2) = 0 :=
  ⟨⟨by decide +kernel, by decide +kernel, by decide +kernel, by decide +kernel, by decide +kernel⟩, by decide +kernel⟩
theorem witness_EngineIssue_follow : badFollow (atCopy.landed.me.readOx 3) = false ∧ isCompute atCopy.coreNo = true
    ∧ shDsp (atCopy.landed.me.readOx 2) = 2 ∧ (atCopy.landed.me.readOx 1).toNat < 2 ^ 40
    ∧ scoreboardFull (atCopy.cluster (clusterOf atCopy.coreNo)) = false := by decide +kernel

/-- A bell word: channel 1, two arrivals, no reduction. -/
def bellWord : Word := 0x200000001
def atBell : State := setS 1 bellWord atC
theorem witness_BellResult_arrive : atBell.ready .c ∧ MayRing atBell.landed 3 (atBell.sreg 1) true
    ∧ MayRing atBell.landed 2 (atBell.sreg 1) false ∧ atBell.landed.me.bell = none
    ∧ countedBad (atBell.bell (bellChan atBell.landed atBell.six 3 (atBell.sreg 1))) (bwCount (atBell.sreg 1))
        (some (bwRop (atBell.sreg 1))) = false
    ∧ countedBad (atBell.bell (bellChan atBell.landed atBell.six 2 (atBell.sreg 1))) (bwCount (atBell.sreg 1)) none = false
    ∧ phasedBad (atBell.bell (bellChan atBell.landed atBell.six 6 (atBell.sreg 1))) 7 (bwCount (atBell.sreg 1)) = false
    ∧ diff32 7 (frontFor 7 (atBell.bell (bellChan atBell.landed atBell.six 6 (atBell.sreg 1)))).front < 8 :=
  ⟨by unfold State.ready; decide +kernel, ⟨by decide +kernel, by decide +kernel, by decide +kernel⟩,
    ⟨by decide +kernel, by decide +kernel, by decide +kernel⟩, by decide +kernel, by decide +kernel, by decide +kernel,
    by decide +kernel, by decide +kernel⟩
theorem witness_BellResult_waiting :
    (tweak atBell (fun x => { x with bell := some ⟨0, 0, 5⟩ })).landed.me.bell = some ⟨0, 0, 5⟩ := by decide +kernel
/-- A counted channel past its phase 9, whose reduction is kept. -/
def atTicket : State := setS 2 9 ((Effect.bell (bellChan atBell.landed atBell.six 3 bellWord)
  { Bell.fresh with kind := some false, phase := 10, done := 9, results := [(9, 77, 0)] }).apply atBell)
theorem witness_BellResult_ticket : badBell atTicket.coreNo 3 (atTicket.sreg 1) true = false ∧ atTicket.me.spec = false
    ∧ (atTicket.bell (bellChan atTicket.landed atTicket.six 3 (atTicket.sreg 1))).kind = some false
    ∧ ((atTicket.bell (bellChan atTicket.landed atTicket.six 3 (atTicket.sreg 1))).results.take 8).find?
        (fun r => r.1 == (atTicket.sreg 2).toNat % 2 ^ 32) = some (9, 77, 0)
    ∧ released atTicket.pkg.fab (isPodChan (bellChan atTicket.landed atTicket.six 3 (atTicket.sreg 1))) 0 = true
    ∧ ((atTicket.bell (bellChan atTicket.landed atTicket.six 3 (atTicket.sreg 1))).results.take 8).find?
        (fun r => r.1 == 1) = none
    ∧ diff32 1 (atTicket.bell (bellChan atTicket.landed atTicket.six 3 (atTicket.sreg 1))).done ≤ 0 := by decide +kernel
/-- A range [3, 9) to deposit, an empty one, a full pool, a pool with one range of the group's key 0. -/
def poolOf (n : Nat) : State :=
  (Effect.cluster 0 { atC.cluster 0 with pool := List.replicate n ⟨bellGroup atC.me, 0, 3, 9⟩ }).apply (setS 1 0x900000003 atC)
theorem witness_BellResult_pool : (poolOf 127).ready .c ∧ (poolOf 127).me.spec = false
    ∧ outstanding (poolOf 127).landed (poolOf 127).six = false
    ∧ ((poolOf 127).sreg 1).toNat % 2 ^ 32 < ((poolOf 127).sreg 1).toNat / 2 ^ 32
    ∧ ((poolOf 127).cluster (clusterOf (poolOf 127).coreNo)).pool.length < 128
    ∧ 128 ≤ ((poolOf 128).cluster (clusterOf (poolOf 128).coreNo)).pool.length
    ∧ ((poolOf 1).sreg 2).toNat / 2 ^ 32 ≤ ((poolOf 1).sreg 2).toNat % 2 ^ 32
    ∧ (drawPool (bellGroup atC.me) 0 4 (poolOf 1 |>.cluster 0).pool).1 = some (3, 7)
    ∧ (drawPool (bellGroup atC.me) 1 4 (poolOf 1 |>.cluster 0).pool).1 = none := by unfold State.ready; decide +kernel

def coupled (q : Coupling) (s : State) : State := tweak s (fun x => { x with q := q })
def fullQueues : Coupling := { c2v := List.replicate 15 1, v2c := List.replicate 15 2, flags := 1, bq := List.replicate 15 true }
theorem witness_CouplingResult : (coupled fullQueues atC).ready .c ∧ (coupled fullQueues atV).ready .v
    ∧ (coupled fullQueues atC).landed.me.q.c2v.length < 16 ∧ (coupled fullQueues atC).landed.me.q.bq.length < 16
    ∧ (coupled fullQueues atV).landed.me.q.v2c.length < 16 ∧ (coupled fullQueues atV).landed.me.region = none
    ∧ (coupled fullQueues atC).landed.me.q.flags.getLsbD 0 = true ∧ (coupled fullQueues atC).landed.me.waitOf (other .c) = .none
    ∧ (coupled fullQueues atC).landed.me.q.v2c = 2 :: List.replicate 14 2
    ∧ (coupled fullQueues atV).landed.me.q.c2v = 1 :: List.replicate 14 1
    ∧ (coupled fullQueues atV).landed.me.q.bq = true :: List.replicate 14 true ∧ (coupled fullQueues atV).pc.getLsbD 0 = false
    ∧ matrixBusy atV.landed atV.six = false ∧ atC.me.sys.vrun = false := by unfold State.ready; decide +kernel
/-- The last field that names a scalar of the V-stream, and the first that names none. -/
theorem witness_CouplingResult_field : (coupled fullQueues atV).ready .v ∧ (15 : BitVec 5).toNat < 16 ∧ 16 ≤ (16 : BitVec 5).toNat := by
  unfold State.ready; decide +kernel

/-- Region slot 4 of cluster 0, configured by domain 1, in a mode. -/
def slot4 (mode : BitVec 2) : TutorSlot :=
  { TutorSlot.off with
    asid := 1, ogen := 1, conf := true, mode := mode, gen := 3, start := 0x10000, stop := 0x10000, word2 := 0x10000000 }
def withSlot (mode : BitVec 2) (s : State) : State :=
  (Effect.cluster 0 { s.cluster 0 with tutor := [(4, slot4 mode)] }).apply s
def noTutor (s : State) : State := { s with cfg := { s.cfg with part := .ezm7120 } }
theorem witness_TutorResult_registers : (setS 1 4 (withSlot 1 atC)).ready .c ∧ tutorHere (setS 1 4 (withSlot 1 atC)) = true
    ∧ (setS 1 4 (withSlot 1 atC)).me.spec = false ∧ ((setS 1 4 (withSlot 1 atC)).sreg 1).toNat < 16
    ∧ (tblGet .off ((setS 1 4 (withSlot 1 atC)).cluster (clusterOf (setS 1 4 (withSlot 1 atC)).coreNo)).tutor 4) = slot4 1
    ∧ ownsSlot (setS 1 4 (withSlot 1 atC)).landed (slot4 1) = true ∧ tutorHere (noTutor atC) = false ∧ (noTutor atC).ready .c
    ∧ acqPending (setS 1 4 (withSlot 1 atC)).landed (setS 1 4 (withSlot 1 atC)).six = false ∧ (setS 1 4 (withSlot 1 atC)).me.got = []
    ∧ (5 * 16 + 4) / 16 ≤ 5 := by unfold State.ready; decide +kernel
theorem witness_TutorResult_mode : (setX 1 0x64 (withSlot 1 atC)).ready .c ∧ ((setX 1 0x64 (withSlot 1 atC)).landed.me.readOx 1).toNat < 256
    ∧ ((setX 1 0x64 (withSlot 1 atC)).landed.me.readOx 1).toNat / 64 % 4 = 1
    ∧ 256 ≤ ((setX 1 256 atC).landed.me.readOx 1).toNat ∧ ((setX 1 0xC0 atC).landed.me.readOx 1).toNat / 64 % 4 = 3
    ∧ acqPending (setX 1 0x64 (withSlot 1 atC)).landed (setX 1 0x64 (withSlot 1 atC)).six = false ∧ atC.me.got = [] := by
  unfold State.ready; decide +kernel
/-- A call of the region that slot 4 serves: k9 names the slot, v1 holds FP32 lanes. -/
def atRegion : State := setK 9 4 (setV 1 (vreg 0 0 2) (withSlot 3 atV))
theorem witness_TutorResult_call : atRegion.ready .v ∧ (atRegion.vreg 1).t = 2 ∧ tutorHere atRegion = true ∧ (atRegion.kreg 9).toNat < 16
    ∧ (slot4 3).start = atRegion.pc ∧ atRegion.me.spec = false
    ∧ (let t := atRegion.landed.withMe { atRegion.landed.me with region := none }
       let u := (Effect.cluster 0 (arriveOwn atRegion.six (t.cluster 0))).apply t
       tblGet .off (u.cluster 0).tutor 4 = slot4 3 ∧ ownsSlot u (slot4 3) = true)
    ∧ ({ slot4 3 with calls := 1 } : TutorSlot).calls % 2 ^ tdSrate (slot4 3).word2 ≠ 0
    ∧ (TutorSlot.infer { slot4 3 with calls := 1 } (lanes (atRegion.vreg 1) (tdIn (slot4 3).word2))).all finite32 = true := by
  unfold State.ready; decide +kernel
theorem witness_TutorResult_declined : 16 ≤ ((setK 9 16 atRegion).kreg 9).toNat := by decide +kernel
def atRecord : State := tweak atRegion (fun x => { x with region := some ⟨0, 4, 3, [0]⟩ })
theorem witness_TutorResult_return : atRecord.ready .v ∧ atRecord.landed.me.region = some ⟨0, 4, 3, [0]⟩
    ∧ (atRecord.kreg 9).toNat = 4 ∧ (slot4 3).stop = atRecord.pc ∧ (atRecord.vreg 1).t = 2 ∧ (slot4 3).gen = 3
    ∧ atRegion.landed.me.region = none := by unfold State.ready; decide +kernel

/-- v1 and v2 hold a tag's lanes, m1 one lane. -/
def vecs (t : Nat) (a b : Nat) : State :=
  setM 1 1 (setV 1 (vreg (packLanes (List.replicate 32 a)) 0 t) (setV 2 (vreg (packLanes (List.replicate 32 b)) 0 t) atV))
/-- All conditions enabled. -/
def trapping (s : State) : State := tweak s (fun x => { x with sys := { x.sys with fenable := 0x3F } })

/-- FP32 one third is inexact; FP32 1 + 1 is exact; an integer tag is no float tag. -/
theorem witness_FloatVectors : (vecs 2 0x3F800000 0x40400000).ready .v ∧ ((vecs 2 0x3F800000 0x40400000).vreg 2).t = 2
    ∧ (let s := vecs 2 0x3F800000 0x40400000
       let rs := overElems 2 (s.mreg 1) (fun j => fDiv (fmtOf 2) (majorRnd 1 s.me.sys.rmode)
         ((fmtOf 2).read (elemAt 2 (s.vreg 1).data.toNat j)) ((fmtOf 2).read (elemAt 2 (s.vreg 2).data.toNat j)))
       fpeIndex s.me.sys.fenable (condsOf rs) = none ∧ fpeIndex (trapping s).me.sys.fenable (condsOf rs) = some 0)
    ∧ (trapping (vecs 2 0x3F800000 0x40400000)).ready .v ∧ isArith ((vecs 22 1 2).vreg 1).t = false ∧ (vecs 22 1 2).ready .v := by
  unfold State.ready; decide +kernel
theorem witness_IntegerVectors : (vecs 22 1 2).ready .v ∧ isIntTag ((vecs 22 1 2).vreg 1).t = true ∧ ((vecs 22 1 2).vreg 2).t = 22
    ∧ isBlock ((vecs 22 1 2).vreg 1).t = false ∧ (vecs 15 1 2).ready .v ∧ isBlock ((vecs 15 1 2).vreg 1).t = true
    ∧ isIntTag ((vecs 15 1 2).vreg 1).t = false := by unfold State.ready; decide +kernel
/-- An FP32 quiet and a signalling NaN under the relation LT. -/
theorem witness_VectorCompares : (vecs 2 0x7FC00000 0).ready .v ∧ ((vecs 2 0x7FC00000 0).vreg 2).t = ((vecs 2 0x7FC00000 0).vreg 1).t
    ∧ ((vecs 2 0x7FC00000 0).vreg 1).t = 2
    ∧ (let cs := condsOf (overElems 2 ((vecs 2 0x7FC00000 0).mreg 1) (fun _ => (0, (relOf 2 2 0x7F800001 0).2)))
       fpeIndex 0 cs = none ∧ fpeIndex 0x3F cs = some 0)
    ∧ ¬(((vecs 3 0 0).vreg 2).t = 22 ∨ ((vecs 3 0 0).vreg 2).t = 23
        ∨ ((((vecs 3 0 0).vreg 2).t = 1 ∨ ((vecs 3 0 0).vreg 2).t = 2) ∧ 0 < 4)) := by unfold State.ready; decide +kernel
theorem witness_VectorMoves : (vecs 15 0 0).ready .v ∧ isBlock ((vecs 15 0 0).vreg 1).t = true ∧ (1 : BitVec 3) ≠ 0
    ∧ isFloatTag ((vecs 9 0 0).vreg 1).t = true ∧ isFloatTag ((vecs 10 0 0).vreg 1).t = false
    ∧ ((vecs 1 0 0).vreg 1).t = 1 ∧ (vecs 1 0 0).ready .v ∧ (vecs 3 0 0).ready .v ∧ ((vecs 3 0 0).vreg 1).t ≠ 1
    ∧ ((vecs 3 0 0).vreg 1).t ≠ 2 ∧ ((vecs 22 0 0).vreg 2).t = 22 ∧ isBlock ((vecs 22 0 0).vreg 1).t = false
    ∧ ((vecs 23 0 0).vreg 2).t ≠ 22 := by unfold State.ready; decide +kernel
theorem witness_MaskInstructions : atV.ready .v ∧ 1 ≤ (1 : BitVec 5).toNat ∧ (7 : BitVec 5).toNat < 8 ∧ (0 : BitVec 5).toNat < 8
    ∧ (15 : BitVec 5).toNat < 16 := ⟨atV_ready, by decide +kernel⟩
/-- FP32 to FP16 and back; FP64 has too few elements for a block of MXFP8. -/
theorem witness_VectorConversions : (vecs 2 0x3F800000 0).ready .v ∧ ((vecs 2 0x3F800000 0).vreg 1).t = 2 ∧ tagCount 2 % 32 = 0
    ∧ (let s := vecs 2 0x3F800000 0
       let r := convertReg (s.vreg 1) 4 (cvtMode 1 s.me.sys.rmode) false s.landed.me.v.gen
       fpeIndex s.me.sys.fenable (condsOf (overElems 4 (s.mreg 1) (fun j => (r.1.getD j 0, r.2.2.1.getD j 0)))) = none)
    ∧ (isBlock 15 = true ∧ tagCount ((vecs 1 0 0).vreg 1).t % 32 ≠ 0) ∧ ((vecs 0 0 0).vreg 1).t = 0
    ∧ tagCount 2 ≤ tagCount 4 ∧ ((vecs 0 0 0).vreg 2).t = 0
    ∧ (let s := vecs 2 0x3F800000 0
       let r := convert (s.vreg 1) 4 0 32 (cvtMode 1 s.me.sys.rmode) false s.landed.me.v.gen
       fpeIndex s.me.sys.fenable (r.2.2.1.zipIdx.map (fun p => (p.2, p.1))) = none)
    ∧ isNarrowing 4 2 = false ∧ isNarrowing 2 4 = true
    ∧ (let s := vecs 4 0x3C003C00 0
       let r := convert (s.vreg 1) 2 32 (min 32 (64 - 32)) 0 false []
       fpeIndex s.me.sys.fenable (r.2.2.1.zipIdx.map (fun p => (p.2, p.1))) = none) := by unfold State.ready; decide +kernel
/-- A block scale of 2^0 scaled by 2, and by so much that it saturates. -/
theorem witness_VectorConversions_scale : (setV 2 (vreg 2 0 22) (vecs 15 0 0)).ready .v
    ∧ ((setV 2 (vreg 2 0 22) (vecs 15 0 0)).vreg 2).t = 22 ∧ isBlock 15 = true
    ∧ (let a : VReg := vreg 0 0x7F7F7F7F 15
       let rs := (List.range (tagCount 15 / 32)).map (fun j => scaleByte 15 (a.side.toNat / 2 ^ (8 * j) % 256) 2)
       fpeIndex 0 (rs.zipIdx.map (fun p => (32 * p.2, p.1.2))) = none)
    ∧ isArith ((vecs 2 0 0).vreg 1).t = true := by unfold State.ready; decide +kernel
theorem witness_VectorReductions : (vecs 2 0x3F800000 0).ready .v ∧ redOk .add 2 = true ∧ redOk .and 2 = false ∧ redOk .minn 22 = true
    ∧ redOk .max 1 = true ∧ redOk .min 3 = false
    ∧ (let s := vecs 2 0x3F800000 0x3F800000
       fpeIndex s.me.sys.fenable (reduce .add (s.vreg 1) (s.mreg 1)).2 = none
       ∧ fpeIndex s.me.sys.fenable (condsOf (scan .add 2 (s.mreg 1) ((elemsOf (s.vreg 1)).zipIdx.map (fun p => (p.2, p.1)))
           (RedOp.add.identity 2))) = none
       ∧ fpeIndex s.me.sys.fenable (dotFloat 2 (s.vreg 1) (s.vreg 2) (s.mreg 1)).2 = none)
    ∧ (vecs 22 3 4).ready .v ∧ ((vecs 22 3 4).vreg 2).t = 22 := by unfold State.ready; decide +kernel
/-- A vector access of one lane at an address in k1. -/
def atLanes (t : Nat) (ea : Word) : State := setK 1 ea (vecs t 7 0)
theorem witness_VectorMemory_load : (atLanes 22 0x10000).ready .v ∧ ((atLanes 22 0x10000).kreg 1).toNat % 8 = 0
    ∧ ∃ t, Runs (wideLoad .g 4 ((vecWords 22 ((atLanes 22 0x10000).mreg 1)).map (vecAddr ((atLanes 22 0x10000).kreg 1))))
      (atLanes 22 0x10000).landed [0x41] t := ⟨by unfold State.ready; decide +kernel, by decide +kernel, loadsWide _ (by decide +kernel)⟩
theorem witness_VectorMemory_store : ∃ t, Runs (wideStore .p 4 ((vecWords 15 ((atLanes 15 (2 ^ 19 - 136)).mreg 1)).map (fun i =>
      (vecAddr ((atLanes 15 (2 ^ 19 - 136)).kreg 1) i, if i < 32 then cleanLane 15 (vecWord ((atLanes 15 0).vreg 1) i)
        else vecWord ((atLanes 15 0).vreg 1) i)))) (atLanes 15 (2 ^ 19 - 136)).landed () t := storesWide (by decide +kernel)
/-- The index -1 in lane 0. -/
def atIndex : State := setV 2 (vreg 0xFFFFFFFF 0 22) (atLanes 22 0x10004)
theorem witness_VectorMemory_index : atIndex.ready .v ∧ (atIndex.vreg 2).t = 22 ∧ (atIndex.kreg 1).toNat % 4 = 0
    ∧ (∃ t, Runs (wideLoad .g 4 ((vecWords 0 (atIndex.mreg 1)).map (indexAddr (atIndex.kreg 1) (atIndex.vreg 2)))) atIndex.landed [0x41] t)
    ∧ (∃ t, Runs (wideStore .g 4 (((List.range 32).filter (laneOn (atIndex.vreg 1).t (atIndex.mreg 1))).map (fun i =>
        (indexAddr (atIndex.kreg 1) (atIndex.vreg 2) i, cleanLane (atIndex.vreg 1).t (vecWord (atIndex.vreg 1) i))))) atIndex.landed () t)
    ∧ ((vecs 23 0 0).vreg 2).t ≠ 22 :=
  ⟨by unfold State.ready; decide +kernel, by decide +kernel, by decide +kernel, loadsWide _ (by decide +kernel),
    storesWide (by decide +kernel), by decide +kernel⟩
theorem witness_VectorMemory_slice : (atLanes 22 2044).ready .v ∧ ((atLanes 22 2044).kreg 1).toNat % 4 = 0
    ∧ ((atLanes 22 2044).kreg 1).toNat < 2048 ∧ (atLanes 22 2044).me.region = none
    ∧ ((atLanes 22 2044).sliceLanes 22 1).any (fun i =>
        poisoned (atLanes 22 2044).landed poisonL (sliceAddr (atLanes 22 2044).coreNo i 2044) 4) = false
    ∧ (atLanes 22 2048).ready .v ∧ ((atLanes 22 2048).kreg 1).toNat % 4 = 0 ∧ 2048 ≤ ((atLanes 22 2048).kreg 1).toNat := by unfold State.ready; decide +kernel
theorem witness_VectorMemory_image : ((atLanes 22 0x40).kreg 1).toNat % 16 = 0
    ∧ (∃ t, Runs (wideLoad .p 4 (wordAddrs ((atLanes 22 0x40).kreg 1) 4 36)) (atLanes 22 0x40).landed (List.replicate 36 0) t)
    ∧ (∃ t, Runs (wideStore .p 4 ((List.range 36).map (fun i => (vecAddr ((atLanes 22 0x40).kreg 1) i,
        ((atLanes 22 0x40).vreg 1).image / 2 ^ (32 * i) % 2 ^ 32)))) (atLanes 22 0x40).landed () t) :=
  ⟨by decide +kernel, loadsWide _ (by decide +kernel), storesWide (by decide +kernel)⟩
/-- P with the tag byte 24 in the image at 0x40. -/
def atBadImage : State := (Effect.pmem (0x40 + 136) 8 24).apply (atLanes 22 0x40)
theorem witness_VectorMemory_badImage : ∃ t, Runs (wideLoad .p 4 (wordAddrs (atBadImage.kreg 1) 4 36)) atBadImage.landed
    (List.replicate 34 0 ++ [24, 0]) t := loadsWide _ (by decide +kernel)

/-- MCFG of FP32 operands, one row, one column, one element, both from registers; k1 and k9 name v1 and v2. -/
def mxConfig : Word := 2 * 2 ^ 59 + 2 * 2 ^ 54
def atMatrix : State :=
  setK 1 1 (setK 9 2 (tweak (vecs 2 0x3F800000 0x3F800000) (fun x => { x with v := { x.v with mcfg := mxConfig } })))
theorem witness_MatrixMultiply : atMatrix.ready .v ∧ isCompute atMatrix.coreNo = true
    ∧ (let x := atMatrix.landed.me
       checkPair false mxConfig 1 2 (runOf x 1 1) (runOf x 2 1) none = none
       ∧ checkPair false mxConfig 1 2 (runOf x 1 1) (runOf x 2 1) (some 0) = some 10
       ∧ checkPair false mxConfig 33 2 (runOf x 33 1) (runOf x 2 1) none = some 1
       ∧ checkPair true mxConfig 1 2 (runOf x 1 1) (runOf x 2 1) (some 2) = none
       ∧ descsOf false mxConfig 0 1 2 = [])
    ∧ tagAtIssue atMatrix.landed atMatrix.six 1 = some 0 := by unfold State.ready; decide +kernel
theorem checkDescs_none (s : State) (mgb : Word) : Runs (checkDescs [] mgb) s [] s := fun _ _ _ => rfl
theorem witness_MatrixMultiply_runs : Runs (checkDescs (descsOf false mxConfig 0 1 2) 0) atMatrix.landed [] atMatrix.landed := by
  rw [show descsOf false mxConfig 0 1 2 = [] by decide +kernel]; exact checkDescs_none _ _

/-- A tile image at 64 in P. -/
def atTile : State := setK 1 64 atMatrix
theorem witness_TileInstructions_image : atTile.ready .v ∧ isCompute atTile.coreNo = true
    ∧ tileBusy atTile.landed atTile.six 3 = false
    ∧ ((atTile.landed.cluster 0).cmds.any (fun k => conflicts k.reads k.writes [] [])) = false
    ∧ ∃ hulls u, Runs (checkDescs [(atTile.kreg 1, imageFetch (atTile.kreg 1) 0)] 0) atTile.landed hulls u :=
  ⟨by unfold State.ready; decide +kernel, by decide +kernel, by decide +kernel, by decide +kernel, ⟨_, _, fun _ _ _ => rfl⟩⟩
theorem witness_TileInstructions_store : ∃ v, Runs (wideStore (dSpace (atTile.kreg 1)) 4
    (((imageFetch (atTile.kreg 1) 0).map (fun f => f.2.1)).zip ((imageWords (atTile.kreg 1)).map (fun p =>
      cleanLane (atTile.landed.me.readT 3).tag.toNat ((atTile.landed.me.readT 3).row p.1 / 2 ^ (32 * p.2) % 2 ^ 32)) ++ [(atTile.landed.me.readT 3).tag.toNat, 0])))
    atTile.landed () v := storesWide (by decide +kernel)
/-- Tile 1 holds FP32 elements; k9 asks MCVT for FP16 with the default rounding. -/
def atTag2 : State := setK 9 4 (tweak atMatrix (fun x => { x with v := { x.v with t := [(1, { Tile.zero with tag := 2 })] } }))
theorem witness_TileInstructions_convert : atTag2.ready .v ∧ (atTag2.kreg 9).toNat < 512 ∧ (atTag2.kreg 9).toNat / 32 % 8 < 6
    ∧ (atTag2.kreg 9).toNat % 32 ≠ 0 ∧ (atTag2.kreg 9).toNat % 32 < 24 ∧ isBlock ((atTag2.kreg 9).toNat % 32) = false
    ∧ tagAtIssue atTag2.landed atTag2.six 1 = some 2 ∧ tagAtIssue atTile.landed atTile.six 1 = some 0
    ∧ (setK 9 0x23 atTag2).ready .v ∧ ((setK 9 0x23 atTag2).kreg 9).toNat < 64 ∧ ((setK 9 0x23 atTag2).kreg 9).getLsbD 5 = true
    ∧ (atTag2.vreg 1).t = 2 ∧ ((setK 9 3 atTag2).kreg 9).getLsbD 5 = false ∧ badConfig mxConfig = false := by
  unfold State.ready; decide +kernel
theorem witness_TileInstructions_tags : tagAtIssue (tweak atTag2 (fun x => { x with v := { x.v with
    t := [(1, { Tile.zero with tag := 1 })] } })).landed 0 1 = some 1 := by decide +kernel
/-- The V-stream of a core of no quad. -/
theorem witness_MatrixOffQuad : (Instr.mldt ⟨0, 1, 3⟩).matrix = true
    ∧ isCompute (State.reset.focused 8192 .v).coreNo = false := by decide +kernel

def dueOf (d : Due) : State := tweak atC (fun x => { x with due := [d] })
def aTrap (st : Stream) : Trap := { cause := 5, sub := 1, addr := 0x5000, strm := st }
theorem witness_StrandEvents_due : dueHead (dueOf (.park (aTrap .c))) 0 = some (.park (aTrap .c))
    ∧ dueHead (dueOf (.trap (aTrap .c))) 0 = some (.trap (aTrap .c)) 
    ∧ dueHead (tweak (dueOf (.trap (aTrap .v))) (fun x => { x with sys := { x.sys with vrun := true } })) 0 = some (.trap (aTrap .v))
    ∧ dueHead atC 0 = none := by decide +kernel
/-- A parked strand whose matrix commands and accesses are over by now. -/
def atParked : State := tweak atC (fun x => { x with st := .parked, entry := true })
theorem witness_StrandEvents_parked : (atParked.strand 0).st = .parked ∧ (atParked.strand 0).entry = true
    ∧ undrained atParked 0 = false := by decide +kernel
theorem witness_StrandEvents_preempt : atC.me.gid = some 0 ∧ canPreempt atC 0 = true ∧ atC.me.st = .active ∧ preemptible 0 = true
    ∧ (tweak atC (fun x => { x with sys := { x.sys with quant := 0 } })).me.sys.quant = 0
    ∧ preemptReady (tweak atC (fun x => { x with preempt := true, sys := { x.sys with ie := true } })) 0 = true := by decide +kernel
/-- A frame of a domain that is DEAD, and an unwind whose cleanup has no budget left. -/
def deadFrame : Frame :=
  { callerGen := 1, calleeGen := 1, callee := 2, caller := 1, vpol := 0, kind := 0, pm := false, ret := 0x10000, window := 0,
    cleanup := 0, budget := 9, rmode := 0, flags := 0, fenable := 0, srseed := 0, handle := 0, regs := [] }
def atDead : State := tweak atC (fun x => { x with frames := [deadFrame], sys := { x.sys with dsdepth := 1 } })
def atSpent : State := tweak atC (fun x => { x with
  frames := [{ deadFrame with callee := 1, kind := 1 }], unw := some ⟨1, 2, true, 0, false, false, false, false⟩,
  sys := { x.sys with dsdepth := 1 } })
theorem witness_StrandEvents_unwind : (∃ es, unwindBoundary 0 atDead = some es) ∧ atDead.me.unw = none ∧ dueHead atDead 0 = none
    ∧ (∃ es, unwindBoundary 0 atSpent = some es) ∧ atSpent.me.unw = some ⟨1, 2, true, 0, false, false, false, false⟩
    ∧ dueHead atSpent 0 = none :=
  ⟨Option.isSome_iff_exists.mp (by decide +kernel), by decide +kernel, by decide +kernel,
    Option.isSome_iff_exists.mp (by decide +kernel), by decide +kernel, by decide +kernel⟩
/-- Strand 0 of principal core 0 runs, with an interrupt pending. -/
def atInterrupted : State :=
  (Effect.core 1024 { atC.core 1024 with intr := [(3, 7)] }).apply ((Effect.strand 8192 { atC.me with gid := none, job := .thread }).apply atC)
theorem witness_StrandEvents_interrupt : dueHead atInterrupted 8192 = none ∧ interruptReady atInterrupted 8192 = some (3, 7) := by
  decide +kernel
theorem witness_StrandEvents_rest : slotOf 0 < 6 ∧ (atC.core 0).aged.contains (slotOf 0, .c) = false
    ∧ (tweak atC (fun x => { x with c := { x.c with wait := .align 0 2 } })).me.c.wait = .align 0 2
    ∧ (tweak atC (fun x => { x with res := some (8, 0) })).me.res = some (8, 0) ∧ 0 + 4096 ≤ (9999 : Nat)
    ∧ (tweak atC (fun x => { x with c := { x.c with wait := .revoke 2 3 0 } })).me.c.wait = .revoke 2 3 0 ∧ (atC.dom 2).st ≠ .revoked
    ∧ isCompute (coreOf 0) = true ∧ (atC.group 0).isSome = true ∧ (atC.strand 8).gid ≠ some 0
    ∧ isCompute (coreOf 8192) = false ∧ (atInterrupted.strand 8192).st = .active ∧ isCompute 1024 = false := by decide +kernel
/-- Core 0 has counted a stream's 1,024 cycles, and another stream's 1,023. -/
def atWaiting : State := (Effect.core 0 { atC.core 0 with ages := [(0, 1024), (2, 1023)] }).apply atC
theorem witness_StrandEvents_aging : slotOf 0 < 6 ∧ (atWaiting.core 0).aged.contains (slotOf 0, .c) = false
    ∧ 1024 ≤ tblGet 0 (atWaiting.core 0).ages (ageKey (slotOf 0) .c)
    ∧ tblGet 0 (atWaiting.core 0).ages (ageKey (slotOf 1) .c) = 1023 := by decide +kernel
theorem witness_StrandEvents_times : 0 + 256 ≤ ((atUnaligned (.align 0 2)).core 0).cycle ∧ 0 + 4096 ≤ { atC with cycle := 4096 }.cycle := by decide +kernel

def task5 (st : TaskState) : Machine.Task :=
  { ts := 0, timed := false, pri := 1, pin := none, entry := 0x10000, args := [], dom := 1, domGen := 1, gid := 0, st := st, parent := none,
    reads := [], writes := [], homes := [] }
def withTask (st : TaskState) (s : State) : State := (Effect.task 5 (some (task5 st))).apply s
theorem witness_DispatchEvents_task : ((withTask .queued atC).strand 1).st = .free
    ∧ chosenTask (withTask .queued atC) 0 = some (5, task5 .queued) ∧ actorPri (withTask .queued atC) 0 = none
    ∧ oldestTask ((Effect.task 5 (some { task5 .finished with timed := true })).apply atC) 0
        = some (5, { task5 .finished with timed := true }) := by decide +kernel
/-- The group's six general slots taken, slot 0 by the firing of the younger of two timed tasks, the older one queued. -/
def younger : Machine.Task := { task5 (.firing 0) with ts := 9, timed := true }
def older : Machine.Task := { task5 .queued with ts := 1, timed := true }
def atSlotRule : State :=
  applyAll ([.task 5 (some younger), .task 6 (some older)] ++ (List.range 5).map (fun k => Effect.strand (k + 1) (atC.strand 0)))
    (tweak atC (fun x => { x with spec := true, job := .task 5 }))
theorem witness_DispatchEvents_slot : (atSlotRule.strand 0).st ≠ .free ∧ (atSlotRule.strand 0).gid = some 0
    ∧ groupOn atSlotRule 0 0 = some placeGroup ∧ oldestTask atSlotRule 0 = some (6, older) ∧ older.st = .queued
    ∧ youngestFiring atSlotRule 0 = some (0, (5, younger)) ∧ olderThan (6, older) (5, younger) = true
    ∧ (∀ n ∈ placeGroup.cores, ∀ j, j < 6 → (atSlotRule.strand (8 * n + j)).st ≠ .free) := by decide +kernel
theorem witness_DispatchEvents_actor : ((withActor false 1).strand 1).st = .free
    ∧ tblGet none ((withActor false 1).core 0).actors 3 = some (oneActor false 1)
    ∧ actorReady (withActor false 1) 0 (oneActor false 1) = true ∧ actorPri (withActor false 1) 0 = some 0
    ∧ chosenTask (withActor false 1) 0 = none ∧ (withActor false 1).group 0 = some placeGroup := by decide +kernel
def aMsg (e : Option Word) : Msg := { gid := 0, hdr := 0, payload := [5], entry := e }
def anAtomic : HwAtomic := { six := 0, off := 0, args := ⟨0, 4, 1, 0, 0, 0⟩, dest := 1, acq := false, id := 1 }
def coreWith (f : Core → Core) : State := (Effect.core 0 (f (atC.core 0))).apply atC
theorem witness_DispatchEvents_handler : (atC.strand 6).st = .free ∧ (atC.strand 7).st = .free ∧ atC.group 0 = some placeGroup
    ∧ ((coreWith (fun c => { c with hq := [.message (aMsg (some 0x10000))] })).core 0).hq = [.message (aMsg (some 0x10000))]
    ∧ ((coreWith (fun c => { c with hq := [.atomic anAtomic] })).core 0).hq = [.atomic anAtomic] := by decide +kernel
def atOverflow : State := (Effect.group 0 (some { placeGroup with ovfe := 0x10000 })).apply (inboxOf 64)
theorem witness_DispatchEvents_overflow : (atOverflow.core 0).inbox = aMsg none :: List.replicate 63 (aMsg none)
    ∧ groupOn atOverflow 0 0 = some { placeGroup with ovfe := 0x10000 } ∧ 64 ≤ (atOverflow.core 0).inbox.length
    ∧ (atOverflow.strand 7).st = .free := by decide +kernel
/-- A message in each buffer that it can leave. -/
def atSent : State := coreWith (fun c => { c with reqBuf := [⟨0, aMsg none⟩], repBuf := [⟨0, aMsg none⟩], port := [.message (aMsg none)] })
theorem witness_DispatchEvents_sent : (atSent.core 0).reqBuf[0]? = some ⟨0, aMsg none⟩ ∧ (atSent.core 0).repBuf[0]? = some ⟨0, aMsg none⟩
    ∧ (atSent.core 0).port[0]? = some (.message (aMsg none)) ∧ closedAt atSent 0 0 = false
    ∧ ((atSent.core 0).reqBuf.take 0).all (fun e => e.target != 0) = true
    ∧ destRoom (atSent.core 0) (entryDest (atSent.core 0) (.message (aMsg none))) = true
    ∧ (requestArrive 0 (.message (aMsg none)) ((Effect.core 0 { atSent.core 0 with reqBuf := [] }).apply atSent)).isSome = true := by
  decide +kernel
theorem witness_DispatchEvents_fifo : (oneActor false 1).outs[0]? = some (oneFifo 1) ∧ (oneFifo 1).en = true ∧ 0 < (oneFifo 1).count
    ∧ ((withActor false 1).core 0).reqBuf.length < 8
    ∧ placeGroup.cores[dwCore ((entryRead (withActor false 1) 0 (oneFifo 1)).headD 0)]? = some 0
    ∧ entryPoisoned (withActor false 1) 0 (oneFifo 1) = false := by decide +kernel

/-- A command of each kind and a matrix command, alone in cluster 0. -/
def cmd0 (kind : CmdKind) : Cmd :=
  { id := 4, six := 0, gid := some 0, kind := kind, token := 1, ssp := .g, src := 0x10000, dsp := .p, dst := 0, rows := 1, spl := 4,
    dpl := 4, len := 4, asid := 1, pm := false, tag := 0, reads := [], writes := [], follow := none, begun := false, copied := none,
    held := false }
def mx0 : MxCmd := { atV.mxCmd (.mzt ⟨0, 2, 1⟩) .mzt 1 with specA := 2 }
def withCmd (k : Cmd) : State := (Effect.cluster 0 { atC.cluster 0 with cmds := [k] }).apply atC
def withMx (k : MxCmd) : State := (Effect.cluster 0 { atV.cluster 0 with mx := [k] }).apply atV
theorem witness_UnitEvents_commands : cmdOf (withCmd (cmd0 .copy)) 0 4 = some (cmd0 .copy)
    ∧ cmdReady (withCmd (cmd0 .copy)) 0 (cmd0 .copy) = true
    ∧ cmdOf (withCmd { cmd0 .copy with begun := true }) 0 4 = some { cmd0 .copy with begun := true }
    ∧ cmdOf (withCmd { cmd0 .bpref with begun := true }) 0 4 = some { cmd0 .bpref with begun := true }
    ∧ cmdOf (withCmd { cmd0 .rget with begun := true }) 0 4 = some { cmd0 .rget with begun := true }
    ∧ cmdOf (withCmd { cmd0 .copymm with begun := true, copied := some 4, follow := some mx0 }) 0 4
        = some { cmd0 .copymm with begun := true, copied := some 4, follow := some mx0 } := by decide +kernel
theorem witness_UnitEvents_matrix : mxOf (withMx mx0) 0 mx0.id = some mx0 ∧ mxReady ((withMx mx0).cluster 0) mx0 = true
    ∧ openBefore (withMx mx0) mx0.six mx0.id = false
    ∧ mxOf (withMx { mx0 with begun := true, shadow := some .zero }) 0 mx0.id = some { mx0 with begun := true, shadow := some .zero } := by
  decide +kernel
def aSync : SyncStore :=
  { id := 9, six := 0, req := atC.asks (.store 4 7) 0x10000 false false, asid := 1, va := 0x10000, pa := placePa, size := 4 }
def atSync : State := { atC with syncs := [aSync] }
theorem witness_UnitEvents_sync : atSync.syncs.find? (fun y => y.id == 9) = some aSync ∧ aSync.six ≠ noStrand
    ∧ { aSync with six := noStrand }.six = noStrand := by decide +kernel

/-- A copy of two words from the first words of P to the last words of a block of D. -/
def copyPD : Cmd :=
  { cmd0 .copy with begun := true, token := 3, ssp := .p, src := 0, dsp := .d, dst := 2 ^ 20 - 8, len := 8 }
def atCopyPD : State := (Effect.cluster 0 { atBlock.cluster 0 with cmds := [copyPD] }).apply ((Effect.pmem 0 8 0x1122334455667788).apply atBlock)
theorem witness_UnitEvents_copy : atCopyPD.wf = true ∧ cmdOf atCopyPD 0 4 = some copyPD ∧ copyPD.begun = true ∧ copyPD.held = false
    ∧ copyPD.copied = none ∧ copyPD.buf = none ∧ copyPD.rows = 1 ∧ copyPD.len % 4 = 0
    ∧ ∀ j, j < 2 → atCopyPD.copyPlace copyPD .p 0 j = some (.p 0 (4 * j)) ∧ (Loc.p 0 (4 * j)).poisoned atCopyPD 4 = false
      ∧ atCopyPD.copyPlace copyPD .d (2 ^ 20 - 8) j = some (.d 0 (2 ^ 20 - 8 + 4 * j)) := by decide +kernel
/-- An MMAZ of one row of I8 elements with one of N8 elements, 128 products summed. -/
def mma0 : MxCmd :=
  { atV.mxCmd (.mmaz ⟨0, 1, 2, 1⟩) .mmaz 1 with
    begun := true, shadow := some .zero, runA := [vreg 0 0 10], runB := [vreg 0 0 11],
    mcfg := BitVec.ofNat 64 (10 * 2 ^ 59 + 11 * 2 ^ 54 + 127 * 2 ^ 34) }
theorem witness_UnitEvents_tile : mxOf (withMx mma0) 0 mma0.id = some mma0 ∧ mma0.op = .mmaz ∧ mxOldest mma0 (withMx mma0) = none
    ∧ ((withMx mma0).cluster 0).cmds = [] ∧ mma0.mcfg.getLsbD 33 = false ∧ mma0.mcfg.getLsbD 32 = false
    ∧ accTag (cfgATag mma0.mcfg) (cfgBTag mma0.mcfg) = some 22 ∧ cfgK mma0.mcfg = tagCount (cfgATag mma0.mcfg)
    ∧ cfgK mma0.mcfg = tagCount (cfgBTag mma0.mcfg) ∧ cfgM mma0.mcfg = mma0.runA.length ∧ cfgN mma0.mcfg = mma0.runB.length := by
  decide +kernel

/-- Words 0x55667788 and 0x11223344 copied (R200); −1 × 254 + 2 × 4 + 3 × 5 (R226). -/
theorem test_copy_moves : (match exec (.copyCompletion 0 4) atCopyPD with
    | .next t => memRead t.dmem (2 ^ 20 - 8) 8 == 0x1122334455667788 && (t.strand 0).readS 3 == 8
    | _ => false) = true := by decide +kernel
def mmaSum : MxCmd := { mma0 with runA := [vreg 0x0302FF 0 10], runB := [vreg 0x0504FE 0 11] }
theorem test_mma_sum : (match exec (.matrixCommandCompletion 0 mmaSum.id) (withMx mmaSum) with
    | .next t => elemAt 22 (((t.strand mmaSum.six).readT 1).row 0) 0 == 2 ^ 32 - 231
    | _ => false) = true := by decide +kernel
/-- A domain and frames that a privileged store may change; the whole range of an identity root. -/
theorem witness_DeviceEvents_tables : (State.reset.dom 4095).st = .dead ∧ (State.reset.dom 4095).hold = 0
    ∧ ((0x5000 : Word).toNat % 4096 = 0 ∧ (0x5000 : Word).toNat < 2 ^ 52)
    ∧ ((0x700001000 : Word).toNat / 4096 % 4 = 1 ∧ (0x700001000 : Word).extractLsb' 32 16 ≠ 0)
    ∧ frameExists State.reset.cfg 3 = true ∧ (State.reset.frame 3).st = .ordinary ∧ (State.reset.frame 3).owner = 0
    ∧ (BitVec.ofNat 64 (frameWord { State.reset.frame 3 with owner := 7 })).extractLsb' 32 16 = 7
    ∧ (BitVec.ofNat 64 (frameWord { State.reset.frame 3 with owner := 7 })).toNat = frameWord { State.reset.frame 3 with owner := 7 }
    ∧ (atC.frame 2).owner ≠ 0 ∧ (atC.frame 2).st = .ordinary ∧ frameExists atC.cfg 2 = true
    ∧ (BitVec.ofNat 64 (frameWord { atC.frame 2 with st := .append, tail := 0 })).toNat
        = frameWord { atC.frame 2 with st := .append, tail := 0 } := by decide +kernel
theorem witness_DeviceEvents_power : gateable { State.reset with pkg := { State.reset.pkg with gated := 0 } } 31 = true
    ∧ (let s := { State.reset with pkg := { State.reset.pkg with gatereq := 0 } }
       s.pkg.gatereq.getLsbD 31 = false ∧ s.pkg.gated.getLsbD 31 = true) := by decide +kernel
theorem witness_DeviceEvents_registers :
    ∃ pa, inDevice pa = true ∧ inHostWindow pa = false ∧ pa % 8 = 0 := ⟨Config.deviceBase, by decide +kernel⟩
theorem witness_DeviceEvents_host : hostMay atC 64 placePa true = true ∧ hostMay atC 64 placePa false = true ∧ placePa % 4 = 0
    ∧ memCheck atC true placePa 4 = none ∧ memCheck atC false placePa 4 = none ∧ hostMay State.reset 63 placePa false = false
    ∧ (queueOf State.reset 0 0).tenant = 0 ∧ populated State.reset.cfg 0 = true := by decide +kernel

/-- Block 63 of die 3 given to tenant 63; a store that changes nothing, one with bit 6 and one with bit 8. -/
theorem witness_DeviceEvents_block : (0xBF : Word).toNat < 256 ∧ (0xBF : Word).getLsbD 6 = false
    ∧ (0xBF : Word).toNat ≠ blockWord (State.reset.block 3 63) ∧ (State.reset.block 3 63).change = none
    ∧ (0 : Word).toNat = blockWord (State.reset.block 3 63) ∧ (0x40 : Word).getLsbD 6 = true ∧ 256 ≤ (0x100 : Word).toNat := by
  decide +kernel
theorem witness_DeviceEvents_freeze : atC.wf = true ∧ (0xF0F00001 : Word).toNat % 2 ^ 32 = 0xF0F00001
    ∧ (0x1F0F00001 : Word).toNat % 2 ^ 32 = 0xF0F00001 := by decide +kernel
def atExtend : State := { State.reset with pkg := { State.reset.pkg with mgmt := { State.reset.pkg.mgmt with cmd := 1, result := 0, index := 7 } } }
theorem witness_DeviceEvents_extend : atExtend.pkg.mgmt.cmd = 1 ∧ atExtend.pkg.mgmt.index.toNat ≤ 7 ∧ atExtend.pkg.mgmt.result = 0 := by
  decide +kernel
theorem witness_DeviceEvents_tenant : atC.wf = true ∧ ∀ d, tblWf .reset (atC.die d).queues = true := by
  refine ⟨by decide +kernel, fun d => ?_⟩
  have h : atC.dies = [] := by decide +kernel
  simp only [State.die, h, tblGet]
  decide +kernel

/-- A package with windows in a pod, whose link 0 is up. -/
def fab0 : Fabric :=
  { State.reset.pkg.fab with
    en := true, links := [(0, { Link.down with up := true, lanes := 8 })], window := 2, time := 2 ^ 40, closed := some 0,
    live := 3, markers := [(1, 1)] }
def inPod (f : Fabric) : State := { atC with pkg := { atC.pkg with fab := f } }
theorem witness_FabricEvents_link : 0 < (inPod fab0).cfg.links ∧ (tblGet .down fab0.links 0).up = true ∧ (inPod fab0).pkg.frozen = false
    ∧ isMember fab0 1 = true ∧ fab0.streamHeld.contains (1, 2) = false
    ∧ ({ fab0 with streamHeld := [(1, 2)] } : Fabric).streamHeld.contains (1, 2) = true := by decide +kernel
/-- A flit with bit 35 set, of KIND 1, in its low bits, and K in the place of its CRC. -/
theorem flit_nat (K : BitVec 64) : (BitVec.ofNat 2048 (2 ^ 35 + K.toNat * 2 ^ 1984)).toNat = 2 ^ 35 + K.toNat * 2 ^ 1984 := by
  have h := K.isLt
  rw [BitVec.toNat_ofNat]
  exact Nat.mod_eq_of_lt (by omega)
theorem flit_byte (k i : Nat) (hi : i < 248) : (2 ^ 35 + k * 2 ^ 1984) / 2 ^ (8 * i) % 256 = 2 ^ 35 / 2 ^ (8 * i) % 256 := by
  have hp : 2 ^ 1984 = 256 * 2 ^ (8 * (247 - i)) * 2 ^ (8 * i) := by
    rw [show (256 : Nat) = 2 ^ 8 from rfl, ← Nat.pow_add, ← Nat.pow_add]; congr 1; omega
  rw [hp, ← Nat.mul_assoc, Nat.add_mul_div_right _ _ (Nat.two_pow_pos _), ← Nat.mul_assoc, Nat.mul_comm k 256, Nat.mul_assoc,
    Nat.add_mul_mod_self_left]
theorem flit_crc (K : BitVec 64) : flitCrc (BitVec.ofNat 2048 (2 ^ 35 + K.toNat * 2 ^ 1984)) = flitCrc (BitVec.ofNat 2048 (2 ^ 35)) := by
  have hf : (BitVec.ofNat 2048 (2 ^ 35)).toNat = 2 ^ 35 := by rw [BitVec.toNat_ofNat]; exact Nat.mod_eq_of_lt (by omega)
  have hm : ∀ i ∈ List.range 248, i < 248 := fun i => List.mem_range.mp
  unfold flitCrc
  revert hm
  generalize List.range 248 = l
  intro hm
  rw [flit_nat, hf]
  exact List.foldl_ext _ _ _ (fun c i hi => by rw [flit_byte _ _ (hm i hi)])
theorem flit_top (K : BitVec 64) : BitVec.ofNat 64 ((BitVec.ofNat 2048 (2 ^ 35 + K.toNat * 2 ^ 1984)).toNat / 2 ^ 1984) = K := by
  rw [flit_nat, Nat.add_mul_div_right _ _ (Nat.two_pow_pos _), Nat.div_eq_of_lt (Nat.pow_lt_pow_right (by omega) (by omega : 35 < 1984)),
    Nat.zero_add, BitVec.ofNat_toNat, BitVec.setWidth_eq]
theorem flit_good (K : BitVec 64) (hK : flitCrc (BitVec.ofNat 2048 (2 ^ 35)) = K) :
    ∃ flit, flitCrc flit = BitVec.ofNat 64 (flit.toNat / 2 ^ 1984) ∧ flKind flit = 1 ∧ flSeq flit = 0 := by
  refine ⟨BitVec.ofNat 2048 (2 ^ 35 + K.toNat * 2 ^ 1984), by rw [flit_top, flit_crc, hK], ?_, ?_⟩
  · unfold flKind; rw [flit_nat]; omega
  · unfold flSeq; rw [flit_nat]; omega
theorem witness_FabricEvents_flit : (∃ flit, flitCrc flit = BitVec.ofNat 64 (flit.toNat / 2 ^ 1984) ∧ flKind flit = 1 ∧ flSeq flit = 0)
    ∧ (tblGet .down fab0.links 0).recvSeq = 0 := ⟨flit_good _ rfl, by decide +kernel⟩
/-- A held stream with nothing unacknowledged, and one whose old path is down. -/
theorem witness_FabricEvents_route : openPackets fab0 1 2 (tblGet .down fab0.links (tblGet 0 fab0.routes (streamKey 1 2))) = []
    ∧ (tblGet .down ({ fab0 with links := [] } : Fabric).links (tblGet 0 fab0.routes (streamKey 1 2))).up = false := by decide +kernel
theorem witness_FabricEvents_windows : nextClose fab0 = some 1 ∧ fab0.en = true ∧ writesAcked fab0 1 = true
    ∧ (1 + 1) * windowLen fab0 ≤ fab0.time ∧ ({ fab0 with closed := some 1 } : Fabric).closed = some 1
    ∧ (fab0.window + 1) * windowLen fab0 ≤ fab0.time
    ∧ (members fab0).all (fun p => fab0.markers.contains (p, fab0.window - 1)) = true
    ∧ fab0.live.getLsbD 1 = true ∧ tblGet 0 fab0.heardAt 1 + 5 ≤ clockWindow fab0 ∧ tblGet 0 fab0.recvNum (streamKey 1 0) = 0
    ∧ ({ fab0 with master := some Config.ownClock } : Fabric).master ≠ none := by decide +kernel

/-- Queue 0 of die 0 of domain 1 at 0x10000, woken; a packet and a group descriptor in it. -/
def ringQueue (priv : Bool) : Queue := { Queue.reset with ring := 0x10000, mapped := true, privq := priv, asid := 1, woken := true }
def words (a : Nat) : List Word → State → State
  | [], s => s
  | w :: r, s => words (a + 8) r ((Effect.mem (placePa + a) 8 w.toNat).apply s)
def atQueue (priv : Bool) (packet rest : List Word) : State :=
  (Effect.die 0 { atC.die 0 with queues := [(0, ringQueue priv)] }).apply ((Effect.tenant 0 { tq := 4, dq := 4, dtvec := 0x10000, otag := 1 }).apply
    (words 0 (packet ++ rest) atC))
def launchPacket : List Word := [0x8100000000000000, 0x10000, 0x10040, 0, 1, 2, 3, 4]
def launchDesc : List Word := [0, 0, 0x1000, 0, 0, 0, 0, 0]
def atLaunch : State := atQueue false launchPacket launchDesc
theorem witness_QueueEvents_notify : (queueOf State.reset 3 1023).mapped = false
    ∧ ((State.reset.die 3).queues.filter (fun p => p.2.mapped)).length < 64 := by decide +kernel
def readOf (r : Except CpStop α) : Option α := match r with | .ok a => some a | .error _ => none
theorem done_of {r : Except CpStop α} (h : (readOf r).isSome = true) : ∃ a, r = .ok a := by
  cases r with
  | ok a => exact ⟨a, rfl⟩
  | error e => cases h
/-- Words that are read, and a condition on the effects that reading leaves. -/
theorem read_of {r : Except CpStop (List Word × List Effect)} (ws : List Word) (p : List Effect → Bool)
    (h : (readOf r).any (fun q => q.1 == ws && p q.2) = true) : ∃ es, r = .ok (ws, es) ∧ p es = true := by
  cases r with
  | ok q =>
    obtain ⟨w, es⟩ := q
    simp only [readOf, Option.any_some, Bool.and_eq_true, beq_iff_eq] at h
    exact ⟨es, by rw [h.1], h.2⟩
  | error e => cases h
/-- That the header of queue 0 of die 0 may be written at a place, as one Boolean. -/
def headerOk (s : State) (pa : Nat) : Bool :=
  let y := queueOf s 0 0
  (readOf (cpXl s 0 y.asid y.privq (packetAddr y) .w)).any (fun x => decide (x.cls = .normal ∧ x.pod = false ∧ x.pa = pa))
    && (memCheck s false pa 8).isNone && decide (readersOf s (wordsOf pa 8) = [])
theorem headerAt_of {s : State} {pa : Nat} (h : headerOk s pa = true) : s.headerAt 0 0 pa := by
  unfold headerOk at h
  simp only [Bool.and_eq_true, decide_eq_true_eq, Option.isNone_iff_eq_none] at h
  obtain ⟨⟨a, b⟩, c⟩ := h
  unfold State.headerAt
  dsimp only
  cases e : cpXl s 0 (queueOf s 0 0).asid (queueOf s 0 0).privq (packetAddr (queueOf s 0 0)) .w with
  | ok x => rw [e] at a; simp [readOf] at a; exact ⟨x, rfl, a.1, a.2.1, a.2.2, b, c⟩
  | error x => rw [e] at a; cases a
def bindOk (s : State) (tenant n : Nat) : Bool :=
  decide (n / 32 ≤ s.clustersWith tenant 32 ∧ (n % 32 ≠ 0 → n / 32 + 1 ≤ s.clustersWith tenant (n % 32)))
theorem canBind_of {s : State} {tenant n : Nat} (h : bindOk s tenant n = true) : s.canBind tenant n := by
  have h := of_decide_eq_true (show decide _ = true from h)
  exact h

/-- A LAUNCH of one core whose descriptor is read, with its slots, a group number, a core and its header's place there. -/
def launchOk (u : State) : Bool :=
  decide (slotsHeld u (queueOf u 0 0).tenant + 1 ≤ (u.tenant (queueOf u 0 0).tenant).tq.toNat ∧ slotsInUse u + 1 ≤ 65536
    ∧ u.group 1 = none ∧ gdCores (launchDesc.getD 0 0) = 1) && bindOk u (queueOf u 0 0).tenant 1 && headerOk u placePa
theorem witness_QueueEvents_launch : served atLaunch 0 0 = true ∧ pkType 0x8100000000000000 = 1
    ∧ ∃ es, packetOf atLaunch 0 0 = .ok (launchPacket, es) ∧ badPacket (applyAll es atLaunch) 0 0 launchPacket = false
      ∧ pastBarrier (applyAll es atLaunch) 0 0 0x8100000000000000 = true
      ∧ ∃ fs, groupDesc (applyAll es atLaunch) 0 0 launchPacket = .ok (launchDesc, fs)
        ∧ launchOk (applyAll fs (applyAll es atLaunch)) = true := by
  obtain ⟨es, he, hp⟩ := read_of (r := packetOf atLaunch 0 0) launchPacket
    (fun es => !badPacket (applyAll es atLaunch) 0 0 launchPacket && pastBarrier (applyAll es atLaunch) 0 0 0x8100000000000000
      && (readOf (groupDesc (applyAll es atLaunch) 0 0 launchPacket)).any (fun q => q.1 == launchDesc
        && launchOk (applyAll q.2 (applyAll es atLaunch)))) (by decide +kernel)
  simp only [Bool.and_eq_true, Bool.not_eq_true'] at hp
  obtain ⟨fs, hf, hl⟩ := read_of launchDesc (fun fs => launchOk (applyAll fs (applyAll es atLaunch))) hp.2
  exact ⟨by decide +kernel, by decide +kernel, es, he, hp.1.1, hp.1.2, fs, hf, hl⟩

/-- A packet that is not valid, one that is rejected and whose header may be written, and a SIGNAL. -/
def atEmpty : State := atQueue false [0x0100000000000000] []
theorem witness_QueueEvents_stop : served atEmpty 0 0 = true ∧ (0x0100000000000000 : Word).getLsbD 63 = false
    ∧ ∃ es, packetOf atEmpty 0 0 = .ok ([0x0100000000000000], es) ∧ true = true :=
  ⟨by decide +kernel, by decide +kernel, read_of _ (fun _ => true) (by decide +kernel)⟩
def rejectPacket : List Word := [0x8000000000000000, 0, 0, 0, 0, 0, 0, 0]
def atReject : State := atQueue false rejectPacket []
theorem witness_QueueEvents_reject : served atReject 0 0 = true
    ∧ ∃ es, packetOf atReject 0 0 = .ok (rejectPacket, es) ∧ badPacket (applyAll es atReject) 0 0 rejectPacket = true
      ∧ ∃ fs, cpWrite (applyAll es atReject) 0 0 (queueOf (applyAll es atReject) 0 0).asid (queueOf (applyAll es atReject) 0 0).privq
        (packetAddr (queueOf (applyAll es atReject) 0 0)) (doneHeader 0x8000000000000000 true) = .ok fs := by
  obtain ⟨es, he, hp⟩ := read_of (r := packetOf atReject 0 0) rejectPacket
    (fun es => badPacket (applyAll es atReject) 0 0 rejectPacket
      && (readOf (cpWrite (applyAll es atReject) 0 0 (queueOf (applyAll es atReject) 0 0).asid
        (queueOf (applyAll es atReject) 0 0).privq (packetAddr (queueOf (applyAll es atReject) 0 0))
        (doneHeader 0x8000000000000000 true))).isSome) (by decide +kernel)
  simp only [Bool.and_eq_true] at hp
  exact ⟨by decide +kernel, es, he, hp.1, done_of hp.2⟩
def signalPacket : List Word := [0x8200000000000000, 0, 0, 0, 0, 0, 0, 0]
def atSignal : State := atQueue false signalPacket []
theorem witness_QueueEvents_signal : served atSignal 0 0 = true ∧ pkType 0x8200000000000000 = 2
    ∧ ∃ es, packetOf atSignal 0 0 = .ok (signalPacket, es)
      ∧ (!badPacket (applyAll es atSignal) 0 0 signalPacket && pastBarrier (applyAll es atSignal) 0 0 0x8200000000000000) = true :=
  ⟨by decide +kernel, by decide +kernel, read_of _ (fun es =>
    !badPacket (applyAll es atSignal) 0 0 signalPacket && pastBarrier (applyAll es atSignal) 0 0 0x8200000000000000) (by decide +kernel)⟩

/-- A saved group 2 of one core, its RESUME packet, and a resume table whose first entry alone is not 0. -/
def savedGroup : Machine.Group := { placeGroup with saved := true, spill := 0x100C0, tvec := 0x10000, desc0 := 1 }
def resumePacket : List Word := [0x8300000000000000, 2, 0x10040, 0, 0, 0, 0, 0]
def resumeTable : List Word := 7 :: List.replicate 7 0
def atResume : State := (Effect.group 2 (some savedGroup)).apply ((Effect.strand 0 .free).apply (atQueue true resumePacket
  (resumeTable ++ List.replicate 18 0)))
/-- Where the table, the counts and the records of a spill area are read, the state in which the group is bound. -/
def resumeReads (t : State) : Option (State × List Word × List Word × List Word) :=
  let y := queueOf t 0 0
  match cpWords t 0 0 y.asid y.privq (resumePacket.getD 2 0) 8 with
  | .ok (table, e1) => match cpWords (applyAll e1 t) 0 0 savedGroup.asid y.privq savedGroup.spill 2 with
    | .ok (counts, e2) => match cpWords (applyAll e2 (applyAll e1 t)) 0 0 savedGroup.asid y.privq (savedGroup.spill + 64) 0 with
      | .ok (recs, e3) => some (applyAll e3 (applyAll e2 (applyAll e1 t)), table, counts, recs)
      | .error _ => none
    | .error _ => none
  | .error _ => none
def resumeOk (t : State) : Bool :=
  (resumeReads t).any (fun r => decide (r.2 = (resumeTable, [0, 0], [])) && bindOk r.1 savedGroup.tenant 1 && headerOk r.1 placePa
    && (List.range 1024).all (fun core => !decide (core ∈ freeCores r.1 savedGroup.tenant (clusterOf core))
      || decide ((r.1.strand (8 * core)).st = .free)))
theorem witness_QueueEvents_resume : served atResume 0 0 = true ∧ pkType 0x8300000000000000 = 3
    ∧ ∃ es, packetOf atResume 0 0 = .ok (resumePacket, es)
      ∧ (decide (badPacket (applyAll es atResume) 0 0 resumePacket = false
          ∧ pastBarrier (applyAll es atResume) 0 0 0x8300000000000000 = true
          ∧ resumeGroup (applyAll es atResume) resumePacket = some savedGroup
          ∧ 64 + 64 * 0 + 16 * 0 ≤ 64 * gdSpn savedGroup.desc0) && resumeOk (applyAll es atResume)) = true :=
  ⟨by decide +kernel, by decide +kernel, read_of _ (fun es => decide (badPacket (applyAll es atResume) 0 0 resumePacket = false
          ∧ pastBarrier (applyAll es atResume) 0 0 0x8300000000000000 = true
          ∧ resumeGroup (applyAll es atResume) resumePacket = some savedGroup
          ∧ 64 + 64 * 0 + 16 * 0 ≤ 64 * gdSpn savedGroup.desc0) && resumeOk (applyAll es atResume)) (by decide +kernel)⟩

/-- A group with no slot left; one whose pre-emption has drained its cores, its spill area empty and too small. -/
def quietGroup (g : Machine.Group) : State := (Effect.group 0 (some g)).apply ((Effect.strand 0 .free).apply atC)
theorem witness_QueueEvents_end : (quietGroup placeGroup).group 0 = some placeGroup ∧ groupLive (quietGroup placeGroup) 0 = false
    ∧ placeGroup.failed = false ∧ placeGroup.saved = false ∧ placeGroup.ctxs = []
    ∧ slotHeld (quietGroup { placeGroup with failed := true }) 0 = false := by decide +kernel
theorem witness_QueueEvents_spill :
    (let s := quietGroup { placeGroup with preempting := true }
     slotHeld s 0 = false ∧ cmdInFlight s 0 = false
     ∧ s.cores.all (fun c => !c.2.reqBuf.any (fun m => m.msg.gid == 0) && !c.2.repBuf.any (fun m => m.msg.gid == 0)
        && !c.2.hq.any (fun e => match e with | .message m => m.gid == 0 | .atomic _ => false)) = true
     ∧ 64 * gdSpn placeGroup.desc0 < spillBytes (spillWords s 0 { placeGroup with preempting := true })) := by decide +kernel
def spillGroup : Machine.Group := { placeGroup with preempting := true, spill := 0x10000, desc0 := 1 }
theorem witness_QueueEvents_save : spillBytes (spillWords (quietGroup spillGroup) 0 spillGroup) ≤ 64 * gdSpn spillGroup.desc0
    ∧ ∃ es, cpWriteAll spillGroup.die spillGroup.queue spillGroup.asid (queueOf (quietGroup spillGroup) 0 0).privq
        (spillWords (quietGroup spillGroup) 0 spillGroup) (quietGroup spillGroup) = .ok es :=
  ⟨by decide +kernel, done_of (by decide +kernel)⟩

theorem witness_ResultLands : Strand.free.c.pend = [] ∧ Strand.free.v.pend = [] ∧ ((RegId.s 31).inC = true ↔ Stream.c = .c)
    ∧ (PVal.word 5).fits (.s 31) = true ∧ ((RegId.v 31).inC = true ↔ Stream.v = .c) ∧ (PVal.vec .zero).fits (.v 31) = true
    ∧ ((RegId.m 7).inC = true ↔ Stream.v = .c) ∧ (PVal.mask 3).fits (.m 7) = true := by decide +kernel
theorem witness_IntegerFrame : intWrites (.add { w := 0, b := 2, a := 1, d := 3 }) = some 3 ∧ atC.ready .c
    ∧ ∃ t, exec (.add { w := 0, b := 2, a := 1, d := 3 }) atC = .next t := ⟨rfl, atC_ready, _, rfl⟩
theorem witness_DecodeEncode : (Instr.add { w := 0, b := 2, a := 1, d := 3 }).wf = true
    ∧ (Instr.add { w := 0, b := 2, a := 1, d := 3 }).len ≠ 0 := by decide +kernel

/-- ADD s3, s1, s2 stands where step fetches, with 5 and 7 in its operands. -/
def addWord : Nat := encode (.add { w := 0, b := 2, a := 1, d := 3 })
def atAdd : State :=
  let s := placed1 State.reset 32 addWord
  { s with strands := tblSet .free s.strands 0 (((s.strand 0).setReg (.s 1) (.word 5)).setReg (.s 2) (.word 7)) }
def isNext (o : Out) (p : State → Bool) : Bool := match o with | .next t => p t | _ => false
theorem next_of {o : Out} {p : State → Bool} (h : isNext o p = true) : ∃ t, o = .next t := by
  cases o with
  | next t => exact ⟨t, rfl⟩
  | _ => cases h
/-- The step runs it: s3 holds 12, and the PC is past its four bytes. -/
theorem test_step_add : isNext (step atAdd) (fun t => (t.strand 0).readS 3 == 12 && (t.strand 0).c.pc == 0x10004) = true := by decide +kernel
theorem witness_StepKeepsWf : State.reset.wf = true ∧ (∃ t, step State.reset = .next t) ∧ atAdd.wf = true ∧ ∃ t, step atAdd = .next t :=
  ⟨by decide +kernel, next_of (p := fun _ => true) (by decide +kernel), by decide +kernel, next_of test_step_add⟩
def okFetch (r : Except FetchStop (Instr × List Effect)) (i : Instr) : Bool := match r with | .ok (j, _) => j == i | .error _ => false
theorem fetch_of {r : Except FetchStop (Instr × List Effect)} {i : Instr} (h : okFetch r i = true) : ∃ fx, r = .ok (i, fx) := by
  cases r with
  | ok q => obtain ⟨j, fx⟩ := q; simp [okFetch] at h; exact ⟨fx, by rw [h]⟩
  | error e => cases h
/-- The state in which the granted strand of `atAdd` stands at its boundary. -/
noncomputable def atGrant : State :=
  let t := (Effect.turn (nextTurn (0, .c)).1 (nextTurn (0, .c)).2).apply atAdd
  (Effect.core 0 ((t.core 0).granted .c 0 (t.strand 0).sys.pri.toNat (fun j => requests exec t (8 * 0 + j) .c))).apply t
theorem witness_StepRunsDecoded : atAdd.pkg.frozen = false ∧ atAdd.pkg.mgmt.status = 1 ∧ atAdd.inputs = []
    ∧ (nextNote exec atAdd (liveCores atAdd)).isNone = true
    ∧ nextGrant exec atAdd (turnsLeft atAdd) = some ((0, .c), 0) ∧ boundaryOf 0 .c atGrant = none ∧ (atGrant.strand 0).idleOf .c = 0
    ∧ ∃ fx, fetchInstr atGrant 0 .c = .ok (.add { w := 0, b := 2, a := 1, d := 3 }, fx) :=
  ⟨by decide +kernel, by decide +kernel, by decide +kernel, by decide +kernel, by decide +kernel, by decide +kernel, by decide +kernel,
    fetch_of (r := fetchInstr atGrant 0 .c) (i := .add { w := 0, b := 2, a := 1, d := 3 }) (by decide +kernel)⟩
def okBytes (r : Except FetchStop (List Byte × List Effect)) (p : List Byte → Bool) : Bool := match r with | .ok (b, _) => p b | .error _ => false
theorem bytes_of {r : Except FetchStop (List Byte × List Effect)} {p : List Byte → Bool} (h : okBytes r p = true) :
    ∃ bs fx, r = .ok (bs, fx) ∧ p bs = true := by
  cases r with
  | ok q => obtain ⟨b, fx⟩ := q; exact ⟨b, fx, rfl, h⟩
  | error e => cases h
/-- Bytes that decode, and bytes of a reserved major that do not. -/
theorem witness_StepRunsDecoded_decode :
    (∃ bs fx, fetchBytes atGrant 0 .c ((atGrant.strand 0).pcOf .c) = .ok (bs, fx) ∧ (match decode bs with | .ok _ => true | .error _ => false) = true)
    ∧ ∃ bs fx, fetchBytes (placed1 State.reset 32 0x77) 0 .c (((placed1 State.reset 32 0x77).strand 0).pcOf .c) = .ok (bs, fx)
      ∧ (match decode bs with | .ok _ => false | .error _ => true) = true :=
  ⟨bytes_of (r := fetchBytes atGrant 0 .c ((atGrant.strand 0).pcOf .c))
      (p := fun bs => match decode bs with | .ok _ => true | .error _ => false) (by decide +kernel),
    bytes_of (r := fetchBytes (placed1 State.reset 32 0x77) 0 .c (((placed1 State.reset 32 0x77).strand 0).pcOf .c))
      (p := fun bs => match decode bs with | .ok _ => false | .error _ => true) (by decide +kernel)⟩
theorem witness_StepRunsDecoded_fetch : inWindow (0x10000 : Word) = false
    ∧ (match Machine.translate atAdd 0 1 false 0x10000 .x with
      | some x => decide (x.cls = .normal) && !x.pod && (memCheck atAdd true x.pa 2).isNone | none => false) = true
    ∧ (Machine.translate atAdd 0 1 false 0x20000 .x).isNone = true ∧ pageFail atAdd 0 1 0x20000 = .page
    ∧ inWindow (BitVec.ofNat 64 Config.winva) = true := by decide +kernel

end Sys2Proof
end

/-! The canonical form (log entry 7), kept by everything that a step of the package is built from. Every change of the state goes
through `Effect.apply`, which keeps it (`apply_wf`); what remains is to say, for each operation between `Effect.apply` and `step`, that
an outcome of it is built from effects. -/

namespace Sys2Proof.Machine

/-! ## Outcomes in canonical form -/

/-- An outcome whose next state, where it has one, is in canonical form. -/
def OutWf : Out → Prop
  | .next t => t.wf = true
  | .fault _ | .refused _ => True

theorem outWf_next {t : State} (h : t.wf = true) : OutWf (.next t) := h

/-- An outcome that is effects on a state in canonical form. -/
theorem outWf_applyAll {s : State} (h : s.wf = true) (es : List Effect) : OutWf (.next (applyAll es s)) :=
  outWf_next (applyAll_wf es s h)

theorem andThen_outWf {o : Out} (f : State → List Effect) (h : OutWf o) : OutWf (andThen o f) := by
  cases o with
  | next t => exact outWf_applyAll h (f t)
  | fault r => trivial
  | refused r => trivial

theorem focused_wf {s : State} (six : Nat) (st : Stream) (h : s.wf = true) : (s.focused six st).wf = true :=
  apply_wf (.focus six st) s h

/-- A stop is effects on the state in which the instruction began: those of the trap, or a wait recorded (R33, R185). -/
theorem onStop_eq_applyAll (x : Stop) (s : State) : ∃ es, onStop x s = applyAll es s := by
  cases x with
  | wait w => exact ⟨_, rfl⟩
  | trap t =>
    simp only [onStop]
    split
    · exact ⟨_, rfl⟩
    · exact ⟨trapEffects t s.six s, rfl⟩

theorem onStop_wf {s : State} (x : Stop) (h : s.wf = true) : (onStop x s).wf = true := by
  obtain ⟨es, he⟩ := onStop_eq_applyAll x s
  rw [he]
  exact applyAll_wf es s h

theorem issue_outWf (i : Info) (body : M Ctl) {s : State} (h : s.wf = true) : OutWf (issue i body s) :=
  outWf_next (run_wf onStop s _ s (fun x => onStop_wf x h) h)

theorem event_outWf (body : M Unit) {s : State} (h : s.wf = true) : OutWf (event body s) :=
  outWf_next (run_wf (fun _ s => s) s _ s (fun _ => h) h)

/-! ## What an instruction answers -/

/-- The two forms a meaning has: an instruction that is issued, and an event. -/
inductive Meaning (s : State) : Out → Prop
  | issue (i : Info) (body : M Ctl) : Meaning s (issue i body s)
  | event (body : M Unit) : Meaning s (event body s)

/-- A matrix instruction is issued, with its own body or, on a core of no quad, with the ILLEGAL trap as its body (R214). -/
theorem mxIssue_meaning (i : Info) (body : M Ctl) (s : State) : Meaning s (mxIssue i body s) := by
  unfold mxIssue
  split <;> exact .issue _ _

/-- Each arm of `exec` is an instruction that is issued, or an event, by its definition; the matrix instructions look first at the core
they are on. -/
theorem exec_meaning (i : Instr) (s : State) : Meaning s (exec i s) := by
  cases i
  case mma | mmaz | mtcx | mldt | mstt | mzt | mcvt | mtrn | tmov | tcfg => exact mxIssue_meaning _ _ s
  all_goals constructor

theorem Meaning.outWf {s : State} {o : Out} (m : Meaning s o) (h : s.wf = true) : OutWf o := by
  cases m with
  | issue i body => exact issue_outWf i body h
  | event body => exact event_outWf body h

/-! ## Grants, inputs and the step of the package, over any meaning of instructions that keeps the canonical form -/

section
variable {ex : Instr → State → Out} (hex : ∀ i s, s.wf = true → OutWf (ex i s))
include hex

theorem attempt_outWf (six : Nat) (st : Stream) {s : State} (h : s.wf = true) : OutWf (attempt ex six st s) := by
  unfold attempt
  split
  · exact outWf_next h
  split
  · exact outWf_applyAll h _
  split
  next i fx _ => exact hex i _ (focused_wf six st (applyAll_wf fx s h))
  next t _ => exact outWf_next (onStop_wf (.trap t) (focused_wf six st h))
  next => exact outWf_applyAll h _

theorem attend_outWf (six : Nat) (st : Stream) {s : State} (h : s.wf = true) : OutWf (attend ex six st s) := by
  unfold attend
  split
  · exact outWf_applyAll h _
  · exact attempt_outWf hex six st h

theorem grant_outWf (core : Nat) (st : Stream) (k : Nat) {s : State} (h : s.wf = true) : OutWf (grant ex core st k s) := by
  have h' := fun y => apply_wf (.core core y) s h
  refine andThen_outWf _ ?_
  split
  · exact outWf_applyAll (h' _) _
  · exact attend_outWf hex _ st (h' _)

theorem grantTurn_outWf (g : (Nat × Stream) × Nat) {s : State} (h : s.wf = true) : OutWf (grantTurn ex g s) :=
  grant_outWf hex _ _ _ (apply_wf (.turn _ _) s h)

/-- What a stream notes is its attempt (R297). -/
theorem noted_outWf (six : Nat) (st : Stream) {s : State} {o : Out} (h : s.wf = true) (ho : noted ex s six st = some o) : OutWf o := by
  have hw := attempt_outWf hex six st h
  simp only [noted, Option.ite_none_right_eq_some, Option.some.injEq] at ho
  obtain ⟨-, -, rfl⟩ := ho
  exact hw

theorem nextNote_outWf (cores : List Nat) {s : State} {o : Out} (h : s.wf = true) (ho : nextNote ex s cores = some o) : OutWf o := by
  obtain ⟨c, -, hc⟩ := List.exists_of_findSome?_eq_some ho
  obtain ⟨k, -, hk⟩ := List.exists_of_findSome?_eq_some hc
  rcases Option.or_eq_some_iff.mp hk with hn | ⟨-, hn⟩
  · exact noted_outWf hex _ _ h hn
  · exact noted_outWf hex _ _ h hn

theorem background_outWf {s : State} {o : Out} (h : s.wf = true) (ho : background ex s = some o) : OutWf o := by
  obtain ⟨e, -, rfl⟩ := Option.map_eq_some_iff.mp ho
  exact hex e s h

theorem deviceStep_outWf {s : State} (h : s.wf = true) : OutWf (deviceStep ex s) := by
  unfold deviceStep
  split
  next o ho => exact nextNote_outWf hex _ h ho
  split
  next g _ => exact grantTurn_outWf hex g h
  split
  next o ho => exact andThen_outWf _ (background_outWf hex h ho)
  split
  next g _ => exact grantTurn_outWf hex g h
  next => exact outWf_next h

theorem performInput_outWf (x : Input) {s : State} (h : s.wf = true) : OutWf (performInput ex x s) := by
  cases x
  case event i =>
    simp only [performInput]
    split
    · exact hex i s h
    · exact outWf_next h
  case grant core st =>
    simp only [performInput]
    split
    · exact grant_outWf hex core st _ h
    · exact outWf_next h
  case podAck => exact event_outWf _ h
  all_goals exact outWf_applyAll h _

theorem stoppedStep_outWf (why : Fault) {s : State} (h : s.wf = true) : OutWf (stoppedStep ex why s) := by
  have h' := fun r => apply_wf (.inputs r) s h
  unfold stoppedStep
  split
  · trivial
  · exact hex .reset _ (h' _)
  · exact outWf_applyAll (h' _) _
  · exact outWf_applyAll (h' _) _
  · exact outWf_applyAll (h' _) _
  · exact outWf_next (h' _)

theorem runningStep_outWf {s : State} (h : s.wf = true) : OutWf (runningStep ex s) := by
  unfold runningStep
  split
  · exact outWf_applyAll h _
  split
  · exact performInput_outWf hex _ (apply_wf (.inputs _) s h)
  · exact deviceStep_outWf hex h

theorem packageStep_outWf {s : State} (h : s.wf = true) : OutWf (packageStep ex s) := by
  unfold packageStep
  split
  · exact stoppedStep_outWf hex .frozen h
  split
  · exact stoppedStep_outWf hex .resetHold h
  · exact runningStep_outWf hex h

end

theorem step_outWf {s : State} (h : s.wf = true) : OutWf (step s) := packageStep_outWf (fun i _ hs => (exec_meaning i _).outWf hs) h

/-! ## The obligations -/

/-- Settles O56: an instruction's meaning, a grant, an input and the boot ROM change the state through effects alone, and every effect
keeps the canonical form. -/
theorem stepKeepsWf : Obligations.StepKeepsWf := by
  intro s t h ht
  have hs := step_outWf h
  rwa [ht] at hs

/-- Settles O58, from the laws of byte memories. -/
theorem memoryReadWrite : Obligations.MemoryReadWrite := fun m a n v =>
  ⟨memRead_write m a n v, fun b hb => memGet_write_other m a n v b hb, fun i hi => memGet_write m a n v i hi, memWf_write m a n v⟩

end Sys2Proof.Machine

/-! Which stream an instruction is issued in (R13, R24, R214): no instruction of one stream only, and no access to space L in the
C-stream, passes the checks before issue in a stream that does not have it. -/

namespace Sys2Proof.Machine

/-! ## An instruction that a stream does not have -/

/-- What an instruction answers that is issued with its own word (the TADDR of R56) and with streams that leave out `st`. -/
inductive IssuedNotIn (st : Stream) (i : Instr) (s : State) : Out → Prop
  | issue (x : Info) (body : M Ctl) (word : x.enc = encode i) (absent : x.strms.contains st = false) :
      IssuedNotIn st i s (issue x body s)

/-- The first check before issue (R24, R33): STREAM with subcode WRONG, and nothing of the instruction's body. -/
theorem IssuedNotIn.traps {i : Instr} {st : Stream} {s : State} {o : Out} (h : IssuedNotIn st i s o) (hst : s.stream = st) :
    o = .next (onStop (.trap { cause := 2, sub := 1, addr := BitVec.ofNat 64 (encode i), strm := st }) s) := by
  subst hst
  obtain ⟨x, body, word, absent⟩ := h
  refine issue_stop x body s _ ?_
  simp only [issueStop, absent, word, Bool.not_false, if_true]

/-- Format M: the V-stream has no access of it, and no stream has one to space L (R13, R53). -/
theorem infoM_issuedNotIn {i : Instr} {s : State} {st : Stream} {enc space : Nat} {uses : List RegId} (body : M Ctl)
    (word : enc = encode i) (h : space = 3 ∨ st = .v) : IssuedNotIn st i s (issue (infoM enc space uses) body s) := by
  refine .issue _ body word ?_
  rcases h with rfl | rfl
  · rfl
  · simp only [infoM]; split <;> rfl

/-- On a core of a quad a matrix instruction is issued as any other (R214). -/
theorem mxIssue_issuedNotIn {i : Instr} {s : State} {st : Stream} {x : Info} (body : M Ctl) (word : x.enc = encode i)
    (absent : x.strms.contains st = false) (quad : isCompute s.coreNo = true) : IssuedNotIn st i s (mxIssue x body s) := by
  simp only [mxIssue, quad, if_true]
  exact .issue x body word absent

/-- Every instruction of one stream only is issued so, each by its own arm of `exec`; an event is in no stream. -/
theorem exec_issuedNotIn {i : Instr} {st : Stream} (s : State) (only : i.only = some st)
    (quad : i.matrix = true → isCompute s.coreNo = true) : IssuedNotIn (other st) i s (exec i s) := by
  cases i <;> cases only
  case mma | mmaz | mtcx | mldt | mstt | mzt | mcvt | mtrn | tmov | tcfg =>
    exact mxIssue_issuedNotIn _ rfl rfl (quad rfl)
  case ldbn | ldhn | ldwn | ldd | ldb | ldh | ldw | stb | sth | stw | std | ldacq | strel =>
    exact infoM_issuedNotIn _ rfl (.inr rfl)
  all_goals exact .issue _ _ rfl rfl

/-! ## Space L in the C-stream -/

theorem load_issuedNotIn {e : (Sys2Proof.Mem → Instr) × Nat × Bool} (he : e ∈ loads) (o : Sys2Proof.Mem) (s : State)
    (h : o.space.toNat = 3) : IssuedNotIn .c (e.1 o) s (exec (e.1 o) s) := by
  simp only [loads, List.mem_cons, List.not_mem_nil, or_false] at he
  rcases he with rfl | rfl | rfl | rfl | rfl | rfl | rfl <;> exact infoM_issuedNotIn _ rfl (.inl h)

theorem store_issuedNotIn {e : (Sys2Proof.Mem → Instr) × Nat} (he : e ∈ stores) (o : Sys2Proof.Mem) (s : State)
    (h : o.space.toNat = 3) : IssuedNotIn .c (e.1 o) s (exec (e.1 o) s) := by
  simp only [stores, List.mem_cons, List.not_mem_nil, or_false] at he
  rcases he with rfl | rfl | rfl | rfl <;> exact infoM_issuedNotIn _ rfl (.inl h)

/-! ## Matrix instructions on a core of no quad -/

/-- Off a quad a matrix instruction is issued in both streams and uses no register, so no check before issue stops it; its body is the
ILLEGAL trap (R214, R56; log entry 59). -/
theorem mxIssue_offQuad (x : Info) (body : M Ctl) (s : State) (user : x.priv = false) (off : isCompute s.coreNo = false) :
    mxIssue x body s
      = .next (onStop (.trap { cause := 1, sub := 0, addr := BitVec.ofNat 64 x.enc, strm := s.stream }) s) := by
  have pass : issueStop { x with strms := [.c, .v], uses := [] } s.stream (s.me.landSt s.stream) = none := by
    have noUse : ∀ ps : List Pend, ps.find? (fun _ => false) = none := fun ps => List.find?_eq_none.mpr (by simp)
    cases s.stream <;> simp [issueStop, user, noUse]
  simp only [mxIssue, off, Bool.false_eq_true, if_false, issue_next _ _ s pass, m_trap, run_get, run_stop, landed_stream]

theorem exec_matrix_offQuad {i : Instr} (s : State) (hm : i.matrix = true) (off : isCompute s.coreNo = false) :
    exec i s = .next (onStop (.trap { cause := 1, sub := 0, addr := BitVec.ofNat 64 (encode i), strm := s.stream }) s) := by
  cases i <;> cases hm <;> exact mxIssue_offQuad _ _ s rfl off

/-! ## The obligation -/

/-- Settles O14: the checks before issue stop an instruction of the other stream, and one in space L, with its own word. -/
theorem wrongStream : Obligations.WrongStream := by
  refine ⟨fun i st s only hst quad => ?_, fun i s => exec_matrix_offQuad s, fun e he o s hsp hst => ?_, fun e he o s hsp hst => ?_,
    fun o s hsp hst => ?_⟩
  · rw [hst]
    exact (exec_issuedNotIn s only quad).traps hst
  · exact (load_issuedNotIn he o s (congrArg BitVec.toNat hsp)).traps hst
  · exact (store_issuedNotIn he o s (congrArg BitVec.toNat hsp)).traps hst
  · have space : o.space.toNat = 3 := congrArg BitVec.toNat hsp
    have ldacq : IssuedNotIn .c (.ldacq o) s (exec (.ldacq o) s) := infoM_issuedNotIn _ rfl (.inl space)
    have strel : IssuedNotIn .c (.strel o) s (exec (.strel o) s) := infoM_issuedNotIn _ rfl (.inl space)
    exact ⟨ldacq.traps hst, strel.traps hst⟩

end Sys2Proof.Machine

/-! Stream coupling (R19 to R22, R139 to R141): what VSTART does to the V-stream's stall count. -/

namespace Sys2Proof.Machine

/-- VSTART of a strand whose V-stream does not run (R22): the V-stream starts at its target and idles for no step that a w count before
it has left. -/
theorem exec_vstart (o : J0) {s : State} (hr : s.ready .c) (hv : s.me.sys.vrun = false) :
    exec (.vstart o) s
      = .next ((s.landed.withMe { s.landed.me with
          sys := { s.landed.me.sys with vrun := true },
          v := { s.landed.me.v with pc := target s.pc o.disp, idle := 0, wait := .none } }).ended .c 4 0) := by
  have hst : s.stream = .c := hr.1
  refine (issue_infoC _ _ _ _ _ hr).trans ?_
  simp only [m_bind, m_getS, m_pure, run_get, landed_me, landSt_sys, hv, m_stallIf_false, run_getPc, run_modMe, run_finish_ended,
    infoC_len, infoC_w, run_done, landed_stream, landSt_pcOf, State.pc]

/-- The C-stream's end of an instruction is no step of the V-stream. -/
theorem ended_c_idle (s : State) (n w : Nat) : (s.ended .c n w).me.v.idle = s.me.v.idle := by
  rw [State.ended, withMe_me]
  rfl

theorem landC_idle (x : Strand) : x.landC.v.idle = x.v.idle := by
  refine landList_field (·.v.idle) (fun x r p => ?_) x _ _
  cases r <;> cases p <;> simp only [Strand.setReg] <;> split <;> rfl

/-- The C-stream after a VEND with w = 1: the V-stream has stopped with one step to idle. -/
def afterVend : State :=
  match exec (.vend { w := 1 }) atV with
  | .next t => t.focused 0 .c
  | _ => atC

theorem afterVend_ready : afterVend.ready .c := by unfold State.ready; decide +kernel
theorem afterVend_stopped : afterVend.me.sys.vrun = false ∧ afterVend.me.v.idle = 1 := by decide +kernel

/-- Refutes O33: its clause for VSTART leaves the V-stream's idle steps as they were, and VSTART clears them. After a VEND with w = 1
one such step is left. -/
theorem not_couplingResult : ¬ Obligations.CouplingResult := by
  intro ⟨_, _, _, vstart, _⟩
  obtain ⟨stopped, idle⟩ := afterVend_stopped
  have claimed := vstart { disp := 0 } afterVend afterVend_ready stopped
  rw [exec_vstart _ afterVend_ready stopped] at claimed
  injection claimed with same
  have idles := congrArg (fun t : State => t.me.v.idle) same
  simp only [ended_c_idle, withMe_me, landed_me, afterVend_ready.1, Strand.landSt, landC_idle, idle] at idles
  exact absurd idles (by decide)

end Sys2Proof.Machine

/-! The register-register integer instructions (R85, R39): what each shared form of them answers, the functions of the table against
those of the model, and the bit counts bit by bit. -/

namespace Sys2Proof.Machine

/-! ## The shared forms -/

theorem alu_next (fn : Nat) (o : A3) (lat : Nat) (f : Word → Word → Word → Word) {s : State} (hr : s.ready .c) :
    alu fn o lat f s
      = .next ((s.landed.wrote (.s o.d.toNat) (.word (f (s.sreg o.a) (s.sreg o.b) (s.sreg o.d))) lat).advanced 4 o.w.toNat) := by
  refine (issue_infoC _ _ _ _ _ hr).trans ?_
  simp only [aluProg, m_bind, m_pure, run_getSr_landed, run_land]
  rw [run_finish_next _ _ _ _ _ _ (by simp [hr.1])]
  rfl

theorem aluSb_next (fn : Nat) (o : A3) (f : Word → Word → Word) {s : State} (hr : s.ready .c) :
    aluSb fn o f s
      = .next ((s.landed.wrote (.s o.d.toNat) (.word (f (s.sreg o.a) (s.sreg o.b))) 1).advanced 4 o.w.toNat) := by
  refine (issue_infoC _ _ _ _ _ hr).trans ?_
  simp only [aluScored, m_bind, m_pure, run_getSr_landed, run_giveS]
  rw [run_finish_next _ _ _ _ _ _ (by simp [hr.1])]
  rfl

theorem alu1_next (fn : Nat) (o : A2) (f : Word → Word) {s : State} (hr : s.ready .c) :
    alu1 fn o f s = .next ((s.landed.wrote (.s o.d.toNat) (.word (f (s.sreg o.a))) 1).advanced 4 o.w.toNat) := by
  refine (issue_infoC _ _ _ _ _ hr).trans ?_
  simp only [aluOne, m_bind, m_pure, run_getSr_landed, run_land]
  rw [run_finish_next _ _ _ _ _ _ (by simp [hr.1])]
  rfl

/-! ## The functions of R85 -/

/-- Where equal keys choose the same word, a strict and a weak comparison choose alike. -/
theorem ite_lt_eq_ite_le {α : Type} [LinearOrder α] {k l : α} {x y : Word} (tie : k = l → x = y) :
    (if k < l then x else y) = if k ≤ l then x else y := by
  rcases lt_trichotomy k l with h | h | h
  · rw [if_pos h, if_pos h.le]
  · rw [tie h, ite_self, ite_self]
  · rw [if_neg h.not_gt, if_neg h.not_ge]

theorem minWord_eq (a b : Word) : (if a.slt b then a else b) = if a.toInt ≤ b.toInt then a else b := by
  simp only [BitVec.slt, decide_eq_true_eq]
  exact ite_lt_eq_ite_le BitVec.eq_of_toInt_eq

theorem maxWord_eq (a b : Word) : (if a.slt b then b else a) = if a.toInt ≤ b.toInt then b else a := by
  simp only [BitVec.slt, decide_eq_true_eq]
  exact ite_lt_eq_ite_le fun h => (BitVec.eq_of_toInt_eq h).symm

theorem minnWord_eq (a b : Word) : (if a.ult b then a else b) = if a.toNat ≤ b.toNat then a else b := by
  simp only [BitVec.ult, decide_eq_true_eq]
  exact ite_lt_eq_ite_le BitVec.eq_of_toNat_eq

theorem maxnWord_eq (a b : Word) : (if a.ult b then b else a) = if a.toNat ≤ b.toNat then b else a := by
  simp only [BitVec.ult, decide_eq_true_eq]
  exact ite_lt_eq_ite_le fun h => (BitVec.eq_of_toNat_eq h).symm

theorem truth_decide (p : Prop) [Decidable p] : truth (decide p) = if p then 1 else 0 := by
  simp only [truth, decide_eq_true_eq]

/-- Each three-operand entry of the table is issued in one of the two forms, with the table's latency and function. -/
theorem exec_intOps : ∀ e ∈ intOps, ∀ (o : A3) (s : State),
    (∃ fn, exec (e.1 o) s = alu fn o e.2.1 e.2.2 s)
    ∨ ∃ fn f, exec (e.1 o) s = aluSb fn o f s ∧ e.2 = (1, fun a b _ => f a b) := by
  have compare (fn : Nat) (o : A3) (s : State) {f g : Word → Word → Word} (h : ∀ a b, f a b = g a b) :
      ∃ n, alu fn o 1 (fun a b _ => f a b) s = alu n o 1 (fun a b _ => g a b) s := ⟨fn, by simp only [h]⟩
  simp only [intOps, List.forall_mem_cons, List.not_mem_nil, false_imp_iff, implies_true, and_true]
  refine ⟨?add, ?sub, ?and, ?or, ?xor, ?andn, ?orn, ?xnor, ?shl, ?shr, ?shra, ?rot, ?min, ?max, ?minn, ?maxn, ?cmpeq, ?cmplt, ?cmpltn,
    ?cmple, ?cmplen, ?sel, ?mul, ?mulh, ?mulhn, ?div, ?divn, ?rem, ?remn⟩
  case min => exact fun o s => .inl (compare 12 o s minWord_eq)
  case max => exact fun o s => .inl (compare 13 o s maxWord_eq)
  case minn => exact fun o s => .inl (compare 14 o s minnWord_eq)
  case maxn => exact fun o s => .inl (compare 15 o s maxnWord_eq)
  case cmpeq => exact fun o s => .inl (compare 16 o s fun a b => truth_decide (a = b))
  case cmplt => exact fun o s => .inl (compare 17 o s fun a b => truth_decide (a.toInt < b.toInt))
  case cmpltn => exact fun o s => .inl (compare 18 o s fun a b => truth_decide (a.toNat < b.toNat))
  case cmple => exact fun o s => .inl (compare 19 o s fun a b => truth_decide (a.toInt ≤ b.toInt))
  case cmplen => exact fun o s => .inl (compare 20 o s fun a b => truth_decide (a.toNat ≤ b.toNat))
  case sel => exact fun o s => .inl ⟨21, congrArg (alu 21 o 1 · s) (funext fun a => funext fun b => funext fun d => ite_not (d = 0) a b)⟩
  case div | divn | rem | remn => exact fun o s => .inr ⟨_, _, rfl, rfl⟩
  all_goals exact fun o s => .inl ⟨_, rfl⟩

/-- Each one-operand entry of the table is issued with its function. -/
theorem exec_intOps1 : ∀ e ∈ intOps1, ∀ (o : A2) (s : State), ∃ fn, exec (e.1 o) s = alu1 fn o e.2 s := by
  simp only [intOps1, List.forall_mem_cons, List.not_mem_nil, false_imp_iff, implies_true, and_true]
  exact ⟨fun o s => ⟨_, rfl⟩, fun o s => ⟨_, rfl⟩, fun o s => ⟨_, rfl⟩, fun o s => ⟨_, rfl⟩, fun o s => ⟨_, rfl⟩, fun o s => ⟨_, rfl⟩,
    fun o s => ⟨_, rfl⟩⟩

theorem integerResult_holds : integerResult := by
  refine ⟨fun e he o s hr => ?_, fun e he o s hr => ?_⟩
  · rcases exec_intOps e he o s with ⟨fn, h⟩ | ⟨fn, f, h, table⟩
    · rw [h, alu_next fn o _ _ hr]
    · rw [h, table, aluSb_next fn o f hr]
  · obtain ⟨fn, h⟩ := exec_intOps1 e he o s
    rw [h, alu1_next fn o _ hr]

/-! ## Bit counts and byte order -/

theorem toNat_clzWord {a : Word} (h : a ≠ 0) : (clzWord a).toNat = 63 - a.toNat.log2 := by
  rw [clzWord, if_neg h, BitVec.toNat_ofNat]
  exact Nat.mod_eq_of_lt (by omega)

theorem log2_toNat_le {a : Word} (h : a.toNat ≠ 0) : a.toNat.log2 ≤ 63 := Nat.lt_succ_iff.mp ((Nat.log2_lt h).mpr a.isLt)

/-- The first one bit from the top (R85). -/
theorem clzWord_first {a : Word} (h : a ≠ 0) : (clzWord a).toNat ≤ 63 ∧ a.getLsbD (63 - (clzWord a).toNat) = true
    ∧ ∀ i, 63 - (clzWord a).toNat < i → a.getLsbD i = false := by
  have nz : a.toNat ≠ 0 := fun z => h (BitVec.eq_of_toNat_eq z)
  have top : 63 - (clzWord a).toNat = a.toNat.log2 := by
    have := log2_toNat_le nz
    rw [toNat_clzWord h]
    omega
  rw [top]
  refine ⟨by rw [toNat_clzWord h]; omega, Nat.testBit_log2 nz, fun i hi => ?_⟩
  exact Nat.testBit_lt_two_pow (Nat.lt_log2_self.trans_le (Nat.pow_le_pow_right (by decide) hi))

/-- The first one bit from the bottom (R85). -/
theorem ctzWord_first {a : Word} (h : a ≠ 0) : (ctzWord a).toNat ≤ 63 ∧ a.getLsbD (ctzWord a).toNat = true
    ∧ ∀ i, i < (ctzWord a).toNat → a.getLsbD i = false := by
  unfold ctzWord
  cases hf : (List.range 64).find? (fun i => a.getLsbD i) with
  | none =>
    rw [List.find?_range_eq_none] at hf
    exact absurd (BitVec.eq_of_getLsbD_eq fun i hi => by simpa using hf i hi) h
  | some i =>
    obtain ⟨one, hi, below⟩ := List.find?_range_eq_some.mp hf
    have lt : i < 64 := List.mem_range.mp hi
    have at' : (BitVec.ofNat 64 ((some i).getD 64)).toNat = i := Nat.mod_eq_of_lt (by simp only [Option.getD_some]; omega)
    rw [at']
    exact ⟨by omega, one, fun j hj => by simpa using below j hj⟩

theorem toNat_popcWord (a : Word) : (popcWord a).toNat = (List.range 64).countP (fun i => a.getLsbD i) := by
  rw [List.countP_eq_length_filter, popcWord, BitVec.toNat_ofNat]
  refine Nat.mod_eq_of_lt ?_
  have := List.length_filter_le (fun i => a.getLsbD i) (List.range 64)
  rw [List.length_range] at this
  omega

/-- Bytes put together highest first: byte `i` of `n` is the one put in `i`-th from the end. -/
theorem testBit_bytes (g : Nat → Nat) (hg : ∀ i, g i < 2 ^ 8) (n i j : Nat) (hi : i < n) (hj : j < 8) :
    ((List.range n).foldl (fun acc k => acc * 256 + g k) 0).testBit (8 * i + j) = (g (n - 1 - i)).testBit j := by
  induction n generalizing i with
  | zero => omega
  | succ n ih =>
    rw [List.range_succ, List.foldl_append, List.foldl_cons, List.foldl_nil, Nat.mul_comm _ 256,
      Nat.testBit_two_pow_mul_add (i := 8) _ (hg n)]
    cases i with
    | zero => rw [if_pos (by omega)]; simp
    | succ i =>
      rw [if_neg (by omega), show 8 * (i + 1) + j - 8 = 8 * i + j by omega, ih i (by omega)]
      congr 2
      omega

/-- BSWAP moves byte `7 - i` to byte `i` (R85). -/
theorem getLsbD_bswapWord (a : Word) (i j : Nat) (hi : i < 8) (hj : j < 8) :
    (bswapWord a).getLsbD (8 * i + j) = a.getLsbD (8 * (7 - i) + j) := by
  rw [bswapWord, BitVec.getLsbD_ofNat, decide_eq_true (by omega), Bool.true_and,
    testBit_bytes (fun k => a.toNat / 256 ^ k % 256) (fun k => Nat.mod_lt _ (by decide)) 8 i j hi hj,
    show (256 : Nat) = 2 ^ 8 by rfl, ← Nat.pow_mul, Nat.testBit_mod_two_pow, decide_eq_true hj, Bool.true_and, Nat.testBit_div_two_pow,
    Nat.add_comm]
  rfl

theorem bitCounts_hold : bitCounts :=
  ⟨fun _ => ⟨rfl, by decide, fun h => by
      obtain ⟨le, top, above⟩ := clzWord_first h
      exact ⟨le, top, above, ctzWord_first h⟩⟩,
    toNat_popcWord, getLsbD_bswapWord⟩

/-- Settles O2: each entry of the two tables is issued in its form, with a function equal to the table's; the counts by their bits. -/
theorem integerResult : Obligations.IntegerResult := ⟨integerResult_holds, bitCounts_hold⟩

end Sys2Proof.Machine

/-! Alignment of the accesses of format M (R92, R94): the first check of an access of any space. -/

namespace Sys2Proof.Machine

/-- Check 1 of R94: an access that is not aligned traps before anything else of it happens, unless it is the return to an access of space
G that has left for another package. -/
theorem run_access_misaligned (f : Stop → State → State) (s0 s : State) {sp : Space} {op : MemOp} {ea : Word} (acq rel : Bool)
    (k : Unit → Prog) (checked : op.anyAlign = false) (off : ea.toNat % op.bytes ≠ 0) (new : sp = .g → s.sent = none) :
    Prog.run f s0 (access sp op ea acq rel k) s = f (.trap { cause := 4, sub := 0, addr := ea, strm := s.stream }) s0 := by
  have off' := decide_eq_true off
  cases sp
  case g => simp only [access, accessG, m_bind, m_getS, run_get, new rfl, checked, off', Bool.not_false, Bool.true_and,
      m_trapIf_true, run_stop]
  all_goals simp only [access, accessLocal, m_bind, m_getS, run_get, off', m_trapIf_true, run_stop]

/-- The spaces of the C-stream (R13, R53): none of them is L, and space G has code 0. -/
theorem space_cases {n : BitVec 3} (h : n ∈ [0#3, 1#3, 2#3, 4#3]) : n.toNat ≠ 3 ∧ (spaceOf n.toNat = .g → n = 0#3) := by
  revert n; decide

/-- A misaligned load of format M (R92, R94): its effective address in TADDR. -/
theorem loadM_misaligned (major ord : Nat) (signed : Bool) (o : Sys2Proof.Mem) {s : State} (hr : s.ready .c)
    (space : o.space ∈ [0#3, 1#3, 2#3, 4#3]) (new : o.space = 0#3 → s.landed.sent = none)
    (off : (effAddr (s.sreg o.base) o.off (2 ^ ord)).toNat % 2 ^ ord ≠ 0) :
    loadM major ord signed o s
      = .next (onStop (.trap { cause := 4, sub := 0, addr := effAddr (s.sreg o.base) o.off (2 ^ ord), strm := .c }) s) := by
  obtain ⟨notL, g⟩ := space_cases space
  refine (issue_infoM _ _ _ _ _ hr notL).trans ?_
  simp only [m_bind, run_getSr_landed]
  rw [run_access_misaligned onStop s s.landed _ _ _ rfl off (fun h => new (g h)), landed_stream, hr.1]

/-- A misaligned store of format M. -/
theorem storeM_misaligned (ord : Nat) (o : Sys2Proof.Mem) {s : State} (hr : s.ready .c)
    (space : o.space ∈ [0#3, 1#3, 2#3, 4#3]) (new : o.space = 0#3 → s.landed.sent = none)
    (off : (effAddr (s.sreg o.base) o.off (2 ^ ord)).toNat % 2 ^ ord ≠ 0) :
    storeM ord o s
      = .next (onStop (.trap { cause := 4, sub := 0, addr := effAddr (s.sreg o.base) o.off (2 ^ ord), strm := .c }) s) := by
  obtain ⟨notL, g⟩ := space_cases space
  refine (issue_infoM _ _ _ _ _ hr notL).trans ?_
  simp only [m_bind, run_getSr_landed]
  rw [run_access_misaligned onStop s s.landed _ _ _ rfl off (fun h => new (g h)), landed_stream, hr.1]

/-- Settles O12: each load and each store of the lists is one of format M with its size. -/
theorem misalignedAccess : Obligations.MisalignedAccess := by
  refine ⟨fun e he o s hr space new off => ?_, fun e he o s hr space new off => ?_⟩
  · simp only [loads, List.mem_cons, List.not_mem_nil, or_false] at he
    rcases he with rfl | rfl | rfl | rfl | rfl | rfl | rfl <;> exact loadM_misaligned _ _ _ o hr space new off
  · simp only [stores, List.mem_cons, List.not_mem_nil, or_false] at he
    rcases he with rfl | rfl | rfl | rfl <;> exact storeM_misaligned _ o hr space new off

end Sys2Proof.Machine

/-! The mask instructions (R125). -/

namespace Sys2Proof.Machine

/-- A V-stream instruction of two mask operands and one mask result (R125). -/
theorem issue_maskPair (f : Lane → Lane → Lane) (e w d a b : Nat) (u : List RegId) {s : State} (hr : s.ready .v) :
    issue (infoV e w u) (do
      let x ← getM a
      let y ← getM b
      land (.m d) (.mask (f x y)) 1
      pure .next) s
      = .next ((s.landed.wrote (.m d) (.mask (f (s.landed.me.readM a) (s.landed.me.readM b))) 1).ended .v 4 w) := by
  rw [issue_infoV _ _ _ _ _ hr]
  simp only [m_bind, run_getM, run_land, m_pure, run_finish_ended, infoV_len, infoV_w, run_done]

/-- A V-stream instruction of one mask operand (R125). -/
theorem issue_maskOne (f : Lane → PVal) (r : RegId) (e w a lat : Nat) (u : List RegId) {s : State} (hr : s.ready .v) :
    issue (infoV e w u) (do
      let x ← getM a
      land r (f x) lat
      pure .next) s
      = .next ((s.landed.wrote r (f (s.landed.me.readM a)) lat).ended .v 4 w) := by
  rw [issue_infoV _ _ _ _ _ hr]
  simp only [m_bind, run_getM, run_land, m_pure, run_finish_ended, infoV_len, infoV_w, run_done]

/-- Settles O60: each mask instruction reads its masks, lands its result and ends; the first of the set lanes is the head of their list. -/
theorem maskInstructions : Obligations.MaskInstructions := by
  refine ⟨fun o s hr _ _ _ _ => ⟨?_, ?_⟩, fun o s hr _ => ⟨fun _ _ => ?_, fun _ => ⟨?_, ?_⟩⟩⟩
  · exact issue_maskPair (· &&& ·) _ _ _ _ _ _ hr
  · exact issue_maskPair (· ||| ·) _ _ _ _ _ _ hr
  · exact issue_maskOne (fun a => .mask (~~~a)) _ _ _ _ _ _ hr
  · exact issue_maskOne (fun a => .word (BitVec.ofNat 64 ((List.range 32).filter (fun i => a.getLsbD i)).length)) _ _ _ _ _ _ hr
  · rw [List.head?_filter]
    exact issue_maskOne (fun a => .word (BitVec.ofNat 64 (((List.range 32).find? (fun i => a.getLsbD i)).getD 32))) _ _ _ _ _ _ hr

end Sys2Proof.Machine

/-! The end of a firing (R32, R154, R188): FIN names no register, so no check before issue stops it in the C-stream; and its body, which
FIN and C_FIN share, by what of steps 1 to 3 of R32 is over. -/

namespace Sys2Proof.Machine

/-- A C-stream instruction that names no register is issued, whatever awaits a result and whatever CHK holds (R36, R38). -/
theorem issueStop_noRegister {i : Info} {st : Stream} (x : Strand) (inStream : i.strms.contains st = true) (user : i.priv = false)
    (bare : i.uses = []) : issueStop i st x = none := by
  have noUse : (x.c.pend ++ x.v.pend).find? (fun p => ([] : List RegId).contains p.reg) = none := List.find?_eq_none.mpr (by simp)
  simp only [issueStop, inStream, user, bare, noUse, Bool.not_true, Bool.false_and, Bool.false_eq_true, if_false, List.any_nil, ite_self]

theorem issue_noRegister {i : Info} (body : M Ctl) {s : State} (inStream : i.strms.contains s.stream = true) (user : i.priv = false)
    (bare : i.uses = []) :
    issue i body s = .next (Prog.run onStop s (body (fun c => finishIssue i s.stream c (fun _ => .done))) s.landed) :=
  issue_next i body s (issueStop_noRegister _ inStream user bare)

variable (f : Stop → State → State) (s0 : State)

/-- Steps 1 to 3 of R32 over: FIN's effects. -/
theorem run_finBody_done (s : State) (k : Ctl → Prog) (depth : s.me.saving = true ∨ s.me.sys.dsdepth = 0)
    (v : s.me.saving = true ∨ s.me.sys.vrun = false) (await : s.me.await = []) (out : outstanding s s.six = false) :
    Prog.run f s0 (finBody k) s
      = Prog.run f s0 (k .placed) (applyAll (if s.me.saving then saveFiring s.six s else endFiring s.six s) s) := by
  have gate : (!s.me.saving && decide (s.me.sys.dsdepth ≠ 0)) = false := by rcases depth with h | h <;> simp [h]
  have idle : (!s.me.saving && s.me.sys.vrun) = false := by rcases v with h | h <;> simp [h]
  simp only [finBody, finWaits, m_bind, m_getS, run_get, gate, idle, await, out, m_trapIf_false, m_stallIf_false, run_puts, m_pure,
    ne_eq, not_true_eq_false, decide_false]

/-- A gate is open (R154): GATE with subcode FIN, before any wait. -/
theorem run_finBody_gated (s : State) (k : Ctl → Prog) (save : s.me.saving = false) (depth : s.me.sys.dsdepth ≠ 0) :
    Prog.run f s0 (finBody k) s = f (.trap { cause := 13, sub := 10, addr := 0, strm := s.stream }) s0 := by
  simp only [finBody, m_bind, m_getS, run_get, save, decide_eq_true depth, Bool.not_false, Bool.true_and, m_trapIf_true, run_stop]

/-- One of steps 1 to 3 of R32 is not over: FIN waits, whichever it is. -/
theorem run_finBody_waits (s : State) (k : Ctl → Prog) (depth : s.me.saving = true ∨ s.me.sys.dsdepth = 0)
    (busy : (s.me.saving = false ∧ s.me.sys.vrun = true) ∨ s.me.await ≠ [] ∨ outstanding s s.six = true) :
    Prog.run f s0 (finBody k) s = f (.wait .fin) s0 := by
  have gate : (!s.me.saving && decide (s.me.sys.dsdepth ≠ 0)) = false := by rcases depth with h | h <;> simp [h]
  simp only [finBody, finWaits, m_bind, m_getS, run_get, gate, m_trapIf_false]
  by_cases idle : (!s.me.saving && s.me.sys.vrun) = true
  · simp only [idle, m_stallIf_true, run_stop]
  simp only [idle, m_stallIf_false]
  by_cases await : s.me.await = []
  · have out : outstanding s s.six = true := by
      rcases busy with ⟨save, run⟩ | h | h
      · simp [save, run] at idle
      · exact absurd await h
      · exact h
    simp only [await, ne_eq, not_true_eq_false, decide_false, m_stallIf_false, out, m_stallIf_true, run_stop]
  · simp only [await, ne_eq, not_false_eq_true, decide_true, m_stallIf_true, run_stop]

/-- What FIN and C_FIN share: a C-stream instruction that names no register, with FIN's body. -/
theorem issue_fin {i : Info} {s : State} (stream : s.stream = .c) (c : i.strms = [.c]) (user : i.priv = false) (bare : i.uses = []) :
    issue i finBody s = .next (Prog.run onStop s (finBody (fun c => finishIssue i .c c (fun _ => .done))) s.landed) := by
  rw [issue_noRegister finBody (by rw [c, stream]; rfl) user bare, stream]

section
variable {s : State} {i : Info} (fin : issue i finBody s
  = .next (Prog.run onStop s (finBody (fun c => finishIssue i .c c (fun _ => .done))) s.landed))
include fin

theorem fin_ends (save : s.me.saving = false) (depth : s.me.sys.dsdepth = 0) (v : s.me.sys.vrun = false) (await : s.me.await = [])
    (out : outstanding s.landed s.six = false) :
    issue i finBody s = .next ((applyAll (endFiring s.six s.landed) s.landed).endedHere .c i.w) := by
  have save' : s.landed.me.saving = false := by simpa [Strand.saving] using save
  rw [fin, run_finBody_done onStop s s.landed _ (by simp [depth]) (by simp [v]) (by simp [await]) out, save']
  rfl

theorem fin_saves (save : s.me.saving = true) (await : s.me.await = []) (out : outstanding s.landed s.six = false) :
    issue i finBody s = .next ((applyAll (saveFiring s.six s.landed) s.landed).endedHere .c i.w) := by
  have save' : s.landed.me.saving = true := by simpa [Strand.saving] using save
  rw [fin, run_finBody_done onStop s s.landed _ (.inl save') (.inl save') (by simp [await]) out, save']
  rfl

theorem fin_gated (stream : s.stream = .c) (save : s.me.saving = false) (depth : s.me.sys.dsdepth ≠ 0) :
    issue i finBody s = .next (onStop (.trap { cause := 13, sub := 10, addr := 0, strm := .c }) s) := by
  have save' : s.landed.me.saving = false := by simpa [Strand.saving] using save
  rw [fin, run_finBody_gated onStop s s.landed _ save' (by simpa using depth), landed_stream, stream]

theorem fin_waits (depth : s.me.saving = true ∨ s.me.sys.dsdepth = 0)
    (busy : (s.me.saving = false ∧ s.me.sys.vrun = true) ∨ s.me.await ≠ [] ∨ outstanding s.landed s.six = true) :
    issue i finBody s = .next (onStop (.wait .fin) s) := by
  rw [fin, run_finBody_waits onStop s s.landed _ (by simpa [Strand.saving] using depth)
    (by simpa [Strand.saving] using busy)]

end

/-- Settles O23: FIN and C_FIN have one body, which each clause runs. -/
theorem firingEnd : Obligations.FiringEnd := by
  intro o s stream
  have fin := issue_fin (i := infoC (opA 0x13 0 + o.bits) o.w.toNat []) stream rfl rfl rfl
  have cFin := issue_fin (i := info16 (opC 14 0) []) stream rfl rfl rfl
  exact ⟨fun save depth v await out => ⟨fin_ends fin save depth v await out, fin_ends cFin save depth v await out⟩,
    fun save await out => ⟨fin_saves fin save await out, fin_saves cFin save await out⟩,
    fun save depth => ⟨fin_gated fin stream save depth, fin_gated cFin stream save depth⟩,
    fun depth busy => ⟨fin_waits fin depth busy, fin_waits cFin depth busy⟩⟩

end Sys2Proof.Machine

/-! TRET and WFI (R110, R111): their bodies once issued, and what TRET restores of a strand. -/

namespace Sys2Proof.Machine

/-! ## What landing everything leaves -/

theorem setReg_c_pend (x : Strand) (r : RegId) (p : PVal) : (x.setReg r p).c.pend = x.c.pend := by
  cases r <;> cases p <;> simp only [Strand.setReg] <;> split <;> rfl

theorem setReg_v_pend (x : Strand) (r : RegId) (p : PVal) : (x.setReg r p).v.pend = x.v.pend := by
  cases r <;> cases p <;> simp only [Strand.setReg] <;> split <;> rfl

/-- Everything pending has landed (R37). -/
@[simp] theorem landAll_c_pend (x : Strand) : x.landAll.c.pend = [] :=
  foldl_setReg_field (·.c.pend) setReg_c_pend x.landAllC _

@[simp] theorem landAll_v_pend (x : Strand) : x.landAll.v.pend = [] := rfl

/-- Landing moves no stream. -/
@[simp] theorem landAll_c_pc (x : Strand) : x.landAll.c.pc = x.c.pc :=
  (foldl_setReg_field (Strand.pcOf · .c) (setReg_pcOf .c) x.landAllC _).trans
    (foldl_setReg_field (Strand.pcOf · .c) (setReg_pcOf .c) x _)

@[simp] theorem landAll_v_pc (x : Strand) : x.landAll.v.pc = x.v.pc :=
  (foldl_setReg_field (Strand.pcOf · .v) (setReg_pcOf .v) x.landAllC _).trans
    (foldl_setReg_field (Strand.pcOf · .v) (setReg_pcOf .v) x _)

/-! ## TRET -/

theorem execTret_even (o : A0) {s : State} (hr : s.ready .c) (hp : s.me.sys.pm = true) (even : s.me.sys.tpc.getLsbD 0 = false) :
    exec (.tret o) s = .next ((s.landed.withMe s.landed.me.tret).endedHere .c o.w.toNat) := by
  refine (issue_infoP _ _ _ _ _ hr hp).trans ?_
  simp only [m_bind, m_getS, m_pure, run_get, landed_me, landSt_sys, even, m_trapIf_false, run_modMe, run_finish_endedHere, infoP_w,
    run_done]

theorem execTret_odd (o : A0) {s : State} (hr : s.ready .c) (hp : s.me.sys.pm = true) (odd : s.me.sys.tpc.getLsbD 0 = true) :
    exec (.tret o) s = .next (onStop (.trap { cause := 4, sub := 0, addr := s.me.sys.tpc, strm := .c }) s) := by
  refine (issue_infoP _ _ _ _ _ hr hp).trans ?_
  simp only [m_bind, m_getS, run_get, landed_me, landSt_sys, odd, m_trapIf_true, run_stop, landed_stream, hr.1]

theorem trapReturn_holds : Sys2Proof.trapReturn := by
  refine ⟨fun o s => execTret_even o, fun o s => execTret_odd o, fun x => ?_⟩
  refine ⟨?_, ?_, ?_, ?_, ?_, fun h => ?_, ?_, ?_, fun n => ?_, ?_, ?_, fun h => ⟨?_, ?_, ?_⟩, fun h => ⟨?_, ?_, ?_⟩⟩
  all_goals simp only [Strand.tret, Strand.readS, landAll_sys, landAll_q, landAll_c_pend, landAll_v_pend, landAll_seg, landAll_frames,
    landAll_spec, *, decide_true, decide_false, if_true, if_false, Bool.false_eq_true]

/-! ## WFI -/

theorem execWfi_next (o : A0) {s : State} (hr : s.ready .c) (hp : s.me.sys.pm = true) (up : awake s.landed s.coreNo = true) :
    exec (.wfi o) s = .next (s.landed.ended .c 4 o.w.toNat) := by
  refine (issue_infoP _ _ _ _ _ hr hp).trans ?_
  have up' : awake s.landed s.landed.coreNo = true := up
  simp only [m_bind, m_getS, m_pure, run_get, up', Bool.not_true, m_stallIf_false, run_finish_ended, infoP_len, infoP_w, run_done]

theorem execWfi_waits (o : A0) {s : State} (hr : s.ready .c) (hp : s.me.sys.pm = true) (down : awake s.landed s.coreNo = false) :
    exec (.wfi o) s = .next (onStop (.wait .interrupt) s) := by
  refine (issue_infoP _ _ _ _ _ hr hp).trans ?_
  have down' : awake s.landed s.landed.coreNo = false := down
  simp only [m_bind, m_getS, run_get, down', Bool.not_false, m_stallIf_true, run_stop]

theorem awake_iff (s : State) (core : Nat) : awake s core = true ↔
    (s.core core).intr ≠ [] ∨ (s.core core).inbox ≠ [] ∨ ∃ k, k < 8 ∧ (s.strand (8 * core + k)).preempt = true := by
  simp only [awake, Bool.or_eq_true, Bool.not_eq_true', List.isEmpty_eq_false_iff, List.any_eq_true, List.mem_range, or_assoc]

theorem waitForInterrupt_holds : waitForInterrupt := by
  intro o s hr hp
  have core : s.landed.core s.coreNo = s.core s.coreNo := rfl
  refine ⟨fun up => execWfi_next o hr hp ((awake_iff _ _).mpr ?_), fun intr inbox pre => execWfi_waits o hr hp ?_⟩
  · rwa [core]
  · rw [← Bool.not_eq_true, awake_iff, core]
    rintro (h | h | ⟨k, lt, h⟩)
    · exact h intr
    · exact h inbox
    · rw [pre k lt] at h
      cases h

/-- Settles O22, TRET by what its body puts in the strand and WFI by when its core is awake. -/
theorem trapReturn : Obligations.TrapReturn := ⟨trapReturn_holds, waitForInterrupt_holds⟩

end Sys2Proof.Machine

/-! Traps (R31, R33, R110, R183, R184, R186): what the records of a trap hold, and what entry and a park make of the strand. -/

namespace Sys2Proof.Machine

/-! ## TCAUSE (R33, R110) -/

theorem bit_eq_toNat_mul (b : Bool) (i : Nat) : bit b i = b.toNat * 2 ^ i := by
  cases b <;> simp [bit]

/-- A bit of a word by the arithmetic of its value. -/
theorem getLsbD_of_div_mod {w : Word} {i : Nat} {b : Bool} (h : w.toNat / 2 ^ i % 2 = b.toNat) : w.getLsbD i = b := by
  rw [BitVec.getLsbD, Nat.testBit_eq_decide_div_mod_eq, h]
  cases b <;> rfl

/-- The fields of TCAUSE as a trap of a strand records them (R33, R110): cause, subcode, the trapping stream, PM, IE and the domain. -/
structure CauseFields (w : Word) (t : Trap) (x : Strand) : Prop where
  cause : w.toNat % 65536 = t.cause
  sub : w.toNat / 65536 % 65536 = t.sub
  stream : w.getLsbD 32 = decide (t.strm = .v)
  pm : w.getLsbD 33 = x.sys.pm
  ie : w.getLsbD 34 = x.sys.ie
  dom : w.toNat / 2 ^ 36 = x.dom

/-- TCAUSE is the sum of its fields, none of which reaches the next one. -/
theorem causeWord_fields {t : Trap} {x : Strand} (hc : t.cause < 65536) (hs : t.sub < 65536) (hd : x.dom < 4096) :
    CauseFields (causeWord t x) t x := by
  have ie := x.sys.ie.toNat_le
  have pm := x.sys.pm.toNat_le
  have v := (decide (t.strm = .v)).toNat_le
  have sum : (causeWord t x).toNat = x.dom * 2 ^ 36 + x.sys.ie.toNat * 2 ^ 34 + x.sys.pm.toNat * 2 ^ 33
      + (decide (t.strm = .v)).toNat * 2 ^ 32 + t.sub * 65536 + t.cause := by
    simp only [causeWord, bit_eq_toNat_mul, BitVec.toNat_ofNat]
    exact Nat.mod_eq_of_lt (by omega)
  exact ⟨by omega, by omega, getLsbD_of_div_mod (by omega), getLsbD_of_div_mod (by omega), getLsbD_of_div_mod (by omega), by omega⟩

/-! ## The strand stopped (R33, R37) -/

/-- A stopped strand whose C-stream waits for no bell: every pending write has landed, and no stream has moved. -/
structure StoppedAs (x y : Strand) : Prop where
  sys : y.sys = x.sys
  dom : y.dom = x.dom
  q : y.q = x.q
  frames : y.frames = x.frames
  parks : y.parks = x.parks
  cPc : y.c.pc = x.c.pc
  vPc : y.v.pc = x.v.pc
  cPend : y.c.pend = []
  vPend : y.v.pend = []
  readS : ∀ n, y.readS n = x.landAll.readS n
  readV : ∀ n, y.readV n = x.landAll.readV n

theorem stopped_as {x : Strand} (bell : x.bell = none) : StoppedAs x x.stopped := by
  have e : x.endBell = x := by rw [Strand.endBell, bell]
  constructor <;> simp [Strand.stopped, e, Strand.readS, Strand.readV]

/-- The records of a trap are system registers alone, and entry writes no other register. -/
theorem readS_enter (x : Strand) (t : Trap) (n : Nat) : (x.enter t).readS n = x.stopped.readS n := by
  simp only [Strand.readS, Strand.enter, Strand.record]
theorem readV_enter (x : Strand) (t : Trap) (n : Nat) : (x.enter t).readV n = x.stopped.readV n := by
  simp only [Strand.readV, Strand.enter, Strand.record]

/-! ## Trap entry (R33, R110, R184) -/

theorem takeTrap_enters {t : Trap} {six : Nat} {s : State} (parks : Machine.parks (coreOf six) t = false)
    (check : ¬(t.cause = 17 ∧ isCompute (coreOf six) = true)) :
    takeTrap t six s = (Effect.strand six ((s.strand six).enter t)).apply s := by
  simp only [takeTrap, trapEffects, parks, check, Bool.false_eq_true, if_false, applyAll_cons, applyAll_nil]

/-- The records are those of the stopped strand, and so of the strand (R33). -/
theorem stopped_causeFields {t : Trap} {x : Strand} (bell : x.bell = none) (hc : t.cause < 65536) (hs : t.sub < 65536)
    (hd : x.dom < 4096) : CauseFields (causeWord t x.stopped) t x := by
  have e : causeWord t x.stopped = causeWord t x := by rw [causeWord, (stopped_as bell).sys, (stopped_as bell).dom, causeWord]
  rw [e]
  exact causeWord_fields hc hs hd

/-- Settles O16: the entered strand is the stopped one with the trap's records. -/
theorem trapEntry : Obligations.TrapEntry := by
  intro t six s parks check bell hc hs hd
  have st := stopped_as bell
  obtain ⟨cause, sub, stream, pm, ie, dom⟩ := stopped_causeFields bell hc hs hd
  refine ⟨(s.strand six).enter t, takeTrap_enters parks check, cause, sub, stream, pm, ie, dom, rfl, ?_, ?_, rfl, rfl, rfl, rfl,
    ?_, ?_, ?_, rfl, fun n => ?_, fun n => ?_, ?_, ?_, ?_, ?_, ?_, ?_⟩
  case refine_6 => rw [readS_enter, st.readS]
  case refine_7 => rw [readV_enter, st.readV]
  all_goals simp only [Strand.enter, Strand.record, st.sys, st.cPc, st.vPc, st.cPend, st.vPend, st.q, st.frames]

/-! ## A park (R31, R33, R183, R186) -/

theorem apply_strand_strand (six : Nat) (x : Strand) (s : State) : ((Effect.strand six x).apply s).strand six = x := by
  simp [State.strand]

/-- A park: the strand is parked, and queued if nothing it had issued is left. -/
theorem takeTrap_parks {t : Trap} {six : Nat} {s : State} (page : t.cause = 5) (compute : isCompute (coreOf six) = true) :
    takeTrap t six s
      = applyAll (parkQueue six ((Effect.strand six ((s.strand six).park t)).apply s)) ((Effect.strand six ((s.strand six).park t)).apply s) := by
  have parks : Machine.parks (coreOf six) t = true := by rw [Machine.parks, page, compute]; rfl
  simp only [takeTrap, trapEffects, parks, if_true, applyAll_chain_cons, chain_nil, applyAll_cons, applyAll_nil]

theorem applyAll_parkQueue_undrained {six : Nat} {s : State} (h : undrained s six = true) : applyAll (parkQueue six s) s = s := by
  simp only [parkQueue, h, if_true, applyAll_nil]

/-- A drained strand that is parked joins the migration queue of its cluster's principal core, which is signalled (R183, R186). -/
theorem applyAll_parkQueue_drained {six : Nat} {s : State} (h : undrained s six = false) :
    let cl := clusterOf (coreOf six)
    let u := applyAll (parkQueue six s) s
    u.strand six = { s.strand six with entry := false } ∧ (u.cluster cl).migq = (s.cluster cl).migq ++ [six]
      ∧ (u.core (principalOf cl)).intr = (s.core (principalOf cl)).intr ++ [(1, 0)] := by
  simp [parkQueue, h, signal, State.strand, State.cluster, State.core]

/-- What a park leaves of the strand, whether it is queued at once or not: all but `entry`. -/
theorem takeTrap_strand {t : Trap} {six : Nat} {s : State} (page : t.cause = 5) (compute : isCompute (coreOf six) = true) :
    (takeTrap t six s).strand six = { (s.strand six).park t with
      entry := undrained ((Effect.strand six ((s.strand six).park t)).apply s) six } := by
  rw [takeTrap_parks page compute]
  cases h : undrained ((Effect.strand six ((s.strand six).park t)).apply s) six with
  | true => rw [applyAll_parkQueue_undrained h, apply_strand_strand]; rfl
  | false => rw [(applyAll_parkQueue_drained h).1, apply_strand_strand]

/-- Settles O17: the parked strand is the stopped one with the trap's records; it joins the queue where it is drained. -/
theorem pageFaultPark : Obligations.PageFaultPark := by
  intro t six s page compute bell hs hd x y cl p
  have st := stopped_as bell
  have y_eq : y = _ := takeTrap_strand page compute
  clear_value y
  subst y_eq
  obtain ⟨cause, sub, stream, pm, ie, dom⟩ := stopped_causeFields (t := t) bell (by omega) hs hd
  refine ⟨rfl, ?_, rfl, cause.trans page, sub, stream, pm, ie, dom, rfl, st.cPc, ?_, ?_, ?_, ?_, ?_, ?_, ?_, ?_, ?_, ?_,
    st.cPend, st.vPend, st.readS, st.readV, fun drained => ?queued, fun busy => ?later⟩
  case queued =>
    rw [takeTrap_parks page compute]
    exact ⟨drained, (applyAll_parkQueue_drained drained).2⟩
  case later =>
    rw [takeTrap_parks page compute, applyAll_parkQueue_undrained busy]
    exact ⟨busy, rfl, rfl⟩
  all_goals simp only [Strand.park, Strand.record, st.sys, st.vPc, st.parks, st.dom, st.q, st.frames, x]

end Sys2Proof.Machine

/-! MFS and MTS (R27 to R30, R49, R71, R108): how they issue in either stream, and what a write of a system register leaves in each. -/

namespace Sys2Proof.Machine

/-! ## Reading needs the system registers alone -/

theorem readSys_congr {x y : Strand} (h : y.sys = x.sys) (slot n : Nat) : readSys y slot n = readSys x slot n := by
  simp only [readSys, Strand.status, h]

theorem statusPriv_congr {x y : Strand} (h : y.sys = x.sys) (v : Word) : statusPriv y v = statusPriv x v := by
  simp only [statusPriv, h]

/-! ## Issue in a ready stream -/

section
variable {s : State} {st : Stream}

theorem exec_mfs (o : SysD) (hr : s.ready st) (field : st = .v → o.d.toNat < 16)
    (mode : s.me.sys.pm = true ∨ sysNoRead o.n.toNat = false) :
    exec (.mfs o) s
      = .next ((s.landed.wrote (regOf st o.d.toNat) (.word (readSys s.me (slotOf s.six) o.n.toNat)) 1).ended st 4 0) := by
  have stream : s.landed.stream = st := (landed_stream s).trans hr.1
  have may : (!s.me.sys.pm && sysNoRead o.n.toNat) = false := by rcases mode with h | h <;> simp [h]
  refine (issue_infoB _ _ _ _ _ _ hr).trans ?_
  simp only [m_bind, m_getS, run_get, run_scalarIf_pass onStop s s.landed (fun h => field (stream.symm.trans h)), landed_me,
    landSt_sys, may, m_trapIf_false, run_writeX, m_pure, run_finish_ended, infoB_len, infoB_w, run_done, stream,
    readSys_congr (landSt_sys s.me _), landed_six]

theorem exec_mts (o : SysA) (hr : s.ready st) (field : st = .v → o.a.toNat < 16)
    (mode : s.me.sys.pm = true ∨ sysNoWrite o.n.toNat = false) (legal : sysIllegal o.n.toNat (s.xreg o.a) = false)
    (status : o.n = 0 → s.me.sys.pm = true ∨ statusPriv s.me (s.xreg o.a) = false) :
    exec (.mts o) s = .next ((s.landed.withMe (writeSys s.landed.me o.n.toNat (s.xreg o.a))).ended st 4 0) := by
  have stream : s.landed.stream = st := (landed_stream s).trans hr.1
  have xreg : s.landed.me.readX s.landed.stream o.a.toNat = s.xreg o.a := by rw [landed_stream]; rfl
  have may : (!s.landed.me.sys.pm && sysNoWrite o.n.toNat) = false := by rcases mode with h | h <;> simp [h]
  have keeps : (decide (o.n.toNat = 0) && !s.landed.me.sys.pm && statusPriv s.landed.me (s.xreg o.a)) = false := by
    rw [statusPriv_congr (x := s.me) (by simp)]
    by_cases zero : o.n = 0
    · rcases status zero with h | h <;> simp [h]
    · have : o.n.toNat ≠ 0 := fun h => zero (BitVec.eq_of_toNat_eq h)
      simp [this]
  refine (issue_infoB _ _ _ _ _ _ hr).trans ?_
  simp only [m_bind, m_getS, run_get, run_scalarIf_pass onStop s s.landed (fun h => field (stream.symm.trans h)), xreg, may, legal,
    keeps, m_trapIf_false, run_modMe, m_pure, run_finish_ended, infoB_len, infoB_w, run_done]

theorem exec_mfs_user (o : SysD) (hr : s.ready st) (field : st = .v → o.d.toNat < 16) (user : s.me.sys.pm = false)
    (closed : sysNoRead o.n.toNat = true) :
    exec (.mfs o) s
      = .next (onStop (.trap { cause := 3, sub := 0, addr := BitVec.ofNat 64 (encode (.mfs o)), strm := st }) s) := by
  have stream : s.landed.stream = st := (landed_stream s).trans hr.1
  refine (issue_infoB _ _ _ _ _ _ hr).trans ?_
  simp only [m_bind, m_getS, run_get, run_scalarIf_pass onStop s s.landed (fun h => field (stream.symm.trans h)), landed_me,
    landSt_sys, user, closed, Bool.not_false, Bool.true_and, m_trapIf_true, run_stop, stream]
  rfl

theorem exec_mts_user (o : SysA) (hr : s.ready st) (field : st = .v → o.a.toNat < 16) (user : s.me.sys.pm = false)
    (closed : sysNoWrite o.n.toNat = true) :
    exec (.mts o) s
      = .next (onStop (.trap { cause := 3, sub := 0, addr := BitVec.ofNat 64 (encode (.mts o)), strm := st }) s) := by
  have stream : s.landed.stream = st := (landed_stream s).trans hr.1
  refine (issue_infoB _ _ _ _ _ _ hr).trans ?_
  simp only [m_bind, m_getS, run_get, run_scalarIf_pass onStop s s.landed (fun h => field (stream.symm.trans h)), landed_me,
    landSt_sys, user, closed, Bool.not_false, Bool.true_and, m_trapIf_true, run_stop, stream]
  rfl

end

/-- In the V-stream a register field of 16 to 31 is ILLEGAL before the mode is looked at (R49). -/
theorem exec_mfs_field (o : SysD) {s : State} (hr : s.ready .v) (field : 16 ≤ o.d.toNat) :
    exec (.mfs o) s
      = .next (onStop (.trap { cause := 1, sub := 0, addr := BitVec.ofNat 64 (encode (.mfs o)), strm := .v }) s) := by
  refine (issue_infoB _ _ _ _ _ _ hr).trans ?_
  rw [m_bind, run_scalarIf_stop onStop s s.landed ((landed_stream s).trans hr.1) field]
  rfl

theorem exec_mts_field (o : SysA) {s : State} (hr : s.ready .v) (field : 16 ≤ o.a.toNat) :
    exec (.mts o) s
      = .next (onStop (.trap { cause := 1, sub := 0, addr := BitVec.ofNat 64 (encode (.mts o)), strm := .v }) s) := by
  refine (issue_infoB _ _ _ _ _ _ hr).trans ?_
  rw [m_bind, run_scalarIf_stop onStop s s.landed ((landed_stream s).trans hr.1) field]
  rfl

/-! ## What a write leaves -/

/-- A value that fits a field is what the field reads back as. -/
theorem zx_extractLsb' {v : Word} {k : Nat} (h : v.toNat < 2 ^ k) : zx (v.extractLsb' 0 k) = v := by
  apply BitVec.eq_of_toNat_eq
  simp only [zx, BitVec.toNat_setWidth, BitVec.extractLsb'_toNat, Nat.shiftRight_zero, Nat.mod_eq_of_lt h, BitVec.toNat_mod_cancel]

theorem readSys_writeSys_same (x : Strand) (slot : Nat) {n : Nat} {v : Word} (pos : 0 < n) (le : n ≤ 12)
    (legal : sysIllegal n v = false) : readSys (writeSys x n v) slot n = v := by
  rcases (by omega : n ≤ 6 ∨ n = 7 ∨ n = 8 ∨ n = 9 ∨ n = 10 ∨ n = 11 ∨ n = 12) with word | rfl | rfl | rfl | rfl | rfl | rfl
  · interval_cases n <;> rfl
  · exact zx_extractLsb' (by simpa [sysIllegal] using legal)
  · exact BitVec.ofNat_toNat ..
  · have small : v.toNat ≤ 4 := by simpa [sysIllegal] using legal
    exact zx_extractLsb' (small.trans_lt (by decide))
  · rfl
  · exact zx_extractLsb' (by simpa [sysIllegal] using legal)
  · exact zx_extractLsb' (by simpa [sysIllegal] using legal)

/-- STATUS shows no other register than DSDEPTH (R28). -/
theorem status_writeSys (x : Strand) (slot : Nat) {n : Nat} (v : Word) (pos : 0 < n) (le : n ≤ 12) (ne : n ≠ 8) :
    (writeSys x n v).status slot = x.status slot := by
  interval_cases n
  all_goals try exact absurd rfl ne
  all_goals simp only [Strand.status, writeSys, Strand.seed]

/-- A write shows in its own register, and one of DSDEPTH in STATUS.GATED too (R28). -/
theorem readSys_writeSys_other (x : Strand) (slot : Nat) {n m : Nat} (v : Word) (pos : 0 < n) (le : n ≤ 12) (le' : m ≤ 12) (ne : m ≠ n)
    (gated : n = 8 → m ≠ 0) : readSys (writeSys x n v) slot m = readSys x slot m := by
  rcases Nat.eq_zero_or_pos m with rfl | other
  · exact status_writeSys x slot v pos le fun h => gated h rfl
  · interval_cases n <;> interval_cases m
    all_goals try exact absurd rfl ne
    all_goals simp only [readSys, writeSys, Strand.seed]

theorem gen_writeSys (x : Strand) {n : Nat} (v : Word) (pos : 0 < n) (le : n ≤ 12) (ne : n ≠ 10) :
    (writeSys x n v).v.gen = x.v.gen := by
  interval_cases n
  all_goals try exact absurd rfl ne
  all_goals rfl

/-- A write of a system register writes no register of the streams. -/
theorem writeSys_registers (x : Strand) {n : Nat} (v : Word) (pos : 0 < n) (le : n ≤ 12) :
    (writeSys x n v).c.s = x.c.s ∧ (writeSys x n v).v.v = x.v.v := by
  interval_cases n <;> exact ⟨rfl, rfl⟩

/-- The generators that SRSEED loads (R71). -/
theorem gen_writeSys_seed (x : Strand) (v : Word) (i : Nat) (h : i < 32) :
    (writeSys x 10 v).v.gen[i]? = some
      (let g : Lane := v.setWidth 32 ^^^ (v >>> 32).setWidth 32 ^^^ BitVec.ofNat 32 ((i + 1) * 0x9E3779B9)
       if g = 0 then 1 else g) := by
  have low : v.extractLsb' 0 32 = v.setWidth 32 := by ext; simp
  have high : v.extractLsb' 32 32 = (v >>> 32).setWidth 32 := by ext; simp
  simp only [writeSys, Strand.seed, genSeeds, List.getElem?_map, List.getElem?_range h, Option.map_some, genSeed, low, high]

/-- STATUS is the sum of its fields, the slot above all others (R28). -/
theorem toNat_status (x : Strand) {slot : Nat} (h : slot < 8) : (x.status slot).toNat
    = slot * 2 ^ 21 + x.sys.vrun.toNat * 2 ^ 20 + x.sys.pri.toNat * 2 ^ 18 + x.sys.timed.toNat * 2 ^ 17
      + (decide (x.sys.dsdepth ≠ 0)).toNat * 2 ^ 16 + x.sys.pm.toNat * 2 ^ 7 + x.sys.ie.toNat * 2 ^ 6 + x.sys.chk.toNat * 2 ^ 5 := by
  have := x.sys.vrun.toNat_le
  have := x.sys.timed.toNat_le
  have := (decide (x.sys.dsdepth ≠ 0)).toNat_le
  have := x.sys.pm.toNat_le
  have := x.sys.ie.toNat_le
  have := x.sys.chk.toNat_le
  have := x.sys.pri.isLt
  simp only [Strand.status, bit_eq_toNat_mul, BitVec.toNat_ofNat]
  exact Nat.mod_eq_of_lt (by omega)

theorem status_fields (x : Strand) {slot : Nat} (h : slot < 8) :
    (x.status slot).toNat / 2 ^ 21 = slot ∧ (x.status slot).getLsbD 20 = x.sys.vrun
      ∧ (x.status slot).getLsbD 16 = decide (x.sys.dsdepth ≠ 0) := by
  have := x.sys.vrun.toNat_le
  have := x.sys.timed.toNat_le
  have := (decide (x.sys.dsdepth ≠ 0)).toNat_le
  have := x.sys.pm.toNat_le
  have := x.sys.ie.toNat_le
  have := x.sys.chk.toNat_le
  have := x.sys.pri.isLt
  have sum := toNat_status x h
  exact ⟨by omega, getLsbD_of_div_mod (by omega), getLsbD_of_div_mod (by omega)⟩

/-- Settles O18: MFS and MTS in either stream, and the strand that a write leaves. -/
theorem systemRegisters : Obligations.SystemRegisters := by
  refine ⟨fun o st s hr field _ mode => exec_mfs o hr field mode, fun o st s hr field _ mode => exec_mts o hr field mode,
    fun o st s => exec_mfs_user o, fun o st s => exec_mts_user o, fun o s => exec_mfs_field o, fun o s => exec_mts_field o,
    fun x slot n v pos le legal => ?register, gen_writeSys_seed, fun x slot v h pm => ?status⟩
  case register =>
    obtain ⟨s, vec⟩ := writeSys_registers x v pos le
    exact ⟨readSys_writeSys_same x slot pos le legal, fun m => readSys_writeSys_other x slot v pos le, gen_writeSys x v pos le,
      fun r => by simp only [Strand.readS, s], fun r => by simp only [Strand.readV, vec]⟩
  case status =>
    have y : writeSys x 0 v = { x with sys := { x.sys with
        chk := v.getLsbD 5, ie := v.getLsbD 6, pm := v.getLsbD 7, timed := v.getLsbD 17, pri := v.extractLsb' 18 2 } } := if_pos pm
    obtain ⟨slotIs, vrun, gated⟩ := status_fields (writeSys x 0 v) h
    rw [y] at slotIs vrun gated
    rw [y]
    exact ⟨rfl, rfl, rfl, rfl, rfl, rfl, slotIs, vrun, gated⟩

end Sys2Proof.Machine

/-! Results of fixed latency (R35, R25): a strand with nothing pending, a result of it, the steps that pass, and the landing before the
next instruction. -/

namespace Sys2Proof.Machine

/-! ## What a register holds -/

/-- What a register holds is a matter of its register file. -/
theorem holds_congr {x y : Strand} (s : y.c.s = x.c.s) (ox : y.c.ox = x.c.ox) (k : y.v.k = x.v.k) (v : y.v.v = x.v.v) (m : y.v.m = x.v.m)
    (q : RegId) : y.holds q = x.holds q := by
  cases q <;> simp only [Strand.holds, Strand.readS, Strand.readK, Strand.readOx, Strand.readV, Strand.readM, s, ox, k, v, m]

/-- A register takes a value of its kind, but for s0 and m0 (R25). -/
theorem holds_setReg_same (x : Strand) {r : RegId} {p : PVal} (fits : p.fits r = true) (s0 : r ≠ .s 0) (m0 : r ≠ .m 0) :
    (x.setReg r p).holds r = some p := by
  cases r <;> cases p <;> cases fits
  case s.word n w =>
    have pos : n ≠ 0 := fun h => s0 (h ▸ rfl)
    simp only [Strand.setReg, Strand.holds, Strand.readS, pos, if_false, tblGet_set_same]
  case m.mask n w =>
    have pos : n ≠ 0 := fun h => m0 (h ▸ rfl)
    simp only [Strand.setReg, Strand.holds, Strand.readM, pos, if_false, tblGet_set_same]
  all_goals simp only [Strand.setReg, Strand.holds, Strand.readK, Strand.readOx, Strand.readV, tblGet_set_same]

/-- A write of s0 or m0 is none (R25). -/
theorem setReg_constant (x : Strand) {r : RegId} (p : PVal) (constant : r = .s 0 ∨ r = .m 0) : x.setReg r p = x := by
  rcases constant with rfl | rfl <;> cases p <;> rfl

theorem holds_setReg_other (x : Strand) (r q : RegId) (p : PVal) (ne : q ≠ r) : (x.setReg r p).holds q = x.holds q := by
  cases r <;> cases p
  case s.word n w =>
    by_cases zero : n = 0
    · rw [setReg_constant x _ (.inl (congrArg _ zero))]
    · simp only [Strand.setReg, zero, if_false]
      cases q <;> try rfl
      case s m => simp only [Strand.holds, Strand.readS, tblGet_set_other _ _ _ _ _ (fun h => ne (congrArg RegId.s h))]
  case m.mask n w =>
    by_cases zero : n = 0
    · rw [setReg_constant x _ (.inr (congrArg _ zero))]
    · simp only [Strand.setReg, zero, if_false]
      cases q <;> try rfl
      case m m => simp only [Strand.holds, Strand.readM, tblGet_set_other _ _ _ _ _ (fun h => ne (congrArg RegId.m h))]
  case k.word n w =>
    cases q <;> try rfl
    case k m => simp only [Strand.setReg, Strand.holds, Strand.readK, tblGet_set_other _ _ _ _ _ (fun h => ne (congrArg RegId.k h))]
  case ox.word n w =>
    cases q <;> try rfl
    case ox m => simp only [Strand.setReg, Strand.holds, Strand.readOx, tblGet_set_other _ _ _ _ _ (fun h => ne (congrArg RegId.ox h))]
  case v.vec n w =>
    cases q <;> try rfl
    case v m => simp only [Strand.setReg, Strand.holds, Strand.readV, tblGet_set_other _ _ _ _ _ (fun h => ne (congrArg RegId.v h))]
  all_goals rfl

/-- A register takes a value of its kind, but for s0 and m0, and no other register changes. -/
theorem holds_setReg (x : Strand) {r : RegId} {p : PVal} (fits : p.fits r = true) (q : RegId) :
    (x.setReg r p).holds q = if q = r ∧ r ≠ .s 0 ∧ r ≠ .m 0 then some p else x.holds q := by
  split
  next own =>
    obtain ⟨rfl, s0, m0⟩ := own
    exact holds_setReg_same x fits s0 m0
  next other =>
    by_cases ne : q = r
    · rw [setReg_constant x p (by by_contra h; push Not at h; exact other ⟨ne, h⟩)]
    · exact holds_setReg_other x r q p ne

/-! ## Landing (R35) -/

theorem setReg_v_t (x : Strand) (r : RegId) (p : PVal) : (x.setReg r p).v.t = x.v.t := by
  cases r <;> cases p <;> simp only [Strand.setReg] <;> split <;> rfl

/-- No result is in a tile register (R35). -/
theorem result_v_t (x : Strand) (r : RegId) (p : PVal) (l : Nat) : (x.result r p l).v.t = x.v.t := by
  unfold Strand.result
  split
  · exact (setReg_v_t _ r p).trans (dropPend_v_t x r)
  · exact (later_v x r p l).2.2.2

theorem landSt_v_t (x : Strand) (st : Stream) : (x.landSt st).v.t = x.v.t := by
  cases st
  · exact landList_field (·.v.t) setReg_v_t x _ _
  · exact landList_field (·.v.t) setReg_v_t x _ _

/-- The results pending in a stream. -/
def Strand.pendIn (x : Strand) (st : Stream) : List Pend := match st with | .c => x.c.pend | .v => x.v.pend

/-- The step a stream has come to. -/
def Strand.stepOf (x : Strand) (st : Stream) : Nat := match st with | .c => x.c.step | .v => x.v.step

/-- Landing changes registers as `landList` does, and beside them only what is pending. -/
theorem holds_landSt (x : Strand) (st : Stream) (q : RegId) :
    (x.landSt st).holds q = (landList x (x.stepOf st) (x.pendIn st)).1.holds q := by
  cases st <;> exact holds_congr rfl rfl rfl rfl rfl q

/-- With nothing pending nothing lands. -/
theorem holds_landSt_nil {x : Strand} {st : Stream} (none : x.pendIn st = []) (q : RegId) : (x.landSt st).holds q = x.holds q := by
  rw [holds_landSt, none, landList]

/-- One pending result lands from its step on. -/
theorem holds_landSt_one {x : Strand} {st : Stream} {p : Pend} (one : x.pendIn st = [p]) (q : RegId) :
    (x.landSt st).holds q = if p.land ≤ x.stepOf st then (x.setReg p.reg p.val).holds q else x.holds q := by
  rw [holds_landSt, one, landList]
  split <;> rfl

/-! ## A result (R35) -/

theorem holds_after (x : Strand) (k : Nat) (q : RegId) : (x.after k).holds q = x.holds q := holds_congr rfl rfl rfl rfl rfl q

theorem holds_later (x : Strand) (r q : RegId) (p : PVal) (l : Nat) : (x.later r p l).holds q = x.holds q := by
  obtain ⟨s, ox⟩ := later_c_s x r p l
  obtain ⟨k, v, m, -⟩ := later_v x r p l
  exact holds_congr s ox k v m q

section
variable {x : Strand} (c : x.c.pend = []) (v : x.v.pend = [])
include c v

theorem dropPend_nil (r : RegId) : x.dropPend r = x := by
  have sameC (ps : List Pend) (h : ps = x.c.pend) : { x with c := { x.c with pend := ps } } = x := by rw [h]
  have sameV (ps : List Pend) (h : ps = x.v.pend) : { x with v := { x.v with pend := ps } } = x := by rw [h]
  unfold Strand.dropPend
  split
  · exact sameC _ (by rw [c, List.filter_nil])
  · exact sameV _ (by rw [v, List.filter_nil])

/-- A result of latency 1 is in its register at once, and leaves nothing pending (R35; log entry 10). -/
theorem holds_landed_write (r : RegId) (p : PVal) (k : Nat) (st : Stream) (q : RegId) :
    (((x.write r p).after k).landSt st).holds q = (x.setReg r p).holds q := by
  have none : ((x.setReg r p).after k).pendIn st = [] := by
    cases st
    · exact (setReg_c_pend x r p).trans c
    · exact (setReg_v_pend x r p).trans v
  rw [Strand.write, dropPend_nil c v, holds_landSt_nil none, holds_after]

/-- A later result is alone pending in its register's stream, until its step. -/
theorem pendIn_later {r : RegId} {st : Stream} (own : r.inC = true ↔ st = .c) (s0 : r ≠ .s 0) (p : PVal) (l : Nat) :
    ∃ pc, (x.later r p l).pendIn st = [⟨r, p, x.stepOf st + l, pc⟩] ∧ (x.later r p l).stepOf st = x.stepOf st := by
  cases st
  case c => simp [Strand.later, s0, own.mpr rfl, Strand.pendIn, Strand.stepOf, c]
  case v =>
    have inV : r.inC = false := by simpa using own
    simp [Strand.later, s0, inV, Strand.pendIn, Strand.stepOf, v]

theorem holds_landed_later {r : RegId} {p : PVal} {st : Stream} (own : r.inC = true ↔ st = .c) (s0 : r ≠ .s 0) (fits : p.fits r = true)
    (l k : Nat) (q : RegId) :
    (((x.later r p l).after k).landSt st).holds q = if l ≤ k then (x.setReg r p).holds q else x.holds q := by
  obtain ⟨pc, one, step⟩ := pendIn_later c v own s0 p l
  have one' : ((x.later r p l).after k).pendIn st = [⟨r, p, x.stepOf st + l, pc⟩] := by cases st <;> exact one
  have step' : ((x.later r p l).after k).stepOf st = x.stepOf st + k := by cases st <;> exact congrArg (· + k) step
  simp only [holds_landSt_one one', step', Nat.add_le_add_iff_left, holds_setReg _ fits, holds_after, holds_later]

/-- What a register holds once a result of latency `l` has come `k` steps further. -/
theorem holds_landed_result {r : RegId} {p : PVal} {st : Stream} (own : r.inC = true ↔ st = .c) (fits : p.fits r = true) (l k : Nat)
    (q : RegId) :
    (((x.result r p l).after k).landSt st).holds q = if k < l ∧ 1 < l then x.holds q else (x.setReg r p).holds q := by
  unfold Strand.result
  split
  next short => rw [holds_landed_write c v, if_neg (by omega)]
  next long =>
    by_cases s0 : r = .s 0
    · have later : x.later r p l = x := if_pos s0
      have none : (x.after k).pendIn st = [] := by cases st; exacts [c, v]
      rw [later, holds_landSt_nil none, holds_after, setReg_constant x p (.inl s0), ite_self]
    · rw [holds_landed_later c v own s0 fits]
      by_cases due : l ≤ k
      · rw [if_pos due, if_neg (by omega)]
      · rw [if_neg due, if_pos (by omega)]

end

/-! ## The obligation -/

theorem sameRest_result (x : Strand) (st : Stream) (r : RegId) (p : PVal) (l k : Nat) :
    x.sameRest (((x.result r p l).after k).landSt st) := by
  refine ⟨?_, ?_, ?_, ?_, ?_, ?_, ?_, ?_, ?_, ?_, fun n => ?_⟩
  case refine_11 => simp only [Strand.readT, landSt_v_t, Strand.after, result_v_t]
  all_goals simp [Strand.after]

/-- The end of an instruction is the strand's streams' alone (R34). -/
theorem stepped_setPc_rest (x : Strand) (st : Stream) (t : Word) (w : Nat) :
    (∀ r, ((x.setPc st t).stepped st w).holds r = x.holds r) ∧ x.sameRest ((x.setPc st t).stepped st w) := by
  cases st
  all_goals
    refine ⟨fun r => holds_congr rfl rfl rfl rfl rfl r, ?_⟩
    exact ⟨rfl, rfl, rfl, rfl, rfl, rfl, rfl, rfl, rfl, rfl, fun _ => rfl⟩

/-- Settles O51: of the registers the result changes its own alone, once it has landed. -/
theorem resultLands : Obligations.ResultLands := by
  refine ⟨fun x st r p l k c v own fits => ?_, stepped_setPc_rest⟩
  have holds := holds_landed_result c v own fits l k
  refine ⟨fun q ne => ?_, sameRest_result x st r p l k, fun s0 m0 => ?_, rfl, rfl⟩
  · rw [holds, holds_setReg_other x r q p ne, ite_self]
  · rw [holds, holds_setReg_same x fits s0 m0]

end Sys2Proof.Machine

/-! The checks before issue on the registers of an instruction (R36, R38), for the forms that name theirs plainly, and what a stop leaves
(R20, R33, R185). -/

namespace Sys2Proof.Machine

/-- What an instruction answers that is issued in a stream that has it, in either mode, and uses the registers `rs`. -/
inductive IssuedNaming (st : Stream) (rs : List RegId) (s : State) : Out → Prop
  | issue (x : Info) (body : M Ctl) (present : x.strms.contains st = true) (user : x.priv = false) (uses : x.uses = rs) :
      IssuedNaming st rs s (issue x body s)

namespace IssuedNaming
variable {st : Stream} {rs : List RegId} {s : State} {o : Out}

/-- A register that awaits a scoreboarded result keeps the instruction unissued, whatever CHK holds (R38). -/
theorem waits (h : IssuedNaming st rs s o) (hst : s.stream = st) {r : RegId} {id : Nat} (named : r ∈ rs)
    (awaits : (r, id) ∈ s.me.await) : o = .next (onStop (.wait .score) s) := by
  subst hst
  obtain ⟨x, body, present, user, rfl⟩ := h
  have any : x.uses.any (fun r => (s.me.landSt s.stream).await.any (fun a => a.1 = r)) = true := by
    simp only [landSt_await, List.any_eq_true, decide_eq_true_eq]
    exact ⟨r, named, (r, id), awaits, rfl⟩
  refine issue_stop x body s _ ?_
  simp only [issueStop, present, user, any, Bool.not_true, Bool.false_and, Bool.false_eq_true, if_false, if_true]

/-- With CHK a pending write of a named register traps STALLCHK with the PC of the first producer in the order of the streams (R36). -/
theorem traps (h : IssuedNaming st rs s o) (hst : s.stream = st) {p : Pend} (free : ∀ r ∈ rs, ∀ id, (r, id) ∉ s.me.await)
    (chk : s.me.sys.chk = true)
    (first : (s.landed.me.c.pend ++ s.landed.me.v.pend).find? (fun q => rs.contains q.reg) = some p) :
    o = .next (onStop (.trap { cause := 12, sub := 0, addr := p.pc, strm := s.stream }) s) := by
  subst hst
  obtain ⟨x, body, present, user, rfl⟩ := h
  have none : x.uses.any (fun r => (s.me.landSt s.stream).await.any (fun a => a.1 = r)) = false := by
    simp only [landSt_await, List.any_eq_false, decide_eq_true_eq, Bool.not_eq_true]
    rintro r named ⟨r', id⟩ awaits rfl
    exact free _ named id awaits
  rw [landed_me] at first
  refine issue_stop x body s _ ?_
  simp only [issueStop, present, user, none, landSt_sys, chk, first, Bool.not_true, Bool.false_and, Bool.false_eq_true, if_false, if_true]

end IssuedNaming

/-! ## The lists of R85 to R102 and R115 to R136 -/

theorem infoM_issuedNaming {enc space : Nat} {uses : List RegId} {s : State} (body : M Ctl) (notL : space ≠ 3) :
    IssuedNaming .c uses s (issue (infoM enc space uses) body s) :=
  .issue _ body (by simp [infoM, notL]) rfl rfl

/-- Space L is code 3 (R46). -/
theorem space_toNat_ne {n : BitVec 3} (h : n ≠ 3) : n.toNat ≠ 3 := fun e => h (BitVec.eq_of_toNat_eq e)

theorem intOps_issuedNaming (s : State) {e : (A3 → Instr) × Nat × (Word → Word → Word → Word)} (he : e ∈ intOps) (o : A3) :
    IssuedNaming .c [.s o.d.toNat, .s o.a.toNat, .s o.b.toNat] s (exec (e.1 o) s) := by
  rcases exec_intOps e he o s with ⟨fn, h⟩ | ⟨fn, f, h, -⟩ <;> rw [h] <;> exact .issue _ _ rfl rfl rfl

theorem intOps1_issuedNaming (s : State) {e : (A2 → Instr) × (Word → Word)} (he : e ∈ intOps1) (o : A2) :
    IssuedNaming .c [.s o.d.toNat, .s o.a.toNat] s (exec (e.1 o) s) := by
  obtain ⟨fn, h⟩ := exec_intOps1 e he o s
  rw [h]
  exact .issue _ _ rfl rfl rfl

/-- The immediate, shift, 16-bit and atomic forms, each by its own arm of `exec`. -/
theorem scalarForms_issuedNaming (s : State) :
    (∀ e ∈ immOps, ∀ o : Imm, IssuedNaming .c [.s o.d.toNat, .s o.a.toNat] s (exec (e.1 o) s))
    ∧ (∀ e ∈ shiftOps, ∀ o : Shift, IssuedNaming .c [.s o.d.toNat, .s o.a.toNat] s (exec (e.1 o) s))
    ∧ (∀ e ∈ regOps16, ∀ o : CR, IssuedNaming .c [.s o.d.toNat, .s o.a.toNat] s (exec (e.1 o) s))
    ∧ (∀ e ∈ immOps16, ∀ o : CI, IssuedNaming .c [.s o.d.toNat] s (exec (e.1 o) s))
    ∧ ∀ e ∈ atomics, ∀ o : Atom, IssuedNaming .c [.s o.d.toNat, .s o.a.toNat, .s o.b.toNat] s (exec (e.1 o) s) := by
  simp only [immOps, shiftOps, regOps16, immOps16, atomics, List.forall_mem_cons, List.not_mem_nil, false_imp_iff, implies_true, and_true]
  and_intros <;> exact fun _ => .issue _ _ rfl rfl rfl

/-- The loads and stores of format M, outside space L. -/
theorem memoryForms_issuedNaming (s : State) (o : Sys2Proof.Mem) (notL : o.space.toNat ≠ 3) :
    (∀ e ∈ loads, IssuedNaming .c [.s o.d.toNat, .s o.base.toNat] s (exec (e.1 o) s))
    ∧ ∀ e ∈ stores, IssuedNaming .c [.s o.d.toNat, .s o.base.toNat] s (exec (e.1 o) s) := by
  simp only [loads, stores, List.forall_mem_cons, List.not_mem_nil, false_imp_iff, implies_true, and_true]
  and_intros <;> exact infoM_issuedNaming _ notL

/-- The vector forms of two and three registers, the compares and the reductions, each by its own arm of `exec`. -/
theorem vectorForms_issuedNaming (s : State) :
    (∀ e ∈ vecOps2, ∀ o : V2, IssuedNaming .v [.v o.d.toNat, .v o.a.toNat, .m o.m.toNat] s (exec (e o) s))
    ∧ (∀ e ∈ vecOps3, ∀ o : V3, IssuedNaming .v [.v o.d.toNat, .v o.a.toNat, .v o.b.toNat, .m o.m.toNat] s (exec (e o) s))
    ∧ (∀ e ∈ vecCompares, ∀ o : V3, IssuedNaming .v [.m o.d.toNat, .v o.a.toNat, .v o.b.toNat, .m o.m.toNat] s (exec (e o) s))
    ∧ ∀ e ∈ vecReductions, ∀ o : V2, IssuedNaming .v [.k o.d.toNat, .v o.a.toNat, .m o.m.toNat] s (exec (e o) s) := by
  simp only [vecOps2, vecOps3, vecCompares, vecReductions, List.forall_mem_cons, List.not_mem_nil, false_imp_iff, implies_true, and_true]
  and_intros <;> exact fun _ => .issue _ _ rfl rfl rfl

theorem namesC_issued {i : Instr} {rs : List RegId} (s : State) (h : NamesC i rs) : IssuedNaming .c rs s (exec i s) := by
  obtain ⟨imm, shift, reg16, imm16, atomic⟩ := scalarForms_issuedNaming s
  rcases h with ⟨e, he, o, rfl, rfl⟩ | ⟨e, he, o, rfl, rfl⟩ | ⟨e, he, o, rfl, rfl⟩ | ⟨e, he, o, rfl, rfl⟩ | ⟨o, field, rfl⟩
    | ⟨o, upper, rfl⟩ | ⟨e, he, o, rfl, rfl⟩ | ⟨e, he, o, rfl, rfl⟩ | ⟨e, he, o, notL, rfl, rfl⟩ | ⟨e, he, o, notL, rfl, rfl⟩
    | ⟨o, notL, ordered, rfl⟩ | ⟨o, short, rfl⟩ | ⟨e, he, o, rfl, rfl⟩
  · exact intOps_issuedNaming s he o
  · exact intOps1_issuedNaming s he o
  · exact imm e he o
  · exact shift e he o
  · rcases field with rfl | rfl <;> exact .issue _ _ rfl rfl rfl
  · rcases upper with rfl | rfl <;> exact .issue _ _ rfl rfl rfl
  · exact reg16 e he o
  · exact imm16 e he o
  · exact (memoryForms_issuedNaming s o (space_toNat_ne notL)).1 e he
  · exact (memoryForms_issuedNaming s o (space_toNat_ne notL)).2 e he
  · rcases ordered with rfl | rfl <;> exact infoM_issuedNaming _ (space_toNat_ne notL)
  · rcases short with rfl | rfl | rfl | rfl <;> exact .issue _ _ rfl rfl rfl
  · exact atomic e he o

theorem namesV_issued {i : Instr} {rs : List RegId} (s : State) (h : NamesV i rs) : IssuedNaming .v rs s (exec i s) := by
  obtain ⟨two, three, compares, reductions⟩ := vectorForms_issuedNaming s
  rcases h with ⟨e, he, o, rfl, rfl⟩ | ⟨e, he, o, rfl, rfl⟩ | ⟨e, he, o, rfl, rfl⟩ | ⟨e, he, o, rfl, rfl⟩ | ⟨o, rfl, rfl⟩ | ⟨o, rfl, rfl⟩
    | ⟨o, indexed, rfl⟩
  · exact two e he o
  · exact three e he o
  · exact compares e he o
  · exact reductions e he o
  · exact .issue _ _ rfl rfl rfl
  · exact .issue _ _ rfl rfl rfl
  · rcases indexed with rfl | rfl <;> exact .issue _ _ rfl rfl rfl

/-! ## The obligation -/

theorem pendingRegister_holds : pendingRegister := by
  intro i rs s names
  obtain ⟨st, hst, issued⟩ : ∃ st, s.stream = st ∧ IssuedNaming st rs s (exec i s) := by
    rcases names with ⟨hst, h⟩ | ⟨hst, h⟩
    · exact ⟨.c, hst, namesC_issued s h⟩
    · exact ⟨.v, hst, namesV_issued s h⟩
  exact ⟨fun r id => issued.waits hst, fun p => issued.traps hst⟩

theorem stopRule_holds : Sys2Proof.stopRule :=
  ⟨fun _ _ => rfl, fun _ _ other => if_neg (by rw [other]; exact Bool.false_ne_true), fun _ _ other => if_pos other⟩

/-- Settles O21: each listed form is issued in its stream and uses the registers that it names. -/
theorem stopRule : Obligations.StopRule := ⟨pendingRegister_holds, stopRule_holds⟩

end Sys2Proof.Machine

/-! The strand, boundary and trap events (R33, R95, R103, R154, R156, R157, R160, R161, R183, R187, R190, R193, R229): each is `whenever`
of its condition, so what remains is to say when the condition holds and what its effects then are. -/

namespace Sys2Proof.Machine

theorem run_whenever (f : Stop → State → State) (s0 s : State) (b : Bool) (g : State → List Effect) (k : Unit → Prog) :
    Prog.run f s0 (whenever b g k) s = Prog.run f s0 (k ()) (if b then applyAll (g s) s else s) := by
  cases b <;> simp [whenever]

/-! ## What is due (R95, R229) -/

/-- What is due first is due at an active strand. -/
theorem dueNow_of_dueHead {s : State} {six : Nat} {d : Due} (h : dueHead s six = some d) :
    (s.strand six).st = .active ∧ (s.strand six).dueNow = some d := by
  simpa [dueHead, Option.ite_none_right_eq_some] using h

theorem takeDue_eq {s : State} {six : Nat} {d : Due} (h : dueHead s six = some d) :
    takeDue six s = chain
      [fun _ => [.strand six { s.strand six with due := (s.strand six).due.erase d }], trapEffects d.trapOf six] s := by
  simp only [takeDue, (dueNow_of_dueHead h).2]

theorem dueHead_inactive {s : State} {six : Nat} (h : (s.strand six).st ≠ .active) : dueHead s six = none := by
  simp only [dueHead, h, if_false]

/-- A park that is due is taken; its strand is active, and so not leaving. -/
theorem strandPark_due {s : State} {six : Nat} {t : Trap} (h : dueHead s six = some (.park t)) :
    s.does (.strandPark six)
      (chain [fun _ => [.strand six { s.strand six with due := (s.strand six).due.erase (.park t) }], trapEffects t six] s) := by
  have stays : (s.strand six).leaving = false := by simp [Strand.leaving, (dueNow_of_dueHead h).1]
  refine congrArg Host.Outcome.next ?_
  simp only [M.prog, m_bind, run_whenever, h, stays, takeDue_eq h]
  rfl

/-- A parked strand that is drained joins the migration queue; nothing is due at a strand that is not active. -/
theorem strandPark_leaving {s : State} {six : Nat} (parked : (s.strand six).st = .parked) (entry : (s.strand six).entry = true) :
    s.does (.strandPark six) (parkQueue six s) := by
  have quiet : dueHead s six = none := dueHead_inactive (by simp [parked])
  have leaves : (s.strand six).leaving = true := by simp [Strand.leaving, parked, entry]
  refine congrArg Host.Outcome.next ?_
  simp only [M.prog, m_bind, run_whenever, quiet, leaves]
  rfl

/-- A trap that is due, by the stream whose event takes it. -/
theorem classTrap_due {s : State} {six : Nat} {t : Trap} (h : dueHead s six = some (.trap t)) :
    let es := chain [fun _ => [.strand six { s.strand six with due := (s.strand six).due.erase (.trap t) }], trapEffects t six] s
    (t.strm = .c → s.does (.replayClassTrap six) es) ∧ (t.strm = .v → s.does (.matrixDeferredTrap six) es) := by
  have es := takeDue_eq h
  refine ⟨fun strm => ?_, fun strm => ?_⟩
  all_goals
    refine (event_whenever _ _ s ?_).trans (by rw [es]; rfl)
    rw [h]
    exact decide_eq_true strm

/-! ## Pre-emption, interrupts, unwinding -/

theorem preemptOrder_does {s : State} {g : Nat} (can : canPreempt s g = true) : s.does (.preemptOrder g) (requestPreempt g s) :=
  event_whenever _ _ s can

theorem quantExpiry_does {s : State} {six g : Nat} (gid : (s.strand six).gid = some g) (can : canPreempt s g = true)
    (active : (s.strand six).st = .active) (quant : (s.strand six).sys.quant = 0) (slot : preemptible six = true) :
    s.does (.quantExpiry six) (requestPreempt g s) := by
  refine (event_whenever _ _ s ?_).trans (by rw [gid]; rfl)
  simp [gid, can, active, quant, slot]

theorem preemptEntry_does {s : State} {six : Nat} (quiet : dueHead s six = none) (ready : preemptReady s six = true) :
    s.does (.preemptEntry six) (preemptEnter six s) :=
  event_whenever _ _ s (by rw [quiet, ready]; rfl)

/-- The interrupt that is ready is the oldest pending one. -/
theorem head_of_interruptReady {s : State} {six : Nat} {p : Nat × Nat} (h : interruptReady s six = some p) :
    (s.core (coreOf six)).intr.head? = some p := by
  simp only [interruptReady, Option.ite_none_right_eq_some] at h
  exact h.2

theorem interruptEntry_does {s : State} {six sub src : Nat} (quiet : dueHead s six = none)
    (ready : interruptReady s six = some (sub, src)) :
    s.does (.interruptEntry six) (chain
      [fun _ => [.core (coreOf six) { s.core (coreOf six) with intr := (s.core (coreOf six)).intr.tail }],
       trapEffects { cause := 19, sub := sub, addr := BitVec.ofNat 64 src, strm := .c } six] s) := by
  refine (event_whenever _ _ s (by rw [quiet, ready]; rfl)).trans ?_
  obtain ⟨rest, pending⟩ := List.head?_eq_some_iff.mp (head_of_interruptReady ready)
  simp only [interruptEnter, pending, List.tail_cons]

theorem unwindStart_does {s : State} {six : Nat} {es : List Effect} (quiet : dueHead s six = none)
    (unwind : unwindBoundary six s = some es) (new : (s.strand six).unw = none) : s.does (.unwindStart six) es :=
  (event_whenever _ _ s (by rw [quiet, new]; rfl)).trans (by rw [unwind]; rfl)

theorem cleanupBudgetExpiry_does {s : State} {six : Nat} {es : List Effect} {u : Unwind} (quiet : dueHead s six = none)
    (unwind : unwindBoundary six s = some es) (run : (s.strand six).unw = some u) (clean : u.clean = true) (left : u.left = 0) :
    s.does (.cleanupBudgetExpiry six) es :=
  (event_whenever _ _ s (by simp [quiet, run, clean, left])).trans (by rw [unwind]; rfl)

/-! ## Times that are over -/

theorem streamAging_does {s : State} {six : Nat} {st : Stream} (slot : slotOf six < 6) (active : (s.strand six).st = .active)
    (runs : st = .c ∨ (s.strand six).sys.vrun = true) (new : (s.core (coreOf six)).aged.contains (slotOf six, st) = false)
    (old : 1024 ≤ tblGet 0 (s.core (coreOf six)).ages (ageKey (slotOf six) st)) :
    s.does (.streamAging six st)
      [.core (coreOf six) { s.core (coreOf six) with aged := (s.core (coreOf six)).aged ++ [(slotOf six, st)] }] := by
  refine event_whenever _ _ s ?_
  simp only [slot, active, and_self, decide_true, new, Bool.not_false, old, Bool.true_and, Bool.and_true, Bool.or_eq_true,
    decide_eq_true_eq]
  exact runs

theorem alignTimeout_does {s : State} {six t w : Nat} (wait : (s.strand six).c.wait = .align t w)
    (late : t + 256 ≤ (s.core (coreOf six)).cycle) : s.does (.alignTimeout six) (alignDone [six] s) := by
  refine event_whenever _ _ s ?_
  rw [wait]
  exact decide_eq_true late

theorem reservationExpiry_does {s : State} {six : Nat} {r : Nat × Nat} (res : (s.strand six).res = some r)
    (late : r.2 + 4096 ≤ s.cycle) : s.does (.reservationExpiry six) [.strand six { s.strand six with res := none }] :=
  event_whenever _ _ s (by rw [res]; exact decide_eq_true late)

theorem grevokeComplete_does {s : State} {six t d w : Nat} (wait : (s.strand six).c.wait = .revoke t d w)
    (late : (s.dom t).st ≠ .revoked) :
    s.does (.grevokeComplete six)
      [.strand six ((((s.strand six).write (.s d) (.word 0)).setPc .c ((s.strand six).c.pc + 4)).stepped .c w)] := by
  show execGrevokeComplete six s = _
  simp only [execGrevokeComplete, wait]
  exact event_whenever _ _ s (decide_eq_true late)

/-! ## Machine checks and timers (R183, R190) -/

theorem machineCheck_compute {s : State} {gid sub six : Nat} (compute : isCompute (coreOf six) = true)
    (group : (s.group gid).isSome = true) :
    s.does (.machineCheck gid sub six)
      (if (s.strand six).gid = some gid then contain s six (s.strand six) true else containGroup gid (coreOf six) s) := by
  show execMachineCheck gid sub six s = _
  simp only [execMachineCheck, compute, Bool.not_true, Bool.false_eq_true, if_false]
  exact event_whenever _ _ s group

theorem machineCheck_other {s : State} {gid sub six : Nat} (other : isCompute (coreOf six) = false)
    (active : (s.strand six).st = .active) :
    s.does (.machineCheck gid sub six) (trapEffects { cause := 17, sub := sub, addr := 0, strm := .c } six s) := by
  show execMachineCheck gid sub six s = _
  simp only [execMachineCheck, other, Bool.not_false, if_true]
  exact event_whenever _ _ s (decide_eq_true active)

theorem timerInterrupt_does {s : State} {n src : Nat} (core : n < 1088) (other : isCompute n = false) :
    s.does (.timerInterrupt n src) [.core n { s.core n with intr := (s.core n).intr ++ [(3, src)] }] :=
  event_whenever _ _ s (by rw [other]; exact Bool.and_eq_true_iff.mpr ⟨decide_eq_true core, rfl⟩)

/-- Settles O44, event by event. -/
theorem strandEvents_happen : Obligations.StrandEvents := by
  intro s six
  refine ⟨fun t => strandPark_due, fun t h => classTrap_due h, fun parked entry drained => ?parked, fun g gid can =>
    ⟨preemptOrder_does can, quantExpiry_does gid can⟩, fun quiet => ⟨preemptEntry_does quiet, fun sub src => interruptEntry_does quiet,
      fun es unwind => ⟨unwindStart_does quiet unwind, fun u => cleanupBudgetExpiry_does quiet unwind⟩⟩,
    fun st => streamAging_does, fun t w => alignTimeout_does, fun r => reservationExpiry_does, fun t d w => grevokeComplete_does,
    fun gid sub compute group => ⟨fun own => ?own, fun foreign => ?foreign⟩, fun gid sub => machineCheck_other,
    fun n src => timerInterrupt_does⟩
  case parked =>
    have queue := strandPark_leaving parked entry
    rwa [parkQueue, drained, if_neg Bool.false_ne_true] at queue
  case own =>
    have check := machineCheck_compute (sub := sub) compute group
    rwa [if_pos own] at check
  case foreign =>
    have check := machineCheck_compute (sub := sub) compute group
    rwa [if_neg foreign] at check

end Sys2Proof.Machine

/-! Decoding what the encoder gives (R41 to R48): an operand's value put where a word has zeros changes that field alone, so the fields that
select an instruction stay those of its constant bits, and each operand reads back from its own field. -/

namespace Sys2Proof

/-! ## Fields of an instruction word -/

/-- A field of `n` bits from bit `lo` shares no bit with any of the fields. -/
def apart (lo n : Nat) (ls : List (Nat × Nat)) : Bool := ls.all fun f => Nat.ble (lo + n) f.1 || Nat.ble (f.1 + f.2) lo

/-- A word has zeros in every one of the fields. -/
def clear (w : Nat) (ls : List (Nat × Nat)) : Bool := ls.all fun f => w / 2 ^ f.1 % 2 ^ f.2 == 0

/-- No two of the fields share a bit. -/
def disjoint : List (Nat × Nat) → Bool
  | [] => true
  | f :: ls => apart f.1 f.2 ls && disjoint ls

theorem apart_cons {lo n : Nat} {f : Nat × Nat} {ls : List (Nat × Nat)} :
    apart lo n (f :: ls) = true ↔ (lo + n ≤ f.1 ∨ f.1 + f.2 ≤ lo) ∧ apart lo n ls = true := by
  simp [apart]

theorem clear_cons {w : Nat} {f : Nat × Nat} {ls : List (Nat × Nat)} :
    clear w (f :: ls) = true ↔ w / 2 ^ f.1 % 2 ^ f.2 = 0 ∧ clear w ls = true := by
  simp [clear]

theorem fld_eq {w lo n : Nat} {v : BitVec n} (h : w / 2 ^ lo % 2 ^ n = v.toNat) : fld w lo n = v := BitVec.eq_of_toNat_eq h

/-- A value put where a word has zeros reads back. -/
theorem field_add_same {w lo n v : Nat} (zero : w / 2 ^ lo % 2 ^ n = 0) (fits : v < 2 ^ n) :
    (w + v * 2 ^ lo) / 2 ^ lo % 2 ^ n = v := by
  rw [Nat.add_mul_div_right _ _ (Nat.two_pow_pos lo), Nat.add_mod, zero, Nat.zero_add, Nat.mod_mod, Nat.mod_eq_of_lt fits]

/-- It changes no other field: one below it is not reached, and none above it gets a carry. -/
theorem field_add_other {w lo n v lo' n' : Nat} (zero : w / 2 ^ lo % 2 ^ n = 0) (fits : v < 2 ^ n)
    (other : lo' + n' ≤ lo ∨ lo + n ≤ lo') : (w + v * 2 ^ lo) / 2 ^ lo' % 2 ^ n' = w / 2 ^ lo' % 2 ^ n' := by
  rcases other with below | above
  · obtain ⟨k, rfl⟩ := Nat.exists_eq_add_of_le below
    rw [show v * 2 ^ (lo' + n' + k) = 2 ^ n' * (v * 2 ^ k) * 2 ^ lo' by ring, Nat.add_mul_div_right _ _ (Nat.two_pow_pos lo'),
      Nat.add_mul_mod_self_left]
  · obtain ⟨k, rfl⟩ := Nat.exists_eq_add_of_le above
    have carry : (w / 2 ^ lo + v) / 2 ^ n = w / 2 ^ lo / 2 ^ n := by
      obtain ⟨q, hq⟩ := Nat.dvd_of_mod_eq_zero zero
      rw [hq, Nat.mul_add_div (Nat.two_pow_pos n), Nat.div_eq_of_lt fits, Nat.mul_div_cancel_left _ (Nat.two_pow_pos n), Nat.add_zero]
    simp only [Nat.pow_add, ← Nat.div_div_eq_div_mul, Nat.add_mul_div_right _ _ (Nat.two_pow_pos lo), carry]

/-- A field of an instruction word with the operand it holds: its lowest bit and its width. -/
structure Slot where
  lo : Nat
  n : Nat
  v : BitVec n

/-- Where a slot lies. -/
def Slot.at (f : Slot) : Nat × Nat := (f.lo, f.n)

/-- A word with the operand of every slot added in its place. -/
def fill (w : Nat) : List Slot → Nat
  | [] => w
  | f :: fs => fill (w + f.v.toNat * 2 ^ f.lo) fs

/-- A slot's operand, put where a word has zeros, leaves the fields apart from it clear. -/
theorem clear_add {w : Nat} {f : Slot} {ls : List (Nat × Nat)} (zero : w / 2 ^ f.lo % 2 ^ f.n = 0)
    (other : apart f.lo f.n ls = true) (h : clear w ls = true) : clear (w + f.v.toNat * 2 ^ f.lo) ls = true := by
  induction ls with
  | nil => rfl
  | cons l ls ih =>
    rw [apart_cons] at other
    rw [clear_cons] at h ⊢
    exact ⟨(field_add_other zero f.v.isLt other.1.symm).trans h.1, ih other.2 h.2⟩

/-- Filling changes no field apart from the slots. -/
theorem fill_other {lo n : Nat} {fs : List Slot} {w : Nat} (dis : disjoint (fs.map Slot.at) = true)
    (zero : clear w (fs.map Slot.at) = true) (other : apart lo n (fs.map Slot.at) = true) :
    fill w fs / 2 ^ lo % 2 ^ n = w / 2 ^ lo % 2 ^ n := by
  induction fs generalizing w with
  | nil => rfl
  | cons f fs ih =>
    rw [List.map_cons] at *
    rw [clear_cons] at zero
    rw [apart_cons] at other
    obtain ⟨apt, dis⟩ := Bool.and_eq_true_iff.mp dis
    exact (ih dis (clear_add zero.1 apt zero.2) other.2).trans (field_add_other zero.1 f.v.isLt other.1)

/-- Every slot's operand reads back from the filled word. -/
theorem fill_same {fs : List Slot} {w : Nat} (dis : disjoint (fs.map Slot.at) = true) (zero : clear w (fs.map Slot.at) = true) :
    ∀ f ∈ fs, fld (fill w fs) f.lo f.n = f.v := by
  induction fs generalizing w with
  | nil => simp
  | cons f fs ih =>
    rw [List.map_cons] at *
    rw [clear_cons] at zero
    obtain ⟨apt, dis⟩ := Bool.and_eq_true_iff.mp dis
    have rest := clear_add zero.1 apt zero.2
    refine List.forall_mem_cons.mpr ⟨fld_eq ?_, ih dis rest⟩
    exact (fill_other dis rest apt).trans (field_add_same zero.1 f.v.isLt)

/-! ## The operand formats (R44, R47) -/

/-- How operands lie in a word: their bits, added to a word that has zeros in the fields `ls`, change no field apart from those, and `of`
reads the operands back. -/
structure Laid {α : Type} (of : Nat → α) (o : α) (bits : Nat) (ls : List (Nat × Nat)) : Prop where
  keeps : ∀ {c lo n : Nat}, clear c ls = true → apart lo n ls = true → (c + bits) / 2 ^ lo % 2 ^ n = c / 2 ^ lo % 2 ^ n
  reads : ∀ {c : Nat}, clear c ls = true → of (c + bits) = o

theorem Laid.of_slots {α : Type} {of : Nat → α} {o : α} {bits : Nat} {ls : List (Nat × Nat)} (fs : List Slot)
    (layout : fs.map Slot.at = ls) (dis : disjoint ls = true) (sum : ∀ c, c + bits = fill c fs)
    (back : ∀ w, (∀ f ∈ fs, fld w f.lo f.n = f.v) → of w = o) : Laid of o bits ls := by
  subst layout
  refine ⟨fun zero other => ?_, fun zero => ?_⟩
  · rw [sum, fill_other dis zero other]
  · rw [sum]
    exact back _ (fill_same dis zero)

theorem A3.laid (o : A3) : Laid A3.of o o.bits [(29, 3), (17, 5), (12, 5), (7, 5)] :=
  .of_slots [⟨29, 3, o.w⟩, ⟨17, 5, o.b⟩, ⟨12, 5, o.a⟩, ⟨7, 5, o.d⟩] rfl rfl
    (fun c => by simp only [A3.bits, ← Nat.add_assoc]; rfl) fun w => by simp +contextual [A3.of]
theorem A2.laid (o : A2) : Laid A2.of o o.bits [(29, 3), (12, 5), (7, 5)] :=
  .of_slots [⟨29, 3, o.w⟩, ⟨12, 5, o.a⟩, ⟨7, 5, o.d⟩] rfl rfl
    (fun c => by simp only [A2.bits, ← Nat.add_assoc]; rfl) fun w => by simp +contextual [A2.of]
theorem AB.laid (o : AB) : Laid AB.of o o.bits [(29, 3), (17, 5), (12, 5)] :=
  .of_slots [⟨29, 3, o.w⟩, ⟨17, 5, o.b⟩, ⟨12, 5, o.a⟩] rfl rfl
    (fun c => by simp only [AB.bits, ← Nat.add_assoc]; rfl) fun w => by simp +contextual [AB.of]
theorem AD.laid (o : AD) : Laid AD.of o o.bits [(29, 3), (7, 5)] :=
  .of_slots [⟨29, 3, o.w⟩, ⟨7, 5, o.d⟩] rfl rfl
    (fun c => by simp only [AD.bits, ← Nat.add_assoc]; rfl) fun w => by simp +contextual [AD.of]
theorem AA.laid (o : AA) : Laid AA.of o o.bits [(29, 3), (12, 5)] :=
  .of_slots [⟨29, 3, o.w⟩, ⟨12, 5, o.a⟩] rfl rfl
    (fun c => by simp only [AA.bits, ← Nat.add_assoc]; rfl) fun w => by simp +contextual [AA.of]
theorem A0.laid (o : A0) : Laid A0.of o o.bits [(29, 3)] :=
  .of_slots [⟨29, 3, o.w⟩] rfl rfl (fun _ => rfl) fun w => by simp +contextual [A0.of]
theorem Imm.laid (o : Imm) : Laid Imm.of o o.bits [(17, 15), (12, 5), (7, 5)] :=
  .of_slots [⟨17, 15, o.imm⟩, ⟨12, 5, o.a⟩, ⟨7, 5, o.d⟩] rfl rfl
    (fun c => by simp only [Imm.bits, ← Nat.add_assoc]; rfl) fun w => by simp +contextual [Imm.of]
theorem Shift.laid (o : Shift) : Laid Shift.of o o.bits [(17, 6), (12, 5), (7, 5)] :=
  .of_slots [⟨17, 6, o.c⟩, ⟨12, 5, o.a⟩, ⟨7, 5, o.d⟩] rfl rfl
    (fun c => by simp only [Shift.bits, ← Nat.add_assoc]; rfl) fun w => by simp +contextual [Shift.of]
theorem Field.laid (o : Field) : Laid Field.of o o.bits [(23, 6), (17, 6), (12, 5), (7, 5)] :=
  .of_slots [⟨23, 6, o.n⟩, ⟨17, 6, o.p⟩, ⟨12, 5, o.a⟩, ⟨7, 5, o.d⟩] rfl rfl
    (fun c => by simp only [Field.bits, ← Nat.add_assoc]; rfl) fun w => by simp +contextual [Field.of]
theorem Upper.laid (o : Upper) : Laid Upper.of o o.bits [(12, 20), (7, 5)] :=
  .of_slots [⟨12, 20, o.imm⟩, ⟨7, 5, o.d⟩] rfl rfl
    (fun c => by simp only [Upper.bits, ← Nat.add_assoc]; rfl) fun w => by simp +contextual [Upper.of]
theorem Mem.laid (o : Mem) : Laid Mem.of o o.bits [(22, 10), (17, 3), (12, 5), (7, 5)] :=
  .of_slots [⟨22, 10, o.off⟩, ⟨17, 3, o.space⟩, ⟨12, 5, o.base⟩, ⟨7, 5, o.d⟩] rfl rfl
    (fun c => by simp only [Mem.bits, ← Nat.add_assoc]; rfl) fun w => by simp +contextual [Mem.of]
theorem MemO.laid (o : MemO) : Laid MemO.of o o.bits [(22, 9), (20, 2), (17, 3), (12, 5), (7, 5)] :=
  .of_slots [⟨22, 9, o.off⟩, ⟨20, 2, o.ord⟩, ⟨17, 3, o.space⟩, ⟨12, 5, o.base⟩, ⟨7, 5, o.d⟩] rfl rfl
    (fun c => by simp only [MemO.bits, ← Nat.add_assoc]; rfl) fun w => by simp +contextual [MemO.of]
theorem Atom.laid (o : Atom) : Laid Atom.of o o.bits [(29, 3), (23, 2), (22, 1), (17, 5), (12, 5), (7, 5), (1, 2)] :=
  .of_slots [⟨29, 3, o.w⟩, ⟨23, 2, o.sp⟩, ⟨22, 1, o.z⟩, ⟨17, 5, o.b⟩, ⟨12, 5, o.a⟩, ⟨7, 5, o.d⟩, ⟨1, 2, o.q⟩] rfl rfl
    (fun c => by simp only [Atom.bits, ← Nat.add_assoc]; rfl) fun w => by simp +contextual [Atom.of]
theorem AtomLr.laid (o : AtomLr) : Laid AtomLr.of o o.bits [(29, 3), (22, 1), (12, 5), (7, 5), (1, 2)] :=
  .of_slots [⟨29, 3, o.w⟩, ⟨22, 1, o.z⟩, ⟨12, 5, o.a⟩, ⟨7, 5, o.d⟩, ⟨1, 2, o.q⟩] rfl rfl
    (fun c => by simp only [AtomLr.bits, ← Nat.add_assoc]; rfl) fun w => by simp +contextual [AtomLr.of]
theorem AtomG.laid (o : AtomG) : Laid AtomG.of o o.bits [(29, 3), (22, 1), (17, 5), (12, 5), (7, 5), (1, 2)] :=
  .of_slots [⟨29, 3, o.w⟩, ⟨22, 1, o.z⟩, ⟨17, 5, o.b⟩, ⟨12, 5, o.a⟩, ⟨7, 5, o.d⟩, ⟨1, 2, o.q⟩] rfl rfl
    (fun c => by simp only [AtomG.bits, ← Nat.add_assoc]; rfl) fun w => by simp +contextual [AtomG.of]
theorem AtomC.laid (o : AtomC) : Laid AtomC.of o o.bits [(29, 3), (23, 2), (17, 5), (12, 5), (7, 5), (1, 2)] :=
  .of_slots [⟨29, 3, o.w⟩, ⟨23, 2, o.sp⟩, ⟨17, 5, o.b⟩, ⟨12, 5, o.a⟩, ⟨7, 5, o.d⟩, ⟨1, 2, o.q⟩] rfl rfl
    (fun c => by simp only [AtomC.bits, ← Nat.add_assoc]; rfl) fun w => by simp +contextual [AtomC.of]
theorem Br.laid (o : Br) : Laid Br.of o o.bits [(20, 12), (12, 5), (7, 5)] :=
  .of_slots [⟨20, 12, o.disp⟩, ⟨12, 5, o.b⟩, ⟨7, 5, o.a⟩] rfl rfl
    (fun c => by simp only [Br.bits, ← Nat.add_assoc]; rfl) fun w => by simp +contextual [Br.of]
theorem Jmp.laid (o : Jmp) : Laid Jmp.of o o.bits [(12, 20), (7, 5)] :=
  .of_slots [⟨12, 20, o.disp⟩, ⟨7, 5, o.link⟩] rfl rfl
    (fun c => by simp only [Jmp.bits, ← Nat.add_assoc]; rfl) fun w => by simp +contextual [Jmp.of]
theorem SysD.laid (o : SysD) : Laid SysD.of o o.bits [(17, 12), (7, 5)] :=
  .of_slots [⟨17, 12, o.n⟩, ⟨7, 5, o.d⟩] rfl rfl
    (fun c => by simp only [SysD.bits, ← Nat.add_assoc]; rfl) fun w => by simp +contextual [SysD.of]
theorem SysA.laid (o : SysA) : Laid SysA.of o o.bits [(17, 12), (12, 5)] :=
  .of_slots [⟨17, 12, o.n⟩, ⟨12, 5, o.a⟩] rfl rfl
    (fun c => by simp only [SysA.bits, ← Nat.add_assoc]; rfl) fun w => by simp +contextual [SysA.of]
theorem Code.laid (o : Code) : Laid Code.of o o.bits [(17, 12)] :=
  .of_slots [⟨17, 12, o.c⟩] rfl rfl (fun _ => rfl) fun w => by simp +contextual [Code.of]
theorem X3.laid (o : X3) : Laid X3.of o o.bits [(29, 3), (17, 3), (12, 5), (7, 5)] :=
  .of_slots [⟨29, 3, o.w⟩, ⟨17, 3, o.x⟩, ⟨12, 5, o.a⟩, ⟨7, 5, o.d⟩] rfl rfl
    (fun c => by simp only [X3.bits, ← Nat.add_assoc]; rfl) fun w => by simp +contextual [X3.of]
theorem X2.laid (o : X2) : Laid X2.of o o.bits [(29, 3), (17, 3), (7, 5)] :=
  .of_slots [⟨29, 3, o.w⟩, ⟨17, 3, o.x⟩, ⟨7, 5, o.d⟩] rfl rfl
    (fun c => by simp only [X2.bits, ← Nat.add_assoc]; rfl) fun w => by simp +contextual [X2.of]
theorem Bell.laid (o : Bell) : Laid Bell.of o o.bits [(29, 3), (22, 3), (12, 5), (7, 5)] :=
  .of_slots [⟨29, 3, o.w⟩, ⟨22, 3, o.c⟩, ⟨12, 5, o.a⟩, ⟨7, 5, o.d⟩] rfl rfl
    (fun c => by simp only [Bell.bits, ← Nat.add_assoc]; rfl) fun w => by simp +contextual [Bell.of]
theorem BellB.laid (o : BellB) : Laid BellB.of o o.bits [(29, 3), (22, 3), (17, 5), (12, 5), (7, 5)] :=
  .of_slots [⟨29, 3, o.w⟩, ⟨22, 3, o.c⟩, ⟨17, 5, o.b⟩, ⟨12, 5, o.a⟩, ⟨7, 5, o.d⟩] rfl rfl
    (fun c => by simp only [BellB.bits, ← Nat.add_assoc]; rfl) fun w => by simp +contextual [BellB.of]
theorem V2.laid (o : V2) : Laid V2.of o o.bits [(29, 3), (22, 3), (12, 5), (7, 5)] :=
  .of_slots [⟨29, 3, o.w⟩, ⟨22, 3, o.m⟩, ⟨12, 5, o.a⟩, ⟨7, 5, o.d⟩] rfl rfl
    (fun c => by simp only [V2.bits, ← Nat.add_assoc]; rfl) fun w => by simp +contextual [V2.of]
theorem V3.laid (o : V3) : Laid V3.of o o.bits [(29, 3), (22, 3), (17, 5), (12, 5), (7, 5)] :=
  .of_slots [⟨29, 3, o.w⟩, ⟨22, 3, o.m⟩, ⟨17, 5, o.b⟩, ⟨12, 5, o.a⟩, ⟨7, 5, o.d⟩] rfl rfl
    (fun c => by simp only [V3.bits, ← Nat.add_assoc]; rfl) fun w => by simp +contextual [V3.of]
theorem VImm.laid (o : VImm) : Laid VImm.of o o.bits [(29, 3), (12, 13), (7, 5)] :=
  .of_slots [⟨29, 3, o.w⟩, ⟨12, 13, o.imm⟩, ⟨7, 5, o.d⟩] rfl rfl
    (fun c => by simp only [VImm.bits, ← Nat.add_assoc]; rfl) fun w => by simp +contextual [VImm.of]
theorem VT.laid (o : VT) : Laid VT.of o o.bits [(29, 3), (22, 3), (17, 5), (12, 5), (7, 5)] :=
  .of_slots [⟨29, 3, o.w⟩, ⟨22, 3, o.m⟩, ⟨17, 5, o.t⟩, ⟨12, 5, o.a⟩, ⟨7, 5, o.d⟩] rfl rfl
    (fun c => by simp only [VT.bits, ← Nat.add_assoc]; rfl) fun w => by simp +contextual [VT.of]
theorem VTag.laid (o : VTag) : Laid VTag.of o o.bits [(29, 3), (17, 5), (12, 5), (7, 5)] :=
  .of_slots [⟨29, 3, o.w⟩, ⟨17, 5, o.t⟩, ⟨12, 5, o.a⟩, ⟨7, 5, o.d⟩] rfl rfl
    (fun c => by simp only [VTag.bits, ← Nat.add_assoc]; rfl) fun w => by simp +contextual [VTag.of]
theorem VR3.laid (o : VR3) : Laid VR3.of o o.bits [(29, 3), (22, 3), (17, 5), (12, 5), (7, 5), (1, 3)] :=
  .of_slots [⟨29, 3, o.w⟩, ⟨22, 3, o.m⟩, ⟨17, 5, o.b⟩, ⟨12, 5, o.a⟩, ⟨7, 5, o.d⟩, ⟨1, 3, o.r⟩] rfl rfl
    (fun c => by simp only [VR3.bits, ← Nat.add_assoc]; rfl) fun w => by simp +contextual [VR3.of]
theorem VR2.laid (o : VR2) : Laid VR2.of o o.bits [(29, 3), (22, 3), (12, 5), (7, 5), (1, 3)] :=
  .of_slots [⟨29, 3, o.w⟩, ⟨22, 3, o.m⟩, ⟨12, 5, o.a⟩, ⟨7, 5, o.d⟩, ⟨1, 3, o.r⟩] rfl rfl
    (fun c => by simp only [VR2.bits, ← Nat.add_assoc]; rfl) fun w => by simp +contextual [VR2.of]
theorem Cvt.laid (o : Cvt) : Laid Cvt.of o o.bits [(29, 3), (28, 1), (25, 3), (22, 3), (17, 5), (12, 5), (7, 5)] :=
  .of_slots [⟨29, 3, o.w⟩, ⟨28, 1, o.nan⟩, ⟨25, 3, o.r⟩, ⟨22, 3, o.m⟩, ⟨17, 5, o.t⟩, ⟨12, 5, o.a⟩, ⟨7, 5, o.d⟩] rfl rfl
    (fun c => by simp only [Cvt.bits, ← Nat.add_assoc]; rfl) fun w => by simp +contextual [Cvt.of]
theorem Pack.laid (o : Pack) : Laid Pack.of o o.bits [(29, 3), (28, 1), (25, 3), (17, 5), (12, 5), (7, 5)] :=
  .of_slots [⟨29, 3, o.w⟩, ⟨28, 1, o.nan⟩, ⟨25, 3, o.r⟩, ⟨17, 5, o.t⟩, ⟨12, 5, o.a⟩, ⟨7, 5, o.d⟩] rfl rfl
    (fun c => by simp only [Pack.bits, ← Nat.add_assoc]; rfl) fun w => by simp +contextual [Pack.of]
theorem Scale.laid (o : Scale) : Laid Scale.of o o.bits [(29, 3), (25, 3), (22, 3), (17, 5), (12, 5), (7, 5)] :=
  .of_slots [⟨29, 3, o.w⟩, ⟨25, 3, o.r⟩, ⟨22, 3, o.m⟩, ⟨17, 5, o.b⟩, ⟨12, 5, o.a⟩, ⟨7, 5, o.d⟩] rfl rfl
    (fun c => by simp only [Scale.bits, ← Nat.add_assoc]; rfl) fun w => by simp +contextual [Scale.of]
theorem Unpk.laid (o : Unpk) : Laid Unpk.of o o.bits [(29, 3), (22, 3), (17, 5), (12, 5), (7, 5)] :=
  .of_slots [⟨29, 3, o.w⟩, ⟨22, 3, o.p⟩, ⟨17, 5, o.t⟩, ⟨12, 5, o.a⟩, ⟨7, 5, o.d⟩] rfl rfl
    (fun c => by simp only [Unpk.bits, ← Nat.add_assoc]; rfl) fun w => by simp +contextual [Unpk.of]
theorem VLoad.laid (o : VLoad) : Laid VLoad.of o o.bits [(29, 3), (25, 3), (22, 3), (17, 5), (12, 5), (7, 5)] :=
  .of_slots [⟨29, 3, o.w⟩, ⟨25, 3, o.s⟩, ⟨22, 3, o.m⟩, ⟨17, 5, o.t⟩, ⟨12, 5, o.a⟩, ⟨7, 5, o.d⟩] rfl rfl
    (fun c => by simp only [VLoad.bits, ← Nat.add_assoc]; rfl) fun w => by simp +contextual [VLoad.of]
theorem VStore.laid (o : VStore) : Laid VStore.of o o.bits [(29, 3), (25, 3), (22, 3), (12, 5), (7, 5)] :=
  .of_slots [⟨29, 3, o.w⟩, ⟨25, 3, o.s⟩, ⟨22, 3, o.m⟩, ⟨12, 5, o.a⟩, ⟨7, 5, o.d⟩] rfl rfl
    (fun c => by simp only [VStore.bits, ← Nat.add_assoc]; rfl) fun w => by simp +contextual [VStore.of]
theorem VIdx.laid (o : VIdx) : Laid VIdx.of o o.bits [(29, 3), (25, 3), (22, 3), (17, 5), (12, 5), (7, 5)] :=
  .of_slots [⟨29, 3, o.w⟩, ⟨25, 3, o.s⟩, ⟨22, 3, o.m⟩, ⟨17, 5, o.b⟩, ⟨12, 5, o.a⟩, ⟨7, 5, o.d⟩] rfl rfl
    (fun c => by simp only [VIdx.bits, ← Nat.add_assoc]; rfl) fun w => by simp +contextual [VIdx.of]
theorem VSv.laid (o : VSv) : Laid VSv.of o o.bits [(29, 3), (25, 3), (12, 5), (7, 5)] :=
  .of_slots [⟨29, 3, o.w⟩, ⟨25, 3, o.s⟩, ⟨12, 5, o.a⟩, ⟨7, 5, o.d⟩] rfl rfl
    (fun c => by simp only [VSv.bits, ← Nat.add_assoc]; rfl) fun w => by simp +contextual [VSv.of]
theorem J0.laid (o : J0) : Laid J0.of o o.bits [(12, 20)] :=
  .of_slots [⟨12, 20, o.disp⟩] rfl rfl (fun _ => rfl) fun w => by simp +contextual [J0.of]
theorem B0.laid (o : B0) : Laid B0.of o o.bits [(20, 12)] :=
  .of_slots [⟨20, 12, o.disp⟩] rfl rfl (fun _ => rfl) fun w => by simp +contextual [B0.of]
theorem B1.laid (o : B1) : Laid B1.of o o.bits [(20, 12), (7, 5)] :=
  .of_slots [⟨20, 12, o.disp⟩, ⟨7, 5, o.a⟩] rfl rfl
    (fun c => by simp only [B1.bits, ← Nat.add_assoc]; rfl) fun w => by simp +contextual [B1.of]
theorem Mz.laid (o : Mz) : Laid Mz.of o o.bits [(29, 3), (12, 5), (7, 5)] :=
  .of_slots [⟨29, 3, o.w⟩, ⟨12, 5, o.t⟩, ⟨7, 5, o.d⟩] rfl rfl
    (fun c => by simp only [Mz.bits, ← Nat.add_assoc]; rfl) fun w => by simp +contextual [Mz.of]
theorem CR.laid (o : CR) : Laid CR.of o o.bits [(10, 5), (5, 5)] :=
  .of_slots [⟨10, 5, o.a⟩, ⟨5, 5, o.d⟩] rfl rfl
    (fun c => by simp only [CR.bits, ← Nat.add_assoc]; rfl) fun w => by simp +contextual [CR.of]
theorem CI.laid (o : CI) : Laid CI.of o o.bits [(10, 6), (5, 5)] :=
  .of_slots [⟨10, 6, o.imm⟩, ⟨5, 5, o.d⟩] rfl rfl
    (fun c => by simp only [CI.bits, ← Nat.add_assoc]; rfl) fun w => by simp +contextual [CI.of]
theorem CB.laid (o : CB) : Laid CB.of o o.bits [(8, 8), (5, 3)] :=
  .of_slots [⟨8, 8, o.disp⟩, ⟨5, 3, o.a⟩] rfl rfl
    (fun c => by simp only [CB.bits, ← Nat.add_assoc]; rfl) fun w => by simp +contextual [CB.of]
theorem CA.laid (o : CA) : Laid CA.of o o.bits [(10, 5)] :=
  .of_slots [⟨10, 5, o.a⟩] rfl rfl (fun _ => rfl) fun w => by simp +contextual [CA.of]

/-! ## Decoding bytes (R9, R41) -/

/-- The low halfword of a number, from its two bytes. -/
theorem halfword_eq (n : Nat) : (BitVec.ofNat 8 n).toNat + 256 * (BitVec.ofNat 8 (n / 256)).toNat = n % 65536 := by
  simp only [BitVec.toNat_ofNat]
  omega

/-- A 32-bit instruction: the first halfword is odd. -/
theorem decode_long {n : Nat} {i : Instr} (r : List Byte) (odd : n % 2 = 1) (fits : n < 2 ^ 32) (h : decode32 n = .ok i) :
    decode (natBytes 4 n ++ r) = .ok (i, r) := by
  have word : n % 65536 + 65536 * (n / 256 / 256 % 65536) = n := by omega
  simp only [natBytes, List.cons_append, List.nil_append, decode, halfAt, halfword_eq, word, h]
  rw [if_neg (by omega)]

/-- A 16-bit instruction: its halfword is even. -/
theorem decode_short {n : Nat} {i : Instr} (r : List Byte) (even : n % 2 = 0) (fits : n < 2 ^ 16) (h : decode16 n = .ok i) :
    decode (natBytes 2 n ++ r) = .ok (i, r) := by
  simp only [natBytes, List.cons_append, List.nil_append, decode, halfAt, halfword_eq, show n % 65536 = n from Nat.mod_eq_of_lt fits, h]
  rw [if_pos (by omega)]

/-- What the decoder finds before the field checks is answered where the checks pass. -/
theorem checked_ok {r : Except Reject Instr} {i : Instr} (h : r = .ok i) (wf : i.wf = true) : checked r = .ok i := by
  rw [h, checked, if_pos wf]

/-- The encoding of a well-formed instruction decodes to it, whatever follows. -/
def Decodes (i : Instr) : Prop := i.wf = true → ∀ r, decode (encodeBytes i ++ r) = .ok (i, r)

theorem Decodes.of_raw32 {i : Instr} (len : i.len = 4) (odd : encode i % 2 = 1) (fits : encode i < 2 ^ 32)
    (h : i.wf = true → raw32 (encode i) = .ok i) : Decodes i := fun wf r => by
  rw [encodeBytes, len]
  exact decode_long r odd fits (checked_ok (h wf) wf)

theorem Decodes.of_raw16 {i : Instr} (len : i.len = 2) (even : encode i % 2 = 0) (fits : encode i < 2 ^ 16)
    (h : raw16 (encode i) = .ok i) : Decodes i := fun wf r => by
  rw [encodeBytes, len]
  exact decode_short r even fits (checked_ok h wf)

/-! ## One row of the function tables (R48, R54) -/

/-- Should-be-zero fields that hold what they must (R56). -/
theorem require_ok {w : Nat} {rs : List (Nat × Nat × Nat)} (i : Instr) (h : ∀ f ∈ rs, w / 2 ^ f.1 % 2 ^ f.2.1 = f.2.2) :
    require w rs i = .ok i := by
  rw [require, if_pos]
  simpa using h

/-- Whether constant bits `c`, with operands of at most `n` in the fields `ls`, are a row of a table of 32-bit words (or of 16-bit ones):
the word has the length that its bit 0 says (R41), the operands touch no field of `sel`, which select the row, and none of `rs`, which hold
what they must (R56). -/
def isRow (is32 : Bool) (c n : Nat) (ls sel : List (Nat × Nat)) (rs : List (Nat × Nat × Nat)) : Bool :=
  c % 2 == is32.toNat && Nat.blt (c + n) (if is32 then 2 ^ 32 else 2 ^ 16) && clear c ls && sel.all (fun f => apart f.1 f.2 ls)
    && rs.all fun f => apart f.1 f.2.1 ls && c / 2 ^ f.1 % 2 ^ f.2.1 == f.2.2

/-- The values that the constant bits have in the selecting fields. -/
def Selected (c : Nat) (sel : List (Nat × Nat)) (w : Nat) : Prop := ∀ f ∈ sel, w / 2 ^ f.1 % 2 ^ f.2 = c / 2 ^ f.1 % 2 ^ f.2

section
variable {α : Type} {of : Nat → α} {o : α} {bits n c : Nat} {ls sel : List (Nat × Nat)} {rs : List (Nat × Nat × Nat)} {is32 : Bool}

/-- What a row's word reads as: its length, its selecting fields, its operands, its should-be-zero fields. -/
theorem Laid.of_isRow (h : Laid of o bits ls) (shape : bits % 2 = 0 ∧ bits ≤ n) (ok : isRow is32 c n ls sel rs = true) :
    (c + bits) % 2 = is32.toNat ∧ c + bits < (if is32 then 2 ^ 32 else 2 ^ 16) ∧ Selected c sel (c + bits) ∧ of (c + bits) = o
      ∧ ∀ i, require (c + bits) rs i = .ok i := by
  simp only [isRow, Bool.and_eq_true, beq_iff_eq, Nat.blt_eq, List.all_eq_true] at ok
  obtain ⟨⟨⟨⟨parity, fits⟩, zero⟩, own⟩, zeros⟩ := ok
  exact ⟨by omega, by omega, fun f hf => h.keeps zero (own f hf), h.reads zero,
    fun i => require_ok i fun f hf => (h.keeps zero (zeros f hf).1).trans (zeros f hf).2⟩

/-- A row of a 32-bit table: every word that has its selecting fields is decoded as the row says. -/
theorem Laid.long {mk : α → Instr} (h : Laid of o bits ls) (shape : bits % 2 = 0 ∧ bits ≤ n) (len : (mk o).len = 4)
    (enc : encode (mk o) = c + bits) (ok : isRow true c n ls sel rs = true)
    (row : (mk o).wf = true → ∀ w, of w = o → Selected c sel w → raw32 w = require w rs (mk (of w))) : Decodes (mk o) := by
  obtain ⟨odd, fits, sel, reads, zeros⟩ := h.of_isRow shape ok
  refine .of_raw32 len (by rwa [enc]) (by rwa [enc]) fun wf => ?_
  rw [enc, row wf _ reads sel, reads, zeros]

/-- A row that the field (`lo`, `k`) selects under its major. -/
theorem Laid.row {mk : α → Instr} (h : Laid of o bits ls) (shape : bits % 2 = 0 ∧ bits ≤ n) (lo k : Nat) (rs : List (Nat × Nat × Nat))
    (len : (mk o).len = 4) (enc : encode (mk o) = c + bits) (ok : isRow true c n ls [(1, 6), (lo, k)] rs = true)
    (row : ∀ w, w / 2 % 64 = c / 2 % 64 → w / 2 ^ lo % 2 ^ k = c / 2 ^ lo % 2 ^ k → raw32 w = require w rs (mk (of w))) : Decodes (mk o) :=
  h.long shape len enc ok fun _ w _ sel => row w (sel (1, 6) (by simp)) (sel (lo, k) (by simp))

/-- A row that its function selects, in format A; in format V; in format X (R44). -/
theorem Laid.rowA {mk : α → Instr} (h : Laid of o bits ls) (shape : bits % 2 = 0 ∧ bits ≤ n) (rs : List (Nat × Nat × Nat))
    (len : (mk o).len = 4) (enc : encode (mk o) = c + bits) (ok : isRow true c n ls [(1, 6), (22, 7)] rs = true)
    (row : ∀ w, w / 2 % 64 = c / 2 % 64 → w / 4194304 % 128 = c / 4194304 % 128 → raw32 w = require w rs (mk (of w))) : Decodes (mk o) :=
  h.row shape 22 7 rs len enc ok row
theorem Laid.rowV {mk : α → Instr} (h : Laid of o bits ls) (shape : bits % 2 = 0 ∧ bits ≤ n) (rs : List (Nat × Nat × Nat))
    (len : (mk o).len = 4) (enc : encode (mk o) = c + bits) (ok : isRow true c n ls [(1, 6), (25, 4)] rs = true)
    (row : ∀ w, w / 2 % 64 = c / 2 % 64 → w / 33554432 % 16 = c / 33554432 % 16 → raw32 w = require w rs (mk (of w))) : Decodes (mk o) :=
  h.row shape 25 4 rs len enc ok row
theorem Laid.rowX {mk : α → Instr} (h : Laid of o bits ls) (shape : bits % 2 = 0 ∧ bits ≤ n) (rs : List (Nat × Nat × Nat))
    (len : (mk o).len = 4) (enc : encode (mk o) = c + bits) (ok : isRow true c n ls [(1, 6), (20, 9)] rs = true)
    (row : ∀ w, w / 2 % 64 = c / 2 % 64 → w / 1048576 % 512 = c / 1048576 % 512 → raw32 w = require w rs (mk (of w))) : Decodes (mk o) :=
  h.row shape 20 9 rs len enc ok row

/-- A row that is alone under its major. -/
theorem Laid.sole {mk : α → Instr} (h : Laid of o bits ls) (shape : bits % 2 = 0 ∧ bits ≤ n) (rs : List (Nat × Nat × Nat))
    (len : (mk o).len = 4) (enc : encode (mk o) = c + bits) (ok : isRow true c n ls [(1, 6)] rs = true)
    (row : ∀ w, w / 2 % 64 = c / 2 % 64 → raw32 w = require w rs (mk (of w))) : Decodes (mk o) :=
  h.long shape len enc ok fun _ w _ sel => row w (sel (1, 6) (by simp))

/-- A row of the atomics, whose acquire and release bits lie in the major (R54). -/
theorem Laid.atomic {mk : α → Instr} (h : Laid of o bits ls) (shape : bits % 2 = 0 ∧ bits ≤ n) (rs : List (Nat × Nat × Nat))
    (len : (mk o).len = 4) (enc : encode (mk o) = c + bits) (major : c / 8 % 16 = 3) (ok : isRow true c n ls [(3, 4), (25, 4)] rs = true)
    (row : ∀ m w, w / 33554432 % 16 = c / 33554432 % 16 → major0C m w = require w rs (mk (of w))) : Decodes (mk o) :=
  h.long shape len enc ok fun _ w _ sel => by
    have high : w / 8 % 16 = 3 := (sel (3, 4) (by simp)).trans major
    have table : raw32 w = major0C (w / 2 % 64) w := by
      obtain m | m | m | m : w / 2 % 64 = 12 ∨ w / 2 % 64 = 13 ∨ w / 2 % 64 = 14 ∨ w / 2 % 64 = 15 := by omega
      all_goals rw [raw32, m]; rfl
    exact table.trans (row _ w (sel (25, 4) (by simp)))

/-- A row of the float forms, whose rounding lies in the major (R54). -/
theorem Laid.float {mk : α → Instr} (h : Laid of o bits ls) (shape : bits % 2 = 0 ∧ bits ≤ n) (rs : List (Nat × Nat × Nat))
    (len : (mk o).len = 4) (enc : encode (mk o) = c + bits) (major : c / 16 % 8 = 4) (ok : isRow true c n ls [(4, 3), (25, 4)] rs = true)
    (rounding : (mk o).wf = true → ∀ w, of w = o → 1 ≤ w / 2 % 8 ∧ w / 2 % 8 ≤ 5)
    (row : ∀ m w, w / 33554432 % 16 = c / 33554432 % 16 → major21 m w = require w rs (mk (of w))) : Decodes (mk o) :=
  h.long shape len enc ok fun wf w reads sel => by
    have high : w / 16 % 8 = 4 := (sel (4, 3) (by simp)).trans major
    have r := rounding wf w reads
    have table : raw32 w = major21 (w / 2 % 64) w := by
      obtain m | m | m | m | m : w / 2 % 64 = 33 ∨ w / 2 % 64 = 34 ∨ w / 2 % 64 = 35 ∨ w / 2 % 64 = 36 ∨ w / 2 % 64 = 37 := by omega
      all_goals rw [raw32, m]; rfl
    exact table.trans (row _ w (sel (25, 4) (by simp)))

/-- A row of the 16-bit table, which its op selects, and for format CR bit 15 as well (R47). -/
theorem Laid.short {mk : α → Instr} (h : Laid of o bits ls) (shape : bits % 2 = 0 ∧ bits ≤ n) (sel : List (Nat × Nat))
    (rs : List (Nat × Nat × Nat)) (len : (mk o).len = 2) (enc : encode (mk o) = c + bits)
    (ok : isRow false c n ls ((1, 4) :: sel) rs = true)
    (row : ∀ w, w / 2 % 16 = c / 2 % 16 → Selected c sel w → raw16 w = require w rs (mk (of w))) : Decodes (mk o) := by
  obtain ⟨even, fits, selected, reads, zeros⟩ := h.of_isRow shape ok
  refine .of_raw16 len (by rwa [enc]) (by rwa [enc]) ?_
  rw [enc, row _ (selected (1, 4) (by simp)) fun f hf => selected f (List.mem_cons_of_mem _ hf), reads, zeros]

end

theorem VR3.rounding {o : VR3} (h : 1 ≤ o.r ∧ o.r ≤ 5) (w : Nat) (reads : VR3.of w = o) : 1 ≤ w / 2 % 8 ∧ w / 2 % 8 ≤ 5 := by
  subst reads
  exact h
theorem VR2.rounding {o : VR2} (h : 1 ≤ o.r ∧ o.r ≤ 5) (w : Nat) (reads : VR2.of w = o) : 1 ≤ w / 2 % 8 ∧ w / 2 % 8 ≤ 5 := by
  subst reads
  exact h

/-- TAILQ and SEAL share a function value of the atomics and differ in their major (R54). -/
theorem raw32_tailq {w : Nat} (m : w / 2 % 64 = 12) (f : w / 33554432 % 16 = 15) :
    raw32 w = require w [(17, 8, 0)] (.tailq (A2.of w)) := by
  have table : raw32 w = major0C 12 w := by rw [raw32, m]; rfl
  rw [table, major0C, f]
  exact if_pos rfl
theorem raw32_sealPage {w : Nat} (m : w / 2 % 64 = 14) (f : w / 33554432 % 16 = 15) :
    raw32 w = require w [(17, 8, 0)] (.sealPage (A2.of w)) := by
  have table : raw32 w = major0C 14 w := by rw [raw32, m]; rfl
  rw [table, major0C, f]
  exact (if_neg (by decide)).trans (if_pos rfl)

/-! ## The tables (R48, R53, R54) -/

/-- Every encoded instruction is a row: its constant bits hold the major and function that the decoder's tables list it under, and zeros
or the value they must hold in its should-be-zero fields. -/
theorem decodes_of_encoded {i : Instr} (encoded : i.len ≠ 0) : Decodes i := by
  cases i with
  | add o | sub o | and o | or o | xor o | andn o | orn o | xnor o | shl o | shr o | shra o | rot o | min o | max o | minn o
  | maxn o | cmpeq o | cmplt o | cmpltn o | cmple o | cmplen o | sel o | mul o | mulh o | mulhn o | div o | divn o | rem o
  | remn o =>
    exact o.laid.rowA o.bits_shape [] rfl rfl rfl fun w m f => by rw [raw32, m, major00, f]; rfl
  | clz o | ctz o | popc o | bswap o | sextb o | sexth o | sextw o =>
    exact o.laid.rowA o.bits_shape [(17, 5, 0)] rfl rfl rfl fun w m f => by rw [raw32, m, major00, f]; rfl
  | addi o | andi o | ori o | xori o | lui o | lea o | jmp o | loxi o | vcvt o | vjmp o =>
    exact o.laid.sole o.bits_shape [] rfl rfl rfl fun w m => by rw [raw32, m]; rfl
  | shli o | shri o | shrai o | roti o =>
    exact o.laid.row o.bits_shape 29 3 [(23, 6, 0)] rfl rfl rfl fun w m (f : w / 536870912 % 8 = _) => by rw [raw32, m, major05, f]; rfl
  | bfx o | bfi o =>
    exact o.laid.row o.bits_shape 29 3 [] rfl rfl rfl fun w m (f : w / 536870912 % 8 = _) => by rw [raw32, m, major05, f]; rfl
  | ldbn o | ldhn o | ldwn o | ldd o =>
    exact o.laid.row o.bits_shape 20 2 [] rfl rfl rfl fun w m (f : w / 1048576 % 4 = _) => by rw [raw32, m, major08, f]; rfl
  | ldb o | ldh o | ldw o =>
    exact o.laid.row o.bits_shape 20 2 [] rfl rfl rfl fun w m (f : w / 1048576 % 4 = _) => by rw [raw32, m, major09, f]; rfl
  | stb o | sth o | stw o | std o =>
    exact o.laid.row o.bits_shape 20 2 [] rfl rfl rfl fun w m (f : w / 1048576 % 4 = _) => by rw [raw32, m, major0A, f]; rfl
  | ldacq o | strel o =>
    exact o.laid.row o.bits_shape 31 1 [] rfl rfl rfl fun w m (f : w / 2147483648 % 2 = _) => by rw [raw32, m, major0B, f]; rfl
  | aadd o | aand o | aor o | axor o | amin o | amax o | aminn o | amaxn o | aswap o | acas o | afadd o =>
    exact o.laid.atomic o.bits_shape [] rfl rfl rfl rfl fun m w f => by rw [major0C, f]; rfl
  | lr o =>
    exact o.laid.atomic o.bits_shape [(17, 5, 0), (23, 2, 0)] rfl rfl rfl rfl fun m w f => by rw [major0C, f]; rfl
  | sc o | appnd o =>
    exact o.laid.atomic o.bits_shape [(23, 2, 0)] rfl rfl rfl rfl fun m w f => by rw [major0C, f]; rfl
  | acas2 o =>
    exact o.laid.atomic o.bits_shape [(22, 1, 1)] rfl rfl rfl rfl fun m w f => by rw [major0C, f]; rfl
  | tailq o => exact o.laid.rowV o.bits_shape [(17, 8, 0)] rfl rfl rfl fun _ => raw32_tailq
  | sealPage o => exact o.laid.rowV o.bits_shape [(17, 8, 0)] rfl rfl rfl fun _ => raw32_sealPage
  | bEq o | bNe o | bLt o | bGe o | bLtn o | bGen o =>
    exact o.laid.row o.bits_shape 17 3 [] rfl rfl rfl fun w m (f : w / 131072 % 8 = _) => by rw [raw32, m, major10, f]; rfl
  | jr o =>
    exact o.laid.rowA o.bits_shape [(17, 5, 0)] rfl rfl rfl fun w m f => by rw [raw32, m, major12, f]; rfl
  | jtab o =>
    exact o.laid.rowA o.bits_shape [(7, 5, 0)] rfl rfl rfl fun w m f => by rw [raw32, m, major12, f]; rfl
  | fin o | yield o | align o =>
    exact o.laid.rowA o.bits_shape [(7, 15, 0)] rfl rfl rfl fun w m f => by rw [raw32, m, major13, f]; rfl
  | mfs o =>
    exact o.laid.row o.bits_shape 30 2 [(12, 5, 0), (29, 1, 0)] rfl rfl rfl fun w m (f : w / 1073741824 % 4 = _) => by
      rw [raw32, m, major14, f]; rfl
  | mts o =>
    exact o.laid.row o.bits_shape 30 2 [(7, 5, 0), (29, 1, 0)] rfl rfl rfl fun w m (f : w / 1073741824 % 4 = _) => by
      rw [raw32, m, major14, f]; rfl
  | trap o =>
    exact o.laid.row o.bits_shape 30 2 [(7, 10, 0), (29, 1, 0)] rfl rfl rfl fun w m (f : w / 1073741824 % 4 = _) => by
      rw [raw32, m, major14, f]; rfl
  | lox o | sox o | featq o | implq o =>
    exact o.laid.rowA o.bits_shape [(17, 5, 0)] rfl rfl rfl fun w m f => by rw [raw32, m, major16, f]; rfl
  | fenceAcq o | fenceRel o | fenceFull o | tret o | wfi o =>
    exact o.laid.rowA o.bits_shape [(7, 15, 0)] rfl rfl rfl fun w m f => by rw [raw32, m, major16, f]; rfl
  | persist o =>
    exact o.laid.rowA o.bits_shape [] rfl rfl rfl fun w m f => by rw [raw32, m, major16, f]; rfl
  | winwait o =>
    exact o.laid.rowA o.bits_shape [(12, 10, 0)] rfl rfl rfl fun w m f => by rw [raw32, m, major16, f]; rfl
  | migr o | pfree o | kill o =>
    exact o.laid.rowA o.bits_shape [(17, 5, 0)] rfl rfl rfl fun w m f => by rw [raw32, m, major17, f]; rfl
  | migret o | tlbinv o | wbinv o =>
    exact o.laid.rowA o.bits_shape [(7, 5, 0)] rfl rfl rfl fun w m f => by rw [raw32, m, major17, f]; rfl
  | harvest o =>
    exact o.laid.rowA o.bits_shape [] rfl rfl rfl fun w m f => by rw [raw32, m, major17, f]; rfl
  | send o | sendm o | amsg o | amret o | rget o | rput o =>
    exact o.laid.rowA o.bits_shape [(7, 5, 0)] rfl rfl rfl fun w m f => by rw [raw32, m, major18, f]; rfl
  | recv o =>
    exact o.laid.rowA o.bits_shape [(12, 10, 0)] rfl rfl rfl fun w m f => by rw [raw32, m, major18, f]; rfl
  | mboxq o =>
    exact o.laid.rowA o.bits_shape [(17, 5, 0)] rfl rfl rfl fun w m f => by rw [raw32, m, major18, f]; rfl
  | loopb o =>
    exact o.laid.rowA o.bits_shape [] rfl rfl rfl fun w m f => by rw [raw32, m, major18, f]; rfl
  | tspawn o | fpush o | adecl o =>
    exact o.laid.rowA o.bits_shape [] rfl rfl rfl fun w m f => by rw [raw32, m, major19, f]; rfl
  | tstamp o | fpop o | fcnt o | dcset o | dcdec o =>
    exact o.laid.rowA o.bits_shape [(17, 5, 0)] rfl rfl rfl fun w m f => by rw [raw32, m, major19, f]; rfl
  | tabort o =>
    exact o.laid.rowA o.bits_shape [(7, 5, 0), (17, 5, 0)] rfl rfl rfl fun w m f => by rw [raw32, m, major19, f]; rfl
  | gcall o =>
    exact o.laid.rowA o.bits_shape [(7, 5, 0)] rfl rfl rfl fun w m f => by rw [raw32, m, major1A, f]; rfl
  | gret o =>
    exact o.laid.rowA o.bits_shape [(7, 15, 0)] rfl rfl rfl fun w m f => by rw [raw32, m, major1A, f]; rfl
  | gstat o =>
    exact o.laid.rowA o.bits_shape [(12, 10, 0)] rfl rfl rfl fun w m f => by rw [raw32, m, major1A, f]; rfl
  | gpub o | gqry o =>
    exact o.laid.rowA o.bits_shape [] rfl rfl rfl fun w m f => by rw [raw32, m, major1A, f]; rfl
  | grevoke o =>
    exact o.laid.rowA o.bits_shape [(17, 5, 0)] rfl rfl rfl fun w m f => by rw [raw32, m, major1A, f]; rfl
  | copy o | copymm o | bpref o =>
    exact o.laid.rowX o.bits_shape [] rfl rfl rfl fun w m f => by rw [raw32, m, major1C, f]; rfl
  | bar o =>
    exact o.laid.rowV o.bits_shape [(17, 5, 0)] rfl rfl rfl fun w m f => by rw [raw32, m, major1D, f]; rfl
  | bara o | barw o | barph o =>
    exact o.laid.rowV o.bits_shape [] rfl rfl rfl fun w m f => by rw [raw32, m, major1D, f]; rfl
  | ipdep o | ipdraw o =>
    exact o.laid.rowA o.bits_shape [] rfl rfl rfl fun w m f => by rw [raw32, m, major1E, f]; rfl
  | apxcall o | apxcfg o =>
    exact o.laid.rowX o.bits_shape [] rfl rfl rfl fun w m f => by rw [raw32, m, major1F, f]; rfl
  | apxret o =>
    exact o.laid.rowX o.bits_shape [(12, 5, 0)] rfl rfl rfl fun w m f => by rw [raw32, m, major1F, f]; rfl
  | apxqry o | apxinv o =>
    exact o.laid.rowX o.bits_shape [(17, 3, 0)] rfl rfl rfl fun w m f => by rw [raw32, m, major1F, f]; rfl
  | vmov o | vabs o | vneg o | vclass o =>
    exact o.laid.rowV o.bits_shape [(17, 5, 0)] rfl rfl rfl fun w m f => by rw [raw32, m, major20, f]; rfl
  | vsel o | vshuf o | vrot o | vext o | vcps o =>
    exact o.laid.rowV o.bits_shape [] rfl rfl rfl fun w m f => by rw [raw32, m, major20, f]; rfl
  | vli o =>
    exact o.laid.rowV o.bits_shape [] rfl rfl rfl fun w m f => by rw [raw32, m, major20, f]; rfl
  | vbcast o =>
    exact o.laid.rowV o.bits_shape [] rfl rfl rfl fun w m f => by rw [raw32, m, major20, f]; rfl
  | vtag o =>
    exact o.laid.rowV o.bits_shape [(22, 3, 0)] rfl rfl rfl fun w m f => by rw [raw32, m, major20, f]; rfl
  | vadd o | vsub o | vmul o | vfma o | vfms o | vfnma o | vdiv o =>
    exact o.laid.float o.bits_shape [] rfl rfl rfl rfl
      (fun wf => VR3.rounding (of_decide_eq_true wf)) fun m w f => by rw [major21, f]; rfl
  | vsqrt o | vrcp o | vrsq o | vexp2 o | vlog2 o =>
    exact o.laid.float o.bits_shape [(17, 5, 0)] rfl rfl rfl rfl
      (fun wf => VR2.rounding (of_decide_eq_true wf)) fun m w f => by rw [major21, f]; rfl
  | vmin o | vmax o =>
    exact o.laid.rowV o.bits_shape [] rfl rfl rfl fun w m f => by rw [raw32, m, major21, f]; rfl
  | viadd o | visub o | vimul o | vimulh o | vand o | vor o | vxor o | vshl o | vshr o | vshra o | vimin o | vimax o | viminn o
  | vimaxn o | vsadd o | vssub o =>
    exact o.laid.rowV o.bits_shape [] rfl rfl rfl fun w m f => by rw [raw32, m, major26, f]; rfl
  | vabsd o | vcmpEq o | vcmpNe o | vcmpLt o | vcmpLe o | vcmpLtn o | vcmpLen o =>
    exact o.laid.rowV o.bits_shape [] rfl rfl rfl fun w m f => by rw [raw32, m, major27, f]; rfl
  | vpack o =>
    exact o.laid.sole o.bits_shape [(22, 3, 0)] rfl rfl rfl fun w m => by rw [raw32, m]; rfl
  | vscale o =>
    exact o.laid.sole o.bits_shape [(28, 1, 0)] rfl rfl rfl fun w m => by rw [raw32, m]; rfl
  | vunpk o =>
    exact o.laid.rowV o.bits_shape [] rfl rfl rfl fun w m f => by rw [raw32, m, major2B, f]; rfl
  | vredAdd o | vredMin o | vredMax o | vredMinn o | vredMaxn o | vredAnd o | vredOr o | vredXor o | vscanAdd o | vscanMin o
  | vscanMax o =>
    exact o.laid.rowV o.bits_shape [(17, 5, 0)] rfl rfl rfl fun w m f => by rw [raw32, m, major2B, f]; rfl
  | vdot o =>
    exact o.laid.rowV o.bits_shape [] rfl rfl rfl fun w m f => by rw [raw32, m, major2B, f]; rfl
  | vld o =>
    exact o.laid.row o.bits_shape 28 1 [] rfl rfl rfl fun w m (f : w / 268435456 % 2 = _) => by rw [raw32, m, major30, f]; rfl
  | vst o =>
    exact o.laid.row o.bits_shape 28 1 [(17, 5, 0)] rfl rfl rfl fun w m (f : w / 268435456 % 2 = _) => by rw [raw32, m, major30, f]; rfl
  | vgath o | vscat o =>
    exact o.laid.row o.bits_shape 28 1 [] rfl rfl rfl fun w m (f : w / 268435456 % 2 = _) => by rw [raw32, m, major31, f]; rfl
  | vldl o =>
    exact o.laid.rowV o.bits_shape [] rfl rfl rfl fun w m f => by rw [raw32, m, major32, f]; rfl
  | vstl o =>
    exact o.laid.rowV o.bits_shape [(17, 5, 0)] rfl rfl rfl fun w m f => by rw [raw32, m, major32, f]; rfl
  | vrest o | vsave o =>
    exact o.laid.row o.bits_shape 28 1 [(17, 8, 0)] rfl rfl rfl fun w m (f : w / 268435456 % 2 = _) => by rw [raw32, m, major33, f]; rfl
  | qpush o | fset o | fwait o | bqpush o =>
    exact o.laid.rowA o.bits_shape [(7, 5, 0), (17, 5, 0)] rfl rfl rfl fun w m f => by rw [raw32, m, major34, f]; rfl
  | qpop o =>
    exact o.laid.rowA o.bits_shape [(12, 10, 0)] rfl rfl rfl fun w m f => by rw [raw32, m, major34, f]; rfl
  | vend o =>
    exact o.laid.rowA o.bits_shape [(7, 15, 0)] rfl rfl rfl fun w m f => by rw [raw32, m, major34, f]; rfl
  | mand o | mor o =>
    exact o.laid.rowA o.bits_shape [] rfl rfl rfl fun w m f => by rw [raw32, m, major34, f]; rfl
  | mnot o | mpop o | mfirst o =>
    exact o.laid.rowA o.bits_shape [(17, 5, 0)] rfl rfl rfl fun w m f => by rw [raw32, m, major34, f]; rfl
  | vstart o =>
    exact o.laid.sole o.bits_shape [(7, 5, 0)] rfl rfl rfl fun w m => by rw [raw32, m]; rfl
  | vbr o =>
    exact o.laid.row o.bits_shape 17 3 [(7, 10, 0)] rfl rfl rfl fun w m (f : w / 131072 % 8 = _) => by rw [raw32, m, major36, f]; rfl
  | vloop o =>
    exact o.laid.row o.bits_shape 17 3 [(12, 5, 0)] rfl rfl rfl fun w m (f : w / 131072 % 8 = _) => by rw [raw32, m, major36, f]; rfl
  | mma o | mmaz o | mtcx o =>
    exact o.laid.rowX o.bits_shape [] rfl rfl rfl fun w m f => by rw [raw32, m, major38, f]; rfl
  | mldt o | mstt o | mtrn o =>
    exact o.laid.rowX o.bits_shape [(17, 3, 0)] rfl rfl rfl fun w m f => by rw [raw32, m, major39, f]; rfl
  | mzt o =>
    exact o.laid.rowX o.bits_shape [(17, 3, 0)] rfl rfl rfl fun w m f => by rw [raw32, m, major39, f]; rfl
  | mcvt o | tmov o | tcfg o =>
    exact o.laid.rowX o.bits_shape [] rfl rfl rfl fun w m f => by rw [raw32, m, major39, f]; rfl
  | cAddi o | cLi o | cShli o | cShri o | cShrai o =>
    exact o.laid.short o.bits_shape [] [] rfl rfl rfl fun w m _ => by rw [raw16, m]; rfl
  | cBz o | cBnz o => exact o.laid.short o.bits_shape [] [] rfl rfl rfl fun w m _ => by rw [raw16, m]; rfl
  | cAdd o | cSub o | cMov o | cAnd o | cOr o | cXor o | cLdw o | cStw o | cLdd o | cStd o =>
    exact o.laid.short o.bits_shape [(15, 1)] [] rfl rfl rfl fun w m s => by
      have f : w / 32768 % 2 = _ := s (15, 1) (by simp)
      rw [raw16, m, f]; rfl
  | cJr o =>
    exact o.laid.short o.bits_shape [(15, 1)] [(5, 5, 0)] rfl rfl rfl fun w m s => by
      rw [raw16, m]; exact if_pos (s (15, 1) (by simp))
  | cRet | cFin | cYield => exact .of_raw16 rfl rfl (by decide) rfl
  | _ => exact absurd rfl encoded

/-- Settles O55: every encoded instruction is a row of one of the two tables, and every row decodes to itself. -/
theorem decodeEncode : Obligations.DecodeEncode := fun _ r wf encoded => decodes_of_encoded encoded wf r

end Sys2Proof

/-! The words that the spec writes out beside their instructions (R44 to R48). -/

namespace Sys2Proof

/-- Settles O54: the table's row of each word, read off. -/
theorem decodeWords : Obligations.DecodeWords := by
  unfold Obligations.DecodeWords
  decide +kernel

end Sys2Proof

/-! The immediate and the 16-bit integer instructions (R45, R48, R87): what each shared form of them answers, and the bits of the field
forms. -/

namespace Sys2Proof.Machine

/-! ## The shared forms -/

theorem aluImm_next (major : Nat) (o : Imm) (f : Word → Word → Word) {s : State} (hr : s.ready .c) :
    aluImm major o f s
      = .next ((s.landed.wrote (.s o.d.toNat) (.word (f (s.sreg o.a) (o.imm.signExtend 64))) 1).advanced 4 0) := by
  refine (issue_infoC _ _ _ _ _ hr).trans ?_
  simp only [aluOne, m_bind, m_pure, run_getSr_landed, run_land]
  rw [run_finish_next _ _ _ _ _ _ (by simp [hr.1])]
  rfl

theorem aluShift_next (kind : Nat) (o : Shift) (f : Word → Word → Word) {s : State} (hr : s.ready .c) :
    aluShift kind o f s
      = .next ((s.landed.wrote (.s o.d.toNat) (.word (f (s.sreg o.a) (zx o.c))) 1).advanced 4 0) := by
  refine (issue_infoC _ _ _ _ _ hr).trans ?_
  simp only [aluOne, m_bind, m_pure, run_getSr_landed, run_land]
  rw [run_finish_next _ _ _ _ _ _ (by simp [hr.1])]
  rfl

theorem alu16_next (op f : Nat) (o : CR) (g : Word → Word → Word) {s : State} (hr : s.ready .c) :
    alu16 op f o g s
      = .next ((s.landed.wrote (.s o.d.toNat) (.word (g (s.sreg o.d) (s.sreg o.a))) 1).advanced 2 0) := by
  refine (issue_info16 _ _ _ _ hr).trans ?_
  simp only [aluProg, m_bind, m_pure, run_getSr_landed, run_land]
  rw [run_finish_next _ _ _ _ _ _ (by simp [hr.1])]
  rfl

theorem alu16i_next (op : Nat) (o : CI) (g : Word → Word) {s : State} (hr : s.ready .c) :
    alu16i op o g s = .next ((s.landed.wrote (.s o.d.toNat) (.word (g (s.sreg o.d))) 1).advanced 2 0) := by
  refine (issue_info16 _ _ _ _ hr).trans ?_
  simp only [aluOne, m_bind, m_pure, run_getSr_landed, run_land]
  rw [run_finish_next _ _ _ _ _ _ (by simp [hr.1])]
  rfl

theorem execBfx_next (o : Field) {s : State} (hr : s.ready .c) :
    execBfx o s
      = .next ((s.landed.wrote (.s o.d.toNat) (.word (bfxWord (s.sreg o.a) o.p.toNat (o.n.toNat + 1))) 1).advanced 4 0) := by
  refine (issue_infoC _ _ _ _ _ hr).trans ?_
  simp only [aluOne, m_bind, m_pure, run_getSr_landed, run_land]
  rw [run_finish_next _ _ _ _ _ _ (by simp [hr.1])]
  rfl

theorem execBfi_next (o : Field) {s : State} (hr : s.ready .c) :
    execBfi o s
      = .next ((s.landed.wrote (.s o.d.toNat)
          (.word (bfiWord (s.sreg o.d) (s.sreg o.a) o.p.toNat (o.n.toNat + 1))) 1).advanced 4 0) := by
  refine (issue_infoC _ _ _ _ _ hr).trans ?_
  simp only [aluProg, m_bind, m_pure, run_getSr_landed, run_land]
  rw [run_finish_next _ _ _ _ _ _ (by simp [hr.1])]
  rfl

theorem execLui_next (o : Upper) {s : State} (hr : s.ready .c) :
    execLui o s = .next ((s.landed.wrote (.s o.d.toNat) (.word (sx (o.imm ++ 0#12))) 1).advanced 4 0) := by
  refine (issue_infoC _ _ _ _ _ hr).trans ?_
  simp only [m_bind, m_pure, run_land]
  rw [run_finish_next _ _ _ _ _ _ (by simp [hr.1])]
  rfl

theorem execLea_next (o : Upper) {s : State} (hr : s.ready .c) :
    execLea o s = .next ((s.landed.wrote (.s o.d.toNat) (.word (s.pc + o.imm.signExtend 64)) 1).advanced 4 0) := by
  refine (issue_infoC _ _ _ _ _ hr).trans ?_
  simp only [m_bind, m_pure, run_getPc, run_land]
  rw [run_finish_next _ _ _ _ _ _ (by simp [hr.1])]
  simp [State.pc, hr.1, sx]

/-! ## Shift counts and fields -/

/-- A shift count of 6 bits is below 64 as it stands. -/
theorem toNat_zx_mod (c : BitVec 6) : (zx c : Word).toNat % 64 = c.toNat := by
  simp only [zx, BitVec.toNat_setWidth]
  omega

/-- The mask of a field: ones from p on, `width` of them. -/
theorem getLsbD_fieldMask (p width i : Nat) (hi : i < 64) :
    (BitVec.ofNat 64 ((2 ^ width - 1) * 2 ^ p)).getLsbD i = decide (p ≤ i ∧ i < p + width) := by
  rw [BitVec.getLsbD_ofNat, decide_eq_true hi, Bool.true_and, Nat.testBit_mul_two_pow, Nat.testBit_two_pow_sub_one]
  by_cases low : p ≤ i
  · simp [low]; omega
  · simp [low]

/-- BFI takes the field from a, moved up to p, and the rest from d (R87). -/
theorem getLsbD_bfiWord (d a : Word) (p width i : Nat) (hi : i < 64) :
    (bfiWord d a p width).getLsbD i = if p ≤ i ∧ i < p + width then a.getLsbD (i - p) else d.getLsbD i := by
  simp only [bfiWord, BitVec.getLsbD_or, BitVec.getLsbD_and, BitVec.getLsbD_not, BitVec.getLsbD_shiftLeft, getLsbD_fieldMask _ _ _ hi,
    decide_eq_true hi, Bool.true_and]
  split
  next inside => simp [inside, Nat.not_lt.mpr inside.1]
  next outside => simp [outside]

/-- LUI's immediate stands above twelve zero bits (R45). -/
theorem sx_append_zero (imm : BitVec 20) : (sx (imm ++ 0#12) : Word) = imm.signExtend 64 <<< 12 := by
  refine BitVec.eq_of_getLsbD_eq fun i hi => ?_
  simp only [sx, BitVec.getLsbD_signExtend, BitVec.getLsbD_append, BitVec.getLsbD_shiftLeft, BitVec.msb_append, decide_eq_true hi,
    Bool.true_and]
  by_cases low : i < 12
  · simp [low, show i < 32 by omega]
  · have below : (i < 32) = (i - 12 < 20) := propext (by omega)
    simp [low, below, show i - 12 < 64 by omega]

/-! ## The tables -/

/-- Each entry of the immediate table is issued with its function. -/
theorem exec_immOps : ∀ e ∈ immOps, ∀ (o : Imm) (s : State), ∃ major, exec (e.1 o) s = aluImm major o e.2 s := by
  simp only [immOps, List.forall_mem_cons, List.not_mem_nil, false_imp_iff, implies_true, and_true]
  exact ⟨fun o s => ⟨_, rfl⟩, fun o s => ⟨_, rfl⟩, fun o s => ⟨_, rfl⟩, fun o s => ⟨_, rfl⟩⟩

/-- Each entry of the shift table is issued with a function of the word and of the count's low six bits. -/
theorem exec_shiftOps : ∀ e ∈ shiftOps, ∀ (o : Shift) (s : State),
    ∃ kind, exec (e.1 o) s = aluShift kind o (fun a b => e.2 a (b.toNat % 64)) s := by
  simp only [shiftOps, List.forall_mem_cons, List.not_mem_nil, false_imp_iff, implies_true, and_true]
  exact ⟨fun o s => ⟨_, rfl⟩, fun o s => ⟨_, rfl⟩, fun o s => ⟨_, rfl⟩, fun o s => ⟨_, rfl⟩⟩

/-- Each entry of the 16-bit register table is issued with its function. -/
theorem exec_regOps16 : ∀ e ∈ regOps16, ∀ (o : CR) (s : State), ∃ op f, exec (e.1 o) s = alu16 op f o e.2 s := by
  simp only [regOps16, List.forall_mem_cons, List.not_mem_nil, false_imp_iff, implies_true, and_true]
  exact ⟨fun o s => ⟨_, _, rfl⟩, fun o s => ⟨_, _, rfl⟩, fun o s => ⟨_, _, rfl⟩, fun o s => ⟨_, _, rfl⟩, fun o s => ⟨_, _, rfl⟩,
    fun o s => ⟨_, _, rfl⟩⟩

/-- Each entry of the 16-bit immediate table is issued with its function. -/
theorem exec_immOps16 : ∀ e ∈ immOps16, ∀ (o : CI) (s : State), ∃ op, exec (e.1 o) s = alu16i op o (fun d => e.2 d o.imm) s := by
  simp only [immOps16, List.forall_mem_cons, List.not_mem_nil, false_imp_iff, implies_true, and_true]
  have shift (op : Nat) (o : CI) (s : State) (g : Word → Nat → Word) :
      ∃ n, alu16i op o (fun d => g d ((zx o.imm : Word).toNat % 64)) s = alu16i n o (fun d => g d o.imm.toNat) s :=
    ⟨op, by rw [toNat_zx_mod]⟩
  exact ⟨fun o s => ⟨_, rfl⟩, fun o s => ⟨_, rfl⟩, fun o s => shift 6 o s (· <<< ·), fun o s => shift 7 o s (· >>> ·),
    fun o s => shift 8 o s (·.sshiftRight ·)⟩

/-! ## The obligation -/

theorem immediateForms_holds : immediateForms := by
  refine ⟨fun e he o s hr => ?_, fun e he o s hr => ?_, fun o s hr => ⟨execBfx_next o hr, _, execBfi_next o hr, fun i hi => ?_⟩,
    fun o s hr => ⟨?_, execLea_next o hr⟩⟩
  · obtain ⟨major, h⟩ := exec_immOps e he o s
    rw [h, aluImm_next major o _ hr]
  · obtain ⟨kind, h⟩ := exec_shiftOps e he o s
    rw [h, aluShift_next kind o _ hr, toNat_zx_mod]
  · exact getLsbD_bfiWord _ _ _ _ _ hi
  · rw [← sx_append_zero]
    exact execLui_next o hr

theorem shortIntegerResult_holds : shortIntegerResult := by
  refine ⟨fun e he o s hr => ?_, fun e he o s hr => ?_⟩
  · obtain ⟨op, f, h⟩ := exec_regOps16 e he o s
    rw [h, alu16_next op f o _ hr]
  · obtain ⟨op, h⟩ := exec_immOps16 e he o s
    rw [h, alu16i_next op o _ hr]

/-- Settles O3: each form answers with the table's function, and the field forms bit by bit. -/
theorem immediateResult : Obligations.ImmediateResult := ⟨immediateForms_holds, shortIntegerResult_holds⟩

end Sys2Proof.Machine

/-! The frame of the integer instructions (R85, R87, R48): each ends as one write of register d and one advance of the C-stream. -/

namespace Sys2Proof.Machine

/-! ## A write and an advance -/

/-- The end of an instruction that has written register s_d and nothing else. -/
def EndsWriting (s : State) (d : Nat) (o : Out) : Prop :=
  ∃ p l n w, o = .next ((s.landed.wrote (.s d) p l).advanced n w)

/-- A result changes no register but its own, not even where it lands later (R35). -/
theorem holds_result_other (x : Strand) {r q : RegId} (p : PVal) (l : Nat) (ne : q ≠ r) : (x.result r p l).holds q = x.holds q := by
  unfold Strand.result
  split
  · rw [Strand.write, holds_setReg_other _ r q p ne]
    unfold Strand.dropPend
    split <;> exact holds_congr rfl rfl rfl rfl rfl q
  · exact holds_later x r q p l

/-- A result is its register's and its stream's alone. -/
theorem sameRest_of_result (x : Strand) (r : RegId) (p : PVal) (l : Nat) : x.sameRest (x.result r p l) := by
  refine ⟨?_, ?_, ?_, ?_, ?_, ?_, ?_, ?_, ?_, ?_, fun n => ?_⟩
  case refine_11 => simp only [Strand.readT, result_v_t]
  all_goals simp

theorem sameRest_trans {x y z : Strand} (h : x.sameRest y) (g : y.sameRest z) : x.sameRest z := by
  obtain ⟨sys, q, frames, dom, base, spec, res, st, gid, seg, tile⟩ := h
  obtain ⟨sys', q', frames', dom', base', spec', res', st', gid', seg', tile'⟩ := g
  exact ⟨sys'.trans sys, q'.trans q, frames'.trans frames, dom'.trans dom, base'.trans base, spec'.trans spec, res'.trans res,
    st'.trans st, gid'.trans gid, seg'.trans seg, fun n => (tile' n).trans (tile n)⟩

/-- What a write and an advance leave: everything but the strand, and of it all but the register and the streams' own records. -/
theorem frame_of_endsWriting {s t : State} {d : Nat} (h : EndsWriting s d (.next t)) :
    t = s.withMe t.me ∧ s.sameMemory t ∧ s.landed.me.sameRest t.me ∧ ∀ r, r ≠ .s d → t.me.holds r = s.landed.me.holds r := by
  obtain ⟨p, l, n, w, ends⟩ := h
  cases ends
  have me : ((s.landed.wrote (.s d) p l).advanced n w).me
      = ((s.landed.me.result (.s d) p l).setPc s.stream ((s.landed.me.result (.s d) p l).pcOf s.stream + BitVec.ofNat 64 n)).stepped
          s.stream w := by
    simp only [State.advanced, withMe_me, wrote_me, wrote_stream, landed_stream]
  obtain ⟨holds, rest⟩ := stepped_setPc_rest (s.landed.me.result (.s d) p l) s.stream
    ((s.landed.me.result (.s d) p l).pcOf s.stream + BitVec.ofNat 64 n) w
  refine ⟨?_, fun a => ⟨rfl, rfl, rfl, rfl⟩, ?_, fun r ne => ?_⟩
  · simp only [State.advanced, State.wrote, landed_eq, withMe_withMe, withMe_me]
  · rw [me]
    exact sameRest_trans (sameRest_of_result _ _ _ _) rest
  · rw [me, holds, holds_result_other _ _ _ ne]

/-! ## The integer instructions -/

/-- Every integer instruction of the list ends with one write. -/
theorem endsWriting_of_intWrites {i : Instr} {d : Nat} {s : State} (writes : intWrites i = some d) (hr : s.ready .c) :
    EndsWriting s d (exec i s) := by
  cases i <;> cases writes
  case div | divn | rem | remn => exact ⟨_, _, _, _, aluSb_next _ _ _ hr⟩
  case clz | ctz | popc | bswap | sextb | sexth | sextw => exact ⟨_, _, _, _, alu1_next _ _ _ hr⟩
  case addi | andi | ori | xori => exact ⟨_, _, _, _, aluImm_next _ _ _ hr⟩
  case shli | shri | shrai | roti => exact ⟨_, _, _, _, aluShift_next _ _ _ hr⟩
  case bfx => exact ⟨_, _, _, _, execBfx_next _ hr⟩
  case bfi => exact ⟨_, _, _, _, execBfi_next _ hr⟩
  case lui => exact ⟨_, _, _, _, execLui_next _ hr⟩
  case lea => exact ⟨_, _, _, _, execLea_next _ hr⟩
  case cAdd | cSub | cMov | cAnd | cOr | cXor => exact ⟨_, _, _, _, alu16_next _ _ _ _ hr⟩
  case cAddi | cLi | cShli | cShri | cShrai => exact ⟨_, _, _, _, alu16i_next _ _ _ hr⟩
  all_goals exact ⟨_, _, _, _, alu_next _ _ _ _ hr⟩

/-- Settles O52: one write and one advance of the C-stream. -/
theorem integerFrame : Obligations.IntegerFrame := by
  intro i d s t writes hr next
  exact frame_of_endsWriting (next ▸ endsWriting_of_intWrites writes hr)

end Sys2Proof.Machine

/-! The step of a granted stream (R41, R42, R56, R159): what a grant records is read by nothing that comes before an instruction, so the
boundary, and a wait for an interrupt, are after the grant as they were when the stream requested it; then the step is the decoded
instruction's. -/

namespace Sys2Proof.Machine

/-! ## What reads no core -/

/-- A state with other cores and another turn. -/
def State.withCores (s : State) (cs : Tbl Core) (t : Nat × Stream) : State := { s with cores := cs, turn := t }

section
variable (s : State) (cs : Tbl Core) (t : Nat × Stream)

theorem apply_withCores (e : Effect) : ∃ cs' t', e.apply (s.withCores cs t) = (e.apply s).withCores cs' t' := by
  cases e <;> exact ⟨_, _, rfl⟩

theorem applyAll_withCores (es : List Effect) : ∃ cs' t', applyAll es (s.withCores cs t) = (applyAll es s).withCores cs' t' := by
  induction es generalizing s cs t with
  | nil => exact ⟨cs, t, rfl⟩
  | cons e es ih =>
    obtain ⟨cs', t', h⟩ := apply_withCores s cs t e
    show ∃ _ _, applyAll es (e.apply (s.withCores cs t)) = _
    rw [h]
    exact ih (e.apply s) cs' t'

/-- What two functions answer alike in a state and in it with other cores, they answer alike after the same effects. -/
theorem after_applyAll {f g : State → α} (h : ∀ (s : State) cs t, f (s.withCores cs t) = g s) (es : List Effect) :
    f (applyAll es (s.withCores cs t)) = g (applyAll es s) := by
  obtain ⟨cs', t', e⟩ := applyAll_withCores s cs t es
  rw [e, h]

@[simp] theorem strand_withCores (six : Nat) : (s.withCores cs t).strand six = s.strand six := rfl
@[simp] theorem dom_withCores (n : Nat) : (s.withCores cs t).dom n = s.dom n := rfl

theorem chain_withCores {fs : List (State → List Effect)} (h : ∀ f ∈ fs, ∀ (s : State) cs t, f (s.withCores cs t) = f s) :
    chain fs (s.withCores cs t) = chain fs s := by
  induction fs generalizing s cs t with
  | nil => rfl
  | cons f fs ih =>
    have rest := after_applyAll s cs t (f := chain fs) (fun s cs t => ih s cs t fun g hg => h g (List.mem_cons_of_mem _ hg)) (f s)
    simp only [chain, h f List.mem_cons_self, rest]

theorem shareLine_withCores (agent pa : Nat) : shareLine agent pa (s.withCores cs t) = shareLine agent pa s := rfl

theorem shareFor_withCores (cls : MClass) (agent pa : Nat) : shareFor cls agent pa (s.withCores cs t) = shareFor cls agent pa s := rfl

theorem walkFrom_withCores (va : Nat) (ls : List (Nat × Nat × Bool)) (base : Nat) :
    walkFrom (s.withCores cs t) va ls base = walkFrom s va ls base := by
  induction ls generalizing base with
  | nil => rfl
  | cons l below ih =>
    simp only [walkFrom, ih]
    rfl

theorem walkReads_withCores (va : Nat) (ls : List (Nat × Nat × Bool)) (base : Nat) :
    walkReads (s.withCores cs t) va ls base = walkReads s va ls base := by
  induction ls generalizing base with
  | nil => rfl
  | cons l below ih =>
    simp only [walkReads, ih]
    rfl

theorem lookup_withCores (core asid v : Nat) : lookup (s.withCores cs t) core asid v = lookup s core asid v := by
  have shares : ∀ f ∈ (walkReads s v levels (s.dom asid).root).map (shareLine (agentOf core v)), ∀ (s : State) cs t,
      f (s.withCores cs t) = f s := by
    intro f hf
    obtain ⟨pa, -, rfl⟩ := List.mem_map.mp hf
    exact fun s cs t => rfl
  simp only [lookup, walkFrom_withCores, walkReads_withCores, dom_withCores, chain_withCores s cs t shares]
  rfl

theorem translate_withCores (core asid : Nat) (pm : Bool) (va : Word) (need : Need) :
    translate (s.withCores cs t) core asid pm va need = translate s core asid pm va need := by
  simp only [translate, lookup_withCores]
  rfl

theorem pageFail_withCores (core asid : Nat) (va : Word) : pageFail (s.withCores cs t) core asid va = pageFail s core asid va := by
  simp only [pageFail, lookup_withCores]

theorem bytesSeen_withCores (cls : MClass) (pa n : Nat) : bytesSeen (s.withCores cs t) cls pa n = bytesSeen s cls pa n := by
  induction n generalizing pa with
  | zero => rfl
  | succ n ih =>
    simp only [bytesSeen, ih]
    rfl

theorem sysPiece_withCores (core : Nat) (va : Word) (n : Nat) : sysPiece (s.withCores cs t) core va n = sysPiece s core va n := by
  have share (x : Xl) : ∀ f ∈ [fun _ => x.fx, shareFor x.cls (agentOf core (va.toNat % 2 ^ 48)) x.pa], ∀ (s : State) cs t,
      f (s.withCores cs t) = f s := by
    intro f hf
    rcases List.mem_pair.mp hf with rfl | rfl <;> exact fun s cs t => rfl
  simp only [sysPiece, translate_withCores, pageFail_withCores, bytesSeen_withCores, chain_withCores s cs t (share _)]
  rfl

theorem andRead_withCores (x : Except Fail (α × List Effect)) {next : State → Except Fail (β × List Effect)} (f : α → β → γ)
    (h : ∀ (s : State) cs t, next (s.withCores cs t) = next s) : andRead (s.withCores cs t) x next f = andRead s x next f := by
  have rest (es : List Effect) := after_applyAll s cs t h es
  simp only [andRead, rest, h]

theorem sysReads_withCores (core : Nat) (ps : List (Word × Nat × Nat)) : sysReads core ps (s.withCores cs t) = sysReads core ps s := by
  induction ps generalizing s cs t with
  | nil => rfl
  | cons p ps ih => rw [sysReads, sysReads, sysPiece_withCores, andRead_withCores _ _ _ _ _ ih]

theorem frameRead_withCores (core : Nat) (x : Strand) (d : Nat) : frameRead (s.withCores cs t) core x d = frameRead s core x d := by
  simp only [frameRead, sysRead, sysReads_withCores]

theorem framesFrom_withCores (core : Nat) (x : Strand) (d : Nat) : framesFrom (s.withCores cs t) core x d = framesFrom s core x d := by
  induction d generalizing s cs t with
  | zero => rfl
  | succ d ih =>
    rw [framesFrom, framesFrom, frameRead_withCores, andRead_withCores _ _ _ _ _ ih]

theorem frameAt_withCores (core : Nat) (x : Strand) (d : Nat) : frameAt (s.withCores cs t) core x d = frameAt s core x d := by
  simp only [frameAt, frameRead_withCores]

/-! ## What a grant leaves of the boundary -/

theorem cleanupOver_withCores (x : Strand) (u : Unwind) (six : Nat) :
    cleanupOver (s.withCores cs t) x u six = cleanupOver s x u six := by
  simp only [cleanupOver, frameAt_withCores]
  rfl

/-- Whether an unwind has anything to do at a boundary (R157): an unwind that is stepping always has; without one, a dead domain in the
stack; a running cleanup, that it ends or that the unwind reaches further out. -/
theorem unwindAt_isNone (six : Nat) (fs : List Frame) : (unwindAt six fs s).isNone =
    match (s.strand six).unw with
    | none => (s.strand six).inTrap || (firstDead s fs).isNone
    | some u => u.clean && ((s.strand six).inTrap || (lowerK s fs u).isNone && (cleanupOver s (s.strand six) u six).isNone) := by
  unfold unwindAt
  cases hu : (s.strand six).unw with
  | none =>
    simp only [hu]
    cases (s.strand six).inTrap <;> simp
  | some u =>
    simp only [hu]
    cases u.clean
    · simp only [Bool.not_false, if_true, Bool.false_and]
      repeat' split
      all_goals rfl
    · simp only [Bool.not_true, Bool.false_eq_true, if_false, Bool.true_and]
      cases (s.strand six).inTrap
      · cases lowerK s fs u <;> simp
      · rfl

theorem unwindAt_withCores (six : Nat) (fs : List Frame) :
    (unwindAt six fs (s.withCores cs t)).isNone = (unwindAt six fs s).isNone := by
  simp only [unwindAt_isNone, cleanupOver_withCores]
  rfl

theorem unwindBoundary_withCores (six : Nat) :
    (unwindBoundary six (s.withCores cs t)).isNone = (unwindBoundary six s).isNone := by
  unfold unwindBoundary
  simp only [strand_withCores, allFrames, framesFrom_withCores]
  split
  · rfl
  · cases framesFrom s (coreOf six) (s.strand six) (s.strand six).sys.dsdepth with
    | ok fs => exact unwindAt_withCores s cs t six fs.1
    | error e =>
      by_cases killing : (s.strand six).unw.any (fun u => u.killing && !u.clean) = true
      · simp only [killing, if_true]
        exact unwindAt_withCores s cs t six []
      · simp only [killing, Bool.false_eq_true, if_false]
        by_cases trap : (s.strand six).inTrap = true
        · simp only [trap, if_true]
        · simp only [trap, Bool.false_eq_true, if_false]
          cases e <;> simp only [Option.isNone_some]

end

/-- A state after a grant was recorded: of the cores, only records of grants may differ (R160, R161), and whose turn it is. -/
structure Recorded (s u : State) : Prop where
  state : ∃ cs t, u = s.withCores cs t
  hq : ∀ n, (u.core n).hq = (s.core n).hq
  port : ∀ n, (u.core n).port = (s.core n).port
  intr : ∀ n, (u.core n).intr = (s.core n).intr
  inbox : ∀ n, (u.core n).inbox = (s.core n).inbox

namespace Recorded
variable {s u : State} (h : Recorded s u)
include h

theorem strand (six : Nat) : u.strand six = s.strand six := by
  obtain ⟨cs, t, rfl⟩ := h.state
  rfl

theorem dueHead (six : Nat) : dueHead u six = dueHead s six := by simp only [Machine.dueHead, h.strand]

theorem coreDrained (core : Nat) : coreDrained u core = coreDrained s core := by
  funext gid
  simp only [Machine.coreDrained, h.strand, h.hq, h.port]

theorem preemptReady (six : Nat) : preemptReady u six = preemptReady s six := by
  simp only [Machine.preemptReady, h.coreDrained, h.strand]

theorem interruptReady (six : Nat) : interruptReady u six = interruptReady s six := by
  simp only [Machine.interruptReady, h.strand, h.intr]

theorem awake (core : Nat) : awake u core = awake s core := by simp only [Machine.awake, h.strand, h.intr, h.inbox]

theorem boundary (six : Nat) : (boundary six u).isNone = (boundary six s).isNone := by
  have unwind : (unwindBoundary six u).isNone = (unwindBoundary six s).isNone := by
    obtain ⟨cs, t, rfl⟩ := h.state
    exact unwindBoundary_withCores s cs t six
  unfold Machine.boundary
  rw [h.dueHead, h.preemptReady, h.interruptReady]
  cases Machine.dueHead s six with
  | some d => rfl
  | none =>
    cases hu : unwindBoundary six u <;> cases hs : unwindBoundary six s <;> rw [hu, hs] at unwind
    · simp only
      split
      · rfl
      · split <;> rfl
    · cases unwind
    · cases unwind
    · rfl

/-- A boundary that brings nothing after a grant brought nothing before it. -/
theorem boundaryOf (six : Nat) (st : Stream) : (boundaryOf six st u).isNone = (boundaryOf six st s).isNone := by
  unfold Machine.boundaryOf
  rw [h.dueHead, h.strand]
  split
  · rfl
  · exact h.boundary six

theorem hwAtomicStep (core : Nat) : (hwAtomicStep core u).isNone = (hwAtomicStep core s).isNone := by
  simp only [Machine.hwAtomicStep, Option.isNone_map, nextAtomic, h.hq, h.strand]

end Recorded

/-- The records of a grant leave a core's queues as they are (R160, R161). -/
theorem granted_queues (c : Core) (st : Stream) (k pri : Nat) (req : Nat → Bool) :
    (c.granted st k pri req).hq = c.hq ∧ (c.granted st k pri req).port = c.port ∧ (c.granted st k pri req).intr = c.intr
      ∧ (c.granted st k pri req).inbox = c.inbox := by
  simp only [Core.granted]
  split
  · exact ⟨rfl, rfl, rfl, rfl⟩
  · cases st <;> exact ⟨rfl, rfl, rfl, rfl⟩

/-- A turn passed on and a grant recorded. -/
theorem recorded_grant (s : State) (core' core : Nat) (st' st : Stream) (k pri : Nat) (req : Nat → Bool) :
    let t := (Effect.turn core' st').apply s
    Recorded s ((Effect.core core ((t.core core).granted st k pri req)).apply t) := by
  intro t
  obtain ⟨hq, port, intr, inbox⟩ := granted_queues (s.core core) st k pri req
  have at' (n : Nat) : ((Effect.core core ((t.core core).granted st k pri req)).apply t).core n
      = if n = core then (s.core core).granted st k pri req else s.core n := tblGet_set _ _ _ _ _
  refine ⟨⟨_, _, rfl⟩, fun n => ?_, fun n => ?_, fun n => ?_, fun n => ?_⟩
  all_goals
    rw [at']
    split
    next own => subst own; assumption
    next => rfl

/-! ## The granted stream -/

/-- A sequencer grants a slot that requests, or slot 6 for an atomic of its queue (R159, R179). -/
theorem requests_of_pick {s : State} {core : Nat} {st : Stream} {req : Nat → Bool} {k : Nat} (h : pick s core st req = some k) :
    req k = true ∨ k = 6 ∧ st = .c ∧ (hwAtomicStep core s).isSome = true := by
  have mem {k : Nat} {p : Nat → Bool} (hk : k ∈ ((List.range 6).filter req).filter p) : req k = true :=
    (List.mem_filter.mp (List.mem_filter.mp hk).1).2
  unfold pick at h
  simp only at h
  split at h
  next six =>
    cases h
    simpa only [Bool.or_eq_true, Bool.and_eq_true, decide_eq_true_eq, and_assoc, true_and] using six
  next =>
  split at h
  next seven =>
    cases h
    exact .inl seven
  next =>
  split at h
  next k' aged =>
    cases h
    exact .inl (List.mem_filter.mp (List.mem_of_find?_eq_some aged)).2
  next =>
    have found := List.find?_some h
    simp only [Bool.and_eq_true, List.contains_iff_mem] at found
    obtain ⟨free, -⟩ := found
    left
    split at free
    · exact mem free
    · exact (List.mem_filter.mp free).2

/-- A stream that requests past its boundary has an instruction, or a step to idle, to come to (R111, R159). -/
theorem wakes_of_requests {ex : Instr → State → Out} {s : State} {six : Nat} {st : Stream} (h : requests ex s six st = true)
    (past : boundaryOf six st s = none) : ¬ ((s.strand six).waitOf st = .interrupt ∧ (!awake s (coreOf six)) = true) := by
  intro asleep
  have stays : attempt ex six st s = .next s := if_pos asleep
  simp [requests, past, stays, issues, asleep.1, Wait.issued] at h

/-- What a stream does that is awake, at no boundary, with no step to idle, and whose bytes decode. -/
theorem attend_decoded {ex : Instr → State → Out} {u : State} {six : Nat} {st : Stream} {i : Instr} {fx : List Effect}
    (past : boundaryOf six st u = none) (awake : ¬ ((u.strand six).waitOf st = .interrupt ∧ (!awake u (coreOf six)) = true))
    (idle : (u.strand six).idleOf st = 0) (fetched : fetchInstr u six st = .ok (i, fx)) :
    attend ex six st u = ex i ((applyAll fx u).focused six st) := by
  simp only [attend, past, attempt, if_neg awake, idle, Nat.lt_irrefl, if_false, fetched]

/-- A stream that a sequencer grants is not one that waits for an interrupt, unless its boundary or an atomic took the grant. -/
theorem awake_of_picked {ex : Instr → State → Out} {s u : State} {core k : Nat} {st : Stream} (kept : Recorded s u)
    (picked : picked ex s core st = some k) (slot : k ≠ 6 ∨ st ≠ .c ∨ hwAtomicStep core u = none)
    (past : boundaryOf (8 * core + k) st u = none) :
    ¬ ((u.strand (8 * core + k)).waitOf st = .interrupt ∧ (!awake u (coreOf (8 * core + k))) = true) := by
  have past' : boundaryOf (8 * core + k) st s = none := by
    rw [← Option.isNone_iff_eq_none, ← kept.boundaryOf, past, Option.isNone_none]
  rcases requests_of_pick picked with req | ⟨rfl, rfl, atomic⟩
  · rw [kept.strand, kept.awake]
    exact wakes_of_requests req past'
  · have none : hwAtomicStep core u = none := by simpa using slot
    have same := kept.hwAtomicStep core
    rw [none, Option.isNone_none, ← Option.not_isSome, atomic] at same
    cases same

theorem picked_of_nextGrant {ex : Instr → State → Out} {s : State} {ts : List (Nat × Stream)} {core k : Nat} {st : Stream}
    (h : nextGrant ex s ts = some ((core, st), k)) : picked ex s core st = some k := by
  obtain ⟨_, a, _, -, found, -⟩ := List.findSome?_eq_some_iff.mp h
  obtain ⟨k', pick, eq⟩ := Option.map_eq_some_iff.mp found
  cases eq
  exact pick

/-- Where nothing comes from outside and nothing is to be noted, the step is the next grant of the round. -/
theorem step_eq_grantTurn {s : State} {g : (Nat × Stream) × Nat} (frozen : s.pkg.frozen = false) (status : s.pkg.mgmt.status = 1)
    (inputs : s.inputs = []) (note : nextNote exec s (liveCores s) = none) (granted : nextGrant exec s (turnsLeft s) = some g) :
    step s = grantTurn exec g s := by
  have booted : ¬ s.pkg.mgmt.status = 0 := by rw [status]; decide
  have runs : ¬ s.pkg.mgmt.status = 2 := by rw [status]; decide
  simp only [step, packageStep, frozen, Bool.false_eq_true, if_false, runs, runningStep, booted, inputs, deviceStep, note, granted]

theorem stepRunsDecoded_holds : stepRunsDecoded := by
  refine ⟨fun s core k st i fx frozen status inputs note granted => ?_, fun s six st bs fx fetched => ⟨fun i r dec => ?_, fun e dec => ?_⟩⟩
  · intro six t u slot past idle fetched
    have kept : Recorded s u := recorded_grant s _ core _ st k _ _
    have awake := awake_of_picked kept (picked_of_nextGrant granted) slot past
    have noAtomic : (if k = 6 ∧ st = .c then hwAtomicStep core u else none) = none := by
      split
      next own => simpa [own] using slot
      next => rfl
    rw [step_eq_grantTurn frozen status inputs note granted]
    show andThen (match (if k = 6 ∧ st = .c then hwAtomicStep core u else none) with
      | some es => .next (applyAll es u)
      | none => attend exec six st u) _ = _
    rw [noAtomic]
    exact congrArg (andThen · _) (attend_decoded past awake idle fetched)
  · simp only [fetchInstr, fetched, dec]
  · simp only [fetchInstr, fetched, dec]

/-! ## Fetching -/

theorem fetchResult_holds : fetchResult := by
  intro s six st va
  refine ⟨fun x inside xl cls pod check => ?_, fun inside xl fail => ?_, fun window => ?_, fun h fx first => ⟨fun short => ?_, ?_⟩⟩
  · simp only [fetchHalf, inside, xl, pod, check, Bool.false_eq_true, if_false, cls, reduceCtorEq, bytesSeen_normal]
  · simp only [fetchHalf, inside, xl, fail, Bool.false_eq_true, if_false]
  · simp only [fetchHalf, window, if_true]
  · simp only [fetchBytes, first, short, if_true]
  · intro g gx long second
    have odd : ¬ h % 2 = 0 := by omega
    simp only [fetchBytes, first, odd, if_false, second]

/-- Settles O59: a grant's records change nothing that the granted stream's step reads. -/
theorem stepRunsDecoded : Obligations.StepRunsDecoded := ⟨stepRunsDecoded_holds, fetchResult_holds⟩

end Sys2Proof.Machine

/-! The atomics (R101 to R106): the operations of space G performed by their home slice, and those of the local spaces C, P and D at
their place. -/

namespace Sys2Proof.Machine

/-! ## Space G -/

/-- An instruction of 32 bits whose program comes to one access of space G that its home slice performs. -/
theorem issue_accessG {s : State} (hr : s.ready .c) (enc w : Nat) (rs : List RegId) {op : MemOp} {va : Word} {acq rel : Bool}
    {es : List Effect} (reaches : Reaches s.landed op va acq rel es) {body : M Ctl}
    (reads : ∀ k, Prog.run onStop s (body k) s.landed = Prog.run onStop s ((access .g op va acq rel) (fun _ => k .next)) s.landed) :
    issue (infoC enc w rs) body s = .next ((applyAll es (Effect.fresh.apply s.landed)).ended .c 4 w) := by
  rw [issue_infoC _ _ _ _ _ hr, reads]
  simp only [access]
  rw [run_accessG _ _ _ reaches, run_finish_ended]
  rfl

/-- Each entry of the table is an atomic of its operation. -/
theorem exec_atomics : ∀ e ∈ atomics, ∀ (o : Atom) (s : State), exec (e.1 o) s = atomic e.2 o s := by
  simp only [atomics, List.forall_mem_cons, List.not_mem_nil, false_imp_iff, implies_true, and_true]
  exact ⟨fun o s => rfl, fun o s => rfl, fun o s => rfl, fun o s => rfl, fun o s => rfl, fun o s => rfl, fun o s => rfl, fun o s => rfl,
    fun o s => rfl, fun o s => rfl, fun o s => rfl⟩

theorem globalAtomic_holds : globalAtomic := by
  refine ⟨fun e he o s es hr space reaches => ?_, fun o s es hr reaches => ?_,
    fun o s es hr => ⟨fun reaches => ?_, fun reaches => ?_⟩, fun o s es hr space reaches => ?_,
    fun o s es hr => ⟨fun reaches => ?_, fun reaches => ?_⟩⟩
  case refine_1 =>
    rw [exec_atomics e he]
    refine issue_accessG hr _ _ _ reaches fun k => ?_
    simp only [space, m_bind, m_pure, run_getSr_landed]
    rfl
  case refine_5 =>
    refine issue_accessG hr _ _ _ reaches fun k => ?_
    simp only [space, m_bind, m_pure, run_getSr_landed]
    rfl
  all_goals
    refine issue_accessG hr _ _ _ reaches fun k => ?_
    simp only [m_bind, m_pure, run_getSr_landed, sizeOf, acqBit, relBit]

/-! ## The local spaces -/

section
variable (f : Stop → State → State) (s0 s : State)

/-- An atomic of a local space at its place (R101, R102, R179). -/
theorem run_localAtomic {space : Space} {d : Nat} {a : AtomicArgs} {ea : Word} {acq rel : Bool} {l : Loc}
    (h : ReachesAtomic s space d a ea rel l) (k : Unit → Prog) :
    Prog.run f s0 (accessLocal space (.atomic d a) ea acq rel k) s = Prog.run f s0 (k ()) (s.atomicAt l d a acq) := by
  obtain ⟨⟨aligned, place, unlocked, plain, acquired, released⟩, sound, room⟩ := h
  simp only [accessLocal, m_bind, m_getS, run_get]
  rw [trapIf_pass (by simpa using aligned), place]
  simp only [m_bind]
  rw [trapIf_pass unlocked, stallIf_pass acquired, run_ite_release f s0 s _ _ _ released]
  simp only [m_bind]
  rw [run_beOldest f s0 s _ plain]
  simp only [m_getS, run_get]
  cases l with
  | d die off =>
    have whole : (Loc.d die off).poisoned s (MemOp.atomic d a).bytes = false := sound die off rfl
    simp only [m_bind]
    rw [trapIf_pass whole]
    simp only [m_ite, run_puts, MemOp.bytes]
    by_cases zero : d = 0
    · cases acq <;> simp [zero, State.atomicAt]
    · by_cases pair : a.op = 13
      · cases acq <;> simp [zero, pair, State.atomicAt, MemOp.dests, atomicOld]
      · cases acq <;> simp [zero, pair, State.atomicAt, MemOp.dests, atomicOld]
  | p core off =>
    have open' : portFull (s.core core) = false := room core off rfl
    have same : (Effect.fresh.apply s).core core = s.core core := rfl
    simp only [m_bind, run_newId, m_ite, open', Bool.false_eq_true, if_false, State.atomicAt, same, Bool.not_eq_true']
    by_cases zero : d = 0
    · simp only [zero, ne_eq, not_true, if_false, if_true, m_put, m_pure]
      split <;> rfl
    · simp only [zero, ne_eq, not_false_eq_true, if_false, if_true, m_put, m_pure]
      split <;> rfl

end

/-! ## The obligation -/

/-- The spaces of the atomics are no space G (R54). -/
theorem access_atomicSpaces : ∀ q ∈ atomicSpaces, ∀ (op : MemOp) (ea : Word) (acq rel : Bool),
    access (atomSpace q.1) op ea acq rel = accessLocal q.2 op ea acq rel := by
  simp only [atomicSpaces, List.forall_mem_cons, List.not_mem_nil, false_imp_iff, implies_true, and_true]
  exact ⟨fun _ _ _ _ => rfl, fun _ _ _ _ => rfl, fun _ _ _ _ => rfl⟩

theorem localAtomic_holds : localAtomic := by
  refine ⟨fun e he q hq o s l hr space reaches => ?_, fun q hq o s l hr space => ?_⟩
  · rw [exec_atomics e he]
    refine (issue_infoC _ _ _ _ _ hr).trans ?_
    simp only [m_bind, m_pure, run_getSr_landed, space, access_atomicSpaces q hq]
    exact congrArg Host.Outcome.next (run_localAtomic _ _ _ reaches _)
  · intro a reaches
    refine (issue_infoC _ _ _ _ _ hr).trans ?_
    simp only [m_bind, m_pure, run_getSr_landed, space, access_atomicSpaces q hq]
    exact congrArg Host.Outcome.next (run_localAtomic _ _ _ reaches _)

/-- Settles O6: the access of each form, at its home slice or at its place. -/
theorem globalAtomic : Obligations.GlobalAtomic := ⟨globalAtomic_holds, localAtomic_holds⟩

end Sys2Proof.Machine

/-! GCALL and GRET (R148 to R152): the checks passed, the drain, the frame pushed and the frame popped. -/

namespace Sys2Proof.Machine

/-! ## What the drain leaves of the focus -/

/-- An acquire is the L1's alone (R254). -/
theorem acquire_focus (core : Nat) (s t : State) : (applyAll (acquire core s) t).focus = t.focus := by
  refine applyAll_focusOf _ _ fun e he => ?_
  obtain ⟨p, -, rfl⟩ := List.mem_map.mp he
  rfl

/-- Releasing a domain's HOLD leaves the issuing strand (R142, R321). -/
theorem releaseHold_focus (dom : Nat) (s t : State) : (applyAll (releaseHold dom s) t).focus = t.focus := by
  refine applyAll_focusOf _ _ fun e he => ?_
  rcases List.mem_cons.mp he with rfl | he
  · rfl
  · split at he
    · obtain ⟨-, -, aside⟩ := (aside_iff 0 e).mp (invalidateSlots_aside 0 _ s e he)
      exact aside
    · cases he

theorem six_of_focus {s t : State} (h : s.focus = t.focus) : s.six = t.six := congrArg Prod.fst h
theorem stream_of_focus {s t : State} (h : s.focus = t.focus) : s.stream = t.stream := congrArg Prod.snd h
theorem coreNo_of_focus {s t : State} (h : s.focus = t.focus) : s.coreNo = t.coreNo := congrArg coreOf (six_of_focus h)

@[simp] theorem withMe_focus (s : State) (x : Strand) : (s.withMe x).focus = s.focus := rfl
@[simp] theorem landed_focus (s : State) : s.landed.focus = s.focus := rfl

/-- The issuing strand drained: its core has acquired, its pending writes have landed, its reservation and coupling state are gone
(R149, R152). -/
def State.drainedHere (s : State) : State :=
  let t := applyAll (acquire s.coreNo s) s
  t.withMe t.me.quiet

theorem drainedHere_focus (s : State) : s.drainedHere.focus = s.focus := acquire_focus _ _ _

section
variable (f : Stop → State → State) (s0 s : State)

theorem run_releaseIn (w : Wait) (k : Unit → Prog) (h : outstanding s s.six = false) :
    Prog.run f s0 (releaseIn w k) s = Prog.run f s0 (k ()) s := by
  simp only [releaseIn, m_bind, m_getS, run_get, h, m_stallIf_false]

theorem run_drain (k : Unit → Prog) :
    Prog.run f s0 (acquireHere fun _ => modMe Strand.quiet k) s = Prog.run f s0 (k ()) s.drainedHere := by
  rw [run_acquireHere, run_modMe]
  rfl

theorem run_stackFrames {fs : List Frame} {fx : List Effect} (h : allFrames s s.coreNo s.me = .ok (fs, fx)) (k : List Frame → Prog) :
    Prog.run f s0 (stackFrames k) s = Prog.run f s0 (k fs) (applyAll fx s) := by
  simp only [stackFrames, m_bind, m_getS, run_get, h, run_puts, m_pure]

/-! ## GCALL -/

/-- A GCALL whose checks pass: the frames read, the drain, what goes to the segment, the callee's HOLD, and the strand inside the gate
(R148, R149, R155). -/
theorem run_gcallBody {h w : Word} {g : GateDesc} {fs : List Frame} {fx es : List Effect} (may : MayCall s h w g fs fx)
    (saved : savedStack g (applyAll fx s).drainedHere = .ok es) (k : Ctl → Prog) :
    let u := (applyAll fx s).drainedHere
    let v := applyAll es u
    let x := (Effect.dom g.tdom { v.dom g.tdom with hold := (v.dom g.tdom).hold + 1 }).apply v
    Prog.run f s0 (gcallBody h w k) s
      = Prog.run f s0 (k .placed) (x.withMe (x.me.called g (newFrame u u.me g (u.pc + 4) h w) v.six)) := by
  obtain ⟨⟨plain, -⟩, ⟨slot, vrun⟩, ⟨check, gate⟩, stack, fresh, room, window, await, performed⟩ := may
  have window' : (w != 0 && badWindow s.me fs g w) = false := by
    rcases window with zero | good
    · simp [zero]
    · simp [good]
  intro u v x
  simp only [gcallBody, m_bind]
  rw [run_beOldest f s0 s _ plain]
  simp only [m_getS, run_get]
  rw [trapIf_pass (by simpa using slot), trapIf_pass vrun, trapIf_pass (by simpa using check), gate]
  simp only [m_bind]
  rw [run_stackFrames f s0 s stack, trapIf_pass fresh, trapIf_pass (by simpa using room), trapIf_pass window',
    stallIf_pass (by simp [await]), run_releaseIn f s0 _ _ _ performed, run_drain]
  simp only [run_getPc, m_getS, run_get, saved, m_bind, run_puts, m_put, run_put, run_modMe, m_pure]
  rfl

/-- A GCALL through a gate that checks 3 to 5 find closed traps GATE (R148). -/
theorem run_gcallBody_closed {h w : Word} (plain : s.me.spec = false) (slot : slotOf s.six ≠ 6) (vrun : s.me.sys.vrun = false)
    (closed : gateCheck s s.me.dom h ≠ 0) (k : Ctl → Prog) :
    Prog.run f s0 (gcallBody h w k) s
      = f (.trap { cause := 13, sub := gateCheck s s.me.dom h, addr := h, strm := s.stream }) s0 := by
  simp only [gcallBody, m_bind]
  rw [run_beOldest f s0 s _ plain]
  simp only [m_getS, run_get]
  rw [trapIf_pass (by simpa using slot), trapIf_pass vrun, decide_eq_true closed]
  rfl

/-! ## GRET -/

/-- What a GRET needs before its frame is read (R152). -/
structure MayReturn (s : State) : Prop where
  inside : s.me.sys.dsdepth ≠ 0
  vrun : s.me.sys.vrun = false
  commands : cmdsOf s s.six s.me.dom = false
  await : s.me.await = []
  performed : outstanding s s.six = false

/-- What a GRET does once the frame at a depth is read (R151, R152). -/
def gretWith (depth : Nat) (fr : Frame) (fx : List Effect) : M Ctl := do
  trapIf (fr.ret.getLsbD 0) 4 0 fr.ret
  puts fx
  let s ← getS
  match vpolOut s s.six depth fr s.me with
  | .error e => segmentFail .gate e
  | .ok (y, gx) => do
    puts gx
    let s ← getS
    puts (releaseHold fr.callee s)
    let z := (y.returned fr).zeroS 5 4
    put (.strand s.six { z with sys := { z.sys with gstat := 0 } })
    pure .placed

theorem run_gretBody (may : MayReturn s) {fr : Frame} {fx : List Effect}
    (frame : frameRead s.drainedHere s.drainedHere.coreNo s.drainedHere.me s.drainedHere.me.sys.dsdepth = .ok (fr, fx)) (k : Ctl → Prog) :
    Prog.run f s0 (gretBody k) s = Prog.run f s0 (gretWith s.drainedHere.me.sys.dsdepth fr fx k) s.drainedHere := by
  obtain ⟨inside, vrun, commands, await, performed⟩ := may
  simp only [gretBody, m_bind, m_getS, run_get]
  rw [trapIf_pass (by simpa using inside), trapIf_pass vrun, stallIf_pass (by simp [commands, await]),
    run_releaseIn f s0 _ _ _ performed, run_drain]
  simp only [run_get, frame]
  rfl

/-- A frame whose return PC is odd traps ALIGN with that PC (R42; log entry 34). -/
theorem run_gretWith_odd {depth : Nat} {fr : Frame} {fx : List Effect} (odd : fr.ret.getLsbD 0 = true) (k : Ctl → Prog) :
    Prog.run f s0 (gretWith depth fr fx k) s = f (.trap { cause := 4, sub := 0, addr := fr.ret, strm := s.stream }) s0 := by
  simp only [gretWith, m_bind, odd, m_trapIf_true, run_get, run_stop]

/-- The caller's state back from the frame (R151, R152). -/
theorem run_gretWith {depth : Nat} {fr : Frame} {fx gx : List Effect} {y : Strand} (even : fr.ret.getLsbD 0 = false)
    (out : vpolOut (applyAll fx s) (applyAll fx s).six depth fr (applyAll fx s).me = .ok (y, gx)) (k : Ctl → Prog) :
    let w := applyAll gx (applyAll fx s)
    let z := (y.returned fr).zeroS 5 4
    Prog.run f s0 (gretWith depth fr fx k) s
      = Prog.run f s0 (k .placed) ((applyAll (releaseHold fr.callee w) w).withMe { z with sys := { z.sys with gstat := 0 } }) := by
  intro w z
  simp only [gretWith, m_bind, even, m_trapIf_false, run_puts, m_getS, run_get, out, m_put, run_put, m_pure]
  have six : w.six = (applyAll (releaseHold fr.callee w) w).six := (six_of_focus (releaseHold_focus _ _ _)).symm
  show Prog.run f s0 _ ((Effect.strand w.six _).apply _) = _
  rw [six]
  rfl

/-- A GRET at depth 0 traps GATE (R152). -/
theorem run_gretBody_empty (empty : s.me.sys.dsdepth = 0) (k : Ctl → Prog) :
    Prog.run f s0 (gretBody k) s = f (.trap { cause := 13, sub := 9, addr := 0, strm := s.stream }) s0 := by
  simp only [gretBody, m_bind, m_getS, run_get, empty, decide_true, m_trapIf_true, run_stop]

end

/-! ## The instructions -/

theorem execGcall_next {o : AB} {s : State} (hr : s.ready .c) (cleanup : s.landed.me.inCleanup = false) :
    execGcall o s = .next (Prog.run onStop s (gcallBody (s.sreg o.a) (s.sreg o.b) (fun c =>
      finishIssue (info1A 0 o.bits o.w.toNat [.s o.a.toNat, .s o.b.toNat]) .c c (fun _ => .done))) s.landed) := by
  refine (issue_infoC _ _ _ _ _ hr).trans ?_
  simp only [m_bind, run_getSr_landed, m_getS, run_get, cleanup, Bool.false_eq_true, if_false]
  rfl

theorem execGret_next {o : A0} {s : State} (hr : s.ready .c) (cleanup : s.landed.me.inCleanup = false) :
    execGret o s = .next (Prog.run onStop s (gretBody (fun c =>
      finishIssue (info1A 1 o.bits o.w.toNat []) .c c (fun _ => .done))) s.landed) := by
  refine (issue_infoC _ _ _ _ _ hr).trans ?_
  simp only [m_bind, m_getS, run_get, cleanup, Bool.false_eq_true, if_false]
  rfl

/-- Settles O30: the checks passed and the frame pushed; the drain, the frame read and the caller's state back. -/
theorem gateCallReturn : Obligations.GateCallReturn := by
  refine ⟨fun o s hr => ⟨fun g fs fx es may => ?_, fun plain cleanup slot vrun closed => ?_⟩,
    fun o s hr cleanup => ⟨fun fr y fx gx inside vrun commands await performed => ?_, fun empty => ?_⟩⟩
  · intro r t u saved v x f
    obtain ⟨-, cleanup⟩ := may.plain
    refine (execGcall_next hr cleanup).trans (congrArg Host.Outcome.next ?_)
    rw [run_gcallBody _ _ _ may saved, run_finish_endedHere, run_done]
    rfl
  · refine (execGcall_next hr cleanup).trans (congrArg Host.Outcome.next ?_)
    rw [run_gcallBody_closed _ _ _ (by simpa using plain) (by simpa using slot) (by simpa using vrun) closed, landed_stream, hr.1]
  · intro t u frame v
    have may : MayReturn s.landed := ⟨by simpa using inside, by simpa using vrun, commands, await, performed⟩
    have drained : s.landed.drainedHere = u := by rw [State.drainedHere, coreNo_of_focus (landed_focus s)]
    have frame' : frameRead s.landed.drainedHere s.landed.drainedHere.coreNo s.landed.drainedHere.me
        s.landed.drainedHere.me.sys.dsdepth = .ok (fr, fx) := by
      rw [coreNo_of_focus (drainedHere_focus _), coreNo_of_focus (landed_focus s), drained]
      exact frame
    have returns : exec (.gret o) s = _ := (execGret_next hr cleanup).trans (congrArg Host.Outcome.next (run_gretBody _ _ _ may frame' _))
    refine ⟨fun odd => ?_, fun even out => ?_⟩
    · rw [returns, run_gretWith_odd _ _ _ odd, stream_of_focus (drainedHere_focus _), landed_stream, hr.1]
    · rw [returns, drained, run_gretWith _ _ _ even out, run_finish_endedHere, run_done]
      rfl
  · refine (execGret_next hr cleanup).trans (congrArg Host.Outcome.next ?_)
    rw [run_gretBody_empty _ _ _ (by simpa using empty), landed_stream, hr.1]

end Sys2Proof.Machine

/-! The float vector forms (R113, R114, R118 to R121): operands read, the format checked, then one element-wise operation. -/

namespace Sys2Proof.Machine

section
variable {s : State} {i : Instr} {enc : Nat} {w : BitVec 3} {rs : List RegId} {body : M Ctl}

/-- A form that comes to one element-wise operation under its operands' tag: it completes, or traps FPE (R114). -/
theorem floatForm_of_mapElems (hr : s.ready .v) (issued : exec i s = issue (infoV enc w.toNat rs) body s) {d : BitVec 5} {m : BitVec 3}
    {t lat : Nat} {f : Nat → Nat × BitVec 6}
    (reads : ∀ k, Prog.run onStop s (body k) s.landed = Prog.run onStop s (mapElems d m t t lat f (fun _ => k .next)) s.landed) :
    s.FloatForm i w d m t lat f := by
  have fenable : s.landed.me.sys.fenable = s.me.sys.fenable := by simp
  refine ⟨fun quiet => ?_, fun n enabled => ?_⟩
  · rw [issued, issue_infoV _ _ _ _ _ hr, reads, run_mapElems _ _ _ _ _ _ _ _ _ _ (by rw [fenable]; exact quiet), run_finish_ended]
    rfl
  · rw [issued, issue_infoV _ _ _ _ _ hr, reads]
    simp only [mapElems, m_bind, run_getV, run_getM]
    rw [run_raiseAll_trap _ _ _ _ n _ (by rw [fenable]; exact enabled), landed_stream, hr.1]

/-- A form whose format check fails traps FORMAT with its encoding (R15, R113). -/
theorem badFormat_of_formatIf (hr : s.ready .v) (issued : exec i s = issue (infoV enc w.toNat rs) body s) (encodes : encode i = enc)
    (reads : ∀ k, ∃ k', Prog.run onStop s (body k) s.landed = Prog.run onStop s (formatIf true enc k') s.landed) : s.BadFormat i := by
  obtain ⟨k', checks⟩ := reads (fun c => finishIssue (infoV enc w.toNat rs) .v c (fun _ => .done))
  rw [State.BadFormat, issued, issue_infoV _ _ _ _ _ hr, checks, encodes]
  simp only [formatIf, m_trapIf_true, run_get, run_stop, landed_stream, hr.1]

end

/-! ## The shared forms -/

section
variable {s : State} (hr : s.ready .v) {i : Instr} {fn : Nat}
include hr

section
variable {fused : Bool} {lat : Nat → Nat} {f : Fmt → Rnd → Val → Val → Val → Nat × BitVec 6} {o : VR3}
  (issued : exec i s = float3 fn fused lat f o s)
include issued

theorem float3_floatForm (arith : isArith (s.vreg o.a).t = true) (b : (s.vreg o.b).t = (s.vreg o.a).t)
    (d : fused = true → (s.vreg o.d).t = (s.vreg o.a).t) :
    let t := (s.vreg o.a).t
    let g := fmtOf t
    let x := fun (n : BitVec 5) (j : Nat) => g.read (elemAt t (s.vreg n).data.toNat j)
    s.FloatForm i o.w o.d o.m t (lat t) (fun j => f g (majorRnd o.r.toNat s.me.sys.rmode) (x o.a j) (x o.b j) (x o.d j)) := by
  intro t g x
  have good : (!isArith (s.vreg o.a).t || decide ((s.vreg o.b).t ≠ (s.vreg o.a).t)
      || (fused && decide ((s.vreg o.d).t ≠ (s.vreg o.a).t))) = false := by
    cases fused
    · simp [arith, b]
    · simp [arith, b, d rfl]
  refine floatForm_of_mapElems hr issued fun k => ?_
  simp only [m_bind, m_pure, run_getV_landed, formatIf]
  rw [trapIf_pass good]
  simp only [m_getS, run_get, landed_me, landSt_sys]
  rfl

theorem float3_badFormat (encodes : encode i = opV 0x20 fn + o.bits)
    (bad : isArith (s.vreg o.a).t = false ∨ (s.vreg o.b).t ≠ (s.vreg o.a).t ∨ (fused = true ∧ (s.vreg o.d).t ≠ (s.vreg o.a).t)) :
    s.BadFormat i := by
  refine badFormat_of_formatIf hr issued encodes fun k => ?_
  have fails : (!isArith (s.vreg o.a).t || decide ((s.vreg o.b).t ≠ (s.vreg o.a).t)
      || (fused && decide ((s.vreg o.d).t ≠ (s.vreg o.a).t))) = true := by
    simpa [or_assoc] using bad
  simp only [m_bind, run_getV_landed, fails]
  exact ⟨_, rfl⟩

end

section
variable {ok : Nat → Bool} {lat : Nat → Nat} {f : Fmt → Rnd → Val → Nat × BitVec 6} {o : VR2}
  (issued : exec i s = float2 fn ok lat f o s)
include issued

theorem float2_floatForm (good : ok (s.vreg o.a).t = true) :
    let t := (s.vreg o.a).t
    let g := fmtOf t
    s.FloatForm i o.w o.d o.m t (lat t)
      (fun j => f g (majorRnd o.r.toNat s.me.sys.rmode) (g.read (elemAt t (s.vreg o.a).data.toNat j))) := by
  intro t g
  have good' : (!ok (s.vreg o.a).t) = false := by rw [good]; rfl
  refine floatForm_of_mapElems hr issued fun k => ?_
  simp only [m_bind, m_pure, run_getV_landed, formatIf]
  rw [trapIf_pass good']
  simp only [m_getS, run_get, landed_me, landSt_sys]
  rfl

theorem float2_badFormat (encodes : encode i = opV 0x20 fn + o.bits) (bad : ok (s.vreg o.a).t = false) : s.BadFormat i := by
  refine badFormat_of_formatIf hr issued encodes fun k => ?_
  simp only [m_bind, run_getV_landed, bad, Bool.not_false]
  exact ⟨_, rfl⟩

end

section
variable {mx : Bool} {o : V3} (issued : exec i s = floatPick fn mx o s)
include issued

theorem floatPick_floatForm (arith : isArith (s.vreg o.a).t = true) (b : (s.vreg o.b).t = (s.vreg o.a).t) :
    let t := (s.vreg o.a).t
    s.FloatForm i o.w o.d o.m t (floatLat t)
      (fun j => fMinMax (fmtOf t) mx (elemAt t (s.vreg o.a).data.toNat j) (elemAt t (s.vreg o.b).data.toNat j)) := by
  intro t
  have good : (!isArith (s.vreg o.a).t || decide ((s.vreg o.b).t ≠ (s.vreg o.a).t)) = false := by simp [arith, b]
  refine floatForm_of_mapElems hr issued fun k => ?_
  simp only [m_bind, m_pure, run_getV_landed, formatIf]
  rw [trapIf_pass good]

theorem floatPick_badFormat (encodes : encode i = opV 0x21 fn + o.bits)
    (bad : isArith (s.vreg o.a).t = false ∨ (s.vreg o.b).t ≠ (s.vreg o.a).t) : s.BadFormat i := by
  refine badFormat_of_formatIf hr issued encodes fun k => ?_
  have fails : (!isArith (s.vreg o.a).t || decide ((s.vreg o.b).t ≠ (s.vreg o.a).t)) = true := by simpa using bad
  simp only [m_bind, run_getV_landed, fails]
  exact ⟨_, rfl⟩

end
end

/-! ## The tables -/

/-- Each three-operand entry is issued with its result, its latency and the use of vd, under the encoding of its operation. -/
theorem exec_float3s : ∀ e ∈ float3s, ∀ o : VR3, ∃ fn, encode (e.1 o) = opV 0x20 fn + o.bits
    ∧ ∀ s, exec (e.1 o) s = float3 fn e.2.1 e.2.2.1 e.2.2.2 o s := by
  simp only [float3s, List.forall_mem_cons, List.not_mem_nil, false_imp_iff, implies_true, and_true]
  exact ⟨fun o => ⟨0, rfl, fun s => rfl⟩, fun o => ⟨1, rfl, fun s => rfl⟩, fun o => ⟨2, rfl, fun s => rfl⟩, fun o => ⟨3, rfl, fun s => rfl⟩,
    fun o => ⟨4, rfl, fun s => rfl⟩, fun o => ⟨5, rfl, fun s => rfl⟩, fun o => ⟨6, rfl, fun s => rfl⟩⟩

/-- Each one-operand entry is issued with its tags, its latency and its result, under the encoding of its operation. -/
theorem exec_float2s : ∀ e ∈ float2s, ∀ o : VR2, ∃ fn, encode (e.1 o) = opV 0x20 fn + o.bits
    ∧ ∀ s, exec (e.1 o) s = float2 fn e.2.1 (fun _ => e.2.2.1) e.2.2.2 o s := by
  simp only [float2s, List.forall_mem_cons, List.not_mem_nil, false_imp_iff, implies_true, and_true]
  exact ⟨fun o => ⟨7, rfl, fun s => rfl⟩, fun o => ⟨8, rfl, fun s => rfl⟩, fun o => ⟨9, rfl, fun s => rfl⟩, fun o => ⟨12, rfl, fun s => rfl⟩,
    fun o => ⟨13, rfl, fun s => rfl⟩⟩

/-- VMIN and VMAX (R119). -/
theorem exec_floatPick (mx : Bool) (o : V3) : ∃ fn, encode (if mx then .vmax o else .vmin o) = opV 0x21 fn + o.bits
    ∧ ∀ s, exec (if mx then .vmax o else .vmin o) s = floatPick fn mx o s := by
  cases mx
  · exact ⟨10, rfl, fun s => rfl⟩
  · exact ⟨11, rfl, fun s => rfl⟩

/-- Settles O36: each form is one element-wise operation behind its format check. -/
theorem floatVectors : Obligations.FloatVectors := by
  refine ⟨fun e he o s hr => ?_, fun e he o s hr => ?_, fun mx o s hr => ?_⟩
  · obtain ⟨fn, encodes, issued⟩ := exec_float3s e he o
    exact ⟨float3_floatForm hr (issued s), float3_badFormat hr (issued s) encodes⟩
  · obtain ⟨fn, encodes, issued⟩ := exec_float2s e he o
    exact ⟨float2_floatForm hr (issued s), float2_badFormat hr (issued s) encodes⟩
  · obtain ⟨fn, encodes, issued⟩ := exec_floatPick mx o
    exact ⟨floatPick_floatForm hr (issued s), floatPick_badFormat hr (issued s) encodes⟩

end Sys2Proof.Machine

/-! The conversion of whole registers (R126, R127): what VCVT leaves in the elements beyond those it converts. -/

namespace Sys2Proof.Machine

theorem landed_sys (s : State) : s.landed.me.sys = s.me.sys := by rw [landed_me, landSt_sys]

/-- What VCVT converts (R127): the elements of its source under its target tag, with the rounding it selects (R54). -/
def vcvtResult (o : Cvt) (s : State) : List Nat × BitVec 64 × List (BitVec 6) × List Lane :=
  convertReg (s.vreg o.a) o.t.toNat (cvtMode o.r.toNat s.me.sys.rmode) (o.nan = 1) s.landed.me.v.gen

/-- The active elements of a VCVT, with `fill` in the elements [ns, nd) of its target. -/
def vcvtElems (o : Cvt) (fill : Nat) (s : State) : List (Nat × Nat × BitVec 6) :=
  overElems o.t.toNat (s.mreg o.m) (fun j => ((vcvtResult o s).1.getD j fill, (vcvtResult o s).2.2.1.getD j 0))

/-- The state after a VCVT that puts `fill` into those elements. -/
def afterVcvt (o : Cvt) (fill : Nat) (s : State) : State :=
  let t := o.t.toNat
  let r := vcvtResult o s
  let rs := vcvtElems o fill s
  let x := s.landed.me.raise (allFlags (condsOf rs))
  ((s.landed.withMe { x with v := { x.v with gen := r.2.2.2 } }).put o.d
    (vreg (mergeElems t (s.mreg o.m) (s.vreg o.d).data.toNat rs) (cleanSide t r.2.1) t) 4).ended .v 4 o.w.toNat

/-- A VCVT whose format is legal and that raises no enabled condition (R114, R127). -/
def VcvtCompletes (o : Cvt) (s : State) : Prop :=
  (s.vreg o.a).t ≠ 0 ∧ (isBlock o.t.toNat = true → tagCount (s.vreg o.a).t % 32 = 0)
    ∧ fpeIndex s.me.sys.fenable (condsOf (vcvtElems o 0 s)) = none

/-- The elements that are not converted raise nothing, whatever they receive. -/
theorem condsOf_vcvtElems (o : Cvt) (fill fill' : Nat) (s : State) :
    condsOf (vcvtElems o fill s) = condsOf (vcvtElems o fill' s) := by
  simp only [vcvtElems, overElems, condsOf, List.map_map, Function.comp_def]

/-- VCVT puts the encoding of +0 into the elements [ns, nd) (R127): under Q4S, whose scale bytes there are 0, that is code 8 (R67). -/
theorem exec_vcvt (o : Cvt) {s : State} (hr : s.ready .v) (completes : VcvtCompletes o s) :
    exec (.vcvt o) s = .next (afterVcvt o (zeroCode o.t.toNat) s) := by
  obtain ⟨tagged, blocks, quiet⟩ := completes
  have legal : (decide ((s.vreg o.a).t = 0) || (isBlock o.t.toNat && decide (tagCount (s.vreg o.a).t % 32 ≠ 0))) = false := by
    simpa [tagged] using blocks
  have quiet' : fpeIndex s.landed.me.sys.fenable (condsOf (vcvtElems o (zeroCode o.t.toNat) s)) = none := by
    rw [landed_sys, condsOf_vcvtElems o _ 0, quiet]
  refine (issue_infoV _ _ _ _ _ hr).trans (congrArg Host.Outcome.next ?_)
  simp only [m_bind, m_pure, run_getV_landed, formatIf]
  rw [trapIf_pass legal]
  simp only [m_getS, run_get, run_getM_landed, run_getV_landed, landed_sys]
  refine (run_raiseAll _ _ s.landed (condsOf (vcvtElems o (zeroCode o.t.toNat) s)) _ quiet').trans ?_
  simp only [run_modMe, giveV, run_land, run_finish_ended, run_done, infoV_len, infoV_w, withMe_me, withMe_withMe]
  rfl

/-- What O38 says of a VCVT that completes: the elements [ns, nd) receive code 0 under every target tag. -/
theorem exec_vcvt_of_vectorConversions (claim : Obligations.VectorConversions) (o : Cvt) {s : State} (hr : s.ready .v)
    (completes : VcvtCompletes o s) : exec (.vcvt o) s = .next (afterVcvt o 0 s) := by
  obtain ⟨vcvt, _⟩ := claim
  obtain ⟨tagged, blocks, quiet⟩ := completes
  exact (vcvt o s hr).1 tagged blocks quiet

/-- v1 holds 32 elements 1.0 of FP32; all lanes of it are converted to Q4S, of which v2 has 256 elements. -/
def fp32Ones : State := vecs 2 0x3F800000 0
def toQ4S : Cvt := { w := 0, nan := 0, r := 0, m := 0, t := 21, a := 1, d := 2 }

theorem fp32Ones_ready : fp32Ones.ready .v := by unfold State.ready; decide +kernel
theorem vcvtCompletes_toQ4S : VcvtCompletes toQ4S fp32Ones := by unfold VcvtCompletes; decide +kernel

/-- Element 32 of v2 once the result has landed: the first that is not converted. -/
def element32 (s : State) : Option Nat := (vAfter (.next s) 2).map (fun v => elemAt 21 v.data.toNat 32)

theorem element32_claimed : element32 (afterVcvt toQ4S 0 fp32Ones) = some 0 := by decide +kernel
theorem element32_left : element32 (afterVcvt toQ4S (zeroCode toQ4S.t.toNat) fp32Ones) = some 8 := by decide +kernel

/-- Refutes O38: its clause for VCVT leaves code 0 in the elements of a Q4S result that are not converted. Under their scale byte 0,
code 0 reads as −8 × 2^−32 (R67) and is no +0 (R127); the model leaves code 8. -/
theorem not_vectorConversions : ¬ Obligations.VectorConversions := by
  intro claim
  have left := exec_vcvt toQ4S fp32Ones_ready vcvtCompletes_toQ4S
  rw [exec_vcvt_of_vectorConversions claim toQ4S fp32Ones_ready vcvtCompletes_toQ4S] at left
  injection left with same
  have elements := congrArg element32 same
  rw [element32_claimed, element32_left] at elements
  exact absurd elements (by decide)

end Sys2Proof.Machine

/-! Integer division (R86): the model's four functions are the library's signed and unsigned division wherever the divisor is not zero. -/

namespace Sys2Proof.Machine

theorem divWord_eq_sdiv (a : Word) {b : Word} (h : b ≠ 0) : divWord a b = a.sdiv b := by
  rw [divWord, if_neg h]
  exact BitVec.eq_of_toInt_eq (by rw [BitVec.toInt_ofInt, BitVec.toInt_sdiv])

theorem remWord_eq_srem (a b : Word) : remWord a b = a.srem b := by
  by_cases h : b = 0
  · rw [remWord, if_pos h, h]
    exact BitVec.srem_zero.symm
  · rw [remWord, if_neg h, ← BitVec.toInt_srem, BitVec.ofInt_toInt]

theorem divnWord_eq_udiv (a : Word) {b : Word} (h : b ≠ 0) : divnWord a b = a / b := by
  rw [divnWord, if_neg h, ← BitVec.toNat_udiv, BitVec.ofNat_toNat, BitVec.setWidth_eq]

theorem remnWord_eq_umod (a b : Word) : remnWord a b = a % b := by
  by_cases h : b = 0
  · rw [remnWord, if_pos h, h]
    exact BitVec.umod_zero.symm
  · rw [remnWord, if_neg h, ← BitVec.toNat_umod, BitVec.ofNat_toNat, BitVec.setWidth_eq]

/-- a = q × b + r modulo 2^64, by zero too (R86). -/
theorem divWord_mul_add_remWord (a b : Word) : divWord a b * b + remWord a b = a := by
  by_cases h : b = 0
  · rw [remWord, if_pos h, h, mul_zero, zero_add]
  · calc divWord a b * b + remWord a b
        = BitVec.ofInt 64 (a.toInt.tdiv b.toInt) * BitVec.ofInt 64 b.toInt + BitVec.ofInt 64 (a.toInt.tmod b.toInt) := by
          rw [divWord, remWord, if_neg h, if_neg h, BitVec.ofInt_toInt]
      _ = a := by rw [← BitVec.ofInt_mul, ← BitVec.ofInt_add, Int.tdiv_mul_add_tmod, BitVec.ofInt_toInt]

theorem divnWord_mul_add_remnWord (a b : Word) : divnWord a b * b + remnWord a b = a := by
  by_cases h : b = 0
  · rw [remnWord, if_pos h, h, mul_zero, zero_add]
  · refine BitVec.eq_of_toNat_eq ?_
    rw [divnWord_eq_udiv a h, remnWord_eq_umod, BitVec.toNat_add, BitVec.toNat_mul, BitVec.toNat_udiv, BitVec.toNat_umod, Nat.mod_add_mod,
      Nat.div_add_mod', Nat.mod_eq_of_lt a.isLt]

/-- Settles O1: each division is issued in the scoreboarded form, and its functions are those of the library. -/
theorem divisionRules : Obligations.DivisionRules := by
  refine ⟨fun e he o s hr => ?_, fun a => ⟨rfl, rfl, rfl, rfl⟩, ?_, ?_, fun a b nz noOverflow => ⟨?_, ?_⟩, fun a b nz => ⟨?_, ?_⟩,
    fun a b => ⟨divWord_mul_add_remWord a b, divnWord_mul_add_remnWord a b⟩⟩
  · simp only [divisions, List.mem_cons, List.not_mem_nil, or_false] at he
    rcases he with rfl | rfl | rfl | rfl <;> exact aluSb_next _ o _ hr
  · rw [divWord_eq_sdiv _ (by decide)]
    exact BitVec.intMin_sdiv_neg_one
  · rw [remWord_eq_srem]
    decide
  · rw [divWord_eq_sdiv a nz]
    exact BitVec.toInt_sdiv_of_ne_or_ne a b (by tauto)
  · rw [remWord_eq_srem, BitVec.toInt_srem]
  · rw [divnWord_eq_udiv a nz, BitVec.toNat_udiv]
  · rw [remnWord_eq_umod, BitVec.toNat_umod]

end Sys2Proof.Machine

/-! Scalar loads, stores and fences (R92 to R100): what each shared form answers where its access performs, and the forms of format M, of
majors 0x0B and 0x16, and of 16 bits. -/

namespace Sys2Proof.Machine

/-! ## The shared forms -/

section
variable {s t : State} (hr : s.ready .c)
include hr

/-- A load of format M whose access performs (R93). -/
theorem loadM_next {major ord : Nat} {sg : Bool} {o : Sys2Proof.Mem} (space : o.space.toNat ≠ 3)
    (performs : ∀ k, Prog.run onStop s (access (spaceOf o.space.toNat) (.load o.d.toNat (2 ^ ord) sg)
      (effAddr (s.sreg o.base) o.off (2 ^ ord)) false false k) s.landed = Prog.run onStop s (k ()) t) :
    loadM major ord sg o s = .next (t.ended .c 4 0) := by
  refine (issue_infoM _ _ _ _ _ hr space).trans ?_
  simp only [m_bind, m_pure, run_getSr_landed]
  rw [performs, run_finish_ended]
  rfl

/-- A store of format M whose access performs (R93). -/
theorem storeM_next {ord : Nat} {o : Sys2Proof.Mem} (space : o.space.toNat ≠ 3)
    (performs : ∀ k, Prog.run onStop s (access (spaceOf o.space.toNat) (.store (2 ^ ord) (s.sreg o.d))
      (effAddr (s.sreg o.base) o.off (2 ^ ord)) false false k) s.landed = Prog.run onStop s (k ()) t) :
    storeM ord o s = .next (t.ended .c 4 0) := by
  refine (issue_infoM _ _ _ _ _ hr space).trans ?_
  simp only [m_bind, m_pure, run_getSr_landed]
  rw [performs, run_finish_ended]
  rfl

theorem execLdacq_next {o : MemO} (space : o.space.toNat ≠ 3)
    (performs : ∀ k, Prog.run onStop s (access (spaceOf o.space.toNat) (.load o.d.toNat (2 ^ o.ord.toNat) false)
      (effAddr (s.sreg o.base) o.off (2 ^ o.ord.toNat)) true false k) s.landed = Prog.run onStop s (k ()) t) :
    execLdacq o s = .next (t.ended .c 4 0) := by
  refine (issue_infoM _ _ _ _ _ hr space).trans ?_
  simp only [m_bind, m_pure, run_getSr_landed]
  rw [performs, run_finish_ended]
  rfl

theorem execStrel_next {o : MemO} (space : o.space.toNat ≠ 3)
    (performs : ∀ k, Prog.run onStop s (access (spaceOf o.space.toNat) (.store (2 ^ o.ord.toNat) (s.sreg o.d))
      (effAddr (s.sreg o.base) o.off (2 ^ o.ord.toNat)) false true k) s.landed = Prog.run onStop s (k ()) t) :
    execStrel o s = .next (t.ended .c 4 0) := by
  refine (issue_infoM _ _ _ _ _ hr space).trans ?_
  simp only [m_bind, m_pure, run_getSr_landed]
  rw [performs, run_finish_ended]
  rfl

/-- A 16-bit load that its home slice performs (R48). -/
theorem load16_next {op size : Nat} {sg : Bool} {o : CR} {es : List Effect}
    (reaches : Reaches s.landed (.load o.d.toNat size sg) (s.sreg o.a) false false es) :
    load16 op size sg o s = .next ((applyAll es (Effect.fresh.apply s.landed)).ended .c 2 0) := by
  refine (issue_info16 _ _ _ _ hr).trans ?_
  simp only [m_bind, m_pure, run_getSr_landed, access]
  rw [run_accessG _ _ _ reaches, run_finish_ended]
  rfl

theorem store16_next {op size : Nat} {o : CR} {es : List Effect}
    (reaches : Reaches s.landed (.store size (s.sreg o.d)) (s.sreg o.a) false false es) :
    store16 op size o s = .next ((applyAll es (Effect.fresh.apply s.landed)).ended .c 2 0) := by
  refine (issue_info16 _ _ _ _ hr).trans ?_
  simp only [m_bind, m_pure, run_getSr_landed, access]
  rw [run_accessG _ _ _ reaches, run_finish_ended]
  rfl

end

/-! ## The tables -/

/-- Each load of the table is one of format M of its size and extension. -/
theorem exec_loads : ∀ e ∈ loads, ∃ major ord, e.2.1 = 2 ^ ord ∧ ∀ (o : Sys2Proof.Mem) (s : State),
    exec (e.1 o) s = loadM major ord e.2.2 o s := by
  simp only [loads, List.forall_mem_cons, List.not_mem_nil, false_imp_iff, implies_true, and_true]
  exact ⟨⟨_, 0, rfl, fun _ _ => rfl⟩, ⟨_, 1, rfl, fun _ _ => rfl⟩, ⟨_, 2, rfl, fun _ _ => rfl⟩, ⟨_, 3, rfl, fun _ _ => rfl⟩,
    ⟨_, 0, rfl, fun _ _ => rfl⟩, ⟨_, 1, rfl, fun _ _ => rfl⟩, ⟨_, 2, rfl, fun _ _ => rfl⟩⟩

/-- Each store of the table is one of format M of its size. -/
theorem exec_stores : ∀ e ∈ stores, ∃ ord, e.2 = 2 ^ ord ∧ ∀ (o : Sys2Proof.Mem) (s : State), exec (e.1 o) s = storeM ord o s := by
  simp only [stores, List.forall_mem_cons, List.not_mem_nil, false_imp_iff, implies_true, and_true]
  exact ⟨⟨0, rfl, fun _ _ => rfl⟩, ⟨1, rfl, fun _ _ => rfl⟩, ⟨2, rfl, fun _ _ => rfl⟩, ⟨3, rfl, fun _ _ => rfl⟩⟩

/-! ## Space G -/

/-- An access whose space is G runs as one of space G that its home slice performs. -/
theorem run_access_global {s t : State} {space : BitVec 3} (global : space = 0) {op : MemOp} {va : Word} {acq rel : Bool} {es : List Effect}
    (reaches : Reaches t op va acq rel es) (k : Unit → Prog) :
    Prog.run onStop s (access (spaceOf space.toNat) op va acq rel k) t
      = Prog.run onStop s (k ()) (applyAll es (Effect.fresh.apply t)) := by
  subst global
  exact run_accessG _ _ _ reaches k

/-- Settles O4: each form of a load and of a store, with its access at the home slice. -/
theorem globalAccess : Obligations.GlobalAccess := by
  refine ⟨fun e he o s es hr space reaches => ?_, fun e he o s es hr space reaches => ?_,
    fun o s es hr space => ⟨fun reaches => ?_, fun reaches => ?_⟩,
    fun o s es hr => ⟨load16_next hr, load16_next hr, store16_next hr, store16_next hr⟩⟩
  · obtain ⟨major, ord, size, form⟩ := exec_loads e he
    rw [size] at reaches
    rw [form]
    exact loadM_next hr (by simp [space]) (run_access_global space reaches)
  · obtain ⟨ord, size, form⟩ := exec_stores e he
    rw [size] at reaches
    rw [form]
    exact storeM_next hr (by simp [space]) (run_access_global space reaches)
  · exact execLdacq_next hr (by simp [space]) (run_access_global space reaches)
  · exact execStrel_next hr (by simp [space]) (run_access_global space reaches)

/-! ## The local spaces -/

/-- The spaces of the list are neither G nor L (R46). -/
theorem access_localSpaces : ∀ q ∈ localSpaces, q.1.toNat ≠ 3 ∧ ∀ (op : MemOp) (ea : Word) (acq rel : Bool),
    access (spaceOf q.1.toNat) op ea acq rel = accessLocal q.2 op ea acq rel := by
  simp only [localSpaces, List.forall_mem_cons, List.not_mem_nil, false_imp_iff, implies_true, and_true]
  exact ⟨⟨by decide, fun _ _ _ _ => rfl⟩, ⟨by decide, fun _ _ _ _ => rfl⟩, ⟨by decide, fun _ _ _ _ => rfl⟩⟩

/-- The state after a load at a place in a local space into d (R93): s0 takes nothing. -/
def State.loadedAt (s : State) (l : Loc) (d : BitVec 5) (n : Nat) (sg : Bool) : State :=
  if d = 0 then s else s.wrote (.s d.toNat) (.word (extendLoad n sg (l.read s n))) 1

theorem run_access_localLoad {s t : State} {q : BitVec 3 × Space} (hq : q ∈ localSpaces) {space : BitVec 3} (local' : space = q.1)
    {d : BitVec 5} {n : Nat} {sg : Bool} {ea : Word} {acq rel : Bool} {l : Loc} (reaches : ReachesLocal t q.2 (.load d.toNat n sg) ea rel l)
    (sound : l.poisoned t n = false) (k : Unit → Prog) :
    Prog.run onStop s (access (spaceOf space.toNat) (.load d.toNat n sg) ea acq rel k) t
      = Prog.run onStop s (k ()) (let u := t.loadedAt l d n sg; if acq then applyAll (acquire u.coreNo u) u else u) := by
  have zero : d.toNat = 0 ↔ d = 0 := BitVec.toNat_inj (y := 0#5)
  rw [local', (access_localSpaces q hq).2, run_localLoad _ _ _ reaches sound]
  simp only [State.loadedAt, zero]

theorem run_access_localStore {s t : State} {q : BitVec 3 × Space} (hq : q ∈ localSpaces) {space : BitVec 3} (local' : space = q.1)
    {n : Nat} {v ea : Word} {rel : Bool} {l : Loc} (reaches : ReachesLocal t q.2 (.store n v) ea rel l) (k : Unit → Prog) :
    Prog.run onStop s (access (spaceOf space.toNat) (.store n v) ea false rel k) t
      = Prog.run onStop s (k ()) (applyAll (l.write n v.toNat t) t) := by
  rw [local', (access_localSpaces q hq).2, run_localStore _ _ _ reaches]

/-- Settles O5: each form of a load and of a store, with its access at its place. -/
theorem localAccess : Obligations.LocalAccess := by
  refine ⟨fun e he q hq o s l hr space reaches sound => ?_, fun e he q hq o s l hr space reaches => ?_,
    fun q hq o s l hr space => ⟨fun reaches sound => ?_, fun reaches => ?_⟩⟩
  all_goals have notL : o.space.toNat ≠ 3 := space ▸ (access_localSpaces q hq).1
  · obtain ⟨major, ord, size, form⟩ := exec_loads e he
    rw [size] at reaches sound ⊢
    rw [form]
    exact loadM_next hr notL (run_access_localLoad hq space reaches sound)
  · obtain ⟨ord, size, form⟩ := exec_stores e he
    rw [size] at reaches ⊢
    rw [form]
    exact storeM_next hr notL (run_access_localStore hq space reaches)
  · exact execLdacq_next hr notL (run_access_localLoad hq space reaches sound)
  · exact execStrel_next hr notL (run_access_localStore hq space reaches)

/-! ## Fences, PERSIST and WINWAIT (R98 to R100) -/

theorem execFenceAcq_next {o : A0} {s : State} (hr : s.ready .c) (loaded : openLoads s.landed s.six = false) :
    execFenceAcq o s = .next ((applyAll (acquire s.coreNo s.landed) s.landed).ended .c 4 o.w.toNat) := by
  refine (issue_infoC _ _ _ _ _ hr).trans ?_
  simp only [m_bind, m_pure, m_getS, run_get, landed_six]
  rw [stallIf_pass loaded, run_acquireHere, run_finish_ended, coreNo_of_focus (landed_focus s)]
  rfl

theorem execFenceRel_next {o : A0} {s : State} (hr : s.ready .c) (performed : outstanding s.landed s.six = false) :
    execFenceRel o s = .next (s.landed.ended .c 4 o.w.toNat) := by
  refine (issue_infoC _ _ _ _ _ hr).trans ?_
  simp only [m_bind, m_pure]
  rw [run_release _ _ _ _ performed, run_finish_ended]
  rfl

theorem execFenceFull_next {o : A0} {s : State} (hr : s.ready .c) (performed : outstanding s.landed s.six = false) :
    execFenceFull o s = .next ((applyAll (acquire s.coreNo s.landed) s.landed).ended .c 4 o.w.toNat) := by
  refine (issue_infoC _ _ _ _ _ hr).trans ?_
  simp only [m_bind, m_pure]
  rw [run_release _ _ _ _ performed, run_acquireHere, run_finish_ended, coreNo_of_focus (landed_focus s)]
  rfl

theorem execPersist_next {o : A3} {s : State} (hr : s.ready .c) (plain : s.me.spec = false) (performed : outstanding s.landed s.six = false)
    {es : List Effect} (performs : performOp (s.landed.asks (.persist o.d.toNat (s.sreg o.b).toNat) (s.sreg o.a) false true)
      (Effect.fresh.apply s.landed) = .ok es) :
    execPersist o s = .next ((applyAll es (Effect.fresh.apply s.landed)).ended .c 4 o.w.toNat) := by
  refine (issue_infoC _ _ _ _ _ hr).trans ?_
  simp only [m_bind, m_pure, run_getSr_landed]
  rw [run_beOldest _ _ _ _ (by simpa using plain), run_release _ _ _ _ performed]
  simp only [run_request, submit, finishAccess, m_bind, m_getS, run_get, performs, run_puts, run_finish_ended]
  rfl

/-- WINWAIT answers 0 outside a pod, and otherwise the window, once it is two past that of the strand's last pod-visible write (R100). -/
theorem execWinwait_next {o : AD} {s : State} (hr : s.ready .c) (plain : s.me.spec = false) (performed : outstanding s.landed s.six = false)
    (passed : s.pkg.fab.en = true → ∀ n, s.me.podWin = some n → n + 2 ≤ s.pkg.fab.window) :
    execWinwait o s = .next ((s.landed.wrote (.s o.d.toNat)
      (.word (if s.pkg.fab.en then BitVec.ofNat 64 s.pkg.fab.window else 0)) 1).ended .c 4 o.w.toNat) := by
  refine (issue_infoC _ _ _ _ _ hr).trans ?_
  simp only [m_bind]
  rw [run_beOldest _ _ _ _ (by simpa using plain), run_release _ _ _ _ performed]
  simp only [m_getS, run_get, m_ite, landed_me, landSt_podWin, show s.landed.pkg = s.pkg from rfl]
  cases pod : s.pkg.fab.en with
  | false =>
    simp only [Bool.not_false, if_true]
    rfl
  | true =>
    have left : s.me.podWin.any (fun n => decide (s.pkg.fab.window < n + 2)) = false := by
      cases last : s.me.podWin with
      | none => rfl
      | some n => exact decide_eq_false (Nat.not_lt.mpr (passed pod n last))
    simp only [Bool.not_true, Bool.false_eq_true, if_false, m_bind]
    rw [stallIf_pass left]
    simp only [giveS, run_scored]
    rfl

/-- Settles O7: each fence, PERSIST and WINWAIT where its wait is over. -/
theorem orderingResult : Obligations.OrderingResult := by
  refine ⟨fun o s hr => ⟨execFenceAcq_next hr, fun performed => ⟨execFenceRel_next hr performed, execFenceFull_next hr performed⟩⟩,
    fun o s es hr plain performed performs => execPersist_next hr plain performed performs,
    fun o s hr plain performed => ⟨fun alone => ?_, fun pod passed => ?_⟩⟩
  · refine (execWinwait_next hr plain performed fun pod => ?_).trans (by rw [alone]; rfl)
    rw [alone] at pod
    cases pod
  · exact (execWinwait_next hr plain performed fun _ => passed).trans (by rw [pod]; rfl)

end Sys2Proof.Machine

/-! Privilege (R110 to R112, R183), TRAP (R109), the operand-extension registers (R107) and the words of FEATQ and IMPLQ (R348). -/

namespace Sys2Proof.Machine

/-! ## Privileged instructions in user mode -/

/-- The second check before issue (R56): PRIV with the instruction's word in TADDR, and nothing of the instruction's body. -/
theorem issue_infoP_user {enc w : Nat} {rs : List RegId} (body : M Ctl) {s : State} (stream : s.stream = .c) (user : s.me.sys.pm = false) :
    issue (infoP enc w rs) body s = .next (onStop (.trap { cause := 3, sub := 0, addr := BitVec.ofNat 64 enc, strm := .c }) s) := by
  refine issue_stop _ _ s _ ?_
  simp [issueStop, infoP, stream, user]

/-- Settles O15: each privileged instruction is issued with its own word. -/
theorem privilegeRule : Obligations.PrivilegeRule := by
  intro i s privileged stream user
  cases i <;> cases privileged <;> exact issue_infoP_user _ stream user

/-! ## TRAP -/

/-- Settles O19: the PC of the stream moves past the TRAP before the trap is taken. -/
theorem trapInstruction : Obligations.TrapInstruction := by
  intro o st s hr free
  have free' : (s.landed.me.waitOf (other s.landed.stream)).first = false := by simpa [hr.1] using free
  refine (issue_infoB _ _ _ _ _ _ hr).trans ?_
  simp only [m_bind, m_getS, run_get]
  rw [stallIf_pass free']
  simp only [run_modMe, run_get, run_puts, m_pure, landed_stream, hr.1]
  simp only [finishIssue, m_bind, m_getS, run_get, m_pure, run_done, landed_me, landSt_pcOf, hr.1, State.pc, takeTrap, withMe_six]
  rfl

/-! ## Operand-extension registers and the tables (R107, R111, R348) -/

section
variable {s : State} (hr : s.ready .c)
include hr

theorem execLoxi_next (o : Upper) :
    execLoxi o s = .next ((s.landed.wrote (.ox o.d.toNat) (.word (o.imm.setWidth 64)) 1).ended .c 4 0) := by
  refine (issue_infoC _ _ _ _ _ hr).trans ?_
  simp only [m_bind, m_pure, run_scored, run_finish_ended]
  rfl

theorem execLox_next (o : A2) :
    execLox o s = .next ((s.landed.wrote (.ox o.d.toNat) (.word (s.sreg o.a)) 1).ended .c 4 o.w.toNat) := by
  refine (issue_infoC _ _ _ _ _ hr).trans ?_
  simp only [m_bind, m_pure, run_getSr_landed, run_scored, run_finish_ended]
  rfl

theorem execSox_next (o : A2) :
    execSox o s = .next ((s.landed.wrote (.s o.d.toNat) (.word (s.oxreg o.a)) 1).ended .c 4 o.w.toNat) := by
  refine (issue_infoC _ _ _ _ _ hr).trans ?_
  simp only [m_bind, m_pure, run_getOx, giveS, run_scored, run_finish_ended]
  rfl

/-- The state's tables are those before any write has landed: FEATQ and IMPLQ read the configuration. -/
theorem execFeatq_next (o : A2) : execFeatq o s
    = .next ((s.landed.wrote (.s o.d.toNat) (.word (featWord s ((s.sreg o.a).toNat % 256))) 1).ended .c 4 o.w.toNat) := by
  refine (issue_infoC _ _ _ _ _ hr).trans ?_
  simp only [m_bind, m_pure, run_getSr_landed, m_getS, run_get, giveS, run_scored, run_finish_ended]
  rfl

theorem execImplq_next (o : A2) : execImplq o s
    = .next ((s.landed.wrote (.s o.d.toNat) (.word (implWord s ((s.sreg o.a).toNat % 256))) 1).ended .c 4 o.w.toNat) := by
  refine (issue_infoC _ _ _ _ _ hr).trans ?_
  simp only [m_bind, m_pure, run_getSr_landed, m_getS, run_get, giveS, run_scored, run_finish_ended]
  rfl

end

/-- Four flags in the low bits of a word. -/
theorem getLsbD_fourBits (a b c d : Bool) (i : Nat) : (BitVec.ofNat 64 (bit a 0 + bit b 1 + bit c 2 + bit d 3)).getLsbD i
    = if i = 0 then a else if i = 1 then b else if i = 2 then c else decide (i = 3) && d := by
  rcases Nat.lt_or_ge i 4 with low | high
  · revert a b c d
    interval_cases i <;> decide
  · have small : bit a 0 + bit b 1 + bit c 2 + bit d 3 < 2 ^ 4 := by
      revert a b c d
      decide
    rw [BitVec.getLsbD_ofNat, Nat.testBit_lt_two_pow (small.trans_le (Nat.pow_le_pow_right (by decide) high)), Bool.and_false,
      if_neg (by omega), if_neg (by omega), if_neg (by omega), decide_eq_false (by omega), Bool.false_and]

theorem featWord_one (s : State) : featWord s 1 = match s.cfg.part with | .ezm7160 => 0xFFF | .ezm7120 => 0x3F := by
  simp only [featWord, Cfg.links]
  cases s.cfg.part <;> rfl

theorem featWord_unlisted (s : State) {n : Nat} (h : 3 ≤ n) : featWord s n = 0 := by
  obtain ⟨k, rfl⟩ := Nat.exists_eq_add_of_le' h
  rfl

theorem implWord_stack (s : State) {k : Nat} (h : k < 12) : implWord s (16 + k) = BitVec.ofNat 64 (s.cfg.stack k) := by
  unfold implWord
  rw [if_pos (by omega), Nat.add_sub_cancel_left]

theorem implWord_port (s : State) {p : Nat} (h : p < 8) : implWord s (28 + p) = BitVec.ofNat 64 (s.cfg.port p) := by
  unfold implWord
  rw [if_neg (by omega), if_pos (by omega), Nat.add_sub_cancel_left]

theorem implWord_unlisted (s : State) {n : Nat} (h : 10 ≤ n) (between : n < 16 ∨ 36 ≤ n) : implWord s n = 0 := by
  obtain ⟨k, rfl⟩ := Nat.exists_eq_add_of_le' h
  unfold implWord
  rw [if_neg (by omega), if_neg (by omega)]
  rfl

/-- Settles O20: each instruction reads its register and its word, and the words are those of the two lists. -/
theorem extensionAndTables : Obligations.ExtensionAndTables := by
  refine ⟨fun o s hr => execLoxi_next hr o,
    fun o s hr => ⟨execLox_next hr o, execSox_next hr o, execFeatq_next hr o, execImplq_next hr o⟩, fun s i => ?_,
    fun s => ⟨featWord_one s, rfl, fun n => featWord_unlisted s⟩,
    fun s => ⟨?_, fun k => implWord_stack s, fun p => implWord_port s, fun n => implWord_unlisted s⟩⟩
  · rw [featWord, getLsbD_fourBits]
    split_ifs <;> tauto
  · simp only [implWords, List.forall_mem_cons, List.not_mem_nil, false_imp_iff, implies_true, and_true]
    exact ⟨rfl, rfl, rfl, rfl, rfl, rfl, rfl, rfl, rfl, rfl⟩

end Sys2Proof.Machine

/-! YIELD and ALIGN (R91, R160, R193), and the privileged instructions of major 0x17 (R112). -/

namespace Sys2Proof.Machine

/-! ## YIELD -/

/-- What YIELD and C_YIELD share: the record of the slots that go first (R91, R160). -/
theorem run_yieldBody (f : Stop → State → State) (s0 s : State) (k : Ctl → Prog) :
    Prog.run f s0 (yieldBody k) s = Prog.run f s0 (k .next) s.yielded := by
  simp only [yieldBody, m_bind, m_getS, run_get]
  by_cases record : slotOf s.six < 6 ∧ s.yieldSet ≠ []
  · rw [State.yielded, if_pos record]
    exact congrArg (fun m : M Ctl => Prog.run f s0 (m k) s) (if_pos record)
  · rw [State.yielded, if_neg record]
    exact congrArg (fun m : M Ctl => Prog.run f s0 (m k) s) (if_neg record)

theorem yieldResult_holds : yieldResult := by
  intro o s hr
  refine ⟨(issue_infoC _ _ _ _ _ hr).trans ?_, (issue_info16 _ _ _ _ hr).trans ?_⟩
  all_goals
    rw [run_yieldBody, run_finish_ended]
    rfl

/-! ## ALIGN -/

/-- When the ALIGN at the issuing strand's PC began to wait (R193): now, where it does not wait yet. -/
def State.alignSince (s : State) : Nat := match s.me.c.wait with | .align t _ => t | _ => (s.core s.coreNo).cycle

/-- What ends an ALIGN whose set has not arrived: an entry that ended its wait, or 256 cycles (R185, R193). -/
def State.alignOver (s : State) : Prop := s.me.c.pc ∈ s.me.aligned ∨ s.alignSince + 256 ≤ (s.core s.coreNo).cycle

theorem alignSince_waiting {s : State} {t w : Nat} (h : s.me.c.wait = .align t w) : s.alignSince = t := by rw [State.alignSince, h]

theorem alignSince_new {s : State} (h : ∀ t w, s.me.c.wait ≠ .align t w) : s.alignSince = (s.core s.coreNo).cycle := by
  unfold State.alignSince
  split
  next t w wait => exact absurd wait (h t w)
  next => rfl

section
variable {s : State} (hr : s.ready .c) (o : A0)
include hr

/-- ALIGN as it reads its state (R193): what it does where its set has arrived, and its wait otherwise. -/
theorem execAlign_eq : execAlign o s = .next (Prog.run onStop s
    ((if alignMet s.landed s.six then puts (alignDone (alignSet s.landed s.six) s.landed)
      else stallIf (!s.landed.me.aligned.contains s.landed.me.c.pc
        && decide ((s.core s.coreNo).cycle < s.landed.alignSince + 256)) (.align s.landed.alignSince o.w.toNat))
      fun _ => modMe (fun x => { x with aligned := x.aligned.erase x.c.pc })
        fun _ => finishIssue (infoC (opA 0x13 2 + o.bits) o.w.toNat []) .c .next (fun _ => .done)) s.landed) := by
  refine (issue_infoC _ _ _ _ _ hr).trans (congrArg Host.Outcome.next ?_)
  simp only [m_bind, m_getS, run_get, landed_six]
  by_cases met : alignMet s.landed s.six
  · rw [if_pos met, if_pos met]
    rfl
  · rw [if_neg met, if_neg met]
    rfl

theorem execAlign_met (met : alignMet s.landed s.six = true) : execAlign o s
    = .next ((applyAll (alignDone (alignSet s.landed s.six) s.landed) s.landed).unaligned.ended .c 4 o.w.toNat) := by
  rw [execAlign_eq hr, if_pos met, run_puts, run_modMe, run_finish_ended]
  rfl

theorem execAlign_over (apart : alignMet s.landed s.six = false) (ended : s.landed.alignOver) :
    execAlign o s = .next (s.landed.unaligned.ended .c 4 o.w.toNat) := by
  have passes : (!s.landed.me.aligned.contains s.landed.me.c.pc
      && decide ((s.core s.coreNo).cycle < s.landed.alignSince + 256)) = false := by
    rcases ended with noted | late
    · rw [List.contains_iff_mem.mpr noted, Bool.not_true, Bool.false_and]
    · exact (congrArg _ (decide_eq_false (Nat.not_lt.mpr late))).trans (Bool.and_false _)
  rw [execAlign_eq hr, apart, if_neg Bool.false_ne_true, stallIf_pass passes, run_modMe, run_finish_ended]
  rfl

theorem execAlign_waits (apart : alignMet s.landed s.six = false) (new : ∀ t w, s.landed.me.c.wait ≠ .align t w)
    (fresh : s.landed.me.c.pc ∉ s.landed.me.aligned) :
    execAlign o s = .next (onStop (.wait (.align (s.core s.coreNo).cycle o.w.toNat)) s) := by
  have since : s.landed.alignSince = (s.core s.coreNo).cycle := alignSince_new new
  have waits : (!s.landed.me.aligned.contains s.landed.me.c.pc
      && decide ((s.core s.coreNo).cycle < (s.core s.coreNo).cycle + 256)) = true := by
    rw [Bool.eq_false_iff.mpr (mt List.contains_iff_mem.mp fresh), decide_eq_true (by omega)]
    rfl
  rw [execAlign_eq hr, apart, if_neg Bool.false_ne_true, since, waits, m_stallIf_true, run_stop]

end

theorem alignResult_holds : alignResult := fun o _ hr =>
  ⟨execAlign_met hr o,
    fun apart _ _ wait late => execAlign_over hr o apart (.inr ((alignSince_waiting wait).symm ▸ late)),
    fun apart noted => execAlign_over hr o apart (.inl noted), execAlign_waits hr o⟩

/-- Settles O24: YIELD leaves its record; ALIGN ends by its set, by an entry or by its 256 cycles, and waits otherwise. -/
theorem yieldAlign : Obligations.YieldAlign := ⟨yieldResult_holds, alignResult_holds⟩

/-! ## Migration (R186) -/

section
variable {s : State} (hr : s.ready .c) (pm : s.me.sys.pm = true)
include hr pm

/-- An instruction of major 0x17 in privileged mode. -/
theorem issue_info17 (fn bits w : Nat) (rs : List RegId) (body : M Ctl) : issue (info17 fn bits w rs) body s
    = .next (Prog.run onStop s (body (fun c => finishIssue (info17 fn bits w rs) .c c (fun _ => .done))) s.landed) :=
  issue_infoP _ _ _ _ _ hr pm

theorem execMigr_none (o : A2) (none' : isPrincipal s.coreNo = true → (s.cluster (clusterOf s.coreNo)).migq = []) :
    execMigr o s = .next ((s.landed.wrote (.s o.d.toNat) (.word 0) 1).ended .c 4 o.w.toNat) := by
  have empty : (if isPrincipal s.landed.coreNo then (s.landed.cluster (clusterOf s.landed.coreNo)).migq else []) = [] := by
    split
    · next principal => exact none' principal
    · rfl
  refine (issue_info17 hr pm _ _ _ _ _).trans ?_
  simp only [m_bind, run_getSr_landed, m_getS, run_get, empty, giveS, run_scored, m_pure, run_finish_ended]
  rfl

theorem execMigr_oldest (o : A2) {k : Nat} {r : List Nat} {t : State} (principal : isPrincipal s.coreNo = true)
    (queue : (s.cluster (clusterOf s.coreNo)).migq = k :: r) (aligned : (s.sreg o.a).toNat % 8 = 0)
    (saves : Runs (wideStore .g 8 ((wordAddrs (s.sreg o.a) 8 64).zip (saveArea s.landed k))) s.landed () t) :
    let u := (Effect.cluster (clusterOf s.coreNo)
      { t.cluster (clusterOf s.coreNo) with migq := (t.cluster (clusterOf s.coreNo)).migq.tail }).apply t
    execMigr o s = .next ((u.wrote (.s o.d.toNat) (.word (migHandle k (t.strand k))) 1).ended .c 4 o.w.toNat) := by
  have oldest : (if isPrincipal s.landed.coreNo then (s.landed.cluster (clusterOf s.landed.coreNo)).migq else []) = k :: r := by
    rw [show s.landed.coreNo = s.coreNo from rfl, if_pos principal]
    exact queue
  intro u
  refine (issue_info17 hr pm _ _ _ _ _).trans ?_
  simp only [m_bind, run_getSr_landed, m_getS, run_get, oldest]
  rw [trapIf_pass (by simpa using aligned), saves]
  simp only [run_get, m_put, run_put, giveS, run_scored, m_pure, run_finish_ended]
  rfl

theorem execMigret_unknown (o : AB) (unknown : migTarget s.landed (s.sreg o.a) = none) : execMigret o s
    = .next (onStop (.trap { cause := 1, sub := 0, addr := BitVec.ofNat 64 (encode (.migret o)), strm := .c }) s) := by
  refine (issue_info17 hr pm _ _ _ _ _).trans ?_
  simp only [m_bind, run_getSr_landed, m_getS, run_get, unknown, m_trap, run_stop, landed_stream, hr.1]
  rfl

theorem execMigret_resumes (o : AB) {k : Nat} {ws : List Nat} {t : State} (known : migTarget s.landed (s.sreg o.a) = some k)
    (aligned : (s.sreg o.b).toNat % 8 = 0) (reads : Runs (wideLoad .g 8 (wordAddrs (s.sreg o.b) 8 64)) s.landed ws t) :
    execMigret o s = .next (((Effect.strand k (reload (t.strand k) (ws.map (BitVec.ofNat 64)))).apply t).ended .c 4 o.w.toNat) := by
  refine (issue_info17 hr pm _ _ _ _ _).trans ?_
  simp only [m_bind, run_getSr_landed, m_getS, run_get, known]
  rw [trapIf_pass (by simpa using aligned), reads]
  simp only [run_get, m_put, run_put, m_pure, run_finish_ended]
  rfl

/-! ## Translations: TLBINV, HARVEST, WBINV (R247, R250, R265) -/

theorem execTlbinv_next (o : AB) (quiet : tlbBusy s.landed (tlbKeys s.landed (s.sreg o.a) (s.sreg o.b)) = false) : execTlbinv o s
    = .next ((applyAll (tlbInvalidate (s.sreg o.a) (s.sreg o.b) s.landed) s.landed).ended .c 4 o.w.toNat) := by
  refine (issue_info17 hr pm _ _ _ _ _).trans ?_
  simp only [m_bind, run_getSr_landed, m_getS, run_get]
  rw [stallIf_pass quiet]
  simp only [run_puts, m_pure, run_finish_ended]
  rfl

theorem execWbinv_next (o : AB) {xs : List Xl} (mapped : rangePages s.landed s.six s.me.dom s.me.sys.dsdepth true .r (s.sreg o.a).toNat
    (s.sreg o.b).toNat = .ok xs) : execWbinv o s
    = .next ((applyAll (xs.flatMap Xl.fx ++ dropLines (lineOf xs (s.sreg o.a).toNat (s.sreg o.b).toNat) s.landed) s.landed).ended
        .c 4 o.w.toNat) := by
  refine (issue_info17 hr pm _ _ _ _ _).trans ?_
  simp only [m_bind, run_getSr_landed, m_getS, run_get, landed_six, landed_me, landSt_dom, landSt_sys, pm, mapped, run_puts, m_pure,
    run_finish_ended]
  rfl

theorem execHarvest_misaligned (o : A3) (off : (s.sreg o.b).toNat % 2 ^ 21 ≠ 0) :
    execHarvest o s = .next (onStop (.trap { cause := 4, sub := 0, addr := s.sreg o.b, strm := .c }) s) := by
  refine (issue_info17 hr pm _ _ _ _ _).trans ?_
  simp only [m_bind, run_getSr_landed, decide_eq_true off, m_trapIf_true, run_get, run_stop, landed_stream, hr.1]

theorem execHarvest_check (o : A3) {u pa : Nat} (aligned : (s.sreg o.b).toNat % 2 ^ 21 = 0)
    (check : regionCheck s.landed ((s.sreg o.a).toNat % 4096) (s.sreg o.b) = some (u, pa)) :
    execHarvest o s = .next (onStop (.trap { cause := 17, sub := u, addr := BitVec.ofNat 64 pa, strm := .c }) s) := by
  refine (issue_info17 hr pm _ _ _ _ _).trans ?_
  simp only [m_bind, run_getSr_landed]
  rw [trapIf_pass (by simpa using aligned)]
  simp only [m_getS, run_get, check, m_bind, m_trap, run_stop, landed_stream, hr.1]

theorem execHarvest_next (o : A3) (aligned : (s.sreg o.b).toNat % 2 ^ 21 = 0)
    (sound : regionCheck s.landed ((s.sreg o.a).toNat % 4096) (s.sreg o.b) = none) :
    let asid := (s.sreg o.a).toNat % 4096
    let leaves := regionLeaves s.landed asid (s.sreg o.b)
    let t := applyAll (chain (regionReads s.coreNo asid (s.sreg o.b) :: leaves.map (harvestLeaf asid)) s.landed) s.landed
    execHarvest o s = .next ((t.wrote (.s o.d.toNat)
      (.word (BitVec.ofNat 64 (leaves.filter (harvestChanges s.landed asid)).length)) 1).ended .c 4 o.w.toNat) := by
  intro asid leaves t
  refine (issue_info17 hr pm _ _ _ _ _).trans ?_
  simp only [m_bind, run_getSr_landed]
  rw [trapIf_pass (by simpa using aligned)]
  simp only [m_getS, run_get, sound, m_bind, m_pure, run_puts, giveS, run_scored, run_finish_ended]
  rfl

/-! ## PFREE and KILL (R112, R157, R262) -/

/-- A PFREE that is new, once the strand's accesses have performed and its core has acquired (R262). -/
def pfreeNew (o : A2) (a : Word) : M Ctl := do
  let t ← getS
  match frameIndex t.cfg a.toNat with
  | some i =>
    if a.toNat % 65536 ≠ 0 ∨ (t.frame i).st = .scrub then do
      giveS o.d 1
      pure .next
    else do
      puts (pfreeStart i t)
      let u ← getS
      if u.pkg.fab.en || frameBusy u i then
        pure (.hold (.pfree i (if u.pkg.fab.en then some u.pkg.fab.window else none)))
      else do
        puts (pfreeEnd i u)
        giveS o.d 0
        pure .next
  | none => do
    giveS o.d 1
    pure .next

theorem execPfree_new (o : A2) (performed : outstanding s.landed s.six = false) (new : s.landed.me.c.wait = .none) :
    execPfree o s = .next (Prog.run onStop s
      (pfreeNew o (s.sreg o.a) (fun c => finishIssue (info17 5 o.bits o.w.toNat (usesDA o.d o.a)) .c c (fun _ => .done)))
      (applyAll (acquire s.coreNo s.landed) s.landed)) := by
  refine (issue_info17 hr pm _ _ _ _ _).trans ?_
  simp only [m_bind, run_getSr_landed, m_getS, run_get, new]
  rw [run_release _ _ _ _ performed, run_acquireHere]
  rfl

end

section
variable (f : Stop → State → State) (s0 t : State) {o : A2} {a : Word} (k : Ctl → Prog)

theorem run_pfreeNew_frees {i : Nat} (frame : frameIndex t.cfg a.toNat = some i) (whole : a.toNat % 65536 = 0)
    (owned : (t.frame i).st ≠ .scrub) (alone : (applyAll (pfreeStart i t) t).pkg.fab.en = false)
    (quiet : frameBusy (applyAll (pfreeStart i t) t) i = false) :
    let u := applyAll (pfreeStart i t) t
    Prog.run f s0 (pfreeNew o a k) t = Prog.run f s0 (k .next) ((applyAll (pfreeEnd i u) u).wrote (.s o.d.toNat) (.word 0) 1) := by
  have frees : ¬(a.toNat % 65536 ≠ 0 ∨ (t.frame i).st = .scrub) := fun h => h.elim (absurd whole) owned
  simp only [pfreeNew, m_bind, m_getS, run_get, frame, if_neg frees, run_puts, alone, quiet, Bool.or_self, Bool.false_eq_true, if_false,
    giveS, run_scored, m_pure]

theorem run_pfreeNew_refused (refused : ∀ i, frameIndex t.cfg a.toNat = some i → a.toNat % 65536 ≠ 0 ∨ (t.frame i).st = .scrub) :
    Prog.run f s0 (pfreeNew o a k) t = Prog.run f s0 (k .next) (t.wrote (.s o.d.toNat) (.word 1) 1) := by
  simp only [pfreeNew, m_bind, m_getS, run_get]
  cases frame : frameIndex t.cfg a.toNat with
  | none => simp only [m_bind, giveS, run_scored, m_pure]
  | some i => simp only [if_pos (refused i frame), m_bind, giveS, run_scored, m_pure]

end

/-- No effect changes what the package is made of. -/
theorem applyAll_cfg (es : List Effect) (s : State) : (applyAll es s).cfg = s.cfg := by
  induction es generalizing s with
  | nil => rfl
  | cons e es ih => rw [applyAll_cons, ih, apply_cfg]

theorem execKill_next {s : State} (hr : s.ready .c) (pm : s.me.sys.pm = true) (o : A2) (known : (s.sreg o.a).toNat < 4096)
    (group : (s.group (s.sreg o.a).toNat).isSome = true) :
    let t := s.landed.wrote (.s o.d.toNat) (.word 0) 1
    execKill o s = .next ((applyAll (killGroup t (s.sreg o.a).toNat) t).ended .c 4 o.w.toNat) := by
  have group' : (s.sreg o.a).toNat < 4096 ∧ (s.landed.group (s.sreg o.a).toNat).isSome = true := ⟨known, group⟩
  intro t
  refine (issue_info17 hr pm _ _ _ _ _).trans ?_
  simp only [m_bind, run_getSr_landed, m_getS, run_get, if_pos group', giveS, run_scored, run_puts, m_pure, run_finish_ended]
  rfl

theorem execKill_unknown {s : State} (hr : s.ready .c) (pm : s.me.sys.pm = true) (o : A2)
    (unknown : ¬((s.sreg o.a).toNat < 4096 ∧ (s.group (s.sreg o.a).toNat).isSome = true)) :
    execKill o s = .next ((s.landed.wrote (.s o.d.toNat) (.word 1) 1).ended .c 4 o.w.toNat) := by
  have unknown' : ¬((s.sreg o.a).toNat < 4096 ∧ (s.landed.group (s.sreg o.a).toNat).isSome = true) := unknown
  refine (issue_info17 hr pm _ _ _ _ _).trans ?_
  simp only [m_bind, run_getSr_landed, m_getS, run_get, if_neg unknown', giveS, run_scored, m_pure, run_finish_ended]
  rfl

/-! ## The obligation -/

theorem migration_holds : migration :=
  ⟨fun o _ hr pm => ⟨execMigr_none hr pm o, fun _ _ _ principal queue aligned saves => execMigr_oldest hr pm o principal queue aligned saves⟩,
    fun o _ hr pm => ⟨execMigret_unknown hr pm o, fun _ _ _ known aligned reads => execMigret_resumes hr pm o known aligned reads⟩⟩

theorem translationControl_holds : translationControl :=
  ⟨fun o _ hr pm => ⟨execTlbinv_next hr pm o, fun _ mapped => execWbinv_next hr pm o mapped⟩,
    fun o _ hr pm => ⟨fun _ _ aligned check => execHarvest_check hr pm o aligned check, execHarvest_next hr pm o,
      execHarvest_misaligned hr pm o⟩⟩

theorem freeAndKill_holds : freeAndKill := by
  refine ⟨fun o s hr pm performed new => ?_, fun o s hr pm => ⟨execKill_next hr pm o, execKill_unknown hr pm o⟩⟩
  intro t
  have cfg : t.cfg = s.cfg := applyAll_cfg _ s.landed
  refine ⟨fun i frame whole owned => ?_, fun refused => ?_⟩
  · intro _ alone quiet
    rw [← cfg] at frame
    exact (execPfree_new hr pm o performed new).trans (congrArg Host.Outcome.next
      ((run_pfreeNew_frees _ _ _ _ frame whole owned alone quiet).trans (run_finish_ended _ _ _ _ _ _)))
  · exact (execPfree_new hr pm o performed new).trans (congrArg Host.Outcome.next
      ((run_pfreeNew_refused _ _ _ _ refused).trans (run_finish_ended _ _ _ _ _ _)))

/-- Settles O25: each privileged instruction where its checks pass, and the traps of MIGRET and HARVEST. -/
theorem privilegedResult : Obligations.PrivilegedResult := ⟨migration_holds, translationControl_holds, freeAndKill_holds⟩

end Sys2Proof.Machine

/-! What a read does beside its value (R247, R250, R253 to R255): it changes tables of the caches, and a firing's reads, and nothing else. -/

namespace Sys2Proof.Machine

/-- An effect on the tables of the caches: directory, translations, L1 lines, or an identity taken. -/
def Effect.onCaches : Effect → Bool
  | .dir .. => true
  | .tlb .. => true
  | .l1 .. => true
  | .fresh => true
  | _ => false

/-- An effect on the tables of the caches or on a task, whose reads a speculative firing records (R97). -/
def Effect.ofRead : Effect → Bool
  | .task .. => true
  | e => e.onCaches

theorem onCaches_ofRead {e : Effect} (h : e.onCaches = true) : e.ofRead = true := by
  cases e <;> first | rfl | exact h

theorem ofRead_refocuses {e : Effect} (h : e.ofRead = true) : e.refocuses = false := by
  cases e <;> first | rfl | cases h

/-- Effects on the caches change nothing else. -/
theorem applyAll_onCaches {es : List Effect} (h : ∀ e ∈ es, e.onCaches = true) (s : State) :
    ∃ d t l n, applyAll es s = { s with dir := d, tlb := t, l1 := l, nextId := n } := by
  induction es generalizing s with
  | nil => exact ⟨s.dir, s.tlb, s.l1, s.nextId, rfl⟩
  | cons e es ih =>
    obtain ⟨d, t, l, n, rest⟩ := ih (fun x hx => h x (List.mem_cons_of_mem _ hx)) (e.apply s)
    have head := h e (List.mem_cons_self ..)
    rw [applyAll_cons, rest]
    cases e <;> first | exact ⟨_, _, _, _, rfl⟩ | cases head

/-! ## The operations of the caches -/

theorem translate_onCaches {s : State} {core asid : Nat} {pm : Bool} {va : Word} {need : Need} {x : Xl}
    (h : translate s core asid pm va need = some x) : ∀ e ∈ x.fx, e.onCaches = true := by
  intro e he
  rcases translate_fx h e he with ⟨k, d, rfl⟩ | ⟨k, t, rfl⟩ <;> rfl

theorem shareLine_onCaches (agent pa : Nat) (s : State) : ∀ e ∈ shareLine agent pa s, e.onCaches = true := by
  intro e he
  obtain ⟨k, d, rfl⟩ := shareLine_dir agent pa s e he
  rfl

theorem shareFor_onCaches (cls : MClass) (agent pa : Nat) (s : State) : ∀ e ∈ shareFor cls agent pa s, e.onCaches = true :=
  unless_all _ _ (shareLine_onCaches agent pa s)

theorem map_l1_onCaches {α : Type} (xs : List α) (k : α → Nat) (l : α → L1Line) :
    ∀ e ∈ xs.map (fun p => Effect.l1 (k p) (l p)), e.onCaches = true := by
  intro e he
  obtain ⟨p, -, rfl⟩ := List.mem_map.mp he
  rfl

theorem l1Forget_onCaches (core key base : Nat) (s : State) : ∀ e ∈ l1Forget core key base s, e.onCaches = true :=
  map_l1_onCaches _ _ _

theorem l1Read_onCaches (core pa n : Nat) (s : State) : ∀ e ∈ l1Read core pa n s, e.onCaches = true :=
  map_l1_onCaches _ _ _

theorem acquire_onCaches (core : Nat) (s : State) : ∀ e ∈ acquire core s, e.onCaches = true :=
  map_l1_onCaches _ _ _

theorem dropSharer_onCaches (agent base : Nat) (s : State) : ∀ e ∈ dropSharer agent base s, e.onCaches = true := by
  unfold dropSharer
  refine unless_all _ _ ?_
  split
  · exact fun e he => absurd he List.not_mem_nil
  · exact map_l1_onCaches _ _ _

theorem l1Load_onCaches (s : State) (core asid : Nat) (va : Word) (x : Xl) (n : Nat) :
    ∀ e ∈ (l1Load s core asid va x n).2, e.onCaches = true := by
  simp only [l1Load]
  split
  · split
    · exact l1Forget_onCaches _ _ _ s
    · exact fun e he => absurd he List.not_mem_nil
  · refine chain_all _ _ s fun f hf t => ?_
    simp only [List.mem_cons, List.not_mem_nil, or_false] at hf
    rcases hf with rfl | rfl | rfl | rfl
    · exact shareFor_onCaches _ _ _ t
    · intro e he
      split at he
      · rcases List.mem_cons.mp he with rfl | he
        · rfl
        · exact dropSharer_onCaches _ _ t e he
      · cases he
    · exact l1Forget_onCaches _ _ _ t
    · intro e he
      rw [List.mem_singleton.mp he]
      rfl

theorem specLoad_ofRead (s : State) (id : Nat) (t : Task) (agent : Nat) (cls : MClass) (pa n : Nat) :
    ∀ e ∈ (specLoad s id t agent cls pa n).2, e.ofRead = true := by
  intro e he
  rcases List.mem_append.mp he with he | he
  · exact onCaches_ofRead (shareFor_onCaches _ _ _ s e he)
  · split at he
    · cases he
    · rw [List.mem_singleton.mp he]
      rfl

/-! ## Reads of system memory and of a domain's memory -/

/-- A read whose effects, where it performs, are those of reads. -/
def OnlyReads {α : Type} (x : Except Fail (α × List Effect)) : Prop := ∀ r, x = .ok r → ∀ e ∈ r.2, e.ofRead = true

theorem onlyReads_error {α : Type} (e : Fail) : OnlyReads (.error e : Except Fail (α × List Effect)) := fun _ h => nomatch h

theorem onlyReads_ok {α : Type} {v : α} {es : List Effect} (h : ∀ e ∈ es, e.ofRead = true) :
    OnlyReads (.ok (v, es) : Except Fail (α × List Effect)) := by
  rintro r ⟨⟩
  exact h

theorem onlyReads_map {α β : Type} {x : Except Fail (α × List Effect)} (g : α × List Effect → β × List Effect)
    (h : OnlyReads x) (keeps : ∀ r, (∀ e ∈ r.2, e.ofRead = true) → ∀ e ∈ (g r).2, e.ofRead = true) : OnlyReads (x.map g) := by
  cases x with
  | error e => exact onlyReads_error e
  | ok r =>
    rintro _ ⟨⟩
    exact keeps r (h r rfl)

/-- Two reads in order (R155). -/
theorem onlyReads_andRead {α β γ : Type} (s : State) {x : Except Fail (α × List Effect)} {next : State → Except Fail (β × List Effect)}
    (f : α → β → γ) (first : OnlyReads x) (second : ∀ t, OnlyReads (next t)) : OnlyReads (andRead s x next f) := by
  unfold andRead
  split
  · next v es =>
    refine onlyReads_map _ (second _) fun r hr e he => ?_
    rcases List.mem_append.mp he with he | he
    · exact first _ rfl e he
    · exact hr e he
  · split <;> exact onlyReads_error _
  · exact onlyReads_error _

theorem sysPiece_onlyReads (s : State) (core : Nat) (va : Word) (n : Nat) : OnlyReads (sysPiece s core va n) := by
  unfold sysPiece
  split
  · next x mapped =>
    have walks : ∀ e ∈ x.fx, e.ofRead = true := fun e he => onCaches_ofRead (translate_onCaches mapped e he)
    split
    · exact onlyReads_error _
    · split
      · split
        · exact onlyReads_ok walks
        · exact onlyReads_error _
        · exact onlyReads_error _
      · split
        · exact onlyReads_error _
        · refine onlyReads_ok (chain_all _ _ s fun f hf t e he => ?_)
          rcases List.mem_pair.mp hf with rfl | rfl
          · exact walks e he
          · exact onCaches_ofRead (shareFor_onCaches _ _ _ t e he)
  · split <;> exact onlyReads_error _

theorem sysReads_onlyReads (core : Nat) (ps : List (Word × Nat × Nat)) (s : State) : OnlyReads (sysReads core ps s) := by
  induction ps generalizing s with
  | nil => exact onlyReads_ok fun e he => absurd he List.not_mem_nil
  | cons p ps ih => exact onlyReads_andRead s _ (sysPiece_onlyReads s core _ _) ih

theorem frameRead_onlyReads (s : State) (core : Nat) (x : Strand) (depth : Nat) : OnlyReads (frameRead s core x depth) := by
  unfold frameRead
  split
  · exact onlyReads_ok fun e he => absurd he List.not_mem_nil
  · exact onlyReads_map _ (sysReads_onlyReads core _ s) fun _ h => h

theorem framesFrom_onlyReads (s : State) (core : Nat) (x : Strand) (n : Nat) : OnlyReads (framesFrom s core x n) := by
  induction n generalizing s with
  | zero => exact onlyReads_ok fun e he => absurd he List.not_mem_nil
  | succ n ih => exact onlyReads_andRead s _ (frameRead_onlyReads s core x (n + 1)) ih

theorem refills_ofRead (s : State) (six depth : Nat) (va : Word) : ∀ e ∈ refills s six depth va, e.ofRead = true := by
  have none' : ∀ e ∈ ([] : List Effect), e.ofRead = true := fun e he => absurd he List.not_mem_nil
  unfold refills
  split
  · split
    · next fs frames => exact framesFrom_onlyReads s _ _ depth fs frames
    · exact none'
  · exact none'

/-- A read that first refills the frames of its windows (R155). -/
theorem throughRefills_onlyReads {α : Type} (s : State) (six depth : Nat) (va : Word) {act : State → Except Fail (α × List Effect)}
    (h : ∀ t, OnlyReads (act t)) : OnlyReads (throughRefills s six depth va (fun es r => (r.1, es ++ r.2)) act) := by
  unfold throughRefills
  split
  · dsimp only
    split
    · next r performs =>
      refine onlyReads_ok fun e he => ?_
      rcases List.mem_append.mp he with he | he
      · exact refills_ofRead s six depth va e he
      · exact h _ r performs e he
    · exact onlyReads_error _
    · exact onlyReads_error _
  · exact h s

theorem windowLoad_onlyReads (s : State) (six pa n : Nat) {fx : List Effect} (h : ∀ e ∈ fx, e.ofRead = true) :
    OnlyReads (windowLoad s six pa n fx) := by
  unfold windowLoad
  dsimp only
  split
  · split
    · split
      · exact onlyReads_ok h
      · exact onlyReads_error _
    · exact onlyReads_error _
  · split <;> exact onlyReads_error _

theorem plainLoadHere_onlyReads (six asid : Nat) (pm : Bool) (va : Word) (n : Nat) (s : State) :
    OnlyReads (plainLoadHere six asid pm va n s) := by
  unfold plainLoadHere
  split
  · exact onlyReads_error _
  split
  · exact onlyReads_error _
  next x mapped =>
  have walks : ∀ e ∈ x.fx, e.ofRead = true := fun e he => onCaches_ofRead (translate_onCaches mapped e he)
  split
  · exact onlyReads_error _
  split
  · split
    · exact windowLoad_onlyReads _ _ _ _ walks
    · split
      · exact onlyReads_error _
      · exact onlyReads_ok walks
  split
  · cases podLoad s _ pm x n with
    | error e => exact onlyReads_error e
    | ok v => exact onlyReads_ok walks
  split
  · exact onlyReads_error _
  split
  · exact onlyReads_error _
  refine onlyReads_ok fun e he => ?_
  rcases List.mem_append.mp he with he | he
  · exact walks e he
  · split at he
    · exact specLoad_ofRead _ _ _ _ _ _ _ e he
    · exact onCaches_ofRead (l1Load_onCaches _ _ _ _ _ _ e he)

theorem plainLoad_onlyReads (s : State) (six asid : Nat) (pm : Bool) (va : Word) (n : Nat) : OnlyReads (plainLoad s six asid pm va n) :=
  throughRefills_onlyReads s six _ va (plainLoadHere_onlyReads six asid pm va n)

/-- A table load leaves which stream issues. -/
theorem tableLoad_focus {s t : State} {va : Word} {n v : Nat} {fx : List Effect} (h : TableLoad s va n v fx) :
    (applyAll fx t).focus = t.focus :=
  applyAll_focusOf _ _ fun e he => ofRead_refocuses (plainLoad_onlyReads s _ _ _ va n (v, fx) h.performs e he)

end Sys2Proof.Machine

/-! Control transfers (R42, R43, R88 to R90, R48): where branches, jumps and table jumps go, and the traps of odd targets and of the table. -/

namespace Sys2Proof.Machine

/-- The PC of the instruction, as its stream reads it. -/
theorem run_getPc_landed {s : State} (f : Stop → State → State) (s0 : State) (k : Word → Prog) :
    Prog.run f s0 (getPc k) s.landed = Prog.run f s0 (k s.pc) s.landed := by
  simp only [getPc, m_bind, m_getS, m_pure, run_get, landed_stream, landed_me, landSt_pcOf, State.pc]

/-- A displacement of whole 16-bit units keeps the PC even. -/
theorem even_add_twice {pc : Word} (even : pc.getLsbD 0 = false) (d : Word) : (pc + 2 * d).getLsbD 0 = false := by
  rw [BitVec.getLsbD, Nat.testBit_zero, decide_eq_false_iff_not] at even ⊢
  rw [BitVec.toNat_add, BitVec.toNat_mul, show (2 : Word).toNat = 2 from rfl]
  omega

/-! ## Branches -/

theorem run_branchBody {s : State} (hr : s.ready .c) (even : s.pc.getLsbD 0 = false) (i : Info) (w0 : i.w = 0) (a b : Nat) (d : Word)
    (cond : Word → Word → Bool) :
    Prog.run onStop s (branchBody a b (d * 2) cond fun c => finishIssue i .c c fun _ => .done) s.landed
      = s.branched (cond (s.landed.me.readS a) (s.landed.me.readS b)) d i.len := by
  have stream : s.landed.stream = .c := by rw [landed_stream, hr.1]
  simp only [branchBody, m_bind, m_getS, run_get, run_getPc_landed, m_ite, State.branched]
  split
  · rw [mul_comm d 2, run_jumpTo _ _ (even_add_twice even d), run_finish_jump _ _ _ _ _ _ _ stream, w0]
    rfl
  · rw [m_pure, run_finish_next _ _ _ _ _ _ stream, w0]
    rfl

/-- Each branch of the table is one of format B with its condition. -/
theorem exec_branches : ∀ e ∈ branches, ∃ cc cond, (∀ a b, cond a b = e.2 a b)
    ∧ ∀ (o : Br) (s : State), exec (e.1 o) s = branch cc o cond s := by
  simp only [branches, List.forall_mem_cons, List.not_mem_nil, false_imp_iff, implies_true, and_true]
  exact ⟨⟨0, _, fun _ _ => rfl, fun _ _ => rfl⟩, ⟨1, _, fun _ _ => (decide_not ..).symm, fun _ _ => rfl⟩,
    ⟨2, _, fun _ _ => rfl, fun _ _ => rfl⟩, ⟨3, _, fun _ _ => rfl, fun _ _ => rfl⟩, ⟨4, _, fun _ _ => rfl, fun _ _ => rfl⟩,
    ⟨5, _, fun _ _ => rfl, fun _ _ => rfl⟩⟩

theorem branch_next {s : State} (hr : s.ready .c) (even : s.pc.getLsbD 0 = false) (cc : Nat) (o : Br) (cond : Word → Word → Bool) :
    branch cc o cond s = .next (s.branched (cond (s.sreg o.a) (s.sreg o.b)) (o.disp.signExtend 64) 4) :=
  (issue_infoC _ _ _ _ _ hr).trans (congrArg Host.Outcome.next (run_branchBody hr even _ rfl _ _ _ cond))

theorem branchResult_holds : branchResult := by
  refine ⟨fun e he o s hr even => ?_, fun o s hr even => ⟨?_, ?_⟩⟩
  · obtain ⟨cc, cond, same, form⟩ := exec_branches e he
    rw [form, branch_next hr even, same]
  · exact (issue_info16 _ _ _ _ hr).trans (congrArg Host.Outcome.next (run_branchBody hr even _ rfl _ 0 _ _))
  · refine (issue_info16 _ _ _ _ hr).trans (congrArg Host.Outcome.next ((run_branchBody hr even _ rfl _ 0 _ _).trans ?_))
    exact congrArg (State.branched s · _ 2) (decide_not ..).symm

/-! ## Jumps -/

section
variable {s : State} (hr : s.ready .c) (i : Info) (link a len : Nat)
include hr

theorem run_jumpReg (even : (s.landed.me.readS a).getLsbD 0 = false) :
    Prog.run onStop s (jumpReg link a len fun c => finishIssue i .c c fun _ => .done) s.landed
      = (s.landed.wrote (.s link) (.word (s.pc + BitVec.ofNat 64 len)) 1).jumped (s.landed.me.readS a) i.w := by
  simp only [jumpReg, m_bind, m_getS, run_get, run_getPc_landed]
  rw [trapIf_pass even, run_writeS, m_pure, run_finish_jump _ _ _ _ _ _ _ (by rw [wrote_stream, landed_stream, hr.1])]
  rfl

theorem run_jumpReg_odd (odd : (s.landed.me.readS a).getLsbD 0 = true) :
    Prog.run onStop s (jumpReg link a len fun c => finishIssue i .c c fun _ => .done) s.landed
      = onStop (.trap { cause := 4, sub := 0, addr := s.landed.me.readS a, strm := .c }) s := by
  simp only [jumpReg, m_bind, m_getS, run_get, run_getPc_landed]
  rw [odd, m_trapIf_true, run_get, run_stop, landed_stream, hr.1]

end

theorem execJmp_next {s : State} (hr : s.ready .c) (even : s.pc.getLsbD 0 = false) (o : Jmp) : execJmp o s
    = .next ((s.landed.wrote (.s o.link.toNat) (.word (s.pc + 4)) 1).jumped (s.pc + 2 * o.disp.signExtend 64) 0) := by
  refine (issue_infoC _ _ _ _ _ hr).trans (congrArg Host.Outcome.next ?_)
  simp only [m_bind, run_getPc_landed, run_land, target]
  rw [mul_comm, run_jumpTo _ _ (even_add_twice even _), run_finish_jump _ _ _ _ _ _ _ (by rw [wrote_stream, landed_stream, hr.1])]
  rfl

theorem jumpResult_holds : jumpResult :=
  ⟨fun o _ hr even => execJmp_next hr even o,
    fun _ _ hr => ⟨fun even => (issue_infoC _ _ _ _ _ hr).trans (congrArg Host.Outcome.next (run_jumpReg hr _ _ _ 4 even)),
      fun odd => (issue_infoC _ _ _ _ _ hr).trans (congrArg Host.Outcome.next (run_jumpReg_odd hr _ _ _ 4 odd))⟩,
    fun _ _ hr => ⟨fun even => (issue_info16 _ _ _ _ hr).trans (congrArg Host.Outcome.next (run_jumpReg hr _ 0 _ 2 even)),
      fun odd => (issue_info16 _ _ _ _ hr).trans (congrArg Host.Outcome.next (run_jumpReg_odd hr _ 0 _ 2 odd))⟩,
    fun _ hr => ⟨fun even => (issue_info16 _ _ _ _ hr).trans (congrArg Host.Outcome.next (run_jumpReg hr _ 0 29 2 even)),
      fun odd => (issue_info16 _ _ _ _ hr).trans (congrArg Host.Outcome.next (run_jumpReg_odd hr _ 0 29 2 odd))⟩⟩

/-! ## JTAB -/

section
variable (f : Stop → State → State) (s0 s : State)

/-- A table load whose page does not read (R90, R95): subcode TABLE on a compute core, MMU elsewhere. -/
theorem run_loadTable_fault {va : Word} {n : Nat} (h : TableFault s va n) (k : Nat → Prog) :
    Prog.run f s0 (loadTable va n k) s
      = f (.trap { cause := 5, sub := if isCompute s.coreNo then 2 else 5, addr := va, strm := s.stream }) s0 := by
  obtain ⟨unlocked, plain, acquired, faults⟩ := h
  simp only [loadTable, m_bind, m_getS, run_get]
  rw [trapIf_pass unlocked, stallIf_pass acquired, run_ite_beOldest f s0 s _ _ _ plain]
  simp only [m_bind, m_getS, run_get, finishLoad, faults, m_trap, run_stop]

end

section
variable {s : State} (hr : s.ready .c) (o : AB)
include hr

theorem execJtab_misaligned (off : (s.sreg o.b).toNat % 4 ≠ 0) :
    execJtab o s = .next (onStop (.trap { cause := 4, sub := 0, addr := s.sreg o.b, strm := .c }) s) := by
  refine (issue_infoC _ _ _ _ _ hr).trans ?_
  simp only [m_bind, run_getSr_landed]
  rw [decide_eq_true off, m_trapIf_true, run_get, run_stop, landed_stream, hr.1]

variable (aligned : (s.sreg o.b).toNat % 4 = 0)
include aligned

theorem execJtab_noTable (fault : TableFault s.landed (s.sreg o.b) 4) : execJtab o s = .next (onStop
    (.trap { cause := 5, sub := if isCompute s.coreNo then 2 else 5, addr := s.sreg o.b, strm := .c }) s) := by
  refine (issue_infoC _ _ _ _ _ hr).trans ?_
  simp only [m_bind, run_getSr_landed]
  rw [trapIf_pass (by simpa using aligned), run_loadTable_fault _ _ _ fault, landed_stream, hr.1]
  rfl

/-- JTAB from the entry count of its table on (R90). -/
theorem execJtab_counted {n : Nat} {fx : List Effect} (count : TableLoad s.landed (s.sreg o.b) 4 n fx) : execJtab o s
    = .next (Prog.run onStop s ((if n ≤ (s.sreg o.a).toNat then pure Ctl.next else do
        let d ← loadTable (s.sreg o.b + 4 + 4 * s.sreg o.a) 4
        jumpTo (s.sreg o.b + sx (BitVec.ofNat 32 d)))
      fun c => finishIssue (infoC (opA 0x12 1 + o.bits) o.w.toNat [.s o.a.toNat, .s o.b.toNat]) .c c fun _ => .done)
      (applyAll fx s.landed)) := by
  refine (issue_infoC _ _ _ _ _ hr).trans (congrArg Host.Outcome.next ?_)
  simp only [m_bind, run_getSr_landed]
  rw [trapIf_pass (by simpa using aligned), run_loadTable _ _ _ count]

theorem execJtab_past {n : Nat} {fx : List Effect} (count : TableLoad s.landed (s.sreg o.b) 4 n fx) (past : n ≤ (s.sreg o.a).toNat) :
    execJtab o s = .next ((applyAll fx s.landed).ended .c 4 o.w.toNat) := by
  rw [execJtab_counted hr o aligned count, if_pos past, m_pure, run_finish_ended]
  rfl

section
variable {n : Nat} {fx : List Effect} (count : TableLoad s.landed (s.sreg o.b) 4 n fx) (within : (s.sreg o.a).toNat < n)
include count within

theorem execJtab_noEntry (fault : TableFault (applyAll fx s.landed) (s.sreg o.b + 4 + 4 * s.sreg o.a) 4) :
    execJtab o s = .next (onStop
      (.trap { cause := 5, sub := if isCompute s.coreNo then 2 else 5, addr := s.sreg o.b + 4 + 4 * s.sreg o.a, strm := .c }) s) := by
  have focus : (applyAll fx s.landed).focus = s.focus := (tableLoad_focus count).trans (landed_focus s)
  rw [execJtab_counted hr o aligned count, if_neg (Nat.not_le.mpr within), m_bind, run_loadTable_fault _ _ _ fault,
    coreNo_of_focus focus, stream_of_focus focus, hr.1]

variable {d : Nat} {gx : List Effect} (entry : TableLoad (applyAll fx s.landed) (s.sreg o.b + 4 + 4 * s.sreg o.a) 4 d gx)
include entry

theorem execJtab_jumps (even : (s.sreg o.b + (BitVec.ofNat 32 d).signExtend 64).getLsbD 0 = false) : execJtab o s
    = .next ((applyAll gx (applyAll fx s.landed)).endedAt .c (s.sreg o.b + (BitVec.ofNat 32 d).signExtend 64) o.w.toNat) := by
  rw [execJtab_counted hr o aligned count, if_neg (Nat.not_le.mpr within), m_bind, run_loadTable _ _ _ entry, sx, run_jumpTo _ _ even,
    run_finish_endedAt]
  rfl

theorem execJtab_odd (odd : (s.sreg o.b + (BitVec.ofNat 32 d).signExtend 64).getLsbD 0 = true) : execJtab o s
    = .next (onStop (.trap { cause := 4, sub := 0, addr := s.sreg o.b + (BitVec.ofNat 32 d).signExtend 64, strm := .c }) s) := by
  have focus : (applyAll gx (applyAll fx s.landed)).focus = s.focus :=
    (tableLoad_focus entry).trans ((tableLoad_focus count).trans (landed_focus s))
  rw [execJtab_counted hr o aligned count, if_neg (Nat.not_le.mpr within), m_bind, run_loadTable _ _ _ entry, sx, jumpTo, m_bind, odd,
    m_trapIf_true, run_get, run_stop, stream_of_focus focus, hr.1]

end

end

theorem jumpTable_holds : jumpTable := fun o _ hr =>
  ⟨execJtab_misaligned hr o, fun aligned => ⟨execJtab_noTable hr o aligned, fun _ _ count =>
    ⟨execJtab_past hr o aligned count, fun within => ⟨execJtab_noEntry hr o aligned count within, fun _ _ entry =>
      ⟨execJtab_jumps hr o aligned count within entry, execJtab_odd hr o aligned count within entry⟩⟩⟩⟩⟩

/-- Settles O13: the branches, the jumps and JTAB, each with its traps. -/
theorem transferResult : Obligations.TransferResult := ⟨branchResult_holds, jumpResult_holds, jumpTable_holds⟩

end Sys2Proof.Machine

/-! Accesses to NORMAL pages of this package (R92, R93, R101 to R103): what performs at the home slice, by what it gives of memory and of
the issuing strand. -/

namespace Sys2Proof.Machine

/-! ## What an operation gives -/

/-- States that differ in the tables of the caches alone. -/
def OnCaches (s t : State) : Prop := ∃ d u l n, t = { s with dir := d, tlb := u, l1 := l, nextId := n }

/-- What does not read the caches is the same before and after effects on them. -/
theorem OnCaches.same {α : Type} {s t : State} (h : OnCaches s t) (g : State → α)
    (free : ∀ d u l n, g { s with dir := d, tlb := u, l1 := l, nextId := n } = g s) : g t = g s := by
  obtain ⟨d, u, l, n, rfl⟩ := h
  exact free d u l n

theorem OnCaches.gives {s t : State} (h : OnCaches s t) (d : Nat) : Gives d s t := by
  obtain ⟨-, -, -, -, rfl⟩ := h
  exact ⟨rfl, rfl, rfl, rfl, sameBut_refl _ d, rfl⟩

theorem OnCaches.trans {s t u : State} (h : OnCaches s t) (h' : OnCaches t u) : OnCaches s u := by
  obtain ⟨d, v, l, n, rfl⟩ := h'
  obtain ⟨-, -, -, -, rfl⟩ := h
  exact ⟨d, v, l, n, rfl⟩

theorem Gives.trans {d : Nat} {s t u : State} (a : Gives d s t) (b : Gives d t u) : Gives d s u :=
  ⟨b.mem.trans a.mem, b.pmem.trans a.pmem, b.lmem.trans a.lmem, b.dmem.trans a.dmem, sameBut_trans a.me b.me, b.focus.trans a.focus⟩

theorem Gives.six {d : Nat} {s t : State} (h : Gives d s t) : t.six = s.six := congrArg Prod.fst h.focus

/-- After a write of memory, what gives nothing more of memory is a write of it. -/
theorem Gives.write {d : Nat} {s t : State} (h : Gives d s t) (pa n v : Nat) :
    Gives d { s with mem := memWrite s.mem pa n v } { t with mem := memWrite t.mem pa n v } :=
  ⟨congrArg (memWrite · pa n v) h.mem, h.pmem, h.lmem, h.dmem, h.me, h.focus⟩

theorem Gives.sameMemory {d : Nat} {s t : State} (h : Gives d s t) : s.sameMemory t :=
  fun a => ⟨congrArg (memGet · a) h.mem, congrArg (memGet · a) h.pmem, congrArg (memGet · a) h.lmem, congrArg (memGet · a) h.dmem⟩

theorem Leaves.gives {s t : State} (h : Leaves s.six s t) (d : Nat) : Gives d s t := by
  obtain ⟨r, me⟩ := me_leaves h
  exact ⟨h.mem, h.pmem, h.lmem, h.dmem, me ▸ sameBut_res _ r d, h.focus⟩

/-- A record of the issuing strand. -/
theorem strand_gives {s : State} {k d : Nat} (here : k = s.six) {y : Strand} (same : s.me.sameBut y d) :
    Gives d s ((Effect.strand k y).apply s) ∧ ((Effect.strand k y).apply s).me = y := by
  have me : ((Effect.strand k y).apply s).me = y := by rw [here]; exact tblGet_set_same _ _ _ _
  exact ⟨⟨rfl, rfl, rfl, rfl, me.symm ▸ same, rfl⟩, me⟩

/-- Results delivered to registers leave where a reservation was made (R38, R103). -/
theorem give_resAt (h : Held) (rs : List (Nat × Word)) (s : State) (here : h.six = s.six) :
    (applyAll (give h rs s) s).me.resAt = s.me.resAt := by
  have writes (rs : List (Nat × Word)) (y : Strand) : (rs.foldl (fun y r => y.write (.s r.1) (.word r.2)) y).resAt = y.resAt := by
    induction rs generalizing y with
    | nil => rfl
    | cons r rs ih => rw [List.foldl_cons, ih, write_resAt]
  simp only [give, deliver, applyAll_cons, applyAll_nil, here]
  exact (congrArg Strand.resAt (tblGet_set_same _ _ _ _)).trans (writes _ _)

theorem acquireFor_onCaches (h : Held) (s : State) : ∀ e ∈ acquireFor h s, e.onCaches = true := by
  unfold acquireFor
  split
  · exact acquire_onCaches _ s
  · exact fun e he => absurd he List.not_mem_nil

theorem chain_onCaches {fs : List (State → List Effect)} (h : ∀ f ∈ fs, ∀ s, ∀ e ∈ f s, e.onCaches = true) (s : State) :
    OnCaches s (applyAll (chain fs s) s) := applyAll_onCaches (chain_all _ fs s h) s

theorem applyAll_chain_append (fs gs : List (State → List Effect)) (s : State) :
    applyAll (chain (fs ++ gs) s) s = applyAll (chain gs (applyAll (chain fs s) s)) (applyAll (chain fs s) s) := by
  induction fs generalizing s with
  | nil => rfl
  | cons f fs ih => rw [List.cons_append, applyAll_chain_cons, applyAll_chain_cons, ih]

/-- An operation that gives register d a result, and changes neither the reservation nor a frame. -/
structure Answers (d : Nat) (w : Word) (s t : State) : Prop extends Gives d s t where
  value : d ≠ 0 → t.me.readS d = w
  res : t.me.res = s.me.res
  resAt : t.me.resAt = s.me.resAt
  frames : t.frames = s.frames

theorem Answers.frame {d : Nat} {w : Word} {s t : State} (h : Answers d w s t) (i : Nat) : t.frame i = s.frame i := by
  rw [State.frame, State.frame, h.frames]

/-- A result that reaches its register after effects on the caches (R38). -/
theorem chain_give {s : State} {h : Held} (here : h.six = s.six) {fs : List (State → List Effect)}
    (caches : ∀ f ∈ fs, ∀ s, ∀ e ∈ f s, e.onCaches = true) (rs : List (Nat × Word)) {d : Nat} {w : Word}
    (one : rs.filter (fun r => r.1 ≠ 0) = [(d, w)].filter (fun r => r.1 ≠ 0)) :
    Answers d w s (applyAll (chain (fs ++ [give h rs]) s) s) := by
  have read := chain_onCaches caches s
  rw [applyAll_chain_append, applyAll_chain_cons, chain_nil, applyAll_nil]
  generalize applyAll (chain fs s) s = u at read
  have here' : h.six = u.six := here.trans (read.gives d).six.symm
  obtain ⟨result, res, value⟩ := give_one h u here' rs d w one
  exact ⟨(read.gives d).trans result, value, res.trans (read.same (·.me.res) fun _ _ _ _ => rfl),
    (give_resAt h rs u here').trans (read.same (·.me.resAt) fun _ _ _ _ => rfl), read.same State.frames fun _ _ _ _ => rfl⟩

/-- A result at once, after the acquire of an access that has one (R98). -/
theorem acquire_give {s : State} {h : Held} (here : h.six = s.six) (rs : List (Nat × Word)) {d : Nat} {w : Word}
    (one : rs.filter (fun r => r.1 ≠ 0) = [(d, w)].filter (fun r => r.1 ≠ 0)) :
    Answers d w s (applyAll (chain [acquireFor h, give h rs] s) s) :=
  chain_give here (fs := [acquireFor h]) (fun f hf t => by rw [List.mem_singleton.mp hf]; exact acquireFor_onCaches h t) rs one

/-! ## The home slice (R94, R95) -/

/-- The state in which an access that has translated performs: its identity taken, its walk recorded (R247, R255). -/
def State.walked (s : State) (x : Xl) : State := applyAll x.fx (Effect.fresh.apply s)

section
variable {s : State} {va : Word} {need : Need} {x : Xl} (mapped : translate s s.coreNo s.me.dom s.me.sys.pm va need = some x)
include mapped

theorem walked_onCaches : OnCaches s (s.walked x) := by
  obtain ⟨u, t, h⟩ := translate_state mapped
  exact ⟨_, _, _, _, h⟩

theorem walked_l1 : (s.walked x).l1 = s.l1 := by
  obtain ⟨u, t, h⟩ := translate_state mapped
  rw [State.walked, h]
  rfl

end

section
variable {s : State} {op : MemOp} {va : Word} {x : Xl} {rel : Bool} (plainVa : inWindow va = false)
  (mapped : translate s s.coreNo s.me.dom s.me.sys.pm va op.need = some x)
  (first : behindHeld (Effect.fresh.apply s) s.nextId s.me.dom va op.bytes = false) (here : x.pod = false) (memory : x.cls ≠ .device)
  (plain : ∀ d n, op ≠ .persist d n)
include plainVa mapped first here memory plain

/-- What an access to memory of this package does at its home slice, it does after its walk (R94, R95). -/
theorem performOp_ok {es : List Effect}
    (performs : performMem (s.asks op va false rel) s.coreNo s.me.dom va x (s.walked x) = .ok es) :
    ∃ fs, performOp (s.asks op va false rel) (Effect.fresh.apply s) = .ok fs
      ∧ applyAll fs (Effect.fresh.apply s) = applyAll es (s.walked x) := by
  obtain ⟨u, t, h⟩ := translate_state mapped
  refine ⟨x.fx ++ es, ?_, applyAll_append _ _ _⟩
  rw [performOp_here plainVa mapped first here memory plain h rfl, show applyAll x.fx (Effect.fresh.apply s) = s.walked x from rfl, performs]

theorem performOp_trap {c u : Nat}
    (traps : performMem (s.asks op va false rel) s.coreNo s.me.dom va x (s.walked x) = .error (.trap c u)) :
    performOp (s.asks op va false rel) (Effect.fresh.apply s) = .error (.trap c u) := by
  obtain ⟨_, _, h⟩ := translate_state mapped
  rw [performOp_here plainVa mapped first here memory plain h rfl, show applyAll x.fx (Effect.fresh.apply s) = s.walked x from rfl, traps]

end

/-- An access to a NORMAL page of this package that meets no held request. -/
theorem OnNormalPage.performs {s : State} {op : MemOp} {va : Word} {x : Xl} (page : OnNormalPage s va op.need x)
    (first : behindHeld (Effect.fresh.apply s) s.nextId s.me.dom va op.bytes = false) (plain : ∀ d n, op ≠ .persist d n) {es : List Effect}
    (performs : performMem (s.asks op va false false) s.coreNo s.me.dom va x (s.walked x) = .ok es) :
    ∃ fs, performOp (s.asks op va false false) (Effect.fresh.apply s) = .ok fs
      ∧ applyAll fs (Effect.fresh.apply s) = applyAll es (s.walked x) := by
  obtain ⟨plainVa, mapped, normal, here⟩ := page
  exact performOp_ok plainVa mapped first here (by rw [normal]; decide) plain performs

/-! ## Loads -/

/-- A load of a line of which the L1 holds no copy fetches it: its bytes are those in memory (R252, R253). -/
theorem l1Load_miss {s : State} {core asid : Nat} {va : Word} {x : Xl} {n : Nat} (some' : 0 < n)
    (miss : tblGet .empty s.l1 (l1Key core asid va) = .empty) : (l1Load s core asid va x n).1 = bytesSeen s x.cls x.pa n := by
  have words : wordMask (x.pa % 64) n ≠ 0 := wordMask_ne _ n some' (Nat.mod_lt _ (by decide))
  have fetches : ¬(L1Line.empty.pa = x.pa - x.pa % 64 ∧ L1Line.empty.valid &&& wordMask (x.pa % 64) n = wordMask (x.pa % 64) n
      ∧ L1Line.empty.cls = x.cls) := by
    rintro ⟨-, held, -⟩
    exact words (held.symm.trans (BitVec.zero_and ..))
  simp only [l1Load, miss, if_neg fetches]

theorem performMem_load {s : State} {h : Held} {d n : Nat} {sg : Bool} (op : h.op = .load d n sg) (core asid : Nat) (va : Word) {x : Xl}
    (normal : x.cls = .normal) (plain : (s.strand h.six).spec = false) (sound : memCheck s true x.pa n = none) :
    performMem h core asid va x s = .ok (chain [fun _ => (l1Load s core asid va x n).2, acquireFor h,
      give h [(d, extendLoad n sg (l1Load s core asid va x n).1)]] s) := by
  have sync : ¬(x.cls = .sync ∧ syncWaits s h.six x.pa n) := fun c => absurd (normal.symm.trans c.1) (by decide)
  simp only [performMem, op, MemOp.bytes, Bool.not_false, sound, plain, Bool.false_eq_true, if_false, if_neg sync]

/-- Settles O8: the load misses, its fetch is the caches' alone, and the bytes in memory reach d. -/
theorem normalLoad : Obligations.NormalLoad := by
  intro s d n sg va x page some' clear plain miss
  obtain ⟨sound, first⟩ := clear
  have walk := walked_onCaches page.mapped
  obtain ⟨es, performs, after⟩ := page.performs (op := .load d n sg) first (fun _ _ => nofun)
    (performMem_load (h := s.asks (.load d n sg) va false false) rfl s.coreNo s.me.dom va page.normal
      ((walk.same (fun t => (t.strand s.six).spec) fun _ _ _ _ => rfl).trans plain)
      ((walk.same (memCheck · true x.pa n) fun _ _ _ _ => rfl).trans sound))
  have value : (l1Load (s.walked x) s.coreNo s.me.dom va x n).1 = memRead s.mem x.pa n := by
    rw [l1Load_miss some' (by rw [walked_l1 page.mapped, miss]), page.normal, bytesSeen_normal, (walk.gives d).mem]
  have loads : Answers d (extendLoad n sg (memRead s.mem x.pa n)) (s.walked x) _ :=
    chain_give (h := s.asks (.load d n sg) va false false) (s := s.walked x) (walk.gives d).six.symm
      (fs := [fun _ => (l1Load (s.walked x) s.coreNo s.me.dom va x n).2, acquireFor (s.asks (.load d n sg) va false false)])
      (fun f hf t => by
        rcases List.mem_pair.mp hf with rfl | rfl
        · exact l1Load_onCaches _ _ _ _ _ _
        · exact acquireFor_onCaches _ t) _ rfl
  have gives := (walk.gives d).trans loads.toGives
  refine ⟨es, performs, ?_⟩
  rw [after, value]
  exact ⟨loads.value, gives.me, gives.sameMemory⟩

/-! ## Stores -/

section
variable {s : State} {h : Held} (here : h.six = s.six) (d : Nat)

/-- What leaves all but the bytes of a write is the write. -/
theorem Leaves.writes {t : State} {pa n v : Nat} (mem : t.mem = memWrite s.mem pa n v) (l : Leaves s.six s { t with mem := s.mem }) :
    Gives d { s with mem := memWrite s.mem pa n v } t := by
  obtain ⟨-, pmem, lmem, dmem, me, focus⟩ := l.gives d
  exact ⟨mem, pmem, lmem, dmem, me, focus⟩

include here

/-- A store to a NORMAL page changes its bytes, and of the strand nothing but its reservation (R252). -/
theorem ownStore_gives (core asid : Nat) (va : Word) (pa n v : Nat) (unread : readersOf s (wordsOf pa n) = []) :
    Gives d { s with mem := memWrite s.mem pa n v } (applyAll (ownStore h core asid va pa n v s) s) := by
  rw [ownStore, applyAll_chain_cons, applyAll_chain_cons, applyAll_chain_cons, chain_nil, applyAll_nil]
  have owned := l1Write_leaves s.six s (some core) (some (l1Key core asid va)) .normal pa n
  generalize applyAll (l1Write s (some core) (some (l1Key core asid va)) .normal pa n) s = u at owned
  obtain ⟨mem, rest⟩ := memStore_leaves u.six (some h.six) (agentOf core (va.toNat % 2 ^ 48)) pa n v u
    ((readersOf_congr owned.tasks _).trans unread)
  have stored := ((owned.gives d).write pa n v).trans (rest.writes d mem)
  generalize applyAll (memStore (some h.six) (agentOf core (va.toNat % 2 ^ 48)) pa n v u) u = t at stored
  rw [here.trans stored.six.symm]
  exact stored.trans (notePod_gives t d)

/-- A write performed at the home slice changes its bytes, and of the strand nothing but its reservation (R252, R103). -/
theorem homeWrite_gives (asid : Nat) (va : Word) (pa n v : Nat) (unread : readersOf s (wordsOf pa n) = []) :
    Gives d { s with mem := memWrite s.mem pa n v } (applyAll (homeWrite h asid va pa n v s) s) := by
  obtain ⟨mem, pmem, lmem, dmem, me, focus⟩ := homeWrite_ok s h here asid va pa n v d unread
  exact ⟨mem, pmem, lmem, dmem, me, focus⟩

end

theorem performMem_store {s : State} {h : Held} {n : Nat} {v : Word} (op : h.op = .store n v) (core asid : Nat) (va : Word) {x : Xl}
    (normal : x.cls = .normal) (plain : (s.strand h.six).spec = false) (sound : memCheck s false x.pa n = none) :
    performMem h core asid va x s = .ok (ownStore h core asid va x.pa n v.toNat s) := by
  simp only [performMem, op, MemOp.bytes, Bool.not_true, sound, plain, normal, Bool.false_eq_true, if_false]

/-- Settles O9: the store takes ownership of its words and writes its bytes. -/
theorem normalStore : Obligations.NormalStore := by
  intro s n v va x page clear plain unread
  obtain ⟨sound, first⟩ := clear
  have walk := walked_onCaches page.mapped
  obtain ⟨es, performs, after⟩ := page.performs (op := .store n v) first (fun _ _ => nofun)
    (performMem_store (h := s.asks (.store n v) va false false) rfl s.coreNo s.me.dom va page.normal
      ((walk.same (fun t => (t.strand s.six).spec) fun _ _ _ _ => rfl).trans plain)
      ((walk.same (memCheck · false x.pa n) fun _ _ _ _ => rfl).trans sound))
  have stores := ((walk.gives 0).write x.pa n v.toNat).trans
    (ownStore_gives (h := s.asks (.store n v) va false false) (walk.gives 0).six.symm 0 s.coreNo s.me.dom va x.pa n v.toNat
      ((walk.same (readersOf · (wordsOf x.pa n)) fun _ _ _ _ => rfl).trans unread))
  refine ⟨es, performs, ?_⟩
  rw [after]
  exact ⟨fun a => stores.mem ▸ memGet_memWrite _ _ _ _ a, stores.pmem, stores.lmem, stores.dmem, stores.me⟩

/-! ## Atomics -/

theorem homeOrSync_normal {s : State} {h : Held} (core asid : Nat) (va : Word) {x : Xl} (normal : x.cls = .normal) :
    homeOrSync h core asid va x s = .ok (homeOp h asid va x.pa s) := by
  have sync : ¬(x.cls = .sync ∧ syncWaits s h.six x.pa h.op.bytes) := fun c => absurd (normal.symm.trans c.1) (by decide)
  rw [homeOrSync, if_neg sync, normal]
  rfl

theorem performMem_atomic {s : State} {h : Held} {d : Nat} {a : AtomicArgs} (op : h.op = .atomic d a) (core asid : Nat) (va : Word) {x : Xl}
    (normal : x.cls = .normal) (sound : memCheck s true x.pa a.size = none) :
    performMem h core asid va x s = .ok (homeOp h asid va x.pa s) := by
  simp only [performMem, op, MemOp.bytes, Bool.not_false, sound, normal]
  exact homeOrSync_normal core asid va normal

/-- What an atomic of one register gives it (R101, R102). -/
theorem atomic_dests {d : Nat} {a : AtomicArgs} (single : a.op ≠ 13) (old : Nat) :
    (((MemOp.atomic d a).dests.zip (atomicOld a old)).filter (fun _ => d ≠ 0)).filter (fun r => r.1 ≠ 0)
      = [(d, extendLoad a.size (decide (a.op ≠ 6 ∧ a.op ≠ 7 ∧ a.op ≠ 10)) old)].filter (fun r => r.1 ≠ 0) := by
  rw [MemOp.dests, if_neg single, atomicOld, if_neg single]
  by_cases zero : d = 0 <;> simp [zero]

/-- An atomic performs (R101): its write, then its result. -/
theorem homeOp_atomic {h : Held} {d : Nat} {a : AtomicArgs} (op : h.op = .atomic d a) (asid : Nat) (va : Word) (pa : Nat) (s : State) :
    homeOp h asid va pa s = chain [homeWrite h asid va pa a.size (atomicNew a (memRead s.mem pa a.size)), acquireFor h,
      give h (((MemOp.atomic d a).dests.zip (atomicOld a (memRead s.mem pa a.size))).filter (fun _ => d ≠ 0))] s := by
  simp only [homeOp, op]

/-- Settles O10: the write of the new value, and the old one to d. -/
theorem normalAtomic : Obligations.NormalAtomic := by
  intro s d a va x page _ single clear unread
  obtain ⟨sound, first⟩ := clear
  have walk := walked_onCaches page.mapped
  obtain ⟨es, performs, after⟩ := page.performs (op := .atomic d a) first (fun _ _ => nofun)
    (performMem_atomic (h := s.asks (.atomic d a) va false false) rfl s.coreNo s.me.dom va page.normal
      ((walk.same (memCheck · true x.pa a.size) fun _ _ _ _ => rfl).trans sound))
  have stores := ((walk.gives d).write x.pa a.size (atomicNew a (memRead s.mem x.pa a.size))).trans
    (homeWrite_gives (h := s.asks (.atomic d a) va false false) (walk.gives d).six.symm d s.me.dom va x.pa a.size _
      ((walk.same (readersOf · (wordsOf x.pa a.size)) fun _ _ _ _ => rfl).trans unread))
  have result := acquire_give (h := s.asks (.atomic d a) va false false) stores.six.symm _
    (atomic_dests (d := d) single (memRead s.mem x.pa a.size))
  have gives := stores.trans result.toGives
  refine ⟨es, performs, ?_⟩
  rw [after, homeOp_atomic rfl, applyAll_chain_cons, (walk.gives d).mem]
  exact ⟨result.value, fun b => gives.mem ▸ memGet_memWrite _ _ _ _ b, gives.me⟩

/-! ## LR and SC (R103) -/

theorem performMem_lr {s : State} {h : Held} {d n : Nat} (op : h.op = .lr d n) (core asid : Nat) (va : Word) {x : Xl}
    (normal : x.cls = .normal) (sound : memCheck s true x.pa n = none) :
    performMem h core asid va x s = .ok (chain
      [shareLine (agentOf core (va.toNat % 2 ^ 48)) x.pa, l1Read core x.pa n,
       fun t => [.strand h.six { t.strand h.six with res := some (x.pa / 64, t.cycle), resAt := agentOf core (va.toNat % 2 ^ 48) }],
       acquireFor h, give h [(d, extendLoad n true (memRead s.mem x.pa n))]] s) := by
  have sync : ¬(x.cls = .sync ∧ syncWaits s h.six x.pa n) := fun c => absurd (normal.symm.trans c.1) (by decide)
  simp only [performMem, op, MemOp.bytes, Bool.not_false, sound, normal]
  exact if_neg (normal ▸ sync)

section
variable {s : State} {h : Held} (here : h.six = s.six)
include here

/-- A load-reserve leaves its reservation at its directory agent, and its bytes in its register. -/
theorem loadReserve_gives (agent core pa n d : Nat) (w : Word) :
    let t := applyAll (chain
      [shareLine agent pa, l1Read core pa n,
       fun t => [.strand h.six { t.strand h.six with res := some (pa / 64, t.cycle), resAt := agent }],
       acquireFor h, give h [(d, w)]] s) s
    Gives d s t ∧ (d ≠ 0 → t.me.readS d = w) ∧ t.me.res = some (pa / 64, s.cycle) ∧ t.me.resAt = agent := by
  have shared : OnCaches s _ := applyAll_onCaches (shareLine_onCaches agent pa s) s
  dsimp only
  rw [applyAll_chain_cons]
  generalize applyAll (shareLine agent pa s) s = u at shared
  have read : OnCaches s (applyAll (l1Read core pa n u) u) := shared.trans (applyAll_onCaches (l1Read_onCaches core pa n u) u)
  rw [applyAll_chain_cons, applyAll_chain_cons]
  generalize applyAll (l1Read core pa n u) u = v at read
  have here' : h.six = v.six := here.trans (read.gives d).six.symm
  have me : v.strand h.six = v.me := congrArg v.strand here'
  obtain ⟨reserved, now⟩ := strand_gives (d := d) here' (y := { v.me with res := some (pa / 64, v.cycle), resAt := agent })
    (sameBut_of rfl rfl rfl rfl rfl rfl)
  have result := acquire_give (here'.trans reserved.six.symm) [(d, w)] rfl
  rw [me, applyAll_cons, applyAll_nil]
  exact ⟨((read.gives d).trans reserved).trans result.toGives, result.value,
    (result.res.trans (congrArg Strand.res now)).trans (by rw [read.same State.cycle fun _ _ _ _ => rfl]),
    result.resAt.trans (congrArg Strand.resAt now)⟩

end

/-- LR (R103). -/
theorem loadReserve_holds (s : State) (d n : Nat) (va : Word) (x : Xl) (page : OnNormalPage s va (MemOp.lr d n).need x)
    (clear : s.clearFor true va x n) :
    ∃ es, performOp (s.asks (.lr d n) va false false) (Effect.fresh.apply s) = .ok es
      ∧ (d ≠ 0 → (applyAll es (Effect.fresh.apply s)).me.readS d = extendLoad n true (memRead s.mem x.pa n))
      ∧ (applyAll es (Effect.fresh.apply s)).me.res = some (x.pa / 64, s.cycle)
      ∧ (applyAll es (Effect.fresh.apply s)).me.resAt = agentOf s.coreNo (va.toNat % 2 ^ 48)
      ∧ s.me.sameBut (applyAll es (Effect.fresh.apply s)).me d ∧ s.sameMemory (applyAll es (Effect.fresh.apply s)) := by
  obtain ⟨sound, first⟩ := clear
  have walk := walked_onCaches page.mapped
  obtain ⟨es, performs, after⟩ := page.performs (op := .lr d n) first (fun _ _ => nofun)
    (performMem_lr (h := s.asks (.lr d n) va false false) rfl s.coreNo s.me.dom va page.normal
      ((walk.same (memCheck · true x.pa n) fun _ _ _ _ => rfl).trans sound))
  obtain ⟨reads, value, res, resAt⟩ := loadReserve_gives (h := s.asks (.lr d n) va false false) (walk.gives d).six.symm
    (agentOf s.coreNo (va.toNat % 2 ^ 48)) s.coreNo x.pa n d (extendLoad n true (memRead s.mem x.pa n))
  have gives := (walk.gives d).trans reads
  rw [(walk.gives d).mem] at after
  refine ⟨es, performs, ?_⟩
  rw [after]
  exact ⟨value, res.trans (by rw [walk.same State.cycle fun _ _ _ _ => rfl]), resAt, gives.me, gives.sameMemory⟩

/-- Effects of which those that name a strand all write one record of it: the strand is that record, where there is one. -/
theorem applyAll_strand_named {es : List Effect} {six : Nat} {y : Strand} (only : ∀ e ∈ es, e.names six = true → e = .strand six y)
    (s : State) (named : ∃ e ∈ es, e.names six = true) : (applyAll es s).strand six = y := by
  induction es generalizing s with
  | nil => exact absurd named (by simp)
  | cons e es ih =>
    have only' : ∀ e' ∈ es, e'.names six = true → e' = .strand six y := fun e' he => only e' (List.mem_cons_of_mem _ he)
    by_cases later : ∃ e' ∈ es, e'.names six = true
    · exact ih only' _ later
    · have last : e.names six = true := by
        obtain ⟨e', he, names⟩ := named
        rcases List.mem_cons.mp he with rfl | he
        · exact names
        · exact absurd ⟨e', he, names⟩ later
      rw [applyAll_cons, applyAll_strandOf es _ six fun e' he => Bool.eq_false_iff.mpr fun names => later ⟨e', he, names⟩,
        only e (List.mem_cons_self ..) last]
      exact tblGet_set_same _ _ _ _

/-- A key that a table does not answer with its default stands in it. -/
theorem exists_mem_of_tblGet_ne {α : Type} {d : α} {t : Tbl α} {k : Nat} (h : tblGet d t k ≠ d) : ∃ p ∈ t, p.1 = k := by
  induction t with
  | nil => exact absurd rfl h
  | cons p r ih =>
    by_cases first : p.1 = k
    · exact ⟨p, List.mem_cons_self .., first⟩
    · obtain ⟨q, hq, key⟩ := ih (by rwa [tblGet, if_neg first] at h)
      exact ⟨q, List.mem_cons_of_mem _ hq, key⟩

/-- Whether a line that goes through a directory agent takes a strand's reservation: it covers the line, and was made at another agent
(R103, R256). -/
def State.losesLine (s : State) (six agent pa : Nat) : Prop :=
  (∃ t, (s.strand six).res = some (pa / 64, t)) ∧ (s.strand six).resAt ≠ agent

section
variable {s : State} {six agent pa : Nat}

/-- The records of a strand among the effects of taking a line. -/
theorem takeLine_names {e : Effect} (he : e ∈ takeLine agent pa s) (names : e.names six = true) :
    s.losesLine six agent pa ∧ e = .strand six { s.strand six with res := none } := by
  rcases List.mem_append.mp he with he | he
  · obtain ⟨p, -, record⟩ := List.mem_filterMap.mp he
    dsimp only at record
    split at record
    · next g t res =>
      split at record
      · next covers =>
        obtain rfl : e = _ := (Option.some.inj record).symm
        obtain rfl : p.1 = six := by simpa [Effect.names] using names
        exact ⟨⟨⟨t, by rw [res, covers.1]⟩, covers.2⟩, rfl⟩
      · cases record
    · cases record
  · rw [List.mem_singleton.mp he] at names
    cases names

theorem takeLine_strand_lost (lost : s.losesLine six agent pa) :
    (applyAll (takeLine agent pa s) s).strand six = { s.strand six with res := none } := by
  refine applyAll_strand_named (fun e he names => (takeLine_names he names).2) s ?_
  obtain ⟨⟨t, res⟩, elsewhere⟩ := lost
  have present : ∃ p ∈ s.strands, p.1 = six := by
    refine exists_mem_of_tblGet_ne (d := .free) fun free => ?_
    have : (s.strand six).res = none := congrArg Strand.res free
    rw [res] at this
    cases this
  obtain ⟨p, hp, rfl⟩ := present
  refine ⟨.strand p.1 { s.strand p.1 with res := none }, List.mem_append_left _ (List.mem_filterMap.mpr ⟨p, hp, ?_⟩), ?_⟩
  · simp only [res, true_and]
    rw [if_pos elsewhere]
  · simp [Effect.names]

theorem takeLine_strand_kept (kept : ¬s.losesLine six agent pa) : (applyAll (takeLine agent pa s) s).strand six = s.strand six :=
  applyAll_strandOf _ s six fun _ he => Bool.eq_false_iff.mpr fun names => kept (takeLine_names he names).1

theorem takeLine_effects : ∀ e ∈ takeLine agent pa s, (∃ k y, e = .strand k y) ∨ ∃ k d, e = .dir k d := by
  intro e he
  rcases List.mem_append.mp he with he | he
  · obtain ⟨p, -, record⟩ := List.mem_filterMap.mp he
    dsimp only at record
    split at record
    · split at record
      · exact .inl ⟨_, _, (Option.some.inj record).symm⟩
      · cases record
    · cases record
  · exact .inr ⟨_, _, List.mem_singleton.mp he⟩

/-- Taking a line takes no time. -/
theorem takeLine_cycle : (applyAll (takeLine agent pa s) s).cycle = s.cycle := by
  have still (es : List Effect) (h : ∀ e ∈ es, (∃ k y, e = .strand k y) ∨ ∃ k d, e = .dir k d) (t : State) :
      (applyAll es t).cycle = t.cycle := by
    induction es generalizing t with
    | nil => rfl
    | cons e es ih =>
      rw [applyAll_cons, ih (fun e' he => h e' (List.mem_cons_of_mem _ he))]
      rcases h e (List.mem_cons_self ..) with ⟨k, y, rfl⟩ | ⟨k, d, rfl⟩ <;> rfl
  exact still _ takeLine_effects s

/-- An SC finds its reservation exactly where it holds one on its granule, in time, made at the agent it goes through (R103, R255, R256). -/
theorem reserved_takeLine : reserved (applyAll (takeLine agent pa s) s) six pa = true
    ↔ (s.strand six).resAt = agent ∧ ∃ t, (s.strand six).res = some (pa / 64, t) ∧ s.cycle < t + 4096 := by
  by_cases lost : s.losesLine six agent pa
  · rw [reserved, takeLine_strand_lost lost]
    exact ⟨nofun, fun held => absurd held.1 lost.2⟩
  · rw [reserved, takeLine_strand_kept lost, takeLine_cycle]
    cases res : (s.strand six).res with
    | none => exact ⟨nofun, fun ⟨_, _, held, _⟩ => nomatch held⟩
    | some r =>
      obtain ⟨g, t⟩ := r
      simp only [decide_eq_true_eq, Option.some.injEq, Prod.mk.injEq]
      constructor
      · rintro ⟨rfl, young⟩
        exact ⟨not_not.mp fun elsewhere => lost ⟨⟨t, res⟩, elsewhere⟩, t, ⟨rfl, rfl⟩, young⟩
      · rintro ⟨-, _, ⟨rfl, rfl⟩, young⟩
        exact ⟨rfl, young⟩

end

theorem performMem_sc {s : State} {h : Held} {d n : Nat} {v : Word} (op : h.op = .sc d n v) (core asid : Nat) (va : Word) {x : Xl}
    (normal : x.cls = .normal) (sound : memCheck s false x.pa n = none) :
    performMem h core asid va x s = .ok (homeOp h asid va x.pa s) := by
  simp only [performMem, op, MemOp.bytes, Bool.not_true, sound, normal]
  exact homeOrSync_normal core asid va normal

/-- An SC, by whether it finds its reservation (R103): its line, its write, the end of the reservation, its answer. -/
def scEffects (h : Held) (asid : Nat) (va : Word) (pa d n : Nat) (v : Word) (found : Bool) (s : State) : List Effect :=
  chain
    [takeLine (agentOf (coreOf h.six) (va.toNat % 2 ^ 48)) pa,
     fun s => if found then homeWrite h asid va pa n (v.toNat % 2 ^ (8 * n)) s else [],
     fun s => [.strand h.six { s.strand h.six with res := none }],
     acquireFor h, give h [(d, if found then 0 else 1)]] s

theorem homeOp_sc {s : State} {h : Held} {d n : Nat} {v : Word} (op : h.op = .sc d n v) (asid : Nat) {va : Word} {pa : Nat} {found : Bool}
    (finds : reserved (applyAll (takeLine (agentOf (coreOf h.six) (va.toNat % 2 ^ 48)) pa s) s) h.six pa = found) :
    homeOp h asid va pa s = scEffects h asid va pa d n v found s := by
  simp only [homeOp, op, finds]
  rfl

section
variable {s : State} {h : Held} (here : h.six = s.six) (d : Nat)
include here

/-- The end of a reservation, and an answer. -/
theorem endReservation_gives (w : Word) :
    let t := applyAll (chain [fun s => [.strand h.six { s.strand h.six with res := none }], acquireFor h, give h [(d, w)]] s) s
    Gives d s t ∧ (d ≠ 0 → t.me.readS d = w) ∧ t.me.res = none := by
  have me : s.strand h.six = s.me := congrArg s.strand here
  obtain ⟨ended, now⟩ := strand_gives here (sameBut_res s.me none d)
  have result := acquire_give (here.trans ended.six.symm) [(d, w)] rfl
  dsimp only
  rw [applyAll_chain_cons, me, applyAll_cons, applyAll_nil]
  exact ⟨ended.trans result.toGives, result.value, result.res.trans (congrArg Strand.res now)⟩

variable (asid : Nat) (va : Word) (pa n : Nat) (v : Word)

theorem scEffects_found (unread : readersOf s (wordsOf pa n) = []) :
    let t := applyAll (scEffects h asid va pa d n v true s) s
    Gives d { s with mem := memWrite s.mem pa n (v.toNat % 2 ^ (8 * n)) } t ∧ (d ≠ 0 → t.me.readS d = 0) ∧ t.me.res = none := by
  have taken := takeLine_leaves s.six (agentOf (coreOf h.six) (va.toNat % 2 ^ 48)) pa s
  dsimp only
  rw [scEffects, applyAll_chain_cons, applyAll_chain_cons]
  generalize applyAll (takeLine (agentOf (coreOf h.six) (va.toNat % 2 ^ 48)) pa s) s = u at taken
  have written := ((taken.gives d).write pa n (v.toNat % 2 ^ (8 * n))).trans
    (homeWrite_gives (here.trans (taken.gives d).six.symm) d asid va pa n _ ((readersOf_congr taken.tasks _).trans unread))
  obtain ⟨ended, value, res⟩ := endReservation_gives (here.trans written.six.symm) d 0
  exact ⟨written.trans ended, value, res⟩

theorem scEffects_lost :
    let t := applyAll (scEffects h asid va pa d n v false s) s
    Gives d s t ∧ (d ≠ 0 → t.me.readS d = 1) ∧ t.me.res = none := by
  have taken := (takeLine_leaves s.six (agentOf (coreOf h.six) (va.toNat % 2 ^ 48)) pa s).gives d
  obtain ⟨ended, value, res⟩ := endReservation_gives (here.trans taken.six.symm) d 1
  dsimp only
  rw [scEffects, applyAll_chain_cons, applyAll_chain_cons]
  exact ⟨taken.trans ended, value, res⟩

end

/-- Settles O11: LR leaves its reservation; SC finds it, or not, once it has taken its line. -/
theorem reservation : Obligations.Reservation := by
  refine ⟨loadReserve_holds, fun s d n v va x page clear unread => ?_⟩
  intro holds
  obtain ⟨sound, first⟩ := clear
  have walk := walked_onCaches page.mapped
  obtain ⟨es, performs, after⟩ := page.performs (op := .sc d n v) first (fun _ _ => nofun)
    (performMem_sc (h := s.asks (.sc d n v) va false false) rfl s.coreNo s.me.dom va page.normal
      ((walk.same (memCheck · false x.pa n) fun _ _ _ _ => rfl).trans sound))
  have finds : reserved (applyAll (takeLine (agentOf s.coreNo (va.toNat % 2 ^ 48)) x.pa (s.walked x)) (s.walked x)) s.six x.pa = true
      ↔ holds := by
    rw [reserved_takeLine, walk.same (·.strand s.six) fun _ _ _ _ => rfl, walk.same State.cycle fun _ _ _ _ => rfl]
    rfl
  refine ⟨es, performs, ?_⟩
  rw [after]
  by_cases held : holds
  · rw [homeOp_sc (h := s.asks (.sc d n v) va false false) rfl s.me.dom (finds.mpr held)]
    obtain ⟨stores, value, res⟩ := scEffects_found (h := s.asks (.sc d n v) va false false) (walk.gives d).six.symm d s.me.dom va x.pa n v
      ((walk.same (readersOf · (wordsOf x.pa n)) fun _ _ _ _ => rfl).trans unread)
    have gives := ((walk.gives d).write x.pa n (v.toNat % 2 ^ (8 * n))).trans stores
    exact ⟨res, gives.me, fun _ => ⟨value, fun b => gives.mem ▸ memGet_memWrite _ _ _ _ b⟩, fun lost => absurd held lost⟩
  · rw [homeOp_sc (h := s.asks (.sc d n v) va false false) rfl s.me.dom (Bool.eq_false_iff.mpr (mt finds.mp held))]
    obtain ⟨answers, value, res⟩ := scEffects_lost (h := s.asks (.sc d n v) va false false) (walk.gives d).six.symm d s.me.dom va x.pa n v
    have gives := (walk.gives d).trans answers
    exact ⟨res, gives.me, fun h => absurd h held, fun _ => ⟨value, gives.sameMemory⟩⟩

end Sys2Proof.Machine

/-! APPEND and SEALED pages (R96, R104 to R106): the traps of the classes, and what APPND, TAILQ and SEAL do. -/

namespace Sys2Proof.Machine

/-! ## Which accesses trap -/

/-- The class of the page decides, before the bytes are looked at (R96). -/
theorem pageClassTraps_holds : pageClassTraps := by
  intro s op va x plainVa mapped here first
  have walk := walked_onCaches mapped
  refine ⟨fun sealed' ops => ?_, fun append ops => ?_, fun general ops => ?_⟩
  · have memory : x.cls ≠ .device := by rw [sealed']; decide
    rcases ops with ⟨n, v, rfl⟩ | ⟨d, a, rfl⟩ | ⟨d, n, rfl⟩ | ⟨d, n, v, rfl⟩ | ⟨d, n, v, rfl⟩
    all_goals exact performOp_trap plainVa mapped first here memory (fun _ _ => nofun) (by simp only [performMem, State.asks, sealed'])
  · have memory : x.cls ≠ .device := by rw [append]; decide
    rcases ops with ⟨d, a, rfl⟩ | ⟨d, n, rfl⟩ | ⟨d, n, v, rfl⟩ | ⟨n, v, i, rfl, frame, off⟩
    case inr.inr.inr =>
      have off' : x.pa % 65536 ≠ ((s.walked x).frame ((frameIndex (s.walked x).cfg x.pa).getD 0)).tail := by
        rwa [walk.same (fun t => t.frame ((frameIndex t.cfg x.pa).getD 0)) fun _ _ _ _ => rfl, frame]
      exact performOp_trap plainVa mapped first here memory (fun _ _ => nofun)
        (by simp only [performMem, State.asks, append, if_pos off'])
    all_goals exact performOp_trap plainVa mapped first here memory (fun _ _ => nofun) (by simp only [performMem, State.asks, append])
  · rcases general with normal | sync
    · have memory : x.cls ≠ .device := by rw [normal]; decide
      rcases ops with ⟨d, n, v, rfl⟩ | ⟨d, rfl⟩ | ⟨d, rfl⟩
      all_goals exact performOp_trap plainVa mapped first here memory (fun _ _ => nofun) (by simp only [performMem, State.asks, normal])
    · have memory : x.cls ≠ .device := by rw [sync]; decide
      rcases ops with ⟨d, n, v, rfl⟩ | ⟨d, rfl⟩ | ⟨d, rfl⟩
      all_goals exact performOp_trap plainVa mapped first here memory (fun _ _ => nofun) (by simp only [performMem, State.asks, sync])

/-! ## The words of an append -/

theorem mem_wordsOf {a n w : Nat} : w ∈ wordsOf a n ↔ a / 4 ≤ w ∧ w < (a + n + 3) / 4 := by
  simp only [wordsOf, List.mem_map, List.mem_range]
  constructor
  · rintro ⟨i, hi, rfl⟩
    omega
  · rintro ⟨low, high⟩
    exact ⟨w - a / 4, by omega, by omega⟩

/-- No task has read words of which no task has read more. -/
theorem readersOf_subset {s : State} {ws vs : List Nat} (sub : ∀ w ∈ ws, w ∈ vs) (unread : readersOf s vs = []) : readersOf s ws = [] := by
  rw [readersOf, List.map_eq_nil_iff, List.filter_eq_nil_iff] at unread ⊢
  intro p hp reads
  obtain ⟨r, hr, held⟩ := List.any_eq_true.mp reads
  exact unread p hp (List.any_eq_true.mpr ⟨r, hr, List.contains_iff_mem.mpr (sub _ (List.contains_iff_mem.mp held))⟩)

/-- The bytes of a value are those of its low part. -/
theorem byte_low {k n : Nat} (h : k < n) (v : Nat) : BitVec.ofNat 8 (v % 2 ^ (8 * n) / 256 ^ k) = BitVec.ofNat 8 (v / 256 ^ k) := by
  have split : 2 ^ (8 * n) = 256 ^ k * (256 * 256 ^ (n - k - 1)) := by
    rw [Nat.pow_mul, ← Nat.pow_succ', ← Nat.pow_add]
    congr 1
    omega
  refine BitVec.eq_of_toNat_eq ?_
  rw [BitVec.toNat_ofNat, BitVec.toNat_ofNat, split, Nat.mod_mul_right_div_self]
  exact Nat.mod_mod_of_dvd _ ⟨_, rfl⟩

/-- The tail rounded up to a size (R104). -/
theorem le_roundUp (tail : Nat) {n : Nat} (size : 0 < n) : tail ≤ (tail + n - 1) / n * n := by
  have := Nat.div_add_mod (tail + n - 1) n
  have := Nat.mod_lt (tail + n - 1) size
  rw [Nat.mul_comm]
  omega

/-! ## What the instructions of an APPEND page do -/

section
variable {s : State} {h : Held} {x : Xl} {i : Nat} (core asid : Nat) (va : Word) (frame : frameIndex s.cfg x.pa = some i)
include frame

theorem performMem_tailq_append {d : Nat} (op : h.op = .tailq d) (append : x.cls = .append) : performMem h core asid va x s
    = .ok (chain [acquireFor h, give h [(d, BitVec.ofNat 64 (s.frame i).tail)]] s) := by
  simp only [performMem, op, append, frame, Option.getD_some]

theorem performMem_tailq_sealed {d : Nat} (op : h.op = .tailq d) (sealed' : x.cls = .sealed) : performMem h core asid va x s
    = .ok (chain [acquire core, give h [(d, BitVec.ofNat 64 (2 ^ 63 + (s.frame i).tail))]] s) := by
  simp only [performMem, op, sealed', frame, Option.getD_some]

theorem performMem_seal {d : Nat} (op : h.op = .seal d) (append : x.cls = .append) : performMem h core asid va x s
    = .ok (chain [fun _ => [.frame i { s.frame i with st := .sealed }], notePod h.six,
        give h [(d, BitVec.ofNat 64 (s.frame i).tail)]] s) := by
  simp only [performMem, op, append, frame, Option.getD_some]

section
variable {d n : Nat} {v : Word} (op : h.op = .appnd d n v) (append : x.cls = .append) (sound : memCheck s false x.pa n = none)
include op append sound

theorem performMem_appnd_full (full : 65536 < ((s.frame i).tail + n - 1) / n * n + n) : performMem h core asid va x s
    = .ok (chain [acquireFor h, give h [(d, BitVec.allOnes 64)]] s) := by
  simp only [performMem, op, append, frame, Option.getD_some, MemOp.bytes, Bool.not_true, sound, if_pos full]

theorem performMem_appnd_fits (fits : ((s.frame i).tail + n - 1) / n * n + n ≤ 65536) : performMem h core asid va x s
    = .ok (appendAt h asid va x.pa (((s.frame i).tail + n - 1) / n * n) n v
        [(d, BitVec.ofNat 64 (((s.frame i).tail + n - 1) / n * n))] s) := by
  simp only [performMem, op, append, frame, Option.getD_some, MemOp.bytes, Bool.not_true, sound, if_neg (Nat.not_lt.mpr fits)]

end

end

/-- A write in the frame table, of which no memory and no strand knows. -/
theorem frame_gives (s : State) (i d : Nat) (g : FrameEnt) :
    Gives d s ((Effect.frame i g).apply s) ∧ ((Effect.frame i g).apply s).frame i = g :=
  ⟨⟨rfl, rfl, rfl, rfl, sameBut_refl _ d, rfl⟩, tblGet_set_same _ _ _ _⟩

theorem notePod_frames (six : Nat) (s : State) : (applyAll (notePod six s) s).frames = s.frames := by
  unfold notePod
  split <;> rfl

/-- SEAL (R106): its frame is SEALED, and its register takes the tail. -/
theorem seal_gives {s : State} {h : Held} (here : h.six = s.six) (i d : Nat) (g : FrameEnt) (w : Word) :
    let t := applyAll (chain [fun _ => [.frame i g], notePod h.six, give h [(d, w)]] s) s
    Gives d s t ∧ (d ≠ 0 → t.me.readS d = w) ∧ t.frame i = g := by
  obtain ⟨sealed', now⟩ := frame_gives s i d g
  dsimp only
  rw [applyAll_chain_cons, applyAll_chain_cons, applyAll_cons, applyAll_nil]
  generalize (Effect.frame i g).apply s = u at sealed' now
  have here' : h.six = u.six := here.trans sealed'.six.symm
  have noted := notePod_gives u d
  have frames := notePod_frames u.six u
  rw [here']
  generalize applyAll (notePod u.six u) u = w' at noted frames
  have result : Answers d w w' (applyAll (chain [give h [(d, w)]] w') w') :=
    chain_give (here'.trans noted.six.symm) (fs := []) (fun _ hf => absurd hf List.not_mem_nil) [(d, w)] rfl
  refine ⟨(sealed'.trans noted).trans result.toGives, result.value, (result.frame i).trans ?_⟩
  rw [State.frame, frames]
  exact now

/-- The skipped bytes of an append, written as zero (R104). -/
theorem zeroFill_gives {s : State} {h : Held} (d : Nat) (core : Option Nat) (agent page tail t : Nat)
    (unread : readersOf s (wordsOf (page + tail) (t - tail)) = []) :
    let u := applyAll (if tail < t then homeStore (some h.six) core agent (page + tail) (t - tail) 0 s else []) s
    Gives d { s with mem := memWrite s.mem (page + tail) (t - tail) 0 } u ∧ u.tasks = s.tasks := by
  by_cases skips : tail < t
  · obtain ⟨mem, rest⟩ := homeStore_leaves s.six (some h.six) core agent (page + tail) (t - tail) 0 s unread
    simp only [if_pos skips]
    exact ⟨rest.writes d mem, rest.tasks⟩
  · rw [if_neg skips, Nat.sub_eq_zero_of_le (Nat.not_lt.mp skips)]
    exact ⟨⟨rfl, rfl, rfl, rfl, sameBut_refl _ d, rfl⟩, rfl⟩

/-- The memory of an append of n bytes at offset t of a page with a tail (R104, R260). -/
def appendedMem (m : Memory) (page tail t n : Nat) (v : Word) : Memory :=
  memWrite (memWrite m (page + tail) (t - tail) 0) (page + t) n (v.toNat % 2 ^ (8 * n))

theorem memGet_appendedMem (m : Memory) {page tail t : Nat} (n : Nat) (v : Word) (forward : tail ≤ t) (a : Nat) :
    memGet (appendedMem m page tail t n v) a
      = if page + t ≤ a ∧ a < page + t + n then BitVec.ofNat 8 (v.toNat / 256 ^ (a - (page + t)))
        else if page + tail ≤ a ∧ a < page + t then 0 else memGet m a := by
  rw [appendedMem, memGet_memWrite, memGet_memWrite, show page + tail + (t - tail) = page + t by omega, Nat.zero_div]
  split
  · next inside => exact byte_low (by omega) _
  · rfl

/-- An append (R104, R260): the bytes, the tail past them, and its answer. -/
theorem appendAt_gives {s : State} {h : Held} (here : h.six = s.six) (asid : Nat) (va : Word) {pa i : Nat}
    (frame : frameIndex s.cfg pa = some i) (t n d : Nat) (v w : Word)
    (forward : (s.frame i).tail ≤ t)
    (unread : readersOf s (wordsOf (pa / 65536 * 65536 + (s.frame i).tail) (t + n - (s.frame i).tail)) = []) :
    let u := applyAll (appendAt h asid va pa t n v [(d, w)] s) s
    Gives d { s with mem := appendedMem s.mem (pa / 65536 * 65536) (s.frame i).tail t n v } u
      ∧ (d ≠ 0 → u.me.readS d = w) ∧ u.frame i = { s.frame i with tail := t + n } := by
  dsimp only
  rw [appendAt, frame, Option.getD_some]
  generalize s.frame i = f at forward unread
  generalize pa / 65536 * 65536 = page at unread
  obtain ⟨filled, tasks⟩ := zeroFill_gives (h := h) d (some (coreOf h.six)) (agentOf (coreOf h.six) (va.toNat % 2 ^ 48)) page f.tail t
    (readersOf_subset (fun k hk => by rw [mem_wordsOf] at hk ⊢; omega) unread)
  rw [applyAll_chain_cons, applyAll_chain_cons, applyAll_chain_cons, applyAll_cons, applyAll_nil]
  generalize applyAll (if f.tail < t then homeStore (some h.six) (some (coreOf h.six)) (agentOf (coreOf h.six) (va.toNat % 2 ^ 48))
    (page + f.tail) (t - f.tail) 0 s else []) s = u at filled tasks
  have written := (filled.write (page + t) n (v.toNat % 2 ^ (8 * n))).trans (homeWrite_gives (here.trans filled.six.symm) d asid va
    (page + t) n _ ((readersOf_congr tasks _).trans
      (readersOf_subset (fun k hk => by rw [mem_wordsOf] at hk ⊢; omega) unread)))
  generalize applyAll (homeWrite h asid va (page + t) n (v.toNat % 2 ^ (8 * n)) u) u = w' at written
  obtain ⟨moved, now⟩ := frame_gives w' i d { f with tail := t + n }
  generalize (Effect.frame i { f with tail := t + n }).apply w' = u' at moved now
  have result := acquire_give (here.trans (written.trans moved).six.symm) [(d, w)] rfl
  exact ⟨(written.trans moved).trans result.toGives, result.value, (result.frame i).trans now⟩

/-! ## The obligation -/

section
variable {s : State} {op : MemOp} {va : Word} {x : Xl} {rel : Bool} (plainVa : inWindow va = false)
  (mapped : translate s s.coreNo s.me.dom s.me.sys.pm va op.need = some x)
  (first : behindHeld (Effect.fresh.apply s) s.nextId s.me.dom va op.bytes = false) (here : x.pod = false) (memory : x.cls ≠ .device)
  (plain : ∀ d n, op ≠ .persist d n)
include plainVa mapped first here memory plain

/-- What an operation performed at its home slice leaves, seen from before its walk: its result, a frame, its strand, the bytes. -/
theorem performOp_leaves {es : List Effect} {d i : Nat} {w : Word} {g : FrameEnt} {m : Memory} {bytes : Nat → Byte}
    (performs : performMem (s.asks op va false rel) s.coreNo s.me.dom va x (s.walked x) = .ok es)
    (gives : Gives d { s.walked x with mem := m } (applyAll es (s.walked x)))
    (value : d ≠ 0 → (applyAll es (s.walked x)).me.readS d = w) (frame : (applyAll es (s.walked x)).frame i = g)
    (holds : ∀ a, memGet m a = bytes a) :
    ∃ fs, performOp (s.asks op va false rel) (Effect.fresh.apply s) = .ok fs
      ∧ let u := applyAll fs (Effect.fresh.apply s)
        (d ≠ 0 → u.me.readS d = w) ∧ u.frame i = g ∧ s.me.sameBut u.me d
        ∧ (∀ a, memGet u.mem a = bytes a) ∧ u.pmem = s.pmem ∧ u.lmem = s.lmem ∧ u.dmem = s.dmem := by
  obtain ⟨fs, done, after⟩ := performOp_ok plainVa mapped first here memory plain performs
  have walk := (walked_onCaches mapped).gives d
  refine ⟨fs, done, ?_⟩
  rw [after]
  exact ⟨value, frame, sameBut_trans walk.me gives.me, fun a => (congrArg (memGet · a) gives.mem).trans (holds a),
    gives.pmem.trans walk.pmem, gives.lmem.trans walk.lmem, gives.dmem.trans walk.dmem⟩

end

theorem appendPage_holds : appendPage := by
  intro s d va x i plainVa here frame _ f at' ok same
  have page {op : MemOp} (there : at' op) : frameIndex (s.walked x).cfg x.pa = some i ∧ (s.walked x).frame i = f
      ∧ (s.walked x).six = s.six ∧ ∀ a, memGet (s.walked x).mem a = memGet s.mem a := by
    have walk := walked_onCaches there.1
    exact ⟨(walk.same (frameIndex ·.cfg x.pa) fun _ _ _ _ => rfl).trans frame, walk.same (·.frame i) fun _ _ _ _ => rfl,
      (walk.gives d).six, fun a => congrArg (memGet · a) (walk.gives d).mem⟩
  have append_memory (append : x.cls = .append) : x.cls ≠ .device := by rw [append]; decide
  refine ⟨fun there => ⟨fun append => ?_, fun sealed' => ?_⟩, fun there append => ?_, fun n v there append size sound => ?_⟩
  all_goals
    obtain ⟨frame', now, six, bytes⟩ := page there
    obtain ⟨mapped, first⟩ := there
  · have result := acquire_give (h := s.asks (.tailq d) va false false) six.symm [(d, BitVec.ofNat 64 f.tail)] rfl
    exact performOp_leaves plainVa mapped first here (append_memory append) (fun _ _ => nofun)
      (now ▸ performMem_tailq_append s.coreNo s.me.dom va frame' rfl append) result.toGives result.value
      ((result.frame i).trans now) bytes
  · have result := chain_give (h := s.asks (.tailq d) va false false) six.symm (fs := [acquire s.coreNo])
      (fun g hg t => by rw [List.mem_singleton.mp hg]; exact acquire_onCaches _ t) [(d, BitVec.ofNat 64 (2 ^ 63 + f.tail))] rfl
    exact performOp_leaves plainVa mapped first here (by rw [sealed']; decide) (fun _ _ => nofun)
      (now ▸ performMem_tailq_sealed s.coreNo s.me.dom va frame' rfl sealed') result.toGives result.value
      ((result.frame i).trans now) bytes
  · obtain ⟨gives, value, sealed'⟩ := seal_gives (h := s.asks (.seal d) va false true) six.symm i d { f with st := .sealed }
      (BitVec.ofNat 64 f.tail)
    exact performOp_leaves plainVa mapped first here (append_memory append) (fun _ _ => nofun)
      (now ▸ performMem_seal s.coreNo s.me.dom va frame' rfl append) gives value sealed' bytes
  · have sound' : memCheck (s.walked x) false x.pa n = none :=
      ((walked_onCaches mapped).same (memCheck · false x.pa n) fun _ _ _ _ => rfl).trans sound
    refine ⟨fun full => ?_, fun fits unread => ?_⟩
    · have result := acquire_give (h := s.asks (.appnd d n v) va false false) six.symm [(d, BitVec.allOnes 64)] rfl
      exact performOp_leaves plainVa mapped first here (append_memory append) (fun _ _ => nofun)
        (performMem_appnd_full s.coreNo s.me.dom va frame' rfl append sound' (now.symm ▸ full)) result.toGives result.value
        ((result.frame i).trans now) bytes
    · have unread' := ((walked_onCaches mapped).same
        (readersOf · (wordsOf (x.pa / 65536 * 65536 + f.tail) ((f.tail + n - 1) / n * n + n - f.tail))) fun _ _ _ _ => rfl).trans unread
      obtain ⟨gives, value, tail⟩ := appendAt_gives (h := s.asks (.appnd d n v) va false false) six.symm s.me.dom va frame'
        ((f.tail + n - 1) / n * n) n d v (BitVec.ofNat 64 ((f.tail + n - 1) / n * n)) (now.symm ▸ le_roundUp f.tail size) (now.symm ▸ unread')
      rw [now] at gives tail
      refine performOp_leaves plainVa mapped first here (append_memory append) (fun _ _ => nofun)
        (now ▸ performMem_appnd_fits s.coreNo s.me.dom va frame' rfl append sound' (now.symm ▸ fits)) gives value tail fun a => ?_
      rw [memGet_appendedMem _ _ _ (le_roundUp f.tail size), bytes]

/-- Settles O50: the traps of the classes, and the instructions of an APPEND page. -/
theorem pageClasses : Obligations.PageClasses := ⟨pageClassTraps_holds, appendPage_holds⟩

end Sys2Proof.Machine

/-! What a V-stream instruction answers from what its body does (R113, R114), and the operations that the vector bodies share. -/

namespace Sys2Proof.Machine

/-! ## The answer -/

section
variable {s : State} {i : Instr} {enc : Nat} {w : BitVec 3} {rs : List RegId}

theorem exec_of_runs (hr : s.ready .v) {body : M Ctl} (issued : exec i s = issue (infoV enc w.toNat rs) body s) {t : State}
    (runs : Runs body s.landed .next t) : exec i s = .next (t.ended .v 4 w.toNat) := by
  rw [issued, issue_infoV _ _ _ _ _ hr, runs, run_finish_ended]
  rfl

theorem exec_of_stops (hr : s.ready .v) {body : M Ctl} (issued : exec i s = issue (infoV enc w.toNat rs) body s) {x : Stop}
    (stops : ∀ k, Prog.run onStop s (body k) s.landed = onStop x s) : exec i s = .next (onStop x s) := by
  rw [issued, issue_infoV _ _ _ _ _ hr, stops]

theorem landed_v (hr : s.ready .v) : s.landed.stream = .v := (landed_stream s).trans hr.1

/-- A check that fails in the V-stream: its trap, and no effect (R33). -/
theorem run_trapIf_fails {t : State} (stream : t.stream = .v) {b : Bool} (fails : b = true) (c u : Nat) (a : Word) (k : Unit → Prog) :
    Prog.run onStop s (trapIf b c u a k) t = onStop (.trap { cause := c, sub := u, addr := a, strm := .v }) s := by
  rw [fails, m_trapIf_true, run_get, run_stop, stream]

/-- A form that refuses the tag of its operand (R15, R113). -/
theorem badFormat_of_vreg (hr : s.ready .v) {a : BitVec 5} {bad : VReg → Bool} {rest : VReg → M Ctl}
    (issued : exec i s = issue (infoV enc w.toNat rs) (do
      let x ← getV a
      formatIf (bad x) enc
      rest x) s)
    (encodes : encode i = enc) (fails : bad (s.vreg a) = true) : s.BadFormat i := by
  subst encodes
  exact exec_of_stops hr issued fun _ => run_trapIf_fails (landed_v hr) fails _ _ _ _

/-- A form that refuses the tags of its two operands. -/
theorem badFormat_of_vregs (hr : s.ready .v) {a b : BitVec 5} {bad : VReg → VReg → Bool} {rest : VReg → VReg → M Ctl}
    (issued : exec i s = issue (infoV enc w.toNat rs) (do
      let x ← getV a
      let y ← getV b
      formatIf (bad x y) enc
      rest x y) s)
    (encodes : encode i = enc) (fails : bad (s.vreg a) (s.vreg b) = true) : s.BadFormat i := by
  subst encodes
  exact exec_of_stops hr issued fun _ => run_trapIf_fails (landed_v hr) fails _ _ _ _

end

/-! ## Operands, checks and results -/

section
variable (s : State)

theorem runs_getV (a : BitVec 5) : Runs (getV a) s.landed (s.vreg a) s.landed := fun f s0 k => run_getV_landed f s0 s a k
theorem runs_getM (m : BitVec 3) : Runs (getM m.toNat) s.landed (s.mreg m) s.landed := fun f s0 k => run_getM_landed f s0 s m k
theorem runs_getK (a : Nat) : Runs (getK a) s.landed (s.kreg a) s.landed := fun f s0 k => run_getK_landed f s0 s a k

/-- A register as a state in the midst of an instruction holds it. -/
theorem runs_getV_here (a : BitVec 5) : Runs (getV a) s (s.me.readV a.toNat) s := fun _ _ _ => rfl
theorem runs_getM_here (a : Nat) : Runs (getM a) s (s.me.readM a) s := fun _ _ _ => rfl

theorem runs_trapIf {b : Bool} (passes : b = false) (c u : Nat) (a : Word) : Runs (trapIf b c u a) s () s := by
  subst passes
  exact runs_pure () s

theorem runs_formatIf {b : Bool} (passes : b = false) (enc : Nat) : Runs (formatIf b enc) s () s := runs_trapIf s passes _ _ _
theorem runs_illegalIf {b : Bool} (passes : b = false) (enc : Nat) : Runs (illegalIf b enc) s () s := runs_trapIf s passes _ _ _

theorem runs_land (r : RegId) (p : PVal) (l : Nat) : Runs (land r p l) s () (s.wrote r p l) := fun _ _ _ => rfl
theorem runs_giveV (d : BitVec 5) (v : VReg) (l : Nat) : Runs (giveV d v l) s () (s.put d v l) := fun _ _ _ => rfl
theorem runs_scoredV (d : BitVec 5) (v : VReg) : Runs (scored (.v d.toNat) (.vec v)) s () (s.put d v 1) := fun _ _ _ => rfl

/-- Whole lanes under their mask (R113, R115). -/
theorem runs_moveLanes (d : BitVec 5) (m : BitVec 3) (t : Nat) (side : BitVec 64) (lat : Nat) (g : Nat → Nat) :
    Runs (moveLanes d m t side lat g) s.landed () (s.landed.put d (vreg (s.lanes d m t g) side t) lat) := fun _ _ _ => rfl

end

/-! ## Conditions (R114) -/

/-- Conditions none of which is enabled accumulate. -/
theorem runs_raiseAll {s : State} {cs : List (Nat × BitVec 6)} (quiet : fpeIndex s.me.sys.fenable cs = none) :
    Runs (raiseAll cs) s.landed () (s.landed.withMe (s.landed.me.raise (allFlags cs))) :=
  fun f s0 k => run_raiseAll f s0 s.landed cs k (by rw [landed_sys]; exact quiet)

theorem allFlags_quiet {cs : List (Nat × BitVec 6)} (quiet : ∀ c ∈ cs, c.2 = 0) : allFlags cs = 0 := by
  have keeps : ∀ (cs : List (Nat × BitVec 6)) (f : BitVec 6), (∀ c ∈ cs, c.2 = 0) → cs.foldl (fun f c => f ||| c.2) f = f := by
    intro cs
    induction cs with
    | nil => exact fun _ _ => rfl
    | cons c cs ih =>
      intro f quiet
      have rest := ih f fun d hd => quiet d (List.mem_cons_of_mem _ hd)
      simpa [quiet c List.mem_cons_self] using rest
  exact keeps cs 0 quiet

theorem raise_zero (x : Strand) : x.raise 0 = x := by simp [Strand.raise]

/-- Elements of which none raises a condition. -/
theorem condsOf_quiet (t : Nat) (m : Lane) (g : Nat → Nat) : ∀ c ∈ condsOf (overElems t m fun j => (g j, 0)), c.2 = 0 := by
  intro c hc
  simp only [condsOf, overElems, List.map_map, List.mem_map] at hc
  obtain ⟨j, -, rfl⟩ := hc
  rfl

/-- No condition raised, FLAGS is as it was. -/
theorem landed_gave_quiet (s : State) {cs : List (Nat × BitVec 6)} (quiet : ∀ c ∈ cs, c.2 = 0) (d : BitVec 5) (v : VReg) (lat : Nat) :
    s.landed.gave cs d v lat = s.landed.put d v lat := by
  have same : s.landed.withMe s.landed.me = s.landed := by rw [landed_eq, withMe_withMe, withMe_me]
  rw [State.gave, allFlags_quiet quiet, raise_zero, same]
  rfl

/-- An element-wise operation that raises no condition (R113). -/
theorem runs_mapElems_quiet (s : State) (d : BitVec 5) (m : BitVec 3) (src t lat : Nat) (g : Nat → Nat) :
    Runs (mapElems d m src t lat fun j => (g j, 0)) s.landed ()
      (s.landed.put d (s.elems d m src t (overElems src (s.mreg m) fun j => (g j, 0))) lat) := by
  intro f s0 k
  have quiet := condsOf_quiet src (s.mreg m) g
  rw [run_mapElems f s0 s.landed d m src t lat _ k (fpeIndex_quiet _ _ quiet)]
  exact congrArg (Prog.run f s0 (k ())) (landed_gave_quiet s quiet d _ lat)

end Sys2Proof.Machine

/-! The integer, bitwise and compare vector forms (R122 to R124). -/

namespace Sys2Proof.Machine

/-! ## Integer and bitwise forms (R122, R123) -/

section
variable {s : State} (hr : s.ready .v) {i : Instr} {fn : Nat} {o : V3}
include hr

section
variable {lat : Nat} {g : Nat → Nat → Nat → Nat} (issued : exec i s = int3 fn isIntTag lat g o s)
include issued

theorem exec_int3 (int : isIntTag (s.vreg o.a).t = true) (b : (s.vreg o.b).t = (s.vreg o.a).t) :
    let a := s.vreg o.a
    let rs := overElems a.t (s.mreg o.m) fun j => (g a.t (elemAt a.t a.data.toNat j) (elemAt a.t (s.vreg o.b).data.toNat j), 0)
    exec i s = .next ((s.landed.wrote (.v o.d.toNat) (.vec (s.elems o.d o.m a.t a.t rs)) lat).ended .v 4 o.w.toNat) := by
  have legal : (!isIntTag (s.vreg o.a).t || decide ((s.vreg o.b).t ≠ (s.vreg o.a).t)) = false := by simp [int, b]
  exact exec_of_runs hr issued (runs_bind (runs_getV s _) (runs_bind (runs_getV s _) (runs_bind (runs_formatIf _ legal _)
    (runs_bind (runs_mapElems_quiet s _ _ _ _ _ _) (runs_pure _ _)))))

theorem int3_badFormat (encodes : encode i = opV 0x26 fn + o.bits)
    (bad : isIntTag (s.vreg o.a).t = false ∨ (s.vreg o.b).t ≠ (s.vreg o.a).t) : s.BadFormat i :=
  badFormat_of_vregs hr issued encodes (by simpa using bad)

end

section
variable {g : Nat → Nat → Nat} (issued : exec i s = bits3 fn g o s)
include issued

theorem exec_bits3 (whole : isBlock (s.vreg o.a).t = false) (b : (s.vreg o.b).t = (s.vreg o.a).t) :
    let a := s.vreg o.a
    exec i s = .next ((s.landed.put o.d
      (vreg (s.lanes o.d o.m a.t fun i => g (laneOf a.data.toNat i) (laneOf (s.vreg o.b).data.toNat i)) 0 a.t) 2).ended
        .v 4 o.w.toNat) := by
  have legal : (isBlock (s.vreg o.a).t || decide ((s.vreg o.b).t ≠ (s.vreg o.a).t)) = false := by simp [whole, b]
  exact exec_of_runs hr issued (runs_bind (runs_getV s _) (runs_bind (runs_getV s _) (runs_bind (runs_formatIf _ legal _)
    (runs_bind (runs_moveLanes s _ _ _ _ _ _) (runs_pure _ _)))))

theorem bits3_badFormat (encodes : encode i = opV 0x26 fn + o.bits)
    (bad : isBlock (s.vreg o.a).t = true ∨ (s.vreg o.b).t ≠ (s.vreg o.a).t) : s.BadFormat i :=
  badFormat_of_vregs hr issued encodes (by simpa using bad)

end

/-- The absolute differences of two operands of one integer tag (R123). -/
theorem exec_vabsd (int : isIntTag (s.vreg o.a).t = true) (b : (s.vreg o.b).t = (s.vreg o.a).t) :
    let a := s.vreg o.a
    let rs := overElems a.t (s.mreg o.m) fun j =>
      (absDiff a.t (elemAt a.t a.data.toNat j) (elemAt a.t (s.vreg o.b).data.toNat j), 0)
    exec (.vabsd o) s
      = .next ((s.landed.wrote (.v o.d.toNat) (.vec (s.elems o.d o.m a.t (if tagBits a.t = 8 then 11 else a.t) rs)) 2).ended
          .v 4 o.w.toNat) := by
  have legal : (!isIntTag (s.vreg o.a).t || decide ((s.vreg o.b).t ≠ (s.vreg o.a).t)) = false := by simp [int, b]
  refine exec_of_runs hr rfl ?_
  exact runs_bind (runs_getV s _) (runs_bind (runs_getV s _) (runs_bind (runs_formatIf _ legal _)
    (runs_bind (runs_mapElems_quiet s _ _ _ _ _ _) (runs_pure _ _))))

end

/-- Each integer entry is issued with its latency and its result, under the encoding of its operation. -/
theorem exec_int3s : ∀ e ∈ int3s, ∀ o : V3, ∃ fn, encode (e.1 o) = opV 0x26 fn + o.bits
    ∧ ∀ s, exec (e.1 o) s = int3 fn isIntTag e.2.1 e.2.2 o s := by
  simp only [int3s, List.forall_mem_cons, List.not_mem_nil, false_imp_iff, implies_true, and_true]
  exact ⟨fun o => ⟨0, rfl, fun s => rfl⟩, fun o => ⟨1, rfl, fun s => rfl⟩, fun o => ⟨2, rfl, fun s => rfl⟩, fun o => ⟨3, rfl, fun s => rfl⟩,
    fun o => ⟨7, rfl, fun s => rfl⟩, fun o => ⟨8, rfl, fun s => rfl⟩, fun o => ⟨9, rfl, fun s => rfl⟩, fun o => ⟨10, rfl, fun s => rfl⟩,
    fun o => ⟨11, rfl, fun s => rfl⟩, fun o => ⟨12, rfl, fun s => rfl⟩, fun o => ⟨13, rfl, fun s => rfl⟩,
    fun o => ⟨14, rfl, fun s => rfl⟩, fun o => ⟨15, rfl, fun s => rfl⟩⟩

theorem exec_bits3s : ∀ e ∈ bits3s, ∀ o : V3, ∃ fn, encode (e.1 o) = opV 0x26 fn + o.bits
    ∧ ∀ s, exec (e.1 o) s = bits3 fn e.2 o s := by
  simp only [bits3s, List.forall_mem_cons, List.not_mem_nil, false_imp_iff, implies_true, and_true]
  exact ⟨fun o => ⟨4, rfl, fun s => rfl⟩, fun o => ⟨5, rfl, fun s => rfl⟩, fun o => ⟨6, rfl, fun s => rfl⟩⟩

theorem integerVectors_holds : Sys2Proof.integerVectors := by
  refine fun o s hr => ⟨fun e he => ?_, fun e he => ?_, exec_vabsd hr⟩
  · obtain ⟨fn, encodes, issued⟩ := exec_int3s e he o
    exact ⟨exec_int3 hr (issued s), int3_badFormat hr (issued s) encodes⟩
  · obtain ⟨fn, encodes, issued⟩ := exec_bits3s e he o
    exact ⟨exec_bits3 hr (issued s), bits3_badFormat hr (issued s) encodes⟩

/-! ## Compares (R124) -/

/-- The operands that a relation takes: one tag, I32 or I64 for every relation, a float tag for the first four. -/
def cmpLegal (cc a b : Nat) : Prop := b = a ∧ (a = 22 ∨ a = 23 ∨ ((a = 1 ∨ a = 2) ∧ cc < 4))

/-- The check that VCMP makes of its operands' tags. -/
theorem cmpLegal_iff (cc a b : Nat) :
    (decide (b ≠ a) || !(decide (a = 22 ∨ a = 23) || (decide (a = 1 ∨ a = 2) && decide (cc < 4)))) = false ↔ cmpLegal cc a b := by
  simp only [cmpLegal, Bool.or_eq_false_iff, decide_eq_false_iff_not, ne_eq, not_not, Bool.not_eq_false', Bool.or_eq_true,
    Bool.and_eq_true, decide_eq_true_eq, or_assoc]

section
variable {s : State} (hr : s.ready .v) {i : Instr} {cc : Nat} {o : V3} (issued : exec i s = compare cc o s)

/-- The relation of element `j`, with its conditions. -/
def cmpElem (cc : Nat) (o : V3) (s : State) (j : Nat) : Bool × BitVec 6 :=
  let a := s.vreg o.a
  relOf cc a.t (elemAt a.t a.data.toNat j) (elemAt a.t (s.vreg o.b).data.toNat j)

/-- The conditions of the active elements. -/
def cmpConds (cc : Nat) (o : V3) (s : State) : List (Nat × BitVec 6) :=
  condsOf (overElems (s.vreg o.a).t (s.mreg o.m) fun j => (0, (cmpElem cc o s j).2))

include hr issued

section
variable (legal : cmpLegal cc (s.vreg o.a).t (s.vreg o.b).t)
include legal

theorem exec_compare (quiet : fpeIndex s.me.sys.fenable (cmpConds cc o s) = none) :
    exec i s = .next (((s.landed.withMe (s.landed.me.raise (allFlags (cmpConds cc o s)))).wrote (.m o.d.toNat)
      (.mask (cmpMask (s.vreg o.a).t (s.mreg o.m) (s.landed.me.readM o.d.toNat) fun j => (cmpElem cc o s j).1)) 2).ended
        .v 4 o.w.toNat) := by
  exact exec_of_runs hr issued (runs_bind (runs_getV s _) (runs_bind (runs_getV s _)
    (runs_bind (runs_formatIf _ ((cmpLegal_iff _ _ _).mpr legal) _) (runs_bind (runs_getM s _) (runs_bind (runs_getM_here _ _)
      (runs_bind (runs_raiseAll quiet) (runs_bind (runs_land _ _ _ _) (runs_pure _ _))))))))

theorem compare_traps {n : Nat} (enabled : fpeIndex s.me.sys.fenable (cmpConds cc o s) = some n) :
    exec i s = .next (onStop (.trap { cause := 11, sub := 0, addr := BitVec.ofNat 64 n, strm := .v }) s) := by
  refine exec_of_stops hr issued fun k => ?_
  simp only [m_bind, run_getV_landed, formatIf]
  rw [trapIf_pass ((cmpLegal_iff _ _ _).mpr legal)]
  simp only [run_getM]
  refine (run_raiseAll_trap onStop s s.landed (cmpConds cc o s) n _ (by rw [landed_sys]; exact enabled)).trans ?_
  rw [landed_stream, hr.1]

end

theorem compare_badFormat (encodes : encode i = opV 0x27 (cc + 1) + o.bits) (bad : ¬cmpLegal cc (s.vreg o.a).t (s.vreg o.b).t) :
    s.BadFormat i :=
  badFormat_of_vregs hr issued encodes (Bool.of_not_eq_false fun pass => bad ((cmpLegal_iff _ _ _).mp pass))

end

theorem exec_compares : ∀ e ∈ compares, ∀ o : V3, encode (e.1 o) = opV 0x27 (e.2 + 1) + o.bits
    ∧ ∀ s, exec (e.1 o) s = compare e.2 o s := by
  simp only [compares, List.forall_mem_cons, List.not_mem_nil, false_imp_iff, implies_true, and_true]
  exact ⟨fun o => ⟨rfl, fun s => rfl⟩, fun o => ⟨rfl, fun s => rfl⟩, fun o => ⟨rfl, fun s => rfl⟩, fun o => ⟨rfl, fun s => rfl⟩,
    fun o => ⟨rfl, fun s => rfl⟩, fun o => ⟨rfl, fun s => rfl⟩⟩

theorem vectorCompares_holds : vectorCompares := by
  intro e he o s hr
  obtain ⟨encodes, issued⟩ := exec_compares e he o
  exact ⟨exec_compare hr (issued s), fun _ legal => compare_traps hr (issued s) legal, compare_badFormat hr (issued s) encodes⟩

/-- Settles O37: each form is one operation on elements or lanes behind its format check, a compare with its conditions. -/
theorem integerVectors : Obligations.IntegerVectors := ⟨integerVectors_holds, vectorCompares_holds⟩

end Sys2Proof.Machine

/-! Reductions, scans and dot products (R131 to R133). -/

namespace Sys2Proof.Machine

section
variable {s : State} (hr : s.ready .v) {i : Instr} {fn : Nat} {op : RedOp} {o : V2}
include hr

section
variable (issued : exec i s = redForm fn op o s)
include issued

theorem exec_redForm {x : Nat} {cs : List (Nat × BitVec 6)} (result : reduce op (s.vreg o.a) (s.mreg o.m) = (x, cs))
    (taken : redOk op (s.vreg o.a).t = true) (quiet : fpeIndex s.me.sys.fenable cs = none) :
    exec i s = .next (((s.landed.withMe (s.landed.me.raise (allFlags cs))).wrote (.k o.d.toNat)
      (.word (widenRed op (s.vreg o.a).t x)) 6).ended .v 4 o.w.toNat) := by
  have legal : (!redOk op (s.vreg o.a).t) = false := by rw [taken]; rfl
  refine exec_of_runs hr issued (runs_bind (runs_getV s _) (runs_bind (runs_formatIf _ legal _) (runs_bind (runs_getM s _) ?_)))
  rw [result]
  exact runs_bind (runs_raiseAll quiet) (runs_bind (runs_land _ _ _ _) (runs_pure _ _))

theorem redForm_badFormat (encodes : encode i = opV 0x2B fn + o.bits) (refused : redOk op (s.vreg o.a).t = false) :
    s.BadFormat i :=
  badFormat_of_vreg hr issued encodes (by rw [refused]; rfl)

end

section
variable (issued : exec i s = scanForm fn op o s)
include issued

theorem exec_scanForm {rs : List (Nat × Nat × BitVec 6)} (result : scan op (s.vreg o.a).t (s.mreg o.m)
      ((elemsOf (s.vreg o.a)).zipIdx.map fun p => (p.2, p.1)) (op.identity (s.vreg o.a).t) = rs)
    (taken : redOk op (s.vreg o.a).t = true) (quiet : fpeIndex s.me.sys.fenable (condsOf rs) = none) :
    exec i s = .next ((s.landed.gave (condsOf rs) o.d (s.elems o.d o.m (s.vreg o.a).t (s.vreg o.a).t rs) 8).ended
      .v 4 o.w.toNat) := by
  have legal : (!redOk op (s.vreg o.a).t) = false := by rw [taken]; rfl
  refine exec_of_runs hr issued (runs_bind (runs_getV s _) (runs_bind (runs_formatIf _ legal _) (runs_bind (runs_getM s _)
    (runs_bind (runs_getV s _) ?_))))
  rw [result]
  exact runs_bind (runs_raiseAll quiet) (runs_bind (runs_land _ _ _ _) (runs_pure _ _))

theorem scanForm_badFormat (encodes : encode i = opV 0x2B fn + o.bits) (refused : redOk op (s.vreg o.a).t = false) :
    s.BadFormat i :=
  badFormat_of_vreg hr issued encodes (by rw [refused]; rfl)

end
end

theorem exec_reductions : ∀ e ∈ reductions, ∀ o : V2, ∃ fn, encode (e.1 o) = opV 0x2B fn + o.bits
    ∧ ∀ s, exec (e.1 o) s = redForm fn e.2 o s := by
  simp only [reductions, List.forall_mem_cons, List.not_mem_nil, false_imp_iff, implies_true, and_true]
  exact ⟨fun o => ⟨1, rfl, fun s => rfl⟩, fun o => ⟨2, rfl, fun s => rfl⟩, fun o => ⟨3, rfl, fun s => rfl⟩, fun o => ⟨4, rfl, fun s => rfl⟩,
    fun o => ⟨5, rfl, fun s => rfl⟩, fun o => ⟨6, rfl, fun s => rfl⟩, fun o => ⟨7, rfl, fun s => rfl⟩, fun o => ⟨8, rfl, fun s => rfl⟩⟩

theorem exec_scans : ∀ e ∈ scans, ∀ o : V2, ∃ fn, encode (e.1 o) = opV 0x2B fn + o.bits
    ∧ ∀ s, exec (e.1 o) s = scanForm fn e.2 o s := by
  simp only [scans, List.forall_mem_cons, List.not_mem_nil, false_imp_iff, implies_true, and_true]
  exact ⟨fun o => ⟨10, rfl, fun s => rfl⟩, fun o => ⟨11, rfl, fun s => rfl⟩, fun o => ⟨12, rfl, fun s => rfl⟩⟩

/-! ## VDOT (R132) -/

section
variable {s : State} (hr : s.ready .v) (o : V3) (same : (s.vreg o.b).t = (s.vreg o.a).t)
include hr same

theorem exec_vdot_int (int : (s.vreg o.a).t = 22) :
    exec (.vdot o) s = .next ((s.landed.wrote (.k o.d.toNat)
      (.word (widenRed .add 22 (dotInt (s.vreg o.a) (s.vreg o.b) (s.mreg o.m)))) 6).ended .v 4 o.w.toNat) := by
  have legal : (decide ((s.vreg o.b).t ≠ (s.vreg o.a).t) || !(isArith (s.vreg o.a).t || decide ((s.vreg o.a).t = 22))) = false := by
    simp [same, int]
  refine exec_of_runs hr rfl ?_
  refine runs_bind (runs_getV s _) (runs_bind (runs_getV s _) (runs_bind (runs_formatIf _ legal _) (runs_bind (runs_getM s _) ?_)))
  rw [if_pos int]
  exact runs_bind (runs_land _ _ _ _) (runs_pure _ _)

theorem exec_vdot_float {x : Nat} {cs : List (Nat × BitVec 6)}
    (result : dotFloat (s.vreg o.a).t (s.vreg o.a) (s.vreg o.b) (s.mreg o.m) = (x, cs)) (float : isArith (s.vreg o.a).t = true)
    (quiet : fpeIndex s.me.sys.fenable cs = none) :
    exec (.vdot o) s = .next (((s.landed.withMe (s.landed.me.raise (allFlags cs))).wrote (.k o.d.toNat)
      (.word (BitVec.ofNat 64 x)) 6).ended .v 4 o.w.toNat) := by
  have legal : (decide ((s.vreg o.b).t ≠ (s.vreg o.a).t) || !(isArith (s.vreg o.a).t || decide ((s.vreg o.a).t = 22))) = false := by
    simp [same, float]
  have notInt : (s.vreg o.a).t ≠ 22 := fun int => by
    rw [int] at float
    exact absurd float (by decide)
  refine exec_of_runs hr rfl ?_
  refine runs_bind (runs_getV s _) (runs_bind (runs_getV s _) (runs_bind (runs_formatIf _ legal _) (runs_bind (runs_getM s _) ?_)))
  rw [if_neg notInt, result]
  exact runs_bind (runs_raiseAll quiet) (runs_bind (runs_land _ _ _ _) (runs_pure _ _))

end

/-- Settles O39: each reduction, scan and dot product where its tags are legal and none of its conditions is enabled; the format
check of the others. -/
theorem vectorReductions : Obligations.VectorReductions := by
  refine ⟨fun e he o s hr => ?_, fun e he o s hr => ?_, fun o s hr => ⟨fun a b => ?_, fun float same => ?_⟩⟩
  · obtain ⟨fn, encodes, issued⟩ := exec_reductions e he o
    exact ⟨exec_redForm hr (issued s) Prod.mk.eta.symm, redForm_badFormat hr (issued s) encodes⟩
  · obtain ⟨fn, encodes, issued⟩ := exec_scans e he o
    exact ⟨exec_scanForm hr (issued s) rfl, scanForm_badFormat hr (issued s) encodes⟩
  · exact exec_vdot_int hr o (b.trans a.symm) a
  · exact exec_vdot_float hr o same Prod.mk.eta.symm float

end Sys2Proof.Machine

/-! Moves, permutes, broadcasts and tags (R115 to R117). -/

namespace Sys2Proof.Machine

section
variable {s : State} (hr : s.ready .v)
include hr

/-! ## Moves of one register -/

section
variable (o : V2)

/-- VMOV of a register that takes its mask: any but a block-scaled one, whose move is whole (R115). -/
theorem exec_vmov (whole : isBlock (s.vreg o.a).t = false ∨ o.m = 0) :
    let a := s.vreg o.a
    exec (.vmov o) s
      = .next ((s.landed.put o.d (vreg (s.lanes o.d o.m a.t (laneOf a.data.toNat)) (cleanSide a.t a.side) a.t) 2).ended
          .v 4 o.w.toNat) := by
  have legal : (isBlock (s.vreg o.a).t && decide (o.m ≠ 0)) = false := by rcases whole with h | h <;> simp [h]
  refine exec_of_runs hr rfl ?_
  exact runs_bind (runs_getV s _) (runs_bind (runs_illegalIf _ legal _) (runs_bind (runs_moveLanes s _ _ _ _ _ _) (runs_pure _ _)))

theorem vmov_illegal (block : isBlock (s.vreg o.a).t = true) (masked : o.m ≠ 0) :
    exec (.vmov o) s
      = .next (onStop (.trap { cause := 1, sub := 0, addr := BitVec.ofNat 64 (encode (.vmov o)), strm := .v }) s) := by
  have fails : (isBlock (s.vreg o.a).t && decide (o.m ≠ 0)) = true := by
    rw [block, Bool.true_and, decide_eq_true_iff]
    exact masked
  refine exec_of_stops hr rfl fun k => ?_
  simp only [m_bind, run_getV_landed]
  exact run_trapIf_fails (landed_v hr) fails _ _ _ _

/-- VCLASS of an FP64 or FP32 register (R117). -/
theorem exec_vclass (float : (s.vreg o.a).t = 1 ∨ (s.vreg o.a).t = 2) :
    let a := s.vreg o.a
    exec (.vclass o) s
      = .next ((s.landed.put o.d (vreg (s.lanes o.d o.m a.t fun i =>
          classBit (fmtOf a.t) (elemAt a.t a.data.toNat (if a.t = 1 then i / 2 else i))) 0 22) 2).ended .v 4 o.w.toNat) := by
  have legal : decide ((s.vreg o.a).t ≠ 1 ∧ (s.vreg o.a).t ≠ 2) = false := by
    rw [decide_eq_false_iff_not]
    omega
  refine exec_of_runs hr rfl ?_
  exact runs_bind (runs_getV s _) (runs_bind (runs_formatIf _ legal _) (runs_bind (runs_getV s _) (runs_bind (runs_getM s _)
    (runs_bind (runs_giveV _ _ _ _) (runs_pure _ _)))))

theorem vclass_badFormat (not64 : (s.vreg o.a).t ≠ 1) (not32 : (s.vreg o.a).t ≠ 2) : s.BadFormat (.vclass o) :=
  badFormat_of_vreg (rest := _) hr (rfl : exec (.vclass o) s = execVclass o s) rfl (decide_eq_true ⟨not64, not32⟩)

end

section
variable {i : Instr} {fn : Nat} {g : Fmt → Nat → Nat} {o : V2} (issued : exec i s = signOp fn g o s)
include issued

theorem exec_signOp (float : isFloatTag (s.vreg o.a).t = true) :
    let a := s.vreg o.a
    let rs := overElems a.t (s.mreg o.m) fun j => (g (fmtOf a.t) (elemAt a.t a.data.toNat j), 0)
    exec i s = .next ((s.landed.gave (condsOf rs) o.d (s.elems o.d o.m a.t a.t rs) 2).ended .v 4 o.w.toNat) := by
  intro a rs
  have legal : (!isFloatTag (s.vreg o.a).t) = false := by rw [float]; rfl
  rw [landed_gave_quiet s (condsOf_quiet _ _ _)]
  exact exec_of_runs hr issued (runs_bind (runs_getV s _) (runs_bind (runs_formatIf _ legal _)
    (runs_bind (runs_mapElems_quiet s _ _ _ _ _ _) (runs_pure _ _))))

theorem signOp_badFormat (encodes : encode i = opV 0x20 fn + o.bits) (refused : isFloatTag (s.vreg o.a).t = false) : s.BadFormat i :=
  badFormat_of_vreg hr issued encodes (by rw [refused]; rfl)

end

/-! ## Moves of two registers -/

section
variable (o : V3)

/-- VSEL of two registers of one tag that is not block-scaled (R115). -/
theorem exec_vsel (same : (s.vreg o.a).t = (s.vreg o.b).t) (whole : isBlock (s.vreg o.a).t = false) :
    let a := s.vreg o.a
    exec (.vsel o) s
      = .next ((s.landed.put o.d (vreg (packLanes ((List.range 32).map fun i => cleanLane a.t
          (if laneOn a.t (s.mreg o.m) i then laneOf a.data.toNat i else laneOf (s.vreg o.b).data.toNat i))) 0 a.t) 2).ended
          .v 4 o.w.toNat) := by
  have legal : (decide ((s.vreg o.a).t ≠ (s.vreg o.b).t) || isBlock (s.vreg o.a).t) = false := by
    rw [whole, Bool.or_false, decide_eq_false_iff_not, not_not, same]
  refine exec_of_runs hr rfl ?_
  exact runs_bind (runs_getV s _) (runs_bind (runs_getV s _) (runs_bind (runs_formatIf _ legal _) (runs_bind (runs_getM s _)
    (runs_bind (runs_giveV _ _ _ _) (runs_pure _ _)))))

/-- VCPS of two registers of one float tag (R115). -/
theorem exec_vcps (same : (s.vreg o.a).t = (s.vreg o.b).t) (float : isFloatTag (s.vreg o.a).t = true) :
    let a := s.vreg o.a
    let rs := overElems a.t (s.mreg o.m) fun j => (elemAt a.t a.data.toNat j % (fmtOf a.t).sign
      + elemAt a.t (s.vreg o.b).data.toNat j / (fmtOf a.t).sign * (fmtOf a.t).sign, (0 : BitVec 6))
    exec (.vcps o) s = .next ((s.landed.gave (condsOf rs) o.d (s.elems o.d o.m a.t a.t rs) 2).ended .v 4 o.w.toNat) := by
  intro a rs
  have legal : (decide ((s.vreg o.a).t ≠ (s.vreg o.b).t) || !isFloatTag (s.vreg o.a).t) = false := by
    rw [float, Bool.not_true, Bool.or_false, decide_eq_false_iff_not, not_not, same]
  rw [landed_gave_quiet s (condsOf_quiet _ _ _)]
  refine exec_of_runs hr rfl ?_
  exact runs_bind (runs_getV s _) (runs_bind (runs_getV s _) (runs_bind (runs_formatIf _ legal _)
    (runs_bind (runs_mapElems_quiet s _ _ _ _ _ _) (runs_pure _ _))))

end

section
variable {i : Instr} {fn : Nat} {pick : VReg → Nat → Option Nat} {o : V3} (issued : exec i s = permute fn pick o s)
include issued

theorem exec_permute (whole : isBlock (s.vreg o.a).t = false) (index : (s.vreg o.b).t = 22) :
    let a := s.vreg o.a
    exec i s = .next ((s.landed.put o.d (vreg (s.lanes o.d o.m a.t fun i =>
      match pick (s.vreg o.b) i with | some j => laneOf a.data.toNat j | none => 0) 0 a.t) 3).ended .v 4 o.w.toNat) := by
  have legal : (isBlock (s.vreg o.a).t || decide ((s.vreg o.b).t ≠ 22)) = false := by simp [whole, index]
  exact exec_of_runs hr issued (runs_bind (runs_getV s _) (runs_bind (runs_getV s _) (runs_bind (runs_formatIf _ legal _)
    (runs_bind (runs_moveLanes s _ _ _ _ _ _) (runs_pure _ _)))))

theorem permute_badFormat (encodes : encode i = opV 0x20 fn + o.bits)
    (bad : isBlock (s.vreg o.a).t = true ∨ (s.vreg o.b).t ≠ 22) : s.BadFormat i :=
  badFormat_of_vregs hr issued encodes (by simpa using bad)

end

/-! ## Immediates, broadcasts and tags -/

theorem exec_vli (o : VImm) :
    exec (.vli o) s
      = .next ((s.landed.put o.d (vreg (packLanes (List.replicate 32 (o.imm.signExtend 32).toNat)) 0 22) 2).ended
          .v 4 o.w.toNat) := by
  refine exec_of_runs hr rfl ?_
  exact runs_bind (runs_giveV _ _ _ _) (runs_pure _ _)

/-- VBCAST, under its mask for every tag (R116; log entry 71). -/
theorem exec_vbcast (o : VT) :
    let rs := overElems o.t.toNat (s.mreg o.m) fun _ => ((s.kreg o.a.toNat).toNat, 0)
    exec (.vbcast o) s
      = .next ((s.landed.gave (condsOf rs) o.d (s.elems o.d o.m o.t.toNat o.t.toNat rs) 2).ended .v 4 o.w.toNat) := by
  intro rs
  rw [landed_gave_quiet s (condsOf_quiet _ _ _)]
  refine exec_of_runs hr rfl ?_
  exact runs_bind (runs_getK s _) (runs_bind (runs_mapElems_quiet s _ _ _ _ _ _) (runs_pure _ _))

/-- VTAG: the data as it is (R115; log entry 67). -/
theorem exec_vtag (o : VTag) :
    let a := s.vreg o.a
    exec (.vtag o) s
      = .next ((s.landed.put o.d { data := a.data, side := cleanSide o.t.toNat a.side, tag := o.t } 1).ended .v 4 o.w.toNat) := by
  refine exec_of_runs hr rfl ?_
  exact runs_bind (runs_getV s _) (runs_bind (runs_giveV _ _ _ _) (runs_pure _ _))

end

/-! ## The tables -/

theorem exec_permutes : ∀ e ∈ permutes, ∀ o : V3, ∃ fn, encode (e.1 o) = opV 0x20 fn + o.bits
    ∧ ∀ s, exec (e.1 o) s = permute fn e.2 o s := by
  simp only [permutes, List.forall_mem_cons, List.not_mem_nil, false_imp_iff, implies_true, and_true]
  exact ⟨fun o => ⟨2, rfl, fun s => rfl⟩, fun o => ⟨3, rfl, fun s => rfl⟩, fun o => ⟨4, rfl, fun s => rfl⟩⟩

/-- VNEG and VABS (R115). -/
theorem exec_signOps (neg : Bool) (o : V2) : ∃ fn, encode (if neg then .vneg o else .vabs o) = opV 0x20 fn + o.bits
    ∧ ∀ s, exec (if neg then .vneg o else .vabs o) s
      = signOp fn (fun f x => if neg then x ^^^ f.sign else x % f.sign) o s := by
  cases neg
  · exact ⟨7, rfl, fun s => rfl⟩
  · exact ⟨8, rfl, fun s => rfl⟩

/-- Settles O41: each form moves lanes or elements that raise no condition, behind its check. -/
theorem vectorMoves : Obligations.VectorMoves := by
  refine ⟨fun o s hr => ⟨exec_vmov hr o, vmov_illegal hr o, fun neg => ?_, exec_vclass hr o, vclass_badFormat hr o⟩,
    fun o s hr => ⟨exec_vsel hr o, fun e he => ?_, exec_vcps hr o⟩, fun o s hr => exec_vli hr o, fun o s hr => exec_vbcast hr o,
    fun o s hr => exec_vtag hr o⟩
  · obtain ⟨fn, encodes, issued⟩ := exec_signOps neg o
    refine ⟨fun float => ?_, signOp_badFormat hr (issued s) encodes⟩
    simpa only using exec_signOp hr (issued s) float
  · obtain ⟨fn, encodes, issued⟩ := exec_permutes e he o
    exact ⟨exec_permute hr (issued s), permute_badFormat hr (issued s) encodes⟩

end Sys2Proof.Machine

/-! A load of words (R134) issues in one stream throughout. -/

namespace Sys2Proof.Machine

/-- An operation that does not complete from a state: what follows it has no part in what it gives. -/
def Halts {α : Type} (m : M α) (s : State) : Prop :=
  ∃ g : (Stop → State → State) → State → State, ∀ f s0 k, Prog.run f s0 (m k) s = g f s0

/-- An operation that issues in one stream throughout: where it completes, the stream is the one it began in. -/
def KeepsFocus {α : Type} (m : M α) : Prop := ∀ s, Halts m s ∨ ∃ a t, Runs m s a t ∧ t.focus = s.focus

section
variable {α β : Type} {m : M α} {g : α → M β} {s t : State} {a : α}

theorem halts_bind (h : Halts m s) : Halts (m >>= g) s := by
  obtain ⟨r, halts⟩ := h
  exact ⟨r, fun f s0 k => halts f s0 _⟩

theorem halts_runs_bind (h : Runs m s a t) (h' : Halts (g a) t) : Halts (m >>= g) s := by
  obtain ⟨r, halts⟩ := h'
  exact ⟨r, fun f s0 k => (h f s0 _).trans (halts f s0 k)⟩

theorem halts_halt (x : Stop) (s : State) : Halts (halt x : M α) s := ⟨fun f s0 => f x s0, fun _ _ _ => rfl⟩

theorem halts_trap (c u : Nat) (va : Word) (s : State) : Halts (trap c u va : M α) s :=
  halts_runs_bind (runs_getS s) (halts_halt _ s)

theorem halts_holdNow (w : Wait) (s : State) : Halts (holdNow w : M α) s :=
  halts_runs_bind (runs_getS s) (halts_runs_bind (runs_put _ s) ⟨fun _ _ => _, fun _ _ _ => rfl⟩)

theorem KeepsFocus.of_halts (h : ∀ s, Halts m s) : KeepsFocus m := fun s => .inl (h s)

theorem keepsFocus_pure (a : α) : KeepsFocus (pure a : M α) := fun s => .inr ⟨a, s, runs_pure a s, rfl⟩

theorem keepsFocus_getS : KeepsFocus getS := fun s => .inr ⟨s, s, runs_getS s, rfl⟩

theorem keepsFocus_puts {es : List Effect} (h : ∀ e ∈ es, e.refocuses = false) : KeepsFocus (puts es) :=
  fun s => .inr ⟨(), _, runs_puts es s, applyAll_focusOf es s h⟩

theorem KeepsFocus.bind (h : KeepsFocus m) (h' : ∀ a, KeepsFocus (g a)) : KeepsFocus (m >>= g) := by
  intro s
  rcases h s with halts | ⟨a, t, runs, focus⟩
  · exact .inl (halts_bind halts)
  · rcases h' a t with halts | ⟨b, u, runs', focus'⟩
    · exact .inl (halts_runs_bind runs halts)
    · exact .inr ⟨b, u, runs_bind runs runs', focus'.trans focus⟩

theorem KeepsFocus.ite {c : Prop} [Decidable c] {m' : M α} (h : KeepsFocus m) (h' : KeepsFocus m') :
    KeepsFocus (if c then m else m') := by
  split
  · exact h
  · exact h'

theorem keepsFocus_stallIf (b : Bool) (w : Wait) : KeepsFocus (stallIf b w) := by
  cases b
  · exact keepsFocus_pure ()
  · exact .of_halts (halts_halt _)

/-- An operation has one outcome: what it completes with has the focus it began with. -/
theorem KeepsFocus.focus (h : KeepsFocus m) (runs : Runs m s a t) : t.focus = s.focus := by
  rcases h s with ⟨r, halts⟩ | ⟨a', t', runs', focus⟩
  · have ends := (runs (fun _ s => s) s fun _ => .done).symm.trans (halts _ _ _)
    have fresh := (runs (fun _ s => s) s fun _ => .put .fresh .done).symm.trans (halts _ _ _)
    have same : t.nextId + 1 = t.nextId := congrArg State.nextId (fresh.trans ends.symm)
    omega
  · have same : t = t' := (runs (fun _ s => s) s fun _ => .done).symm.trans (runs' _ _ _)
    rw [same, focus]

end

theorem keepsFocus_beOldest : KeepsFocus beOldest := by
  refine keepsFocus_getS.bind fun s => ?_
  split
  · split
    · exact keepsFocus_pure ()
    · split
      · exact .of_halts fun u => halts_runs_bind (runs_puts _ u) (halts_holdNow _ _)
      · exact .of_halts (halts_halt _)
  · exact keepsFocus_pure ()

section
variable (sp : Space) (isLoad : Bool) (n : Nat) (eas : List Word)

theorem keepsFocus_speculationWaits : KeepsFocus (speculationWaits sp isLoad n eas) :=
  keepsFocus_getS.bind fun _ => keepsFocus_beOldest.ite (keepsFocus_pure ())

theorem keepsFocus_waitAcquires : KeepsFocus waitAcquires := keepsFocus_getS.bind fun _ => keepsFocus_stallIf _ _

theorem keepsFocus_waitBanks : KeepsFocus (waitBanks sp n eas) := keepsFocus_getS.bind fun _ => keepsFocus_stallIf _ _

theorem keepsFocus_awaitCopies : KeepsFocus (awaitCopies sp isLoad n eas) := by
  refine keepsFocus_getS.bind fun s => ?_
  split
  · exact keepsFocus_pure ()
  · exact keepsFocus_waitAcquires.bind fun _ => (keepsFocus_speculationWaits sp isLoad n eas).bind fun _ =>
      keepsFocus_getS.bind fun _ => .of_halts fun u => halts_runs_bind (runs_puts _ u) (halts_holdNow _ _)

theorem keepsFocus_checkWords : KeepsFocus (checkWords sp isLoad n eas) := by
  refine keepsFocus_getS.bind fun s => ?_
  split
  · exact .of_halts (halts_trap _ _ _)
  · exact keepsFocus_pure ()

/-- A load that performs does so by the effects of reads. -/
theorem keepsFocus_finishLoad (va : Word) (sub : Nat) {r : Except Fail (Nat × List Effect)} (reads : OnlyReads r) :
    KeepsFocus (finishLoad va sub r) := by
  refine keepsFocus_getS.bind fun s => ?_
  split
  · next v fx =>
    exact (keepsFocus_puts fun e he => ofRead_refocuses (reads (v, fx) rfl e he)).bind fun _ => keepsFocus_pure v
  · exact .of_halts (halts_trap _ _ _)
  · exact .of_halts (halts_trap _ _ _)
  · exact .of_halts (halts_halt _)
  · exact .of_halts fun u => halts_runs_bind (runs_puts _ u) (halts_holdNow _ _)
  · exact .of_halts fun u => halts_runs_bind (runs_getS u) (halts_runs_bind (runs_puts _ u) (halts_holdNow _ _))
  · exact .of_halts (halts_trap _ _ _)

theorem keepsFocus_loadWord (ea : Word) : KeepsFocus (loadWord sp n ea) := by
  refine keepsFocus_getS.bind fun s => ?_
  split
  · exact keepsFocus_finishLoad _ _ (plainLoad_onlyReads s _ _ _ ea n)
  · split
    · exact keepsFocus_pure _
    · exact .of_halts (halts_trap _ _ _)

theorem keepsFocus_loadEach : KeepsFocus (loadEach sp n eas) := by
  induction eas with
  | nil => exact keepsFocus_pure []
  | cons a r ih => exact (keepsFocus_loadWord sp n a).bind fun _ => ih.bind fun _ => keepsFocus_pure _

/-- A load of words issues in one stream throughout. -/
theorem keepsFocus_wideLoad : KeepsFocus (wideLoad sp n eas) :=
  (keepsFocus_awaitCopies sp true n eas).bind fun _ => (keepsFocus_checkWords sp true n eas).bind fun _ =>
    keepsFocus_waitAcquires.bind fun _ => (keepsFocus_waitBanks sp n eas).bind fun _ =>
      (keepsFocus_speculationWaits sp true n eas).bind fun _ => keepsFocus_loadEach sp n eas

end

end Sys2Proof.Machine

/-! Vector memory (R135 to R138): each load and store by what the access of its words gives. -/

namespace Sys2Proof.Machine

/-! ## Registers and images (R135, R136, R138) -/

/-- The check of an aligned address. -/
theorem notMisaligned {a n : Nat} (aligned : a % n = 0) : decide (a % n ≠ 0) = false := by simp [aligned]

/-- The number that the 36 words of an image make (R138). -/
def imageOf (vals : List Nat) : Nat := (vals.zipIdx.map (fun p => p.1 % 2 ^ 32 * 2 ^ (32 * p.2))).sum

section
variable {s t : State} (hr : s.ready .v)
include hr

/-- VLD whose words are loaded (R135). -/
theorem exec_vld (o : VLoad) {vals : List Nat} (aligned : (s.kreg o.a.toNat).toNat % 8 = 0)
    (loads : Runs (wideLoad (spaceOf o.s.toNat) 4 ((vecWords o.t.toNat (s.mreg o.m)).map (vecAddr (s.kreg o.a.toNat)))) s.landed vals t) :
    let ws := (vecWords o.t.toNat (s.mreg o.m)).zip vals
    let side := BitVec.ofNat 64 (wordIn ws 32 + 2 ^ 32 * wordIn ws 33)
    exec (.vld o) s
      = .next ((t.put o.d (vreg (withWords o.t.toNat (t.me.readV o.d.toNat).data.toNat ws)
          (if isBlock o.t.toNat then cleanSide o.t.toNat side else 0) o.t.toNat) 1).ended .v 4 o.w.toNat) := by
  refine exec_of_runs hr rfl ?_
  exact runs_bind (runs_getK s _) (runs_bind (runs_getM s _) (runs_bind (runs_trapIf _ (notMisaligned aligned) _ _ _)
    (runs_bind loads (runs_bind (runs_getV_here t _) (runs_bind (runs_scoredV _ _ _) (runs_pure _ _))))))

/-- VST whose words are stored (R135). -/
theorem exec_vst (o : VStore) (aligned : (s.kreg o.a.toNat).toNat % 8 = 0) :
    let v := s.vreg o.d
    Runs (wideStore (spaceOf o.s.toNat) 4 ((vecWords v.t (s.mreg o.m)).map fun i =>
      (vecAddr (s.kreg o.a.toNat) i, if i < 32 then cleanLane v.t (vecWord v i) else vecWord v i))) s.landed () t →
    exec (.vst o) s = .next (t.ended .v 4 o.w.toNat) := by
  intro v stores
  refine exec_of_runs hr rfl ?_
  exact runs_bind (runs_getK s _) (runs_bind (runs_getM s _) (runs_bind (runs_getV s _)
    (runs_bind (runs_trapIf _ (notMisaligned aligned) _ _ _) (runs_bind stores (runs_pure _ _)))))

section
variable (o : VIdx)

section
variable (index : (s.vreg o.b).t = 22) (aligned : (s.kreg o.a.toNat).toNat % 4 = 0)
include index aligned

theorem exec_vgath {vals : List Nat} (loads : Runs (wideLoad (spaceOf o.s.toNat) 4
      ((vecWords 0 (s.mreg o.m)).map (indexAddr (s.kreg o.a.toNat) (s.vreg o.b)))) s.landed vals t) :
    exec (.vgath o) s
      = .next ((t.put o.d (vreg (withWords 0 (t.me.readV o.d.toNat).data.toNat ((vecWords 0 (s.mreg o.m)).zip vals)) 0 0) 1).ended
          .v 4 o.w.toNat) := by
  have legal : decide ((s.vreg o.b).t ≠ 22) = false := by simp [index]
  refine exec_of_runs hr rfl ?_
  exact runs_bind (runs_getK s _) (runs_bind (runs_getV s _) (runs_bind (runs_getM s _) (runs_bind (runs_formatIf _ legal _)
    (runs_bind (runs_trapIf _ (notMisaligned aligned) _ _ _) (runs_bind loads (runs_bind (runs_getV_here t _)
      (runs_bind (runs_scoredV _ _ _) (runs_pure _ _))))))))

theorem exec_vscat (stores : Runs (wideStore (spaceOf o.s.toNat) 4 (((List.range 32).filter (laneOn (s.vreg o.d).t (s.mreg o.m))).map
      fun i => (indexAddr (s.kreg o.a.toNat) (s.vreg o.b) i, cleanLane (s.vreg o.d).t (vecWord (s.vreg o.d) i)))) s.landed () t) :
    exec (.vscat o) s = .next (t.ended .v 4 o.w.toNat) := by
  have legal : decide ((s.vreg o.b).t ≠ 22) = false := by simp [index]
  refine exec_of_runs hr rfl ?_
  exact runs_bind (runs_getK s _) (runs_bind (runs_getV s _) (runs_bind (runs_getV s _) (runs_bind (runs_getM s _)
    (runs_bind (runs_formatIf _ legal _) (runs_bind (runs_trapIf _ (notMisaligned aligned) _ _ _)
      (runs_bind stores (runs_pure _ _)))))))

end

section
variable (bad : (s.vreg o.b).t ≠ 22)
include bad

theorem vgath_badFormat : s.BadFormat (.vgath o) := by
  refine exec_of_stops hr rfl fun k => ?_
  simp only [m_bind, run_getK_landed, run_getV_landed, run_getM_landed]
  exact run_trapIf_fails (landed_v hr) (decide_eq_true bad) _ _ _ _

theorem vscat_badFormat : s.BadFormat (.vscat o) := by
  refine exec_of_stops hr rfl fun k => ?_
  simp only [m_bind, run_getK_landed, run_getV_landed, run_getM_landed]
  exact run_trapIf_fails (landed_v hr) (decide_eq_true bad) _ _ _ _

end
end

section
variable (o : VSv) (aligned : (s.kreg o.a.toNat).toNat % 16 = 0)
include aligned

section
variable {vals : List Nat} (loads : Runs (wideLoad (spaceOf o.s.toNat) 4 (wordAddrs (s.kreg o.a.toNat) 4 36)) s.landed vals t)
include loads

/-- VREST of a valid image takes its bits as they are (R138; log entry 67). -/
theorem exec_vrest (valid : imageOf vals / 2 ^ 1088 < 24) :
    exec (.vrest o) s = .next ((t.put o.d (VReg.ofImage (imageOf vals)) 1).ended .v 4 o.w.toNat) := by
  have legal : decide (24 ≤ imageOf vals / 2 ^ 1088) = false := decide_eq_false (Nat.not_le.mpr valid)
  refine exec_of_runs hr rfl ?_
  exact runs_bind (runs_getK s _) (runs_bind (runs_trapIf _ (notMisaligned aligned) _ _ _) (runs_bind loads
    (runs_bind (runs_formatIf _ legal _) (runs_bind (runs_scoredV _ _ _) (runs_pure _ _)))))

/-- The trap is the V-stream's: the words are loaded in it. -/
theorem vrest_badFormat (invalid : 24 ≤ imageOf vals / 2 ^ 1088) : s.BadFormat (.vrest o) := by
  have stream : t.stream = .v := (stream_of_focus (keepsFocus_wideLoad _ _ _ |>.focus loads)).trans ((landed_stream s).trans hr.1)
  refine exec_of_stops hr rfl fun k => ?_
  simp only [m_bind, run_getK_landed]
  rw [trapIf_pass (notMisaligned aligned), loads]
  exact run_trapIf_fails stream (decide_eq_true invalid) _ _ _ _

end

theorem exec_vsave (stores : Runs (wideStore (spaceOf o.s.toNat) 4 ((List.range 36).map fun i =>
      (vecAddr (s.kreg o.a.toNat) i, (s.vreg o.d).image / 2 ^ (32 * i) % 2 ^ 32))) s.landed () t) :
    exec (.vsave o) s = .next (t.ended .v 4 o.w.toNat) := by
  refine exec_of_runs hr rfl ?_
  exact runs_bind (runs_getK s _) (runs_bind (runs_getV s _) (runs_bind (runs_trapIf _ (notMisaligned aligned) _ _ _)
    (runs_bind stores (runs_pure _ _))))

end
end

/-! ## Lane slices (R137) -/

theorem runs_checkSlice {ea : Word} (aligned : ea.toNat % 4 = 0) (inside : ea.toNat < 2048) (s : State) :
    Runs (checkSlice ea) s () s :=
  runs_bind (runs_trapIf _ (notMisaligned aligned) _ _ _) (runs_trapIf _ (decide_eq_false (Nat.not_le.mpr inside)) _ _ _)

/-- An address outside the slice is BOUND, whatever the mask. -/
theorem run_checkSlice_bound {s : State} (hr : s.ready .v) {ea : Word} (aligned : ea.toNat % 4 = 0) (outside : 2048 ≤ ea.toNat)
    (k : Unit → Prog) : Prog.run onStop s (checkSlice ea k) s.landed
      = onStop (.trap { cause := 6, sub := 1, addr := ea, strm := .v }) s := by
  simp only [checkSlice, m_bind]
  rw [trapIf_pass (notMisaligned aligned)]
  exact run_trapIf_fails (landed_v hr) (decide_eq_true outside) _ _ _ _

/-- The effects of a store of lane slices: each word, and the poison it clears. -/
def sliceStores (s : State) (t : Nat) (v : VReg) (ls : List Nat) (ea : Nat) : List Effect :=
  ls.flatMap fun i => Effect.lmem (sliceAddr s.coreNo i ea) 4 (cleanLane t (vecWord v i))
    :: unpoison s.landed poisonL (sliceAddr s.coreNo i ea) 4

theorem mem_sliceStores {s : State} {t : Nat} {v : VReg} {ls : List Nat} {ea : Nat} {e : Effect} (he : e ∈ sliceStores s t v ls ea) :
    (∃ a x, e = .lmem a 4 x) ∨ ∃ w, e = .poison w false := by
  obtain ⟨i, -, he⟩ := List.mem_flatMap.mp he
  rcases List.mem_cons.mp he with rfl | he
  · exact .inl ⟨_, _, rfl⟩
  · obtain ⟨w, -, hw⟩ := List.mem_filterMap.mp he
    split at hw
    · cases hw
      exact .inr ⟨_, rfl⟩
    · cases hw

/-- They leave the issuing strand as it is. -/
theorem sliceStores_me (s : State) (t : Nat) (v : VReg) (ls : List Nat) (ea : Nat) :
    (applyAll (sliceStores s t v ls ea) s.landed).me = s.landed.me := by
  have focus := applyAll_focusOf (sliceStores s t v ls ea) s.landed fun e he => by
    rcases mem_sliceStores he with ⟨a, x, rfl⟩ | ⟨w, rfl⟩ <;> rfl
  have strand := applyAll_strandOf (sliceStores s t v ls ea) s.landed s.landed.focus.1 fun e he => by
    rcases mem_sliceStores he with ⟨a, x, rfl⟩ | ⟨w, rfl⟩ <;> rfl
  rw [State.me, focus, strand]
  rfl

section
variable {s : State} (hr : s.ready .v)
include hr

section
variable (o : VT) (aligned : (s.kreg o.a.toNat).toNat % 4 = 0)
include aligned

theorem vldl_bound (outside : 2048 ≤ (s.kreg o.a.toNat).toNat) :
    exec (.vldl o) s = .next (onStop (.trap { cause := 6, sub := 1, addr := s.kreg o.a.toNat, strm := .v }) s) := by
  refine exec_of_stops hr rfl fun k => ?_
  simp only [m_bind, run_getK_landed, run_getM_landed]
  exact run_checkSlice_bound hr aligned outside _

theorem exec_vldl (inside : (s.kreg o.a.toNat).toNat < 2048)
    (sound : (s.sliceLanes o.t.toNat o.m).any
      (fun i => poisoned s.landed poisonL (sliceAddr s.coreNo i (s.kreg o.a.toNat).toNat) 4) = false) :
    exec (.vldl o) s
      = .next ((s.landed.put o.d (vreg (withWords o.t.toNat (s.vreg o.d).data.toNat
          ((s.sliceLanes o.t.toNat o.m).map fun i => (i, memRead s.lmem (sliceAddr s.coreNo i (s.kreg o.a.toNat).toNat) 4)))
          0 o.t.toNat) 1).ended .v 4 o.w.toNat) := by
  refine exec_of_runs hr rfl ?_
  exact runs_bind (runs_getK s _) (runs_bind (runs_getM s _) (runs_bind (runs_checkSlice aligned inside _) (runs_bind (runs_getS _)
    (runs_bind (runs_trapIf _ sound _ _ _) (runs_bind (runs_getV s _) (runs_bind (runs_scoredV _ _ _) (runs_pure _ _)))))))

end

section
variable (o : V2) (aligned : (s.kreg o.a.toNat).toNat % 4 = 0)
include aligned

theorem vstl_bound (outside : 2048 ≤ (s.kreg o.a.toNat).toNat) :
    exec (.vstl o) s = .next (onStop (.trap { cause := 6, sub := 1, addr := s.kreg o.a.toNat, strm := .v }) s) := by
  refine exec_of_stops hr rfl fun k => ?_
  simp only [m_bind, run_getK_landed, run_getM_landed, run_getV_landed]
  exact run_checkSlice_bound hr aligned outside _

/-- VSTL outside a region (R137, R311). -/
theorem exec_vstl (closed : s.me.region = none) (inside : (s.kreg o.a.toNat).toNat < 2048) :
    let v := s.vreg o.d
    exec (.vstl o) s
      = .next ((applyAll (sliceStores s v.t v (s.sliceLanes v.t o.m) (s.kreg o.a.toNat).toNat) s.landed).ended .v 4 o.w.toNat) := by
  intro v
  have closed' : (applyAll (sliceStores s v.t v (s.sliceLanes v.t o.m) (s.kreg o.a.toNat).toNat) s.landed).me.region = none := by
    rw [sliceStores_me, landed_me, landSt_region, closed]
  refine exec_of_runs hr rfl ?_
  exact runs_bind (runs_getK s _) (runs_bind (runs_getM s _) (runs_bind (runs_getV s _) (runs_bind (runs_checkSlice aligned inside _)
    (runs_bind (runs_getS _) (runs_bind (runs_puts _ _) (runs_bind (runs_impure closed') (runs_pure _ _)))))))

end
end

/-- Settles O40: each load and store by what its words give, behind its checks. -/
theorem vectorMemory : Obligations.VectorMemory :=
  ⟨fun o _ _ _ hr aligned => exec_vld hr o aligned,
    fun o _ _ hr aligned => exec_vst hr o aligned,
    fun o _ hr => ⟨fun _ _ index aligned => exec_vgath hr o index aligned, fun _ index aligned => exec_vscat hr o index aligned,
      fun bad => ⟨vgath_badFormat hr o bad, vscat_badFormat hr o bad⟩⟩,
    fun o _ hr => ⟨vldl_bound hr o, exec_vldl hr o⟩,
    fun o _ hr => ⟨vstl_bound hr o, fun closed aligned inside => exec_vstl hr o aligned closed inside⟩,
    fun o _ _ hr aligned => ⟨fun _ loads => ⟨exec_vrest hr o aligned loads, vrest_badFormat hr o aligned loads⟩,
      exec_vsave hr o aligned⟩⟩

end Sys2Proof.Machine

/-! Gates and the domain table, from the C-stream (R145, R147, R153, R157, R158): what GSTAT, GPUB, GREVOKE and GQRY do once issued. -/

namespace Sys2Proof.Machine

/-! ## What a C-stream instruction answers -/

theorem issue_of_runs {enc w : Nat} {rs : List RegId} {body : M Ctl} {s t : State} (hr : s.ready .c)
    (runs : Runs body s.landed .next t) : issue (infoC enc w rs) body s = .next (t.ended .c 4 w) := by
  rw [issue_infoC _ _ _ _ _ hr, runs, run_finish_ended]
  rfl

section
variable {α : Type} {s t : State} {m n : M α} {a : α} {c : Prop} [Decidable c]

theorem runs_then (h : c) (runs : Runs m s a t) : Runs (if c then m else n) s a t := by rwa [if_pos h]
theorem runs_else (h : ¬c) (runs : Runs n s a t) : Runs (if c then m else n) s a t := by rwa [if_neg h]

end

section
variable (s : State)

theorem runs_getSr (a : BitVec 5) : Runs (getSr a) s.landed (s.sreg a) s.landed := fun f s0 k => run_getSr_landed f s0 s a k
theorem runs_choose_next (n : Nat) : Runs (choose n) s (s.choice n) s.chose := fun f s0 k => run_choose f s0 s n k
theorem runs_giveS (d : BitVec 5) (w : Word) : Runs (giveS d w) s () (s.wrote (.s d.toNat) (.word w) 1) := fun _ _ _ => rfl

/-- A result in d, and the next instruction. -/
theorem runs_giveS_next (d : BitVec 5) (w : Word) :
    Runs (do giveS d w; pure Ctl.next) s .next (s.wrote (.s d.toNat) (.word w) 1) := runs_bind (runs_giveS s d w) (runs_pure _ _)

end

theorem runs_stackFrames {s : State} {fs : List Frame} {fx : List Effect} (h : allFrames s s.coreNo s.me = .ok (fs, fx)) :
    Runs stackFrames s fs (applyAll fx s) := fun f s0 k => run_stackFrames f s0 s h k

/-! ## Effects and one part of the state -/

/-- What no effect of a list changes. -/
theorem applyAll_keeps {α : Type} (g : State → α) (es : List Effect) (s : State) (h : ∀ e ∈ es, ∀ t, g (e.apply t) = g t) :
    g (applyAll es s) = g s := by
  induction es generalizing s with
  | nil => rfl
  | cons e es ih =>
    rw [applyAll_cons, ih _ fun e he => h e (List.mem_cons_of_mem _ he), h e List.mem_cons_self]

/-- Region slots are the clusters' (R321). -/
theorem mem_invalidateSlots {p : TutorSlot → Bool} {s : State} {e : Effect} (he : e ∈ invalidateSlots p s) :
    ∃ n c, e = .cluster n c := by
  obtain ⟨c, -, hc⟩ := List.mem_filterMap.mp he
  obtain ⟨-, ⟨⟩⟩ := Option.ite_none_right_eq_some.mp hc
  exact ⟨_, _, rfl⟩

/-! ## GSTAT -/

section
variable {s : State} (hr : s.ready .c)
include hr

theorem execGstat_next (o : AD) : execGstat o s
    = .next ((s.landed.wrote (.s o.d.toNat) (.word (s.landed.me.sys.gstat.setWidth 64)) 1).ended .c 4 o.w.toNat) :=
  issue_of_runs hr (runs_bind (runs_getS _) (runs_giveS_next _ _ _))

/-! ## GPUB -/

section
variable (o : A3)

theorem execGpub_closes (zero : s.sreg o.a = 0) {g : GateDesc} (listed : (s.gate ((s.sreg o.b).toNat % 65536)).desc = some g)
    (may : s.me.sys.pm = true ∨ g.tdom = s.landed.me.dom) :
    let i := (s.sreg o.b).toNat % 65536
    execGpub o s = .next ((((Effect.gate i (s.gate i).closed).apply s.landed).wrote (.s o.d.toNat) (.word 0) 1).ended .c 4 o.w.toNat) := by
  intro i
  have allowed : ((s.landed.gate i).desc.any fun g => s.landed.me.sys.pm || decide (g.tdom = s.landed.me.dom)) = true := by
    rw [show s.landed.gate i = s.gate i from rfl, listed, landed_sys]
    simpa using may
  refine issue_of_runs hr ?_
  exact runs_bind (runs_getSr s _) (runs_bind (runs_getSr s _) (runs_then zero (runs_bind (runs_getS _) (runs_then allowed
    (runs_bind (runs_put _ _) (runs_giveS_next _ _ _))))))

omit hr in
/-- The checks of a publication passed, its descriptor is in the FREE entry that b names (R147). -/
theorem runs_gpubOpen {t : State} {d : BitVec 5} {b : Word} {ws : List Word} {g : GateDesc} (valid : gateDescOf ws = some g)
    (live : (t.dom g.tdom).st = .live) (may : t.me.sys.pm = true ∨ g.tdom = t.me.dom) (named : b.toNat < 65536)
    (free : gateFree t b.toNat = true) :
    let i := b.toNat
    Runs (gpubOpen d b ws) t () (((Effect.gate i { t.gate i with desc := some g }).apply t.chose).wrote (.s d.toNat)
      (.word (BitVec.ofNat 64 ((t.gate i).gen * 65536 + i))) 1) := by
  intro i
  have descriptor : (gateDescOf ws).filter (fun g => decide ((t.dom g.tdom).st = .live)) = some g := by simp [valid, live]
  have allowed : ¬(!t.me.sys.pm && decide (g.tdom ≠ t.me.dom)) = true := by rcases may with h | h <;> simp [h]
  have entry : b ≠ BitVec.allOnes 64 := by rintro rfl; simp at named
  intro f s0 k
  simp only [gpubOpen, m_bind, m_getS, run_get, descriptor, if_neg allowed, run_choose, if_neg entry, if_pos (And.intro named free),
    m_put, run_put, run_giveS]
  rfl

theorem execGpub_publishes {ws : List Word} {t : State} {g : GateDesc} (some' : s.sreg o.a ≠ 0) (aligned : (s.sreg o.a).toNat % 64 = 0)
    (loads : Runs (loadWords (s.sreg o.a) 8) s.landed ws t) (valid : gateDescOf ws = some g) (live : (t.dom g.tdom).st = .live)
    (may : t.me.sys.pm = true ∨ g.tdom = t.me.dom) (named : (s.sreg o.b).toNat < 65536)
    (free : gateFree t (s.sreg o.b).toNat = true) :
    let i := (s.sreg o.b).toNat
    execGpub o s = .next ((((Effect.gate i { t.gate i with desc := some g }).apply t.chose).wrote (.s o.d.toNat)
      (.word (BitVec.ofNat 64 ((t.gate i).gen * 65536 + i))) 1).ended .c 4 o.w.toNat) := by
  intro i
  refine issue_of_runs hr ?_
  exact runs_bind (runs_getSr s _) (runs_bind (runs_getSr s _) (runs_else some' (runs_bind (runs_trapIf _ (notMisaligned aligned) _ _ _)
    (runs_bind loads (runs_bind (runs_gpubOpen valid live may named free) (runs_pure _ _))))))

end

/-! ## GREVOKE -/

omit hr in
/-- What a revocation leaves of its domain: the gates and the region slots that go with it are no part of the domain table. -/
theorem revoke_dom (k : Nat) (t u : State) :
    (applyAll (revoke k t) u).dom k = { t.dom k with st := if (t.dom k).hold = 0 then .dead else .revoked } := by
  simp only [revoke, chain, List.append_nil, List.cons_append, List.nil_append, applyAll_cons]
  refine (applyAll_keeps (fun t => t.dom k) _ _ fun e he t => ?_).trans (tblGet_set_same _ _ _ _)
  rcases List.mem_append.mp he with he | he
  · obtain ⟨p, -, hp⟩ := List.mem_filterMap.mp he
    obtain ⟨-, ⟨⟩⟩ := Option.ite_none_right_eq_some.mp hp
    rfl
  · obtain ⟨n, c, rfl⟩ := mem_invalidateSlots he
    rfl

theorem execGrevoke_system (o : A2) (zero : (s.sreg o.a).toNat % 4096 = 0) : execGrevoke o s
    = .next ((s.landed.wrote (.s o.d.toNat) (.word 1) 1).ended .c 4 o.w.toNat) := by
  refine issue_of_runs hr ?_
  exact runs_bind (runs_getSr s _) (runs_bind (runs_getS _) (runs_then zero (runs_giveS_next _ _ _)))

theorem execGrevoke_kills (o : A2) {fs : List Frame} {fx : List Effect} :
    let k := (s.sreg o.a).toNat % 4096
    k ≠ 0 → (s.landed.me.sys.pm = true ∨ (s.dom k).owner = (s.dom s.landed.me.dom).owner) →
    allFrames s.landed s.coreNo s.landed.me = .ok (fs, fx) → onStack s.landed.me fs k = false →
    (∀ y d w, s.landed.me.c.wait ≠ .revoke y d w) → (s.dom k).st = .live → (s.dom k).hold = 0 →
    execGrevoke o s
      = .next (((applyAll (revoke k s.landed) (applyAll fx s.landed)).wrote (.s o.d.toNat) (.word 0) 1).ended .c 4 o.w.toNat) := by
  intro k other may frames apart new live unheld
  have allowed : (!s.landed.me.sys.pm && (s.landed.dom k).owner != (s.landed.dom s.landed.me.dom).owner) = false := by
    rcases may with pm | same
    · rw [pm]
      rfl
    · rw [show (s.landed.dom k).owner = (s.landed.dom s.landed.me.dom).owner from same, bne_self_eq_false, Bool.and_false]
  have first : (match s.landed.me.c.wait with | .revoke y _ _ => decide (y = k) | _ => false) = false := by
    split
    · next y d w h => exact absurd h (new y d w)
    · rfl
  have dead : ((applyAll (revoke k s.landed) (applyAll fx s.landed)).dom k).st ≠ .revoked := by
    rw [revoke_dom, if_pos (show (s.landed.dom k).hold = 0 from unheld)]
    exact nofun
  refine issue_of_runs hr ?_
  exact runs_bind (runs_getSr s _) (runs_bind (runs_getS _) (runs_else other (runs_bind (runs_trapIf _ allowed _ _ _)
    (runs_bind (runs_stackFrames frames) (runs_bind (runs_trapIf _ apart _ _ _) (runs_then ⟨live, (Bool.not_eq_true' _).mpr first⟩
      (runs_bind (runs_puts _ _) (runs_bind (runs_getS _) (runs_else dead (runs_giveS_next _ _ _))))))))))

/-! ## GQRY -/

section
variable (o : A3)

theorem execGqry_check (zero : s.sreg o.b = 0) : execGqry o s = .next ((s.landed.wrote (.s o.d.toNat)
    (.word (BitVec.ofNat 64 (gateCheck s.landed s.landed.me.dom (s.sreg o.a)))) 1).ended .c 4 o.w.toNat) := by
  refine issue_of_runs hr ?_
  refine runs_bind (runs_getSr s _) (runs_bind (runs_getSr s _) (runs_bind (runs_getS _) ?_))
  rw [zero]
  exact runs_giveS_next _ _ _

theorem execGqry_domain (one : s.sreg o.b = 1) : execGqry o s = .next ((s.landed.wrote (.s o.d.toNat) (.word (BitVec.ofNat 64
    (domWord ((s.sreg o.a).toNat % 4096) (s.dom ((s.sreg o.a).toNat % 4096))))) 1).ended .c 4 o.w.toNat) := by
  refine issue_of_runs hr ?_
  refine runs_bind (runs_getSr s _) (runs_bind (runs_getSr s _) (runs_bind (runs_getS _) ?_))
  rw [one]
  exact runs_giveS_next _ _ _

theorem execGqry_frame {fr : Frame} {fx : List Effect} (two : s.sreg o.b = 2) (inside : (s.sreg o.a).toNat < s.landed.me.sys.dsdepth)
    (frame : frameRead s.landed s.coreNo s.landed.me ((s.sreg o.a).toNat + 1) = .ok (fr, fx)) : execGqry o s
      = .next (((applyAll fx s.landed).wrote (.s o.d.toNat) (.word (BitVec.ofNat 64 fr.encode)) 1).ended .c 4 o.w.toNat) := by
  have frame' : frameRead s.landed s.landed.coreNo s.landed.me ((s.sreg o.a).toNat + 1) = .ok (fr, fx) := frame
  refine issue_of_runs hr ?_
  refine runs_bind (runs_getSr s _) (runs_bind (runs_getSr s _) (runs_bind (runs_getS _) ?_))
  rw [two]
  refine runs_then inside ?_
  rw [frame']
  exact runs_bind (runs_puts _ _) (runs_giveS_next _ _ _)

/-- A question past the listed ones, or of a frame past the depth (R158). -/
theorem execGqry_none (past : 2 < (s.sreg o.b).toNat ∨ (s.sreg o.b = 2 ∧ s.landed.me.sys.dsdepth ≤ (s.sreg o.a).toNat)) : execGqry o s
    = .next ((s.landed.wrote (.s o.d.toNat) (.word (BitVec.allOnes 64)) 1).ended .c 4 o.w.toNat) := by
  refine issue_of_runs hr ?_
  refine runs_bind (runs_getSr s _) (runs_bind (runs_getSr s _) (runs_bind (runs_getS _) ?_))
  rcases past with past | ⟨two, past⟩
  · split
    · next h => omega
    · next h => omega
    · next h => omega
    · exact runs_giveS_next _ _ _
  · rw [two]
    exact runs_else (Nat.not_lt.mpr past) (runs_giveS_next _ _ _)

end
end

/-- Settles O31, instruction by instruction. -/
theorem gateTables : Obligations.GateTables :=
  ⟨fun o _ hr => execGstat_next hr o,
    fun o _ hr => ⟨fun zero _ listed may => execGpub_closes hr o zero listed may,
      fun _ _ _ some' aligned loads valid live may named free => execGpub_publishes hr o some' aligned loads valid live may named free⟩,
    fun o _ hr => ⟨execGrevoke_system hr o, fun _ _ => execGrevoke_kills hr o⟩,
    fun o _ hr => ⟨execGqry_check hr o, execGqry_domain hr o, fun _ _ => execGqry_frame hr o, execGqry_none hr o⟩⟩

end Sys2Proof.Machine

/-! Tables of which a range is cleared, or every listed entry changed: what they read then. -/

namespace Sys2Proof.Machine

section
variable {α : Type} {d : α}

/-- What holds of the default and of every entry holds of whatever a table reads. -/
theorem tblGet_of_forall {P : α → Prop} {t : Tbl α} (unlisted : P d) (listed : ∀ p ∈ t, P p.2) (k : Nat) : P (tblGet d t k) := by
  induction t with
  | nil => exact unlisted
  | cons p r ih =>
    rw [tblGet]
    split
    · exact listed p List.mem_cons_self
    · exact ih fun q hq => listed q (List.mem_cons_of_mem _ hq)

/-- A key that a table does not answer with its default stands in it with what it answers. -/
theorem mem_of_tblGet_ne {t : Tbl α} {k : Nat} (h : tblGet d t k ≠ d) : (k, tblGet d t k) ∈ t := by
  induction t with
  | nil => exact absurd rfl h
  | cons p r ih =>
    rw [tblGet] at h ⊢
    split
    · next key => exact key ▸ List.mem_cons_self
    · next key => exact List.mem_cons_of_mem _ (ih (by rwa [if_neg key] at h))

theorem tblGet_unlisted {t : Tbl α} {k : Nat} (unlisted : ∀ p ∈ t, p.1 ≠ k) : tblGet d t k = d := by
  by_contra ne
  obtain ⟨p, hp, key⟩ := exists_mem_of_tblGet_ne ne
  exact unlisted p hp key

theorem tblGet_clear (t : Tbl α) (lo hi k : Nat) : tblGet d (tblClear t lo hi) k = if lo ≤ k ∧ k < hi then d else tblGet d t k := by
  induction t with
  | nil => simp [tblClear, tblGet]
  | cons p r ih =>
    have rest : tblClear (p :: r) lo hi = if p.1 < lo ∨ hi ≤ p.1 then p :: tblClear r lo hi else tblClear r lo hi := by
      simp [tblClear, List.filter_cons]
    by_cases key : p.1 = k
    · by_cases kept : p.1 < lo ∨ hi ≤ p.1
      · rw [rest, if_pos kept, tblGet, if_pos key, if_neg (by omega), tblGet, if_pos key]
      · rw [rest, if_neg kept, ih, if_pos (by omega), if_pos (by omega)]
    · rw [rest]
      split <;> simp [tblGet, key, ih]

/-- A change of every listed entry that leaves the default is a change of whatever the table reads. -/
theorem tblGet_tblMap [DecidableEq α] {t : Tbl α} (sorted : tblSorted t = true) (g : Nat → α → α) {k : Nat} (keeps : g k d = d) :
    tblGet d (tblMap d g t) k = g k (tblGet d t k) := by
  induction t with
  | nil => exact keeps.symm
  | cons p r ih =>
    obtain ⟨rising, sorted⟩ := (tblSorted_cons p r).mp sorted
    have rest : tblMap d g (p :: r) = if g p.1 p.2 = d then tblMap d g r else (p.1, g p.1 p.2) :: tblMap d g r := by
      by_cases gone : g p.1 p.2 = d <;> simp [tblMap, gone]
    by_cases key : p.1 = k
    · have alone : tblGet d r k = d := tblGet_unlisted fun q hq => by have := rising q hq; omega
      rw [rest]
      split
      · next gone => rw [ih sorted, alone, keeps, tblGet, if_pos key, ← key, gone]
      · rw [tblGet, if_pos key, tblGet, if_pos key, key]
    · rw [rest]
      split <;> simp [tblGet, key, ih sorted]

section
variable (get : State → Nat → α) (put : Nat → α → Effect)
  (reads : ∀ s n x k, get ((put n x).apply s) k = if k = n then x else get s k)
include reads

theorem get_applyAll_entries {t : Tbl α} (sorted : tblSorted t = true) (g : α → α) (s : State) (k : Nat) :
    get (applyAll (t.map fun p => put p.1 (g p.2)) s) k = if ∃ p ∈ t, p.1 = k then g (tblGet d t k) else get s k := by
  induction t generalizing s with
  | nil => simp
  | cons p r ih =>
    obtain ⟨rising, sorted⟩ := (tblSorted_cons p r).mp sorted
    rw [List.map_cons, applyAll_cons, ih sorted, reads, tblGet]
    by_cases key : p.1 = k
    · have alone : ¬∃ q ∈ r, q.1 = k := fun ⟨q, hq, same⟩ => by have := rising q hq; omega
      rw [if_neg alone, if_pos key.symm, if_pos ⟨p, List.mem_cons_self, key⟩, if_pos key]
    · rw [if_neg (Ne.symm key), if_neg key]
      simp only [List.exists_mem_cons_iff, key, false_or]

/-- Every listed entry of a component written anew, each once. -/
theorem get_applyAll_map {t : Tbl α} (sorted : tblSorted t = true) (g : α → α) (keeps : g d = d) {s : State} {k : Nat}
    (component : get s k = tblGet d t k) : get (applyAll (t.map fun p => put p.1 (g p.2)) s) k = g (get s k) := by
  rw [get_applyAll_entries get put reads sorted, component]
  split
  · rfl
  · next unlisted =>
    rw [tblGet_unlisted fun p hp key => unlisted ⟨p, hp, key⟩, keeps]

end
end

end Sys2Proof.Machine

/-! The events of the package's tables, of its power and of its host (R143, R166, R212, R257, R259, R335 to R347): each is `whenever` of its
condition, so what remains is to say when the condition holds and what its effects then are. -/

namespace Sys2Proof.Machine

/-- An event whose condition holds, by what its effects then are. -/
theorem event_effects {s : State} {b : Bool} {g : State → List Effect} {es : List Effect} (holds : b = true) (effects : g s = es) :
    event (whenever b g) s = .next (applyAll es s) := by rw [event_whenever b g s holds, effects]

section
variable {s : State}

/-! ## Tables (R143, R257, R259) -/

theorem domainRootStore_does {n : Nat} {v : Word} (listed : n < 4096) (dead : (s.dom n).st = .dead) (unheld : (s.dom n).hold = 0)
    (aligned : v.toNat % 4096 = 0) (fits : v.toNat < 2 ^ 52) :
    s.does (.domainRootStore n v) [.dom n { s.dom n with root := v.toNat }] :=
  event_effects (decide_eq_true listed) (if_pos ⟨dead, unheld, aligned, fits⟩)

theorem domainActivate_does {n : Nat} {v : Word} (listed : n < 4096) (dead : (s.dom n).st = .dead) (unheld : (s.dom n).hold = 0)
    (live : v.toNat / 4096 % 4 = 1) (owned : v.extractLsb' 32 16 ≠ 0 ∨ n = 0) :
    s.does (.domainActivate n v)
      [.dom n { s.dom n with gen := nextGen (s.dom n).gen, owner := v.extractLsb' 32 16, st := .live }] :=
  event_effects (decide_eq_true listed) (if_pos ⟨dead, unheld, live, owned⟩)

theorem frameAssignOwner_does {i : Nat} {v : Word} (populated : frameExists s.cfg i = true) (ordinary : (s.frame i).st = .ordinary)
    {o : BitVec 16} (unowned : (s.frame i).owner = 0) (owner : o ≠ 0) (field : v.extractLsb' 32 16 = o)
    (word : v.toNat = frameWord { s.frame i with owner := o }) :
    s.does (.frameAssignOwner i v) [.frame i { s.frame i with owner := o }] := by
  subst field
  exact event_effects rfl (if_pos ⟨populated, ordinary, unowned, owner, word⟩)

theorem frameSetAppend_does {i : Nat} {v : Word} (populated : frameExists s.cfg i = true) (ordinary : (s.frame i).st = .ordinary)
    (owned : (s.frame i).owner ≠ 0) (word : v.toNat = frameWord { s.frame i with st := .append, tail := 0 }) :
    s.does (.frameSetAppend i v) [.frame i { s.frame i with st := .append, tail := 0 }] :=
  event_effects rfl (if_pos ⟨populated, ordinary, owned, word⟩)

theorem cspBlock_does {d b : Nat} (v : Word) (listed : d < 4 ∧ b < 64) :
    s.does (.cspBlockStore d b v) (blockStore d b v s) ∧ s.does (.cspBlockInstall d b) (blockInstall d b s) :=
  ⟨event_effects (decide_eq_true listed) rfl, event_effects (decide_eq_true listed) rfl⟩

theorem registerWrite_does {pa : Nat} (v : Word) (device : inDevice pa = true) (inside : inHostWindow pa = false) (aligned : pa % 8 = 0) :
    s.does (.registerWrite pa v) (deviceStore pa 8 v s) :=
  event_effects (by simp [device, inside, aligned]) rfl

/-! ## Power (R212, R343) -/

theorem lt_of_gateable {cl : Nat} (can : gateable s cl = true) : cl < 32 := by
  simp only [gateable, Bool.and_eq_true, decide_eq_true_eq] at can
  obtain ⟨⟨⟨⟨⟨⟨listed, -⟩, -⟩, -⟩, -⟩, -⟩, -⟩ := can
  exact listed

theorem getLsbD_or_bit (w : BitVec 32) {cl : Nat} (listed : cl < 32) : (w ||| 1#32 <<< cl).getLsbD cl = true := by
  simp [listed]

/-- The gating of a cluster ends with its bit of GATED set (R212). -/
theorem clusterGating_gates {cl : Nat} (can : gateable s cl = true) :
    ∃ t : State, exec (.clusterGating cl) s = .next t ∧ t.pkg.gated.getLsbD cl = true := by
  refine ⟨_, event_effects can rfl, ?_⟩
  rw [applyAll_chain_append, applyAll_chain_cons, applyAll_chain_cons, applyAll_chain_cons]
  exact getLsbD_or_bit _ (lt_of_gateable can)

theorem clusterUngating_does {cl : Nat} (listed : cl < 32) (unasked : s.pkg.gatereq.getLsbD cl = false)
    (gated : s.pkg.gated.getLsbD cl = true) :
    s.does (.clusterUngating cl) [.pkg { s.pkg with gated := s.pkg.gated &&& ~~~(1#32 <<< cl) }] :=
  event_effects (by rw [unasked, gated, decide_eq_true listed]; rfl) rfl

/-! ## The host (R338 to R341) -/

section
variable {f pa : Nat} (named : f ≤ 64 ∧ pa % 4 = 0)
include named

theorem hostWrite_does (v : Lane) (may : hostMay s f pa true = true) (sound : memCheck s false pa 4 = none) :
    s.does (.hostWrite f pa v) (chain [homeStore none none (dirHome pa) pa 4 v.toNat, fun _ => [.dir (dirKey pa) .none]] s) :=
  event_effects (decide_eq_true named) (if_pos (by simp [may, sound]))

theorem hostRead_does (may : hostMay s f pa false = true) (sound : memCheck s true pa 4 = none) :
    s.does (.hostRead f pa) [.output (.readReply f (BitVec.ofNat 32 (bytesSeen s (hostClass s pa) pa 4)))] :=
  event_effects (decide_eq_true named) (if_pos (by simp [hostReads, may, sound]))

theorem hostRead_refused (denied : hostMay s f pa false = false) :
    s.does (.hostRead f pa) [aerNote f s, .output (.unsupported f)] :=
  event_effects (decide_eq_true named) (if_neg (by simp [hostReads, denied]))

end

theorem hostNotify_does {f d q : Nat} (named : f < 64 ∧ d < 4 ∧ q < 1024) (own : (queueOf s d q).tenant = f) :
    s.does (.hostNotify f d q) (queueNotify d q s) := event_effects (decide_eq_true named) (if_pos own)

end

theorem deviceEvents_happen : deviceEvents := by
  intro s
  refine ⟨fun n v listed dead unheld => ⟨domainRootStore_does listed dead unheld, domainActivate_does listed dead unheld⟩,
    fun i v populated ordinary => ⟨fun o => frameAssignOwner_does populated ordinary, frameSetAppend_does populated ordinary⟩,
    fun d b v die block => cspBlock_does v ⟨die, block⟩,
    fun p v port => event_effects (decide_eq_true port) rfl,
    fun v => ⟨event_effects rfl rfl, event_effects rfl rfl, event_effects rfl rfl, event_effects rfl rfl,
      fun f => event_effects rfl rfl⟩,
    event_effects rfl rfl, event_effects rfl rfl, event_effects rfl rfl, rfl, fun pa v => registerWrite_does v,
    fun cl => clusterGating_gates, fun cl => clusterUngating_does,
    fun f pa function word => ⟨fun v => hostWrite_does ⟨function, word⟩ v, hostRead_does ⟨function, word⟩,
      hostRead_refused ⟨function, word⟩⟩,
    fun f d q function die queue => hostNotify_does ⟨function, die, queue⟩,
    fun t tenant => event_effects (decide_eq_true tenant) rfl, event_effects rfl rfl, fun id => event_effects rfl rfl,
    fun a populated => event_effects populated rfl⟩

/-! ## A block of a chip scratchpad (R257) -/

theorem die_apply_die (s : State) (n k : Nat) (x : Die) : ((Effect.die n x).apply s).die k = if k = n then x else s.die k :=
  tblGet_set _ _ _ _ _

/-- A die's block written. -/
theorem block_apply_die (s : State) (d b : Nat) (x : Block) (d' b' : Nat) :
    ((Effect.die d { s.die d with blocks := tblSet .reset (s.die d).blocks b x }).apply s).block d' b'
      = if d' = d ∧ b' = b then x else s.block d' b' := by
  unfold State.block
  rw [die_apply_die]
  split
  · next die =>
    subst die
    rw [tblGet_set]
    simp
  · next die => simp [die]

/-- A block whose reassignment is under way is refused to every access that touches it. -/
theorem blocksOk_changing {s : State} {d b : Nat} (changing : (s.block d b).change.isSome = true) (tenant : Option Nat) {ea n : Nat}
    (first : ea / 2 ^ 20 ≤ b) (last : b * 2 ^ 20 < ea + n) : blocksOk s d tenant ea n = false := by
  have reached : b - ea / 2 ^ 20 < (ea + n + 2 ^ 20 - 1) / 2 ^ 20 - ea / 2 ^ 20 := by omega
  refine Bool.eq_false_iff.mpr fun ok => ?_
  obtain ⟨-, blocks⟩ := Bool.and_eq_true_iff.mp ok
  have here := List.all_eq_true.mp blocks _ (List.mem_range.mpr reached)
  rw [Nat.add_sub_cancel' first] at here
  obtain ⟨-, idle⟩ := Bool.and_eq_true_iff.mp here
  rw [State.block, Option.isNone_iff_eq_none.mp idle] at changing
  cases changing

/-- The state in which a block's new entry is recorded beside the one in force. -/
def State.reassigning (s : State) (d b : Nat) (new : Bool × Nat) : State :=
  (Effect.die d { s.die d with blocks := tblSet .reset (s.die d).blocks b { s.block d b with change := some new } }).apply s

theorem block_reassigning (s : State) (d b : Nat) (new : Bool × Nat) (d' b' : Nat) : (s.reassigning d b new).block d' b'
    = if d' = d ∧ b' = b then { s.block d b with change := some new } else s.block d' b' := block_apply_die s d b _ d' b'

theorem block_reassigning_same (s : State) (d b : Nat) (new : Bool × Nat) :
    (s.reassigning d b new).block d b = { s.block d b with change := some new } :=
  (block_reassigning s d b new d b).trans (if_pos ⟨rfl, rfl⟩)

section
variable {s : State} {d b : Nat} (die : d < 4) (block : b < 64)
include die block

theorem cspBlockStore_ignored {v : Word} (ignored : v.toNat = blockWord (s.block d b) ∨ 256 ≤ v.toNat ∨ v.getLsbD 6 = true) :
    exec (.cspBlockStore d b v) s = .next s := by
  have nothing : blockStore d b v s = [] := by
    refine if_pos ?_
    rcases ignored with same | high | six
    · exact .inr (.inr (.inl same.symm))
    · exact .inl (by omega)
    · exact .inr (.inl six)
  exact event_effects (decide_eq_true ⟨die, block⟩) nothing

theorem cspBlockStore_begins {v : Word} (byte : v.toNat < 256) (six : v.getLsbD 6 = false) (differs : v.toNat ≠ blockWord (s.block d b))
    (idle : (s.block d b).change = none) :
    exec (.cspBlockStore d b v) s = .next (s.reassigning d b (v.getLsbD 7, v.toNat % 64)) := by
  show s.does (.cspBlockStore d b v) [.die d { s.die d with
    blocks := tblSet .reset (s.die d).blocks b { s.block d b with change := some (v.getLsbD 7, v.toNat % 64) } }]
  refine event_effects (decide_eq_true ⟨die, block⟩) (if_neg ?_)
  have idle' : (tblGet .reset (s.die d).blocks b).change = none := idle
  rintro (high | six' | same | changing)
  · omega
  · rw [six] at six'
    cases six'
  · exact differs same.symm
  · rw [idle'] at changing
    cases changing

theorem cspBlockInstall_installs {new : Bool × Nat} (change : (s.block d b).change = some new) : s.does (.cspBlockInstall d b)
    [.dmemClear (d * 2 ^ 26 + b * 2 ^ 20) (d * 2 ^ 26 + (b + 1) * 2 ^ 20), .die d { s.die d with
      blocks := tblSet .reset (s.die d).blocks b { assigned := new.1, tenant := new.2, change := none } }] := by
  refine event_effects (decide_eq_true ⟨die, block⟩) ?_
  have change' : (tblGet .reset (s.die d).blocks b).change = some new := change
  simp only [blockInstall, change']

end

theorem blockChange_holds : blockChange := by
  intro s d b v die block
  refine ⟨cspBlockStore_ignored die block, fun byte six differs idle => ?_⟩
  have here := block_reassigning_same s d b (v.getLsbD 7, v.toNat % 64)
  have installs := cspBlockInstall_installs die block (congrArg Block.change here)
  have installed := block_apply_die ((Effect.dmemClear (d * 2 ^ 26 + b * 2 ^ 20) (d * 2 ^ 26 + (b + 1) * 2 ^ 20)).apply
    (s.reassigning d b (v.getLsbD 7, v.toNat % 64))) d b { assigned := v.getLsbD 7, tenant := v.toNat % 64, change := none }
  have entry := (installed d b).trans (if_pos ⟨rfl, rfl⟩)
  exact ⟨_, _, cspBlockStore_begins die block byte six differs idle, installs, (congrArg blockWord here).trans rfl, rfl,
    fun tenant ea n _ => blocksOk_changing (by rw [here]; rfl) tenant, congrArg Block.assigned entry, congrArg Block.tenant entry,
    congrArg Block.change entry,
    fun d' b' other => ((installed d' b').trans (if_neg other)).trans ((block_reassigning s d b _ d' b').trans (if_neg other)),
    fun a => tblGet_clear _ _ _ a⟩

/-! ## FREEZE and extend (R344 to R346) -/

theorem landAll_free : Strand.free.landAll = .free := rfl

/-- The links with every one down (R344). -/
theorem downed_up (links : Tbl Link) (l : Nat) : (tblGet .down (tblMap .down (fun _ l => { l with up := false }) links) l).up = false := by
  refine tblGet_of_forall (P := fun k : Link => k.up = false) rfl (fun p hp => ?_) l
  obtain ⟨q, -, rfl⟩ := List.mem_map.mp (List.mem_filter.mp hp).1
  rfl

theorem freeze_strand {s : State} (wf : s.wf = true) (k : Nat) : (applyAll (freeze s) s).strand k = (s.strand k).landAll := by
  obtain ⟨⟨strands, -⟩, -⟩ := (wf_iff s).mp wf
  rw [freeze, applyAll_append]
  exact get_applyAll_map State.strand Effect.strand (fun _ _ _ _ => tblGet_set _ _ _ _ _) ((tblWf_iff _ _).mp strands).1
    Strand.landAll landAll_free rfl

/-- FREEZE changes the strands and the package alone. -/
theorem freeze_keeps (s : State) {α : Type} (g : State → α) (strand : ∀ n x t, g ((Effect.strand n x).apply t) = g t)
    (pkg : ∀ x t, g ((Effect.pkg x).apply t) = g t) : g (applyAll (freeze s) s) = g s := by
  refine applyAll_keeps g _ s fun e he t => ?_
  rcases List.mem_append.mp he with he | he
  · obtain ⟨p, -, rfl⟩ := List.mem_map.mp he
    exact strand _ _ t
  · rw [List.mem_singleton.mp he]
    exact pkg _ t

theorem freeze_pkg (s : State) : (applyAll (freeze s) s).pkg = { s.pkg with
    frozen := true,
    fab := { s.pkg.fab with links := tblMap .down (fun _ l => { l with up := false }) s.pkg.fab.links } } := by
  rw [freeze, applyAll_append]
  rfl

theorem freeze_holds {s : State} (wf : s.wf = true) {v : Word} (key : v.toNat % 2 ^ 32 = 0xF0F00001) :
    ∃ t, exec .freezePin s = .next t ∧ exec (.freezeWrite v) s = .next t ∧ t.pkg.frozen = true
      ∧ (∀ k, t.strand k = (s.strand k).landAll) ∧ (∀ k, (t.strand k).c.pend = [] ∧ (t.strand k).v.pend = [])
      ∧ (∀ l, (tblGet .down t.pkg.fab.links l).up = false)
      ∧ t.mem = s.mem ∧ t.pmem = s.pmem ∧ t.dmem = s.dmem ∧ t.held = s.held := by
  have landed := freeze_strand wf
  refine ⟨applyAll (freeze s) s, event_effects rfl rfl, event_effects rfl (if_pos key), by rw [freeze_pkg], landed, fun k => ?_,
    fun l => ?_, freeze_keeps s State.mem (fun _ _ _ => rfl) fun _ _ => rfl, freeze_keeps s State.pmem (fun _ _ _ => rfl) fun _ _ => rfl,
    freeze_keeps s State.dmem (fun _ _ _ => rfl) fun _ _ => rfl, freeze_keeps s State.held (fun _ _ _ => rfl) fun _ _ => rfl⟩
  · rw [landed]
    exact ⟨landAll_c_pend _, landAll_v_pend _⟩
  · rw [freeze_pkg]
    exact downed_up _ l

theorem extend_holds {s : State} (running : s.pkg.mgmt.cmd = 1) (listed : s.pkg.mgmt.index.toNat ≤ 7) (busy : s.pkg.mgmt.result = 0) :
    let i := s.pkg.mgmt.index.toNat
    ∃ t, exec .extend s = .next t ∧ t.pkg.mgmt.cmd = 0 ∧ t.pkg.mgmt.result = 1
      ∧ ∀ j, tblGet 0 t.pkg.mgmt.m j = if j = i then Config.sha3_256
          (vecBytes 32 (tblGet 0 s.pkg.mgmt.m i).toNat ++ vecBytes 32 s.pkg.mgmt.operand.toNat) else tblGet 0 s.pkg.mgmt.m j := by
  intro i
  have ends : extend s = [.pkg { s.pkg with mgmt := { s.pkg.mgmt with cmd := 0, result := 1, m := tblSet 0 s.pkg.mgmt.m i (Config.sha3_256
      (vecBytes 32 (tblGet 0 s.pkg.mgmt.m i).toNat ++ vecBytes 32 s.pkg.mgmt.operand.toNat)) } }] := by
    simp only [extend, running, busy, ne_eq, not_true_eq_false, if_false, if_neg (Nat.not_lt.mpr listed), if_true]
    rfl
  exact ⟨_, event_effects rfl ends, rfl, rfl, fun j => tblGet_set _ _ _ _ _⟩

end Sys2Proof.Machine

/-! The reset of a tenant (R341): the kill of a group writes that group alone of the groups, and no die; so of the tenant's groups each has
failed at the end, and the queues are those of the dies the reset began with. -/

namespace Sys2Proof.Machine

/-! ## What the kill of a group changes (R112, R190, R281) -/

/-- The parts of the state that the kill of group `g` writes: of the groups, that one. -/
def Effect.ofKill (g : Nat) : Effect → Bool
  | .group n _ => n == g
  | .strand .. | .core .. | .cluster .. | .pkg .. | .dom .. | .task .. | .counter .. | .held .. | .syncs .. | .output .. => true
  | _ => false

theorem ofKill_group {g : Nat} {e : Effect} (h : e.ofKill g = true) {k : Nat} (other : k ≠ g) (t : State) :
    (e.apply t).group k = t.group k := by
  cases e
  case group n x => exact tblGet_set_other _ _ _ _ _ ((beq_iff_eq.mp h : n = g) ▸ other)
  case reset => cases h
  all_goals rfl

/-- What a kill leaves as it is: the dies, the tenants, the frames and the chip scratchpads. -/
structure KillLeaves (s t : State) : Prop where
  dies : t.dies = s.dies
  tenants : t.tenants = s.tenants
  frames : t.frames = s.frames
  dmem : t.dmem = s.dmem

theorem ofKill_leaves {g : Nat} {e : Effect} (h : e.ofKill g = true) (t : State) : KillLeaves t (e.apply t) := by
  cases e <;> first | exact ⟨rfl, rfl, rfl, rfl⟩ | cases h

theorem orphan_ofKill (g : Nat) (gone : Nat → Bool) (s : State) : ∀ e ∈ orphan gone s, e.ofKill g = true := by
  intro e he
  rcases List.mem_append.mp he with he | he
  · rcases List.mem_pair.mp he with rfl | rfl <;> rfl
  · obtain ⟨p, -, rfl⟩ := List.mem_map.mp he
    rfl

theorem freeSlot_ofKill {g : Nat} (s : State) (six : Nat) {x : Strand} (own : x.gid = some g) :
    ∀ e ∈ freeSlot s six x, e.ofKill g = true := by
  intro e he
  rcases List.mem_append.mp he with he | he
  · rw [keepQuant, own] at he
    dsimp only at he
    split at he
    · cases he
    · cases List.mem_singleton.mp he
      exact beq_self_eq_true g
  · cases List.mem_singleton.mp he
    rfl

theorem killStrand_ofKill {g : Nat} (s : State) (six : Nat) {x : Strand} (own : x.gid = some g) :
    ∀ e ∈ killStrand s six x, e.ofKill g = true := by
  intro e he
  simp only [killStrand] at he
  split at he
  · exact freeSlot_ofKill s six own e he
  · cases List.mem_singleton.mp he
    rfl

theorem setHold_ofKill (g n : Nat) (d : Dom) (s : State) : ∀ e ∈ setHold n d s, e.ofKill g = true := by
  intro e he
  rcases List.mem_cons.mp he with rfl | he
  · rfl
  · split at he
    · obtain ⟨n, c, rfl⟩ := mem_invalidateSlots he
      rfl
    · cases he

theorem unholdAll_ofKill (g : Nat) (doms : List Nat) (s : State) : ∀ e ∈ unholdAll doms s, e.ofKill g = true := by
  refine chain_all _ _ s fun f hf t => ?_
  obtain ⟨d, -, rfl⟩ := List.mem_map.mp hf
  exact setHold_ofKill g _ _ t

/-- A killed group reported, which ends its kill. -/
def reported (g : Nat) (y : Machine.Group) : List Effect := [.group g (some { y with failed := true, ctxs := [] }), .output (.failure g)]

def reportFailed (g : Nat) (s : State) : List Effect :=
  match s.group g with
  | some y => chain [unholdAll y.holds, fun _ => reported g y] s
  | none => []

theorem reported_ofKill (g : Nat) (y : Machine.Group) : ∀ e ∈ reported g y, e.ofKill g = true := by
  simp [reported, Effect.ofKill]

theorem reported_group (g : Nat) (y : Machine.Group) (s : State) :
    (applyAll (reported g y) s).group g = some { y with failed := true, ctxs := [] } := by
  simp [reported, State.group]

theorem reportFailed_ofKill (g : Nat) (s : State) : ∀ e ∈ reportFailed g s, e.ofKill g = true := by
  rw [reportFailed]
  split
  · next y _ =>
    refine chain_all _ _ s fun f hf t => ?_
    rcases List.mem_pair.mp hf with rfl | rfl
    · exact unholdAll_ofKill g _ t
    · exact reported_ofKill g y
  · exact List.forall_mem_nil _

theorem reportFailed_failed (g : Nat) (s : State) {y : Machine.Group} (stays : (applyAll (reportFailed g s) s).group g = some y) :
    y.failed = true := by
  rw [reportFailed] at stays
  split at stays
  · rw [applyAll_chain_cons, applyAll_chain_cons, chain_nil, applyAll_nil, reported_group] at stays
    cases stays
    rfl
  · next gone =>
    rw [applyAll_nil, gone] at stays
    cases stays

/-- A kill is its parts, one after another, and the report. -/
theorem killGroup_parts (s : State) (g : Nat) : ∃ fs : List (State → List Effect),
    killGroup s g = chain (fs ++ [reportFailed g]) s ∧ ∀ f ∈ fs, ∀ t, ∀ e ∈ f t, e.ofKill g = true := by
  refine ⟨[_, _, _, _, _, _, _], rfl, fun f hf t e he => ?_⟩
  simp only [List.mem_cons, List.not_mem_nil, or_false] at hf
  rcases hf with rfl | rfl | rfl | rfl | rfl | rfl | rfl
  · exact orphan_ofKill g _ t e he
  · obtain ⟨p, mine, he⟩ := List.mem_flatMap.mp he
    exact killStrand_ofKill t p.1 (of_decide_eq_true (List.mem_filter.mp mine).2).1 e he
  · obtain ⟨p, -, rfl⟩ := List.mem_map.mp he
    rfl
  · obtain ⟨p, -, rfl⟩ := List.mem_map.mp he
    rfl
  · obtain ⟨p, -, hp⟩ := List.mem_filterMap.mp he
    split at hp
    · obtain ⟨-, ⟨⟩⟩ := Option.ite_none_right_eq_some.mp hp
      rfl
    · cases hp
  · obtain ⟨p, -, hp⟩ := List.mem_filterMap.mp he
    obtain ⟨-, ⟨⟩⟩ := Option.ite_none_right_eq_some.mp hp
    rfl
  · cases List.mem_singleton.mp he
    rfl

theorem killGroup_ofKill (s : State) (g : Nat) : ∀ e ∈ killGroup s g, e.ofKill g = true := by
  obtain ⟨fs, parts, ofKill⟩ := killGroup_parts s g
  rw [parts]
  refine chain_all _ _ s fun f hf t => ?_
  rcases List.mem_append.mp hf with hf | hf
  · exact ofKill f hf t
  · cases List.mem_singleton.mp hf
    exact reportFailed_ofKill g t

/-- A killed group that is still there has failed. -/
theorem killGroup_failed (s : State) (g : Nat) {y : Machine.Group} (stays : (applyAll (killGroup s g) s).group g = some y) :
    y.failed = true := by
  obtain ⟨fs, parts, -⟩ := killGroup_parts s g
  rw [parts, applyAll_chain_append, applyAll_chain_cons] at stays
  exact reportFailed_failed g _ stays

theorem killGroup_other (s : State) {g k : Nat} (other : k ≠ g) : (applyAll (killGroup s g) s).group k = s.group k :=
  applyAll_keeps (State.group · k) _ s fun _ he t => ofKill_group (killGroup_ofKill s g _ he) other t

/-! ## The kills of a list of groups -/

def killAll (gs : List Nat) : List (State → List Effect) := gs.map fun g s => killGroup s g

theorem killAll_keeps {α : Type} (p : State → α) (keeps : ∀ (g : Nat) (e : Effect), e.ofKill g = true → ∀ t, p (e.apply t) = p t)
    (gs : List Nat) (s : State) : p (applyAll (chain (killAll gs) s) s) = p s := by
  refine applyAll_keeps p _ s (chain_all (fun e => ∀ t, p (e.apply t) = p t) _ s fun f hf t e he => ?_)
  obtain ⟨g, -, rfl⟩ := List.mem_map.mp hf
  exact keeps g e (killGroup_ofKill t g e he)

theorem killAll_group (gs : List Nat) (s : State) (k : Nat) : let u := applyAll (chain (killAll gs) s) s
    (k ∈ gs → ∀ y, u.group k = some y → y.failed = true) ∧ (k ∉ gs → u.group k = s.group k) := by
  induction gs generalizing s with
  | nil => exact ⟨nofun, fun _ => rfl⟩
  | cons g gs ih =>
    obtain ⟨listed, unlisted⟩ := ih (applyAll (killGroup s g) s)
    rw [killAll, List.map_cons, applyAll_chain_cons, ← killAll]
    refine ⟨fun mem y stays => ?_, fun mem => ?_⟩
    · by_cases later : k ∈ gs
      · exact listed later y stays
      · cases (List.mem_cons.mp mem).resolve_right later
        exact killGroup_failed s k ((unlisted later).symm.trans stays)
    · obtain ⟨other, later⟩ := not_or.mp (mt List.mem_cons.mpr mem)
      exact (unlisted later).trans (killGroup_other s other)

/-! ## A tenant's reset (R341) -/

/-- A queue as the reset of its tenant leaves it. -/
def Queue.tenantReset (t : Nat) (q : Queue) : Queue :=
  if q.tenant = t then { q with mapped := false, pend := false, woken := false } else q

/-- A die whose queues the reset of a tenant has unmapped. -/
def Die.tenantReset (t : Nat) (d : Die) : Die := { d with queues := tblMap .reset (fun _ q => Queue.tenantReset t q) d.queues }

theorem Queue.tenantReset_reset (t : Nat) : Queue.tenantReset t .reset = .reset := ite_self _

/-- The groups of a tenant that its reset kills. -/
def resetKills (t : Nat) (s : State) : List Nat :=
  (s.groups.filter (fun p => p.2.any (fun g => g.tenant == t && !g.failed))).map Prod.fst

theorem resetTenant_eq (t : Nat) (s : State) : resetTenant t s
    = chain (killAll (resetKills t s) ++ [fun s => s.dies.map fun d => .die d.1 (Die.tenantReset t d.2)]) s := by
  rw [killAll, resetKills, List.map_map]
  rfl

/-- The state once the groups are killed. -/
def State.resetKilled (t : Nat) (s : State) : State := applyAll (chain (killAll (resetKills t s)) s) s

theorem applyAll_resetTenant (t : Nat) (s : State) : applyAll (resetTenant t s) s
    = applyAll ((s.resetKilled t).dies.map fun d => .die d.1 (Die.tenantReset t d.2)) (s.resetKilled t) := by
  rw [resetTenant_eq, applyAll_chain_append, applyAll_chain_cons]
  rfl

/-- What neither a kill nor a die effect writes, a tenant's reset keeps. -/
theorem resetTenant_keeps {α : Type} (p : State → α)
    (kill : ∀ (g : Nat) (e : Effect), e.ofKill g = true → ∀ t, p (e.apply t) = p t)
    (die : ∀ n x t, p ((Effect.die n x).apply t) = p t) (t : Nat) (s : State) : p (applyAll (resetTenant t s) s) = p s := by
  rw [applyAll_resetTenant]
  refine (applyAll_keeps p _ _ fun e he u => ?_).trans (killAll_keeps p kill _ s)
  obtain ⟨d, -, rfl⟩ := List.mem_map.mp he
  exact die _ _ u

theorem resetTenant_die (t : Nat) {s : State} (wf : s.wf = true) (d : Nat) :
    (applyAll (resetTenant t s) s).die d = Die.tenantReset t (s.die d) := by
  obtain ⟨⟨-, -, -, dies⟩, -⟩ := (wf_iff s).mp wf
  have kept : (s.resetKilled t).dies = s.dies := killAll_keeps State.dies (fun _ _ h u => (ofKill_leaves h u).dies) _ s
  have kept' : (s.resetKilled t).die d = s.die d := congrArg (fun ds => tblGet Die.idle ds d) kept
  rw [applyAll_resetTenant, kept, ← kept']
  exact get_applyAll_map State.die Effect.die (fun _ _ _ _ => die_apply_die _ _ _ _) ((tblWf_iff _ _).mp dies).1
    (Die.tenantReset t) rfl kept'

theorem resetTenant_group (t : Nat) (s : State) {k : Nat} {y : Machine.Group}
    (stays : (applyAll (resetTenant t s) s).group k = some y) (own : y.tenant = t) : y.failed = true := by
  obtain ⟨listed, unlisted⟩ := killAll_group (resetKills t s) s k
  have dies : (applyAll (resetTenant t s) s).group k = (s.resetKilled t).group k := by
    rw [applyAll_resetTenant]
    refine applyAll_keeps (State.group · k) _ _ fun e he u => ?_
    obtain ⟨d, -, rfl⟩ := List.mem_map.mp he
    rfl
  rw [dies] at stays
  by_cases killed : k ∈ resetKills t s
  · exact listed killed y stays
  · have before : tblGet none s.groups k = some y := (unlisted killed).symm.trans stays
    have entry : (k, some y) ∈ s.groups := before ▸ mem_of_tblGet_ne (by rw [before]; exact nofun)
    by_contra alive
    rw [Bool.not_eq_true] at alive
    exact killed (List.mem_map.mpr ⟨_, List.mem_filter.mpr ⟨entry, by simp [own, alive]⟩, rfl⟩)

/-- A reset tenant's groups have failed and its queues are unmapped; nothing else of the tables and the scratchpads has changed. -/
theorem tenantReset_holds : Sys2Proof.tenantReset := by
  intro s t tenant wf queues
  refine ⟨_, event_effects (decide_eq_true tenant) rfl, fun g y => resetTenant_group t s, fun d q => ?_,
    resetTenant_keeps State.tenants (fun _ _ h u => (ofKill_leaves h u).tenants) (fun _ _ _ => rfl) t s,
    resetTenant_keeps State.frames (fun _ _ h u => (ofKill_leaves h u).frames) (fun _ _ _ => rfl) t s,
    resetTenant_keeps State.dmem (fun _ _ h u => (ofKill_leaves h u).dmem) (fun _ _ _ => rfl) t s, fun d b => ?_⟩
  · rw [queueOf, resetTenant_die t wf]
    exact tblGet_tblMap ((tblWf_iff _ _).mp (queues d)).1 (fun _ => Queue.tenantReset t) (Queue.tenantReset_reset t)
  · rw [State.block, resetTenant_die t wf]
    rfl

/-- Settles O48: the events, and what a block change, a freeze, an extend and a tenant's reset leave. -/
theorem deviceEvents : Obligations.DeviceEvents :=
  ⟨deviceEvents_happen, blockChange_holds, ⟨fun _ _ wf key => freeze_holds wf key, fun _ => extend_holds⟩, tenantReset_holds⟩

end Sys2Proof.Machine

/-! The message instructions and the remote transfers (R167 to R178): the checks that a send passes and the message it leaves, then each
instruction by its body. -/

namespace Sys2Proof.Machine

section
variable (f : Stop → State → State) (s0 : State) {s : State}

/-! ## A send (R169, R170, R172) -/

theorem run_destCore {a : Word} {bad : Bool} {c : Nat} (legal : bad = false) (bound : boundCore s s.six (dwCore a) = some c)
    (k : Nat → Prog) : Prog.run f s0 (destCore a bad k) s = Prog.run f s0 (k c) s := by
  simp only [destCore, m_bind, m_getS, run_get]
  rw [trapIf_pass legal, bound]
  rfl

theorem run_checkBuffer (a : Word) {reply : Bool}
    (room : (if reply then (s.core s.coreNo).repBuf.length else (s.core s.coreNo).reqBuf.length) < 8) (k : Unit → Prog) :
    Prog.run f s0 (checkBuffer a reply k) s = Prog.run f s0 (k ()) s := by
  simp only [checkBuffer, m_bind, m_getS, run_get]
  cases reply with
  | true => exact congrArg (Prog.run f s0 · s) (trapIf_pass (decide_eq_false (Nat.not_le.mpr room)) 15 1 a k)
  | false => exact congrArg (fun m : M Unit => Prog.run f s0 (m k) s) (if_neg (Nat.not_le.mpr room))

@[simp] theorem run_sendMsg (target : Nat) (reply : Bool) (hdr : Word) (payload : List Word) (entry : Option Word) (k : Unit → Prog) :
    Prog.run f s0 (sendMsg target reply hdr payload entry k) s = Prog.run f s0 (k ()) (s.posted target reply hdr payload entry) := by
  cases reply <;> rfl

/-- Checks 3 to 6 of R172 and the release of R170 passed: a send goes on in the state it was issued in. -/
theorem run_maySend {a : Word} {bad reply : Bool} {last target : Nat} (may : MaySend s a bad reply last target) (k : Unit → Prog) :
    Prog.run f s0 (trapIf (decide (31 < last)) 16 3 a fun _ => beOldest fun _ => checkBuffer a reply fun _ => sendRelease k) s
      = Prog.run f s0 (k ()) s := by
  obtain ⟨-, -, present, room, plain, released⟩ := may
  rw [trapIf_pass (decide_eq_false (Nat.not_lt.mpr present)), run_beOldest f s0 s _ plain, run_checkBuffer f s0 a room, sendRelease,
    run_releaseIn f s0 s _ _ released]

theorem run_sendBody {a : Word} {b len c : Nat} (may : MaySend s a (badDest a) (dwReply a) (b + len) c) (k : Ctl → Prog) :
    Prog.run f s0 (sendBody a b len k) s = Prog.run f s0 (k .next)
      (s.posted c (dwReply a) (headerOf (withLen a len) len (logicalCore s s.six)) (readRun s.me b (len + 1)) none) := by
  simp only [sendBody, m_bind]
  rw [run_destCore f s0 may.legal may.bound, run_maySend f s0 may]
  simp only [m_getS, run_get, run_sendMsg, m_pure]

end

section
variable {s : State} (hr : s.ready .c) (o : AB) {c : Nat}
include hr

theorem execSend_next (may : MaySend s.landed (s.sreg o.a) (badDest (s.sreg o.a)) (dwReply (s.sreg o.a)) o.b.toNat c) :
    execSend o s = .next ((s.landed.posted c (dwReply (s.sreg o.a)) (headerOf (withLen (s.sreg o.a) 0) 0 (logicalCore s.landed s.six))
      (readRun s.landed.me o.b.toNat 1) none).ended .c 4 o.w.toNat) := by
  refine (issue_infoC _ _ _ _ _ hr).trans (congrArg Host.Outcome.next ?_)
  rw [m_bind, run_getSr_landed]
  exact run_sendBody onStop s (len := 0) may _

theorem execSendm_next
    (may : MaySend s.landed (s.sreg o.a) (badDest (s.sreg o.a)) (dwReply (s.sreg o.a)) (o.b.toNat + dwLen (s.sreg o.a)) c) :
    execSendm o s = .next ((s.landed.posted c (dwReply (s.sreg o.a))
      (headerOf (withLen (s.sreg o.a) (dwLen (s.sreg o.a))) (dwLen (s.sreg o.a)) (logicalCore s.landed s.six))
      (readRun s.landed.me o.b.toNat (dwLen (s.sreg o.a) + 1)) none).ended .c 4 o.w.toNat) := by
  refine (issue_infoC _ _ _ _ _ hr).trans (congrArg Host.Outcome.next ?_)
  rw [m_bind, run_getSr_landed]
  exact run_sendBody onStop s may _

theorem execAmsg_next
    (may : MaySend s.landed (s.sreg o.a) (badDest (s.sreg o.a) || dwReply (s.sreg o.a) || dwFifo (s.sreg o.a)) false
      (o.b.toNat + 1 + dwLen (s.sreg o.a)) c)
    (even : (s.sreg o.b).getLsbD 0 = false) :
    execAmsg o s = .next ((s.landed.posted c false (headerOf (s.sreg o.a) (dwLen (s.sreg o.a)) (logicalCore s.landed s.six))
      (readRun s.landed.me (o.b.toNat + 1) (dwLen (s.sreg o.a) + 1)) (some (s.sreg o.b))).ended .c 4 o.w.toNat) := by
  refine (issue_infoC _ _ _ _ _ hr).trans (congrArg Host.Outcome.next ?_)
  simp only [m_bind, run_getSr_landed]
  rw [run_destCore onStop s may.legal may.bound, trapIf_pass even, run_maySend onStop s may]
  simp only [m_getS, run_get, run_sendMsg, m_pure]
  rfl

end

/-! ## The reply of a handler (R178) -/

/-- Every listed value of a table written at one key, and the value written, have a property that the others had. -/
theorem forall_mem_tblSet {α : Type} [DecidableEq α] {d : α} {P : α → Prop} {t : Tbl α} {k : Nat} {v : α} (written : P v)
    (listed : ∀ p ∈ t, P p.2) : ∀ p ∈ tblSet d t k v, P p.2 := by
  have kept : ∀ p ∈ tblErase t k, P p.2 := fun p hp => listed p (List.mem_of_mem_filter hp)
  unfold tblSet
  split
  · exact kept
  · intro p hp
    rcases mem_tblInsert k v _ p hp with rfl | hp
    · exact written
    · exact kept p hp

/-- Whether an atomic of a strand is at a core, and not performed. -/
def Core.holdsAtomicOf (six : Nat) (c : Core) : Bool :=
  (c.hq ++ c.port).any fun e => match e with | .atomic a => a.six == six | _ => false

theorem outstanding_eq (s : State) (six : Nat) : outstanding s six
    = (s.held.any (fun h => h.six == six && h.kind == 0)
      || (s.syncs.any (fun y => y.six == six) || s.pkg.loads.any (fun l => l.six == six)
        || s.pkg.fab.remotes.any (fun r => r.six == six && r.req.any (fun h => h.kind == 0))
        || s.cores.any (fun c => c.2.holdsAtomicOf six))) := by
  simp only [outstanding, openIssued, Bool.and_true]
  rfl

/-- A core changed but for its handler queue and its request port leaves what has not performed as it was. -/
theorem outstanding_apply_core {s : State} {six n : Nat} {c : Core} (released : outstanding s six = false)
    (hq : c.hq = (s.core n).hq) (port : c.port = (s.core n).port) : outstanding ((Effect.core n c).apply s) six = false := by
  rw [outstanding_eq, Bool.or_eq_false_iff, Bool.or_eq_false_iff] at released ⊢
  obtain ⟨held, others, cores⟩ := released
  refine ⟨held, others, ?_⟩
  have listed : ∀ p ∈ s.cores, p.2.holdsAtomicOf six = false := by simpa using cores
  have here : (s.core n).holdsAtomicOf six = false := tblGet_of_forall (P := fun c : Core => c.holdsAtomicOf six = false) rfl listed n
  have written : c.holdsAtomicOf six = false := by rw [Core.holdsAtomicOf, hq, port]; exact here
  simpa using forall_mem_tblSet (d := .idle) (P := fun c : Core => c.holdsAtomicOf six = false) (k := n) written listed

/-- A message in a send buffer is no access (R98, R169). -/
theorem outstanding_posted {s : State} {six : Nat} (released : outstanding s six = false) (target : Nat) (reply : Bool) (hdr : Word)
    (payload : List Word) (entry : Option Word) : outstanding (s.posted target reply hdr payload entry) six = false := by
  cases reply <;> exact outstanding_apply_core released rfl rfl

/-- The issuing strand after its reply has left (R178). -/
def State.replied (s : State) : State := s.withMe { s.me with replied := true }

section
variable (f : Stop → State → State) (s0 : State) {s : State}

theorem run_amretReply {a : Word} {b c : Nat} (may : MaySend s a (badDest (a ||| 0x2000000)) true (b + dwLen a) c) (k : Unit → Prog) :
    Prog.run f s0 (amretReply a b k) s = Prog.run f s0 (k ())
      (s.posted c true (headerOf (a ||| 0x2000000) (dwLen a) (logicalCore s s.six)) (readRun s.me b (dwLen a + 1)) none).replied := by
  simp only [amretReply, m_bind]
  rw [run_destCore f s0 may.legal may.bound, run_maySend f s0 may]
  simp only [m_getS, run_get, run_sendMsg, run_modMe]
  rfl

end

/-- Steps 1 to 3 of R32 are over (R178). -/
theorem finReady_of {s : State} (idle : s.me.sys.vrun = false) (await : s.me.await = []) (released : outstanding s s.six = false) :
    finReady s = true := by
  simp [finReady, idle, await, released]

/-- How AMRET goes on once no reply of it is left to send (R178): steps 1 to 4 of R32, or a wait for them. -/
def amretEnd (o : AB) : M Ctl := do
  let s ← getS
  if finReady s then do
    puts (endFiring s.six s)
    pure .placed
  else if o.a = 0 then stall .fin
  else pure (.hold .reply)

theorem run_amretEnd (f : Stop → State → State) (s0 : State) {s : State} (ready : finReady s = true) (o : AB) (k : Ctl → Prog) :
    Prog.run f s0 (amretEnd o k) s = Prog.run f s0 (k .placed) (applyAll (endFiring s.six s) s) := by
  simp only [amretEnd, m_bind, m_getS, run_get, ready, if_true, run_puts, m_pure]

section
variable {s : State} (hr : s.ready .c) (o : AB) (slot : slotOf s.six = 6)
include hr slot

/-- AMRET in slot 6 (R178): its reply where it has one to send, and the end of its firing. -/
theorem execAmret_eq : execAmret o s = .next (Prog.run onStop s
    ((if o.a ≠ 0 ∧ !s.landed.me.replied then amretReply (s.sreg o.a) o.b.toNat else pure ()) fun _ => amretEnd o fun c =>
      finishIssue (infoC (opA 0x18 4 + o.bits) o.w.toNat (if o.a = 0 then [] else usesRun s o.a o.b 0)) .c c fun _ => .done)
    s.landed) := by
  refine (issue_infoC _ _ _ _ _ hr).trans (congrArg Host.Outcome.next ?_)
  simp only [m_bind, run_getSr_landed, m_getS, run_get]
  rw [trapIf_pass (by simpa using slot)]
  by_cases sends : o.a ≠ 0 ∧ (!s.landed.me.replied) = true
  · rw [if_pos sends, if_pos sends]
    rfl
  · rw [if_neg sends, if_neg sends]
    rfl

variable (idle : s.me.sys.vrun = false)
include idle

theorem execAmret_ends (silent : o.a = 0 ∨ s.me.replied = true) (released : outstanding s.landed s.six = false) :
    execAmret o s = .next ((applyAll (endFiring s.six s.landed) s.landed).endedHere .c o.w.toNat) := by
  have ready : finReady s.landed = true := finReady_of (by simpa using idle) (by simpa using hr.2.1) released
  have silent' : ¬(o.a ≠ 0 ∧ (!s.landed.me.replied) = true) := by
    rcases silent with unnamed | once
    · simp [unnamed]
    · simp [once]
  rw [execAmret_eq hr o slot, if_neg silent', m_pure, run_amretEnd onStop s ready, run_finish_endedHere]
  rfl

theorem execAmret_replies {c : Nat} (named : o.a ≠ 0) (first : s.me.replied = false)
    (may : MaySend s.landed (s.sreg o.a) (badDest (s.sreg o.a ||| 0x2000000)) true (o.b.toNat + dwLen (s.sreg o.a)) c) :
    let u := (s.landed.posted c true
      (headerOf (s.sreg o.a ||| 0x2000000) (dwLen (s.sreg o.a)) (logicalCore s.landed s.six))
      (readRun s.landed.me o.b.toNat (dwLen (s.sreg o.a) + 1)) none).replied
    execAmret o s = .next ((applyAll (endFiring s.six u) u).endedHere .c o.w.toNat) := by
  intro u
  have released : outstanding u u.six = false := outstanding_posted may.released _ _ _ _ _
  have me : u.me = { s.landed.me with replied := true } := withMe_me _ _
  have ready : finReady u = true := finReady_of (by simpa [me] using idle) (by simpa [me] using hr.2.1) released
  rw [execAmret_eq hr o slot, if_pos ⟨named, by simpa using first⟩, run_amretReply onStop s may]
  exact congrArg Host.Outcome.next (run_amretEnd onStop s ready o _)

end

theorem sendResult_holds : sendResult := by
  intro o s c hr
  exact ⟨execSend_next hr o, execSendm_next hr o, execAmsg_next hr o,
    fun slot idle named first may => execAmret_replies hr o slot idle named first may,
    fun slot idle silent released => execAmret_ends hr o slot idle silent released⟩

/-! ## Receiving (R172, R174, R175) -/

section
variable {s : State} (hr : s.ready .c) (plain : s.me.spec = false)
include hr plain

theorem execRecv_next (o : AD) {m : Msg} {r : List Msg} (oldest : (s.core s.coreNo).inbox = m :: r)
    (performed : m.after.any (openAccess s.landed) = false) :
    let t := (Effect.core s.coreNo { s.core s.coreNo with inbox := r }).apply s.landed
    let u := applyAll (acquire s.coreNo t) t
    execRecv o s = .next ((u.withMe ((List.range 5).foldl
      (fun x i => x.write (.s (o.d.toNat + i)) (.word ((m.hdr :: m.payload).getD i 0))) u.me)).ended .c 4 o.w.toNat) := by
  have oldest' : (s.landed.core s.landed.coreNo).inbox = m :: r := oldest
  refine (issue_infoC _ _ _ _ _ hr).trans (congrArg Host.Outcome.next ?_)
  simp only [m_bind]
  rw [run_beOldest _ _ _ _ (by simpa using plain)]
  simp only [m_getS, run_get, oldest', m_bind]
  rw [stallIf_pass performed]
  simp only [m_put, run_put, run_acquireHere, run_modMe, m_pure, run_finish_ended, run_done]
  rfl

theorem execMboxq_next (o : A2) : execMboxq o s
    = .next ((s.landed.wrote (.s o.d.toNat) (.word (mboxCount s.landed (s.sreg o.a))) 1).ended .c 4 o.w.toNat) := by
  refine (issue_infoC _ _ _ _ _ hr).trans (congrArg Host.Outcome.next ?_)
  simp only [m_bind, run_getSr_landed]
  rw [run_beOldest _ _ _ _ (by simpa using plain)]
  simp only [m_getS, run_get, run_giveS, m_pure, run_finish_ended, run_done]
  rfl

/-- The message that a LOOPB of the issuing strand deposits (R175). -/
def State.loopMsg (s : State) (a : Word) (b : Nat) : Msg :=
  ⟨s.me.gid.getD 4096, a, readRun s.me b (dwLen a + 1), none, openAccesses s s.six⟩

/-- The destination word of a LOOPB is legal and its payload's registers exist (R175). -/
structure MayLoop (a : Word) (b : Nat) : Prop where
  fits : a.toNat < 2 ^ 34
  reserved : a.toNat / 2 ^ 28 % 16 = 0
  core : a.toNat / 2 ^ 10 % 2 ^ 7 = 0
  plain : dwFifo a = false
  present : b + dwLen a ≤ 31

theorem execLoopb_eq (o : A3) (may : MayLoop (s.sreg o.a) o.b.toNat) : execLoopb o s = .next
    (if (s.core s.coreNo).inbox.length < 48
      then (((Effect.core s.coreNo { s.core s.coreNo with
          inbox := (s.core s.coreNo).inbox ++ [s.landed.loopMsg (s.sreg o.a) o.b.toNat] }).apply s.landed).wrote
            (.s o.d.toNat) (.word 0) 1).ended .c 4 o.w.toNat
      else (s.landed.wrote (.s o.d.toNat) (.word 1) 1).ended .c 4 o.w.toNat) := by
  obtain ⟨fits, reserved, core, direct, present⟩ := may
  have legal : (decide (2 ^ 34 ≤ (s.sreg o.a).toNat) || decide ((s.sreg o.a).toNat / 2 ^ 28 % 16 ≠ 0)
      || decide ((s.sreg o.a).toNat / 2 ^ 10 % 2 ^ 7 ≠ 0) || dwFifo (s.sreg o.a)) = false := by
    simp only [Bool.or_eq_false_iff, decide_eq_false_iff_not, not_not]
    exact ⟨⟨⟨Nat.not_le.mpr fits, reserved⟩, core⟩, direct⟩
  refine (issue_infoC _ _ _ _ _ hr).trans (congrArg Host.Outcome.next ?_)
  simp only [m_bind, run_getSr_landed]
  rw [trapIf_pass legal, trapIf_pass (decide_eq_false (Nat.not_lt.mpr present)),
    run_beOldest _ _ _ _ (by simpa using plain)]
  simp only [m_getS, run_get]
  by_cases room : (s.core s.coreNo).inbox.length < 48
  · rw [if_pos room]
    exact congrArg (fun m : M Ctl => Prog.run onStop s (m _) s.landed) (if_pos room)
  · rw [if_neg room]
    exact congrArg (fun m : M Ctl => Prog.run onStop s (m _) s.landed) (if_neg room)

end

theorem receiveResult_holds : receiveResult := by
  refine ⟨fun o s m r hr plain => execRecv_next hr plain o, fun o s hr plain => execMboxq_next hr plain o,
    fun o s hr plain fits reserved core direct present => ?_⟩
  have loop := execLoopb_eq hr plain o ⟨fits, reserved, core, direct, present⟩
  refine ⟨fun room => loop.trans ?_, fun full => loop.trans ?_⟩
  · rw [if_pos room, State.loopMsg, landed_me, landSt_gid]
    rfl
  · rw [if_neg (Nat.not_lt.mpr full)]

/-- Settles O27: the sends by the one message they leave, the receipts by what they take. -/
theorem messageResult : Obligations.MessageResult := ⟨sendResult_holds, receiveResult_holds⟩

/-! ## Remote transfers (R176) -/

/-- The far side of a transfer, as the scoreboard registers it (R203): a scratchpad of this cluster, or a range of space G. -/
def State.farHulls (s : State) (a b : Word) : List Hull :=
  if rdRem b then
    match boundCore s s.six (a.toNat / 2 ^ 19) with
    | some c => if clusterOf c = clusterOf s.coreNo
        then [⟨.p, c, a.toNat % 2 ^ 19, a.toNat % 2 ^ 19 + 4 * rdWords b⟩] else []
    | none => []
  else hullsOf s s.six .g a.toNat (a.toNat + 4 * rdWords b)

/-- The command of an RGET or an RPUT (R176, R203). -/
def State.transferCmd (s : State) (get : Bool) (a b : Word) : Cmd :=
  let near := hullsOf s s.six .p (rdLoff b) (rdLoff b + 4 * rdWords b)
  { id := s.nextId, six := s.six, gid := s.me.gid, kind := if get then .rget else .rput, token := 0, ssp := .g, src := a,
    dsp := .p, dst := BitVec.ofNat 64 (rdLoff b), rows := 1, spl := 0, dpl := 0, len := 4 * rdWords b, asid := s.me.dom,
    pm := s.me.sys.pm, tag := b.toNat, reads := if get then s.farHulls a b else near, writes := if get then near else s.farHulls a b,
    follow := none, begun := false, copied := none, held := false, depth := s.me.sys.dsdepth }

/-- A command in the list of the issuing core's engine. -/
def State.listed (s : State) (k : Cmd) : State :=
  let c := s.cluster (clusterOf s.coreNo)
  (Effect.cluster (clusterOf s.coreNo) { c with cmds := c.cmds ++ [k] }).apply s

theorem run_remoteBody (f : Stop → State → State) (s0 : State) {s : State} {a b : Word} (may : MayTransfer s a b) (get : Bool)
    (k : Ctl → Prog) :
    Prog.run f s0 (remoteBody get a b k) s = Prog.run f s0 (k .next) ((Effect.fresh.apply s).listed (s.transferCmd get a b)) := by
  obtain ⟨aligned, near, legal, region, fits, far, plain, room⟩ := may
  have encoded : (decide (b.toNat / 2 ^ 16 % 256 ≠ 0) || decide (rdTgt b < 128 ∧ rdTgt b ≠ 0)
      || decide (2 ^ 19 < rdLoff b + 4 * rdWords b) || (rdRem b && decide (2 ^ 29 ≤ a.toNat))) = false := by
    simp only [Bool.or_eq_false_iff, decide_eq_false_iff_not, not_not, Bool.and_eq_false_imp]
    exact ⟨⟨⟨legal, by omega⟩, by omega⟩, fun remote => by have := (far remote).1; omega⟩
  have bound : (rdRem b && (boundCore s s.six (a.toNat / 2 ^ 19)).isNone) = false := by
    simp only [Bool.and_eq_false_imp, Option.isNone_eq_false_iff]
    exact fun remote => (far remote).2.1
  have inside : (rdRem b && decide (2 ^ 19 < a.toNat % 2 ^ 19 + 4 * rdWords b)) = false := by
    simp only [Bool.and_eq_false_imp, decide_eq_false_iff_not]
    exact fun remote => Nat.not_lt.mpr (far remote).2.2
  simp only [remoteBody, m_bind, m_getS, run_get]
  rw [trapIf_pass (by simpa using aligned), trapIf_pass (by simpa using near), trapIf_pass encoded, trapIf_pass bound,
    trapIf_pass inside, run_beOldest f s0 s _ plain]
  simp only [run_get]
  rw [stallIf_pass room]
  rfl

section
variable {s : State} (hr : s.ready .c) (o : AB) (may : MayTransfer s.landed (s.sreg o.a) (s.sreg o.b))
include hr may

theorem execTransfer_next (get : Bool) : exec (if get then .rget o else .rput o) s = .next
    (((Effect.fresh.apply s.landed).listed (s.landed.transferCmd get (s.sreg o.a) (s.sreg o.b))).ended .c 4 o.w.toNat) := by
  cases get
  all_goals
    refine (issue_infoC _ _ _ _ _ hr).trans (congrArg Host.Outcome.next ?_)
    simp only [m_bind, run_getSr_landed]
    exact run_remoteBody onStop s may _ _

end

/-- Settles O26: one command, with the operands and the strand's domain, mode and group. -/
theorem transferIssue : Obligations.TransferIssue := fun o s hr may get =>
  ⟨s.landed.transferCmd get (s.sreg o.a) (s.sreg o.b), rfl, rfl, by simp [State.transferCmd], rfl, rfl, rfl,
    by simp [State.transferCmd], by simp [State.transferCmd], rfl, execTransfer_next hr o may get⟩

end Sys2Proof.Machine

/-! The dispatch, delivery and commit events (R177, R179, R180, R298, R301, R302, R304, R305): each is `whenever` of its condition, so what
remains is to say when the condition holds and what its effects then are. -/

namespace Sys2Proof.Machine

/-- A general slot of a core (R149). -/
theorem coreOf_general {core k : Nat} (slot : k < 6) : coreOf (8 * core + k) = core := by
  unfold coreOf
  omega

theorem slotOf_general {core k : Nat} (slot : k < 6) : slotOf (8 * core + k) < 6 := by
  unfold slotOf
  omega

section
variable {s : State} {core : Nat}

/-! ## Tasks and actors (R298, R302, R304) -/

/-- A bound on the priority of every ready actor, as the guards write it. -/
theorem all_le_of_bound {o : Option Nat} {m : Nat} (bound : ∀ n, o = some n → n ≤ m) : o.all (fun n => decide (n ≤ m)) = true := by
  cases o with
  | none => rfl
  | some n => exact decide_eq_true (bound n rfl)

theorem taskDispatch_starts {k : Nat} {p : Nat × Task} (slot : k < 6) (compute : isCompute core = true)
    (free : (s.strand (8 * core + k)).st = .free) (chosen : chosenTask s core = some p)
    (first : ∀ n, actorPri s core = some n → n ≤ p.2.pri.toNat) :
    s.does (.taskDispatch (8 * core + k)) (startTask (8 * core + k) p s) := by
  show execTaskDispatch _ s = _
  simp only [execTaskDispatch, coreOf_general slot, free, if_true, chosen]
  exact event_effects (by rw [decide_eq_true (slotOf_general slot), compute, all_le_of_bound first]; rfl) rfl

/-- No general slot of the group's cores is free. -/
theorem slotFree_none {g : Group} (taken : ∀ n ∈ g.cores, ∀ j, j < 6 → (s.strand (8 * n + j)).st ≠ .free) : slotFree s g = false := by
  simp only [slotFree, List.any_eq_false, Bool.not_eq_true, decide_eq_false_iff_not, List.mem_range]
  exact taken

theorem taskDispatch_takes {k gid id : Nat} {g : Group} {t : Task} {y : Nat × Task} (slot : k < 6)
    (busy : (s.strand (8 * core + k)).st ≠ .free) (bound : (s.strand (8 * core + k)).gid = some gid)
    (group : groupOn s gid core = some g) (oldest : oldestTask s gid = some (id, t)) (queued : t.st = .queued)
    (youngest : youngestFiring s gid = some (8 * core + k, y)) (older : olderThan (id, t) y = true)
    (taken : ∀ n ∈ g.cores, ∀ j, j < 6 → (s.strand (8 * n + j)).st ≠ .free) :
    s.does (.taskDispatch (8 * core + k)) (chain [abortTask true y.1, startTask (8 * core + k) (id, t)] s) := by
  have rule : slotRule s (8 * core + k) = some (y.1, id, t) := by
    simp only [slotRule, bound, Option.bind_some, coreOf_general slot, group, oldest, youngest]
    exact if_pos ⟨trivial, slotOf_general slot, queued, by simp [slotFree_none taken], older⟩
  show execTaskDispatch _ s = _
  simp only [execTaskDispatch, busy, if_false, rule]
  exact event_effects rfl rfl

theorem actorFire_does {k n : Nat} {a : Actor} {g : Group} (slot : k < 6) (compute : isCompute core = true)
    (free : (s.strand (8 * core + k)).st = .free) (declared : tblGet none (s.core core).actors n = some a)
    (ready : actorReady s core a = true) (first : ∀ m, actorPri s core = some m → m ≤ a.pri.toNat)
    (before : ∀ t, chosenTask s core = some t → t.2.pri.toNat < a.pri.toNat ∨ (t.2.pri = a.pri ∧ t.2.timed = false))
    (group : s.group a.gid = some g) :
    let x := firingOf s a.gid g (8 * core + k) (.actor n) a.entry [(1, BitVec.ofNat 64 n), (2, BitVec.ofNat 64 a.fired)]
    s.does (.actorFire (8 * core + k) n) (setActor s core n { a with busy := true }
      :: startFiring (8 * core + k) { x with dom := a.dom, base := a.dom, sys := { x.sys with pri := a.pri } } s) := by
  have overTask : (chosenTask s core).all
      (fun t => decide (t.2.pri.toNat < a.pri.toNat) || (decide (t.2.pri = a.pri) && !t.2.timed)) = true := by
    cases task : chosenTask s core with
    | none => rfl
    | some t => simpa using before t task
  show execActorFire _ n s = _
  simp only [execActorFire, coreOf_general slot, declared]
  refine event_effects ?_ (by rw [group])
  rw [decide_eq_true ⟨free, slotOf_general slot⟩, compute, ready, all_le_of_bound first, overTask]
  rfl

/-! ## The handler and overflow slots (R177, R179, R180) -/

theorem handlerDispatch_does {m : Msg} {r : List HandlerEntry} {g : Group} (free : (s.strand (8 * core + 6)).st = .free)
    (queue : (s.core core).hq = .message m :: r) (group : s.group m.gid = some g) :
    s.does (.handlerDispatch core) (.core core { s.core core with hq := r }
      :: startFiring (8 * core + 6) (firingOf s m.gid g (8 * core + 6) .handler (m.entry.getD 0)
        (argRegs 1 m.payload ++ [(5, m.hdr)])) s) := by
  show execHandlerDispatch core s = _
  simp only [execHandlerDispatch, free, queue, group]
  exact event_effects rfl rfl

/-- The oldest entry of the handler queue, an atomic, is performed next (R179). -/
theorem hwAtomicStep_head {a : HwAtomic} {r : List HandlerEntry} (queue : (s.core core).hq = .atomic a :: r) :
    hwAtomicStep core s = some (chain [fun _ => [.core core { s.core core with hq := r }], hwAtomic core a] s) := by
  have next : nextAtomic core s = some (a, r) := by
    simp only [nextAtomic, queue]
    rfl
  rw [hwAtomicStep, next]
  rfl

theorem overflowDispatch_does {m : Msg} {r : List Msg} {g : Group} (inbox : (s.core core).inbox = m :: r)
    (group : groupOn s m.gid core = some g) (full : 64 ≤ (s.core core).inbox.length)
    (free : (s.strand (8 * core + 7)).st = .free) (routine : g.ovfe ≠ 0) :
    s.does (.overflowDispatch core) (startFiring (8 * core + 7)
      (firingOf s m.gid g (8 * core + 7) .overflow g.ovfe [(1, g.ovfa), (2, 64)]) s) := by
  show execOverflowDispatch core s = _
  rw [inbox] at full
  simp only [execOverflowDispatch, inbox, group]
  exact event_effects (decide_eq_true ⟨full, free, routine⟩) rfl

/-! ## Delivery (R170, R304, R305, R381) -/

theorem messageArrival_does {i : Nat} {m : OutMsg} {es : List Effect} (sent : (s.core core).reqBuf[i]? = some m)
    (first : ((s.core core).reqBuf.take i).all (fun e => e.target != m.target) = true)
    (arrives : requestArrive m.target (.message m.msg)
      ((Effect.core core { s.core core with reqBuf := without i (s.core core).reqBuf }).apply s) = some es) :
    s.does (.messageArrival core i) (.core core { s.core core with reqBuf := without i (s.core core).reqBuf } :: es) := by
  show execMessageArrival core i s = _
  simp only [execMessageArrival, sent]
  refine event_effects first ?_
  simp only [applyAll_cons, applyAll_nil, arrives]

theorem requestPortRelease_does {i : Nat} {e : HandlerEntry} (waits : (s.core core).port[i]? = some e)
    (first : ((s.core core).port.take i).all (fun p => decide (entryDest (s.core core) p ≠ entryDest (s.core core) e)) = true)
    (accepted : ∀ m, e = .message m → closedAt s core m.gid = false)
    (room : destRoom (s.core core) (entryDest (s.core core) e) = true) :
    s.does (.requestPortRelease core i)
      (chain [fun _ => [.core core { s.core core with port := without i (s.core core).port }], arrive core e] s) := by
  show execRequestPortRelease core i s = _
  simp only [execRequestPortRelease, waits]
  refine event_effects first ?_
  cases e with
  | message m => simp only [accepted m rfl, Bool.false_eq_true, if_false, room, if_true]
  | atomic a => simp only [room, if_true]

theorem replyNetworkArrival_does {i : Nat} {m : OutMsg} (sent : (s.core core).repBuf[i]? = some m)
    (first : ((s.core core).repBuf.take i).all (fun e => e.target != m.target) = true) :
    s.does (.replyNetworkArrival core i)
      (chain [fun _ => [.core core { s.core core with repBuf := without i (s.core core).repBuf }], replyArrive m.target m.msg] s) := by
  show execReplyNetworkArrival core i s = _
  simp only [execReplyNetworkArrival, sent]
  exact event_effects first rfl

/-- The oldest entry of a FIFO: its header, and its payload. -/
theorem entryRead_eq_cons (s : State) (core : Nat) (f : Fifo) :
    entryRead s core f = (entryRead s core f).headD 0 :: (entryRead s core f).tail := rfl

theorem fifoOutputSend_does {n o : Nat} {a : Actor} {f : Fifo} {g : Group} (declared : tblGet none (s.core core).actors n = some a)
    (output : a.outs[o]? = some f) (enabled : f.en = true) (holds : 0 < f.count) (room : (s.core core).reqBuf.length < 8)
    (sound : entryPoisoned s core f = false) (group : s.group a.gid = some g) {t : Nat}
    (target : g.cores[dwCore ((entryRead s core f).headD 0)]? = some t) :
    let hdr := (entryRead s core f).headD 0
    s.does (.fifoOutputSend core n o) [.core core { s.core core with
      reqBuf := (s.core core).reqBuf ++ [⟨t, ⟨a.gid, headerOf hdr (dwLen hdr) (g.cores.findIdx (fun k => k == core)),
        (entryRead s core f).tail.take (dwLen hdr + 1), none, []⟩⟩],
      actors := tblSet none (s.core core).actors n (some (a.setOut o f.popped)) }] := by
  intro hdr
  have found : (tblGet none (s.core core).actors n).bind (fun a => ((a.outs[o]?).filter Fifo.en).map (fun f => (a, f)))
      = some (a, f) := by
    rw [declared, Option.bind_some, output, Option.filter_some_pos enabled, Option.map_some]
  show execFifoOutputSend core n o s = _
  simp only [execFifoOutputSend, found, group]
  rw [entryRead_eq_cons]
  simp only [sound, Bool.and_false, Bool.false_eq_true, if_false]
  refine event_effects (decide_eq_true ⟨holds, room⟩) ?_
  rw [target]
  rfl

/-! ## Commit (R301) -/

theorem taskCommit_does {gid id : Nat} {t : Task} (oldest : oldestTask s gid = some (id, t)) (finished : t.st = .finished) :
    s.does (.taskCommit gid) (commitTask id t s) := by
  show execTaskCommit gid s = _
  simp only [execTaskCommit, oldest]
  exact event_effects (decide_eq_true finished) rfl

end

/-- Settles O45, event by event. -/
theorem dispatchEvents : Obligations.DispatchEvents := fun _ _ _ =>
  ⟨fun _ => taskDispatch_starts, fun _ _ _ _ _ => taskDispatch_takes, fun _ _ _ => actorFire_does, fun _ _ _ => handlerDispatch_does,
    fun _ _ queue => event_effects rfl (by rw [hwAtomicStep_head queue]; rfl), fun _ _ _ => overflowDispatch_does,
    fun _ _ _ => messageArrival_does, fun _ _ => requestPortRelease_does, fun _ _ => replyNetworkArrival_does,
    fun _ _ _ _ _ declared output enabled holds room sound group _ =>
      fifoOutputSend_does declared output enabled holds room sound group,
    fun _ _ _ => taskCommit_does⟩

end Sys2Proof.Machine

/-! The copy engine at issue (R197 to R202, R236): the checks that a copy passes, and the one command that each instruction enters. -/

namespace Sys2Proof.Machine

/-! ## Operations of an issue -/

section
variable {s : State}

theorem landed_spec (s : State) : s.landed.me.spec = s.me.spec := by rw [landed_me, landSt_spec]
theorem runs_beOldest (plain : s.me.spec = false) : Runs beOldest s () s := fun f s0 k => run_beOldest f s0 s k plain
theorem runs_beOldest_landed (plain : s.me.spec = false) : Runs beOldest s.landed () s.landed :=
  runs_beOldest ((landed_spec s).trans plain)
theorem runs_newId (s : State) : Runs newId s s.nextId (Effect.fresh.apply s) := fun _ _ _ => rfl
theorem runs_getOx (a : Nat) (s : State) : Runs (getOx a) s (s.me.readOx a) s := fun _ _ _ => rfl
theorem runs_newCmd (i : Instr) (op : MxOp) (td : Nat) (s : State) :
    Runs (newCmd (encode i) op td) s (s.mxCmd i op td) (Effect.fresh.apply s) := fun _ _ _ => rfl
theorem runs_enterEngine (k : Cmd) (waits : List RegId) (s : State) : Runs (enterEngine k waits) s () (s.queued k waits) :=
  fun _ _ _ => rfl

/-- The checks of R199, passed. -/
theorem runs_copyChecks {src dst shape : Word} {waits bad : Bool} (may : MayCopy s src dst shape waits) (legal : bad = false) (enc : Nat) :
    Runs (copyChecks enc bad src dst shape waits) s () s := by
  obtain ⟨shaped, ⟨sourceWord, targetWord, rowWords⟩, source, target, room⟩ := may
  have aligned {n : Nat} (h : n % 4 = 0) : decide (n % 4 ≠ 0) = false := by simpa using h
  refine runs_bind (runs_illegalIf s (by rw [shaped, legal]; rfl) _) (runs_bind (runs_trapIf s (aligned sourceWord) _ _ _)
    (runs_bind (runs_trapIf s (aligned targetWord) _ _ _) (runs_bind (runs_trapIf s (aligned rowWords) _ _ _)
      (runs_bind (runs_getS s) (runs_bind (runs_trapIf s (by rw [source]; rfl) _ _ _)
        (runs_bind (runs_trapIf s (by rw [target]; rfl) _ _ _) (runs_stallIf _ s ?_)))))))
  cases waits with
  | false => rfl
  | true => exact room rfl

/-- What COPYMM rejects beyond R199: a malformed follow-on word, a core of no quad, a destination that no panel lies in (R201). -/
theorem followLegal {core : Nat} {w shape : Word} (follow : badFollow w = false) (compute : isCompute core = true)
    (panel : shDsp shape = 1 ∨ shDsp shape = 2) :
    (badFollow w || !isCompute core || !(decide (shDsp shape = 1 ∨ shDsp shape = 2))) = false := by
  rw [follow, compute, decide_eq_true panel]
  rfl

/-! ## The instructions -/

section
variable (hr : s.ready .c) (plain : s.me.spec = false) (o : X3)
include hr plain

theorem exec_copy :
    let t := s.landed
    let src := s.sreg o.a
    let dst := t.me.readOx o.x.toNat
    let shape := t.me.readOx (o.x.toNat + 1)
    let u := Effect.fresh.apply t
    MayCopy t src dst shape (decide (shLen shape ≠ 0)) →
    exec (.copy o) s
      = .next ((u.queued (copyCmd u t.nextId .copy o.d src dst shape) [.s o.d.toNat]).ended .c 4 o.w.toNat) := by
  intro t src dst shape u may
  refine issue_of_runs hr ?_
  exact runs_bind (runs_getSr s _) (runs_bind (runs_getOx _ t) (runs_bind (runs_getOx _ t)
    (runs_bind (runs_beOldest_landed plain) (runs_bind (runs_copyChecks may rfl _) (runs_bind (runs_newId t) (runs_bind (runs_getS u)
      (runs_bind (runs_enterEngine _ _ u) (runs_pure _ _))))))))

theorem exec_bpref (range : (s.landed.me.readOx o.x.toNat).toNat < 2 ^ 40)
    (room : scoreboardFull (s.cluster (clusterOf s.coreNo)) = false) :
    let t := s.landed
    let u := Effect.fresh.apply t
    exec (.bpref o) s
      = .next ((u.queued { copyCmd u t.nextId .bpref o.d (s.sreg o.a) 0 0 with len := (t.me.readOx o.x.toNat).toNat }
          [.s o.d.toNat]).ended .c 4 o.w.toNat) := by
  intro t u
  refine issue_of_runs hr ?_
  exact runs_bind (runs_getSr s _) (runs_bind (runs_getOx _ t) (runs_bind (runs_beOldest_landed plain)
    (runs_bind (runs_illegalIf t (decide_eq_false (Nat.not_le.mpr range)) _) (runs_bind (runs_getS t)
      (runs_bind (runs_stallIf _ t room) (runs_bind (runs_newId t) (runs_bind (runs_getS u)
        (runs_bind (runs_enterEngine _ _ u) (runs_pure _ _)))))))))

/-- The command of a COPYMM: a copy that also reads the other panel of its follow-on, where that lies in memory (R203). -/
def State.copymmCmd (s : State) (o : X3) (src dst shape w : Word) : Cmd :=
  let u := Effect.fresh.apply s
  let k := followOn (s.mxCmd (.copymm o) (fwOp w) (fwT w)) w (spaceOf (shDsp shape)) dst
  let c := copyCmd u k.id .copymm o.d src dst shape
  { c with reads := c.reads ++ otherHull u u.six w c.dsp dst k, follow := some k }

theorem exec_copymm :
    let t := s.landed
    let src := s.sreg o.a
    let dst := t.me.readOx o.x.toNat
    let shape := t.me.readOx (o.x.toNat + 1)
    let w := t.me.readOx (o.x.toNat + 2)
    MayCopy t src dst shape true → badFollow w = false → isCompute s.coreNo = true → (shDsp shape = 1 ∨ shDsp shape = 2) →
    exec (.copymm o) s = .next (((Effect.fresh.apply t).queued (t.copymmCmd o src dst shape w) [.s o.d.toNat, .t (fwT w)]).ended
      .c 4 o.w.toNat) := by
  intro t src dst shape w may follow compute panel
  refine issue_of_runs hr ?_
  exact runs_bind (runs_getSr s _) (runs_bind (runs_getOx _ t) (runs_bind (runs_getOx _ t) (runs_bind (runs_getOx _ t)
    (runs_bind (runs_beOldest_landed plain) (runs_bind (runs_getS t)
      (runs_bind (runs_copyChecks may (followLegal follow compute panel) _) (runs_bind (runs_newCmd (.copymm o) _ _ t)
        (runs_bind (runs_getS _) (runs_bind (runs_enterEngine _ _ _) (runs_pure _ _))))))))))

end
end

/-- Settles O32: each instruction passes its checks and enters its one command. -/
theorem engineIssue : Obligations.EngineIssue := fun o s hr plain =>
  ⟨exec_copy hr plain o, exec_bpref hr plain o, fun may follow compute panel =>
    ⟨s.landed.mxCmd (.copymm o) _ _, s.landed.copymmCmd o _ _ _ _, rfl, rfl, rfl, rfl, rfl, rfl, rfl,
      exec_copymm hr plain o may follow compute panel⟩⟩

end Sys2Proof.Machine

/-! The bell networks (R205 to R210) and the iteration pool (R195, R196). -/

namespace Sys2Proof.Machine

/-! ## Parts of a bell instruction -/

section
variable {s : State}

theorem runs_release (released : outstanding s s.six = false) : Runs release s () s := fun f s0 k => run_release f s0 s k released
theorem runs_modMe (g : Strand → Strand) (s : State) : Runs (modMe g) s () (s.withMe (g s.me)) := fun _ _ _ => rfl
theorem runs_acquireHere (s : State) : Runs acquireHere s () (applyAll (acquire s.coreNo s) s) := fun f s0 k => run_acquireHere f s0 s k

/-- A body that begins with its two operands. -/
theorem runs_operands {a b : BitVec 5} {g : Word → Word → M Ctl} {c : Ctl} {t : State}
    (runs : Runs (g (s.sreg a) (s.sreg b)) s.landed c t) :
    Runs (do let x ← getSr a; let y ← getSr b; g x y) s.landed c t := runs_bind (runs_getSr s a) (runs_bind (runs_getSr s b) runs)

theorem runs_bellStart {scope : Nat} {w : Word} {value : Bool} (legal : badBell s.coreNo scope w value = false)
    (plain : s.me.spec = false) : Runs (bellStart scope w value) s (bellChan s s.six scope w) s :=
  runs_bind (runs_getS s) (runs_bind (runs_trapIf s legal _ _ _) (runs_bind (runs_beOldest plain) (runs_bind (runs_getS s) (runs_pure _ _))))

theorem runs_tellPod (chan : Nat) (phased : Bool) (phase count : Nat) (rop : Option Nat) (v : Word) (s : State) :
    Runs (tellPod chan phased phase count rop v) s () (s.told chan phased phase count rop v) := by
  refine runs_bind (runs_getS s) ?_
  by_cases pod : (isPodChan chan && s.pkg.fab.en) = true
  · rw [State.told, if_pos pod, if_pos pod]
    exact runs_puts _ s
  · rw [State.told, if_neg pod, if_neg pod]
    exact runs_pure _ s

/-- The phase that an arrival at a counted channel joins is the one that was open (R206). -/
theorem runs_arriveCounted {scope : Nat} {w : Word} {rop : Option Nat} (v : Word) (released : outstanding s s.six = false)
    (joins : countedBad (s.bell (bellChan s s.six scope w)) (bwCount w) rop = false) :
    Runs (arriveCounted (bellChan s s.six scope w) w rop v) s (s.bell (bellChan s s.six scope w)).phase (s.rung scope w rop v) :=
  runs_bind (runs_getS s) (runs_bind (runs_trapIf s joins _ _ _) (runs_bind (runs_release released) (runs_bind (runs_getS s)
    (runs_bind (runs_put _ s) (runs_bind (runs_tellPod _ _ _ _ _ _ _) (runs_pure _ _))))))

/-- BAR and BARPH once arrived: the end of the instruction, or the wait (R206, R209). -/
theorem run_bellResume (b : BellWait) (enc w : Nat) (rs : List RegId) (s0 t : State) :
    Prog.run onStop s0 (bellResume b fun c => finishIssue (infoC enc w rs) .c c fun _ => .done) t = t.bellNext b w := by
  simp only [bellResume, State.bellNext, m_bind, m_getS, run_get]
  by_cases complete : bellDone t b = true
  · simp only [if_pos complete, m_bind, run_acquireHere, run_modMe, run_writeS, m_pure, run_finish_ended, run_done]
    rfl
  · simp only [if_neg complete]
    rfl

/-- A program that from state `s` goes on as `n` from state `t`. -/
def GoesOn {α : Type} (m : M α) (s : State) (n : M α) (t : State) : Prop :=
  ∀ (f : Stop → State → State) (s0 : State) (k : α → Prog), Prog.run f s0 (m k) s = Prog.run f s0 (n k) t

theorem goesOn_self {α : Type} (m : M α) (s : State) : GoesOn m s m s := fun _ _ _ => rfl

theorem goesOn_bind {α β : Type} {m : M α} {g : α → M β} {n : M β} {s t u : State} {a : α} (runs : Runs m s a t)
    (goes : GoesOn (g a) t n u) : GoesOn (m >>= g) s n u := fun f s0 k => by rw [m_bind, runs f s0, goes f s0]

/-- An instruction that comes to the wait of an arrived BAR or BARPH. -/
theorem issue_of_goesOn {enc w : Nat} {rs : List RegId} {body : M Ctl} {t : State} {b : BellWait} (hr : s.ready .c)
    (goes : GoesOn body s.landed (bellResume b) t) : issue (infoC enc w rs) body s = .next (t.bellNext b w) := by
  rw [issue_infoC _ _ _ _ _ hr, goes, run_bellResume]

/-! ## The bell instructions -/

section
variable (hr : s.ready .c)
include hr

theorem exec_bar_waits (o : Sys2Proof.Bell) {b : BellWait} (arrived : s.landed.me.bell = some b) :
    exec (.bar o) s = .next (s.landed.bellNext b o.w.toNat) := by
  refine issue_of_goesOn hr (goesOn_bind (runs_getS _) ?_)
  rw [arrived]
  exact goesOn_self _ _

theorem exec_bar_arrives (o : Sys2Proof.Bell) (new : s.landed.me.bell = none) :
    let w := s.sreg o.a
    let chan := bellChan s.landed s.six o.c.toNat w
    MayRing s.landed o.c.toNat w false → countedBad (s.bell chan) (bwCount w) none = false →
    let b : BellWait := ⟨chan, (s.bell chan).phase, o.d.toNat⟩
    let u := s.landed.rung o.c.toNat w none 0
    exec (.bar o) s = .next ((u.withMe { u.me with bell := some b }).bellNext b o.w.toNat) := by
  intro w chan may joins b u
  refine issue_of_goesOn hr (goesOn_bind (runs_getS _) ?_)
  rw [new]
  exact goesOn_bind (runs_getSr s _) (goesOn_bind (runs_bellStart may.legal may.plain)
    (goesOn_bind (runs_arriveCounted 0 may.released joins) (goesOn_bind (runs_modMe _ _) (goesOn_self _ _))))

theorem exec_bara (o : BellB) (may : MayRing s.landed o.c.toNat (s.sreg o.a) true)
    (joins : countedBad (s.bell (bellChan s.landed s.six o.c.toNat (s.sreg o.a))) (bwCount (s.sreg o.a)) (some (bwRop (s.sreg o.a)))
      = false) :
    exec (.bara o) s = .next (((s.landed.rung o.c.toNat (s.sreg o.a) (some (bwRop (s.sreg o.a))) (s.sreg o.b)).wrote (.s o.d.toNat)
      (.word (BitVec.ofNat 64 (s.bell (bellChan s.landed s.six o.c.toNat (s.sreg o.a))).phase)) 1).ended .c 4 o.w.toNat) := by
  refine issue_of_runs hr ?_
  exact runs_operands (runs_bind (runs_bellStart may.legal may.plain)
    (runs_bind (runs_arriveCounted _ may.released joins) (runs_giveS_next _ _ _)))

theorem exec_barph_waits (o : BellB) {b : BellWait} (arrived : s.landed.me.bell = some b) :
    exec (.barph o) s = .next (s.landed.bellNext b o.w.toNat) := by
  refine issue_of_goesOn hr (goesOn_bind (runs_getS _) ?_)
  rw [arrived]
  exact goesOn_self _ _

theorem exec_barph_arrives (o : BellB) (new : s.landed.me.bell = none) :
    let t := s.landed
    let w := s.sreg o.a
    let chan := bellChan t s.six o.c.toNat w
    MayRing t o.c.toNat w false →
    let n := (s.sreg o.b).toNat % 2 ^ 32
    phasedBad (s.bell chan) n (bwCount w) = false → diff32 n (frontFor n (s.bell chan)).front < 8 →
    let f := s.pkg.fab
    let u := (Effect.bell chan
      (phasedArrive f (isPodChan chan) (frontFor n (s.bell chan)) n (bwCount w) f.window)).apply t
    let u := u.told chan true n (bwCount w) none 0
    let b : BellWait := ⟨chan, n, o.d.toNat⟩
    exec (.barph o) s = .next ((u.withMe { u.me with bell := some b }).bellNext b o.w.toNat) := by
  intro t w chan may n joins near f u v b
  have room : decide (8 ≤ diff32 n (frontFor n (s.bell chan)).front) = false := decide_eq_false (not_le.mpr near)
  refine issue_of_goesOn hr (goesOn_bind (runs_getS _) ?_)
  rw [new]
  exact goesOn_bind (runs_getSr s _) (goesOn_bind (runs_getSr s _) (goesOn_bind (runs_bellStart may.legal may.plain)
    (goesOn_bind (runs_getS t) (goesOn_bind (runs_trapIf t joins _ _ _) (goesOn_bind (runs_stallIf _ t room)
      (goesOn_bind (runs_release may.released) (goesOn_bind (runs_getS t) (goesOn_bind (runs_put _ t)
        (goesOn_bind (runs_tellPod _ _ _ _ _ _ u) (goesOn_bind (runs_modMe _ v) (goesOn_self _ _)))))))))))

section
variable (o : BellB) {chan : Nat} (named : bellChan s.landed s.landed.six o.c.toNat (s.sreg o.a) = chan)
  (legal : badBell s.coreNo o.c.toNat (s.sreg o.a) true = false) (plain : s.me.spec = false)
  (counted : (s.landed.bell chan).kind = some false)
include named legal plain counted

/-- BARW of a phase whose result is kept and released (R207). -/
theorem exec_barw_result {r : Nat × Word × Nat}
    (kept : ((s.landed.bell chan).results.take 8).find? (fun r => r.1 == (s.sreg o.b).toNat % 2 ^ 32) = some r)
    (out : released s.pkg.fab (isPodChan chan) r.2.2 = true) :
    exec (.barw o) s = .next (((applyAll (acquire s.coreNo s.landed) s.landed).wrote (.s o.d.toNat) (.word r.2.1) 1).ended
      .c 4 o.w.toNat) := by
  subst named
  refine issue_of_runs hr (runs_operands (runs_bind (runs_bellStart legal ((landed_spec s).trans plain)) (runs_bind (runs_getS _) ?_)))
  simp only [counted, kept]
  exact runs_then out (runs_bind (runs_acquireHere _) (runs_giveS_next _ _ _))

/-- BARW of a completed phase whose result is no longer kept (log entry 82). -/
theorem exec_barw_late
    (gone : ((s.landed.bell chan).results.take 8).find? (fun r => r.1 == (s.sreg o.b).toNat % 2 ^ 32) = none)
    (late : diff32 ((s.sreg o.b).toNat % 2 ^ 32) (s.landed.bell chan).done ≤ 0) :
    exec (.barw o) s = .next ((s.landed.wrote (.s o.d.toNat) (.word (BitVec.allOnes 64)) 1).ended .c 4 o.w.toNat) := by
  subst named
  refine issue_of_runs hr (runs_operands (runs_bind (runs_bellStart legal ((landed_spec s).trans plain)) (runs_bind (runs_getS _) ?_)))
  simp only [counted, gone]
  exact runs_else (not_or.mpr ⟨nofun, not_lt.mpr late⟩) (runs_giveS_next _ _ _)

end

/-! ## The iteration pool (R195, R196) -/

section
variable (o : A3) (plain : s.me.spec = false)
include plain

section
variable (released : outstanding s.landed s.six = false)
include released

theorem exec_ipdep_empty (empty : (s.sreg o.a).toNat / 2 ^ 32 ≤ (s.sreg o.a).toNat % 2 ^ 32) :
    exec (.ipdep o) s = .next ((s.landed.wrote (.s o.d.toNat) (.word 0) 1).ended .c 4 o.w.toNat) :=
  issue_of_runs hr (runs_operands (runs_bind (runs_beOldest_landed plain) (runs_bind (runs_release released)
    (runs_bind (runs_getS _) (runs_then empty (runs_giveS_next _ _ _))))))

section
variable (range : (s.sreg o.a).toNat % 2 ^ 32 < (s.sreg o.a).toNat / 2 ^ 32)
include range

theorem exec_ipdep_full (full : 128 ≤ (s.cluster (clusterOf s.coreNo)).pool.length) :
    exec (.ipdep o) s = .next ((s.landed.wrote (.s o.d.toNat) (.word 1) 1).ended .c 4 o.w.toNat) :=
  issue_of_runs hr (runs_operands (runs_bind (runs_beOldest_landed plain) (runs_bind (runs_release released)
    (runs_bind (runs_getS _) (runs_else (not_le.mpr range) (runs_then full (runs_giveS_next _ _ _)))))))

theorem exec_ipdep_adds (room : (s.cluster (clusterOf s.coreNo)).pool.length < 128) :
    let c := s.cluster (clusterOf s.coreNo)
    let e : PoolEntry := ⟨bellGroup s.landed.me, (s.sreg o.b).toNat % 65536, (s.sreg o.a).toNat % 2 ^ 32, (s.sreg o.a).toNat / 2 ^ 32⟩
    exec (.ipdep o) s = .next ((((Effect.cluster (clusterOf s.coreNo) { c with pool := c.pool ++ [e] }).apply s.landed).wrote
      (.s o.d.toNat) (.word 0) 1).ended .c 4 o.w.toNat) := by
  intro c e
  exact issue_of_runs hr (runs_operands (runs_bind (runs_beOldest_landed plain) (runs_bind (runs_release released)
    (runs_bind (runs_getS _) (runs_else (not_le.mpr range) (runs_else (not_le.mpr room)
      (runs_bind (runs_put _ _) (runs_giveS_next _ _ _))))))))

end
end

section
variable {p : List PoolEntry}

theorem exec_ipdraw_none (empty : drawPool (bellGroup s.landed.me) ((s.sreg o.b).toNat % 65536) ((s.sreg o.a).toNat % 2 ^ 32)
      (s.landed.cluster (clusterOf s.landed.coreNo)).pool = (none, p)) :
    exec (.ipdraw o) s = .next ((s.landed.wrote (.s o.d.toNat) (.word 0) 1).ended .c 4 o.w.toNat) := by
  refine issue_of_runs hr (runs_operands (runs_bind (runs_beOldest_landed plain) (runs_bind (runs_getS _) ?_)))
  simp only [empty]
  exact runs_giveS_next _ _ _

theorem exec_ipdraw_range {l h : Nat}
    (drawn : drawPool (bellGroup s.landed.me) ((s.sreg o.b).toNat % 65536) ((s.sreg o.a).toNat % 2 ^ 32)
      (s.landed.cluster (clusterOf s.landed.coreNo)).pool = (some (l, h), p)) :
    let u := (Effect.cluster (clusterOf s.coreNo) { s.cluster (clusterOf s.coreNo) with pool := p }).apply s.landed
    exec (.ipdraw o) s = .next (((applyAll (acquire s.coreNo u) u).wrote (.s o.d.toNat)
      (.word (BitVec.ofNat 64 (h * 2 ^ 32 + l))) 1).ended .c 4 o.w.toNat) := by
  intro u
  refine issue_of_runs hr (runs_operands (runs_bind (runs_beOldest_landed plain) (runs_bind (runs_getS _) ?_)))
  simp only [drawn]
  exact runs_bind (runs_put _ _) (runs_bind (runs_acquireHere _) (runs_giveS_next _ _ _))

end
end
end
end

theorem bellResult_holds : bellResult :=
  ⟨fun o _ hr => ⟨exec_bara hr o,
      fun legal plain counted => ⟨fun _ => exec_barw_result hr o rfl legal plain counted, exec_barw_late hr o rfl legal plain counted⟩,
      fun _ => exec_barph_waits hr o, exec_barph_arrives hr o⟩,
    fun o _ hr => ⟨fun _ => exec_bar_waits hr o, exec_bar_arrives hr o⟩⟩

theorem poolResult_holds : poolResult := fun o _ hr plain =>
  ⟨fun released => ⟨exec_ipdep_empty hr o plain released, exec_ipdep_full hr o plain released, exec_ipdep_adds hr o plain released⟩,
    fun _ => exec_ipdraw_none hr o plain, fun _ _ _ => exec_ipdraw_range hr o plain⟩

/-- Settles O35: the bell instructions by the arrival they make and the wait it begins, the pool's by the ranges they add and take. -/
theorem bellResult : Obligations.BellResult := ⟨bellResult_holds, poolResult_holds⟩

end Sys2Proof.Machine

/-! The events of the engines, the matrix units, the Tutor engines and the caches (R200 to R204, R216, R226 to R229, R253, R319): each is
`whenever` of its condition. -/

namespace Sys2Proof.Machine

section
variable {s : State} {cl id : Nat}

/-! ## The copy engine (R200 to R203) -/

section
variable {k : Cmd} (listed : cmdOf s cl id = some k)
include listed

theorem engineCommandStart_does (ready : cmdReady s cl k = true) :
    s.does (.engineCommandStart cl id) (setCmd cl { k with begun := true } s) := by
  show execEngineCommandStart cl id s = _
  simp only [execEngineCommandStart, listed]
  exact event_effects ready rfl

theorem copymmFollowOn_does {w : Word} {m : MxCmd} (copied : k.copied = some w) (follow : k.follow = some m) :
    s.does (.copymmFollowOn cl id) (followEnter cl k m s) := by
  show execCopymmFollowOn cl id s = _
  simp only [execCopymmFollowOn, listed, copied, follow]
  exact event_effects rfl rfl

section
variable (begun : k.begun = true) (free : k.held = false)
include begun free

omit listed in
theorem runnable : (k.begun && !k.held) = true := by rw [begun, free]; rfl

theorem copyCompletion_prefetches (kind : k.kind = .bpref) :
    s.does (.copyCompletion cl id) (endCmd cl k (tokenWord 0 (prefetched k s)) s) := by
  show execCopyCompletion cl id s = _
  simp only [execCopyCompletion, listed]
  exact event_effects (runnable begun free) (by rw [kind])

theorem copyCompletion_copies (kind : k.kind = .copy ∨ k.kind = .copymm) (new : k.copied = none) :
    s.does (.copyCompletion cl id) (copyPerform cl k s) := by
  show execCopyCompletion cl id s = _
  simp only [execCopyCompletion, listed]
  refine event_effects (runnable begun free) ?_
  rcases kind with kind | kind
  all_goals rw [kind, new]; rfl

theorem remoteTransferCompletion_does (kind : k.kind = .rget ∨ k.kind = .rput) :
    s.does (.remoteTransferCompletion cl id) (transferPerform cl k s) := by
  show execRemoteTransferCompletion cl id s = _
  simp only [execRemoteTransferCompletion, listed]
  exact event_effects (by rw [runnable begun free, decide_eq_true kind]; rfl) rfl

end
end

/-! ## The matrix unit (R216, R226 to R229) -/

section
variable {k : MxCmd} (listed : mxOf s cl id = some k)
include listed

theorem matrixCommandStart_does (ready : mxReady (s.cluster cl) k = true) (first : openBefore s k.six k.id = false) :
    s.does (.matrixCommandStart cl id) (setMx cl { k with begun := true, shadow := some ((s.strand k.six).readT k.td) } s) := by
  show execMatrixCommandStart cl id s = _
  simp only [execMatrixCommandStart, listed]
  exact event_effects (by rw [ready, first]; rfl) rfl

section
variable (begun : k.begun = true) (free : k.held = false)
include begun free

theorem matrixCommandCompletion_does {y : Tile} (shadow : k.shadow = some y) :
    s.does (.matrixCommandCompletion cl id) (mxPerform cl k s) := by
  show execMatrixCommandCompletion cl id s = _
  simp only [execMatrixCommandCompletion, listed]
  exact event_effects (by rw [begun, free, shadow]; rfl) rfl

theorem matrixReplay_does (shadow : k.shadow = none) :
    s.does (.matrixReplay cl id) (setMx cl { k with shadow := some ((s.strand k.six).readT k.td) } s) := by
  show execMatrixReplay cl id s = _
  simp only [execMatrixReplay, listed]
  exact event_effects (by rw [begun, free, shadow]; rfl) rfl

end
end

/-! ## Validations (R253, R254) -/

theorem syncValidation_does {y : SyncStore} (held : s.syncs.find? (fun y => y.id == id) = some y) :
    s.does (.syncValidation id) (chain
      [fun s => [.syncs (s.syncs.filter (fun z => z.id != id))],
       if y.six = noStrand then lateOp y else homeOp y.req y.asid y.va y.pa] s) := by
  show execSyncValidation id s = _
  simp only [execSyncValidation, held]
  exact event_effects rfl rfl

end

theorem unitEvents_happen : unitEvents := fun _ _ _ =>
  ⟨fun _ listed => ⟨engineCommandStart_does listed,
      fun begun free => ⟨copyCompletion_prefetches listed begun free, copyCompletion_copies listed begun free,
        remoteTransferCompletion_does listed begun free⟩,
      fun _ _ => copymmFollowOn_does listed⟩,
    fun _ listed => ⟨matrixCommandStart_does listed,
      fun begun free => ⟨fun _ => matrixCommandCompletion_does listed begun free, matrixReplay_does listed begun free⟩⟩,
    event_effects rfl rfl, fun _ _ _ => event_effects rfl rfl, fun _ => syncValidation_does, fun _ _ _ => event_effects rfl rfl⟩

end Sys2Proof.Machine

/-! A copy between local spaces (R200): the words it moves, and what the end of its command leaves. -/

namespace Sys2Proof.Machine

/-! ## Words written to a memory one after another -/

/-- A memory after 4-byte words written one after another: each its address and value. -/
def writeWords (m : Memory) (ws : List (Nat × Nat)) : Memory := ws.foldl (fun m w => memWrite m w.1 4 w.2) m

theorem memRead_congr {m m' : Memory} {a n : Nat} (same : ∀ i, i < n → memGet m (a + i) = memGet m' (a + i)) :
    memRead m a n = memRead m' a n := by
  induction n generalizing a with
  | zero => rfl
  | succ n ih =>
    have rest : memRead m (a + 1) n = memRead m' (a + 1) n := ih fun i hi => by
      rw [Nat.add_assoc, Nat.add_comm 1 i]
      exact same (i + 1) (Nat.succ_lt_succ hi)
    rw [memRead, memRead, rest, show memGet m a = memGet m' a from same 0 n.succ_pos]

theorem memRead_lt (m : Memory) (a n : Nat) : memRead m a n < 256 ^ n := by
  induction n generalizing a with
  | zero => exact Nat.one_pos
  | succ n ih =>
    have byte := (memGet m a).isLt
    have rest := ih (a + 1)
    rw [memRead, Nat.pow_succ]
    omega

/-- Two words that share no byte. -/
def Apart (a b : Nat) : Prop := a + 4 ≤ b ∨ b + 4 ≤ a

theorem memGet_writeWords_other {ws : List (Nat × Nat)} {a : Nat} (out : ∀ w ∈ ws, a < w.1 ∨ w.1 + 4 ≤ a) (m : Memory) :
    memGet (writeWords m ws) a = memGet m a := by
  induction ws generalizing m with
  | nil => rfl
  | cons w ws ih =>
    obtain ⟨here, rest⟩ := List.forall_mem_cons.mp out
    exact (ih rest _).trans (memGet_write_other _ _ _ _ _ here)

theorem memRead_writeWords_other {ws : List (Nat × Nat)} {a : Nat} (out : ∀ w ∈ ws, Apart a w.1) (m : Memory) :
    memRead (writeWords m ws) a 4 = memRead m a 4 :=
  memRead_congr fun i hi => memGet_writeWords_other (fun w hw => by rcases out w hw with h | h <;> omega) m

/-- A word that no later one overlaps reads as it was written. -/
theorem memRead_writeWords {ws : List (Nat × Nat)} (apart : ws.Pairwise fun w x => Apart w.1 x.1) {w : Nat × Nat}
    (written : w ∈ ws) (m : Memory) : memRead (writeWords m ws) w.1 4 = w.2 % 256 ^ 4 := by
  induction ws generalizing m with
  | nil => cases written
  | cons x ws ih =>
    obtain ⟨first, rest⟩ := List.pairwise_cons.mp apart
    rcases List.mem_cons.mp written with rfl | later
    · exact (memRead_writeWords_other first _).trans (memRead_write _ _ _ _)
    · exact ih rest later _

/-! ## Places of the local spaces -/

/-- The first byte of space P of a core, or of space D of its die, in its memory. -/
def localBase (core : Nat) (sp : Space) : Nat := if sp = .p then core * 2 ^ 19 else dieOf core * 2 ^ 26

/-- The place of an address of P or D: in its own space, at its base and the address. -/
theorem localLoc_place {s : State} {six n : Nat} {sp : Space} {a : Word} {l : Loc} (isLocal : sp = .p ∨ sp = .d)
    (place : localLoc s six sp a n = some l) :
    l.span.1 = sp ∧ l.addr = localBase (coreOf six) sp + a.toNat ∧ a.toNat + n ≤ 2 ^ 26 := by
  rcases isLocal with rfl | rfl
  · simp only [localLoc, Option.ite_none_right_eq_some, Option.some.injEq] at place
    obtain ⟨inside, rfl⟩ := place
    exact ⟨rfl, by rw [localBase, if_pos rfl, Loc.addr], by omega⟩
  · simp only [localLoc, Option.ite_none_right_eq_some, Option.some.injEq] at place
    obtain ⟨⟨inside, -⟩, rfl⟩ := place
    exact ⟨rfl, by rw [localBase, if_neg nofun, Loc.addr], inside⟩

/-- The state after words written to a local space, which clear the poison of what they cover (R274). -/
def State.storedLocal (s : State) (sp : Space) (ws : List (Nat × Nat)) (poison : Tbl Bool) : State :=
  { s with
    pmem := if sp = .p then writeWords s.pmem ws else s.pmem
    dmem := if sp = .d then writeWords s.dmem ws else s.dmem
    poison := poison }

theorem storedLocal_storedLocal (s : State) (sp : Space) (ws xs : List (Nat × Nat)) (p q : Tbl Bool) :
    (s.storedLocal sp ws p).storedLocal sp xs q = s.storedLocal sp (ws ++ xs) q := by
  cases sp <;> simp [State.storedLocal, writeWords]

/-- Poison cleared, and nothing else. -/
theorem applyAll_clears {es : List Effect} (clears : ∀ e ∈ es, ∃ w, e = .poison w false) (s : State) :
    ∃ p, applyAll es s = { s with poison := p } := by
  induction es generalizing s with
  | nil => exact ⟨s.poison, rfl⟩
  | cons e es ih =>
    obtain ⟨⟨w, rfl⟩, rest⟩ := List.forall_mem_cons.mp clears
    obtain ⟨p, cleared⟩ := ih rest ((Effect.poison w false).apply s)
    exact ⟨p, cleared⟩

theorem unpoison_clears (s : State) (base a n : Nat) : ∀ e ∈ unpoison s base a n, ∃ w, e = .poison w false := by
  intro e he
  obtain ⟨w, -, hw⟩ := List.mem_filterMap.mp he
  obtain ⟨-, ⟨⟩⟩ := Option.ite_none_right_eq_some.mp hw
  exact ⟨_, rfl⟩

theorem write_storedLocal (l : Loc) (v : Nat) (s : State) :
    ∃ p, applyAll (l.write 4 v s) s = s.storedLocal l.span.1 [(l.addr, v)] p := by
  cases l with
  | p core off =>
    obtain ⟨q, cleared⟩ := applyAll_clears (unpoison_clears s poisonP (Loc.p core off).addr 4)
      ((Effect.pmem (Loc.p core off).addr 4 v).apply s)
    refine ⟨q, ?_⟩
    rw [Loc.write, applyAll_cons, cleared]
    simp [State.storedLocal, Loc.span, writeWords, Effect.apply]
  | d die off =>
    obtain ⟨q, cleared⟩ := applyAll_clears (unpoison_clears s poisonD (Loc.d die off).addr 4)
      ((Effect.dmem (Loc.d die off).addr 4 v).apply s)
    refine ⟨q, ?_⟩
    rw [Loc.write, applyAll_cons, cleared]
    simp [State.storedLocal, Loc.span, writeWords, Effect.apply]

/-- The memory of space P, or that of space D. -/
def State.localMem (s : State) (sp : Space) : Memory := if sp = .p then s.pmem else s.dmem

theorem read_localMem (l : Loc) (s : State) (n : Nat) : l.read s n = memRead (s.localMem l.span.1) l.addr n := by cases l <;> rfl

theorem localMem_storedLocal_other {sp other : Space} (isLocal : sp = .p ∨ sp = .d)
    (otherLocal : other = .p ∨ other = .d) (ne : sp ≠ other) (s : State) (ws : List (Nat × Nat)) (p : Tbl Bool) :
    (s.storedLocal sp ws p).localMem other = s.localMem other := by
  rcases isLocal with rfl | rfl <;> rcases otherLocal with rfl | rfl
  · exact absurd rfl ne
  · rfl
  · rfl
  · exact absurd rfl ne

theorem localMem_storedLocal {sp : Space} (isLocal : sp = .p ∨ sp = .d) (s : State) (ws : List (Nat × Nat)) (p : Tbl Bool) :
    (s.storedLocal sp ws p).localMem sp = writeWords (s.localMem sp) ws := by
  rcases isLocal with rfl | rfl <;> rfl

/-! ## The words of a copy (R200) -/

/-- A copy of one row moves its words from the first on. -/
theorem copyPositions_row {k : Cmd} (row : k.rows = 1) : copyPositions k = (List.range (k.len / 4)).map fun j =>
    (k.src + BitVec.ofNat 64 (4 * j), k.dst + BitVec.ofNat 64 (4 * j)) := by
  simp [copyPositions, row]

section
variable {s : State} {k : Cmd}

/-- What a word of the source of a copy holds, where it has a place. -/
def State.sourceWord (s : State) (k : Cmd) (a : Word) : Nat := ((localLoc s k.six k.ssp a 4).map (·.read s 4)).getD 0

theorem sourceWord_eq {a : Word} {l : Loc} (place : localLoc s k.six k.ssp a 4 = some l) : s.sourceWord k a = l.read s 4 := by
  rw [State.sourceWord, place]
  rfl

theorem engineRead_local (source : k.ssp = .p ∨ k.ssp = .d) {a : Word} {l : Loc} (place : localLoc s k.six k.ssp a 4 = some l)
    (sound : l.poisoned s 4 = false) : engineRead k s k.ssp a 4 = .ok (l.read s 4, []) := by
  have here : engineRead k s k.ssp a 4 = localRead s k.six k.ssp a 4 := by
    rcases source with h | h <;> rw [h] <;> rfl
  rw [here, localRead, place]
  simp only [sound, Bool.false_eq_true, if_false]

theorem engineWrite_local (target : k.dsp = .p ∨ k.dsp = .d) {b : Word} {m : Loc}
    (place : localLoc s k.six k.dsp b 4 = some m) (v : Nat) : engineWrite k s k.dsp b 4 v = .ok (m.write 4 v s) := by
  rcases target with h | h
  all_goals
    rw [h] at place ⊢
    rw [engineWrite, if_neg nofun]
    simp only [engineWriteHere, place]

/-- No word of a copy between local spaces is refused where each has a place and no source word is poisoned. -/
theorem copyScan_local (source : k.ssp = .p ∨ k.ssp = .d) (target : k.dsp = .p ∨ k.dsp = .d) {ps : List (Word × Word)}
    (places : ∀ p ∈ ps, ∃ l m, localLoc s k.six k.ssp p.1 4 = some l ∧ l.poisoned s 4 = false
      ∧ localLoc s k.six k.dsp p.2 4 = some m) :
    copyScan k s ps = (ps.map fun p => (p.2, s.sourceWord k p.1), [], none) := by
  induction ps with
  | nil => rfl
  | cons p ps ih =>
    obtain ⟨⟨l, m, origin, sound, into⟩, rest⟩ := List.forall_mem_cons.mp places
    simp only [copyScan, engineRead_local source origin sound, engineWrite_local target into, ih rest, sourceWord_eq origin,
      List.map_cons, List.nil_append]

/-- The words that a copy writes to P or D, each at its base and its address. -/
theorem copyWrites_local (target : k.dsp = .p ∨ k.dsp = .d) {ws : List (Word × Nat)}
    (places : ∀ w ∈ ws, ∃ m, localLoc s k.six k.dsp w.1 4 = some m) :
    ∃ p, applyAll (copyWrites k ws s) s
      = s.storedLocal k.dsp (ws.map fun w => (localBase (coreOf k.six) k.dsp + w.1.toNat, w.2)) p := by
  induction ws generalizing s with
  | nil => exact ⟨s.poison, by simp [copyWrites, State.storedLocal, writeWords]⟩
  | cons w ws ih =>
    obtain ⟨⟨m, into⟩, rest⟩ := List.forall_mem_cons.mp places
    obtain ⟨space, addr, -⟩ := localLoc_place target into
    obtain ⟨p, first⟩ := write_storedLocal m w.2 s
    rw [space, addr] at first
    obtain ⟨q, others⟩ := ih (s := s.storedLocal k.dsp [(localBase (coreOf k.six) k.dsp + w.1.toNat, w.2)] p) rest
    refine ⟨q, ?_⟩
    rw [copyWrites, List.map_cons, applyAll_chain_cons, engineWrite_local target into]
    simp only [first]
    exact others.trans (storedLocal_storedLocal _ _ _ _ _ _)

/-- The words that a copy of one row writes to a local space: the address of each in its memory, and what its source word holds. -/
def State.copiedWords (s : State) (k : Cmd) : List (Nat × Nat) := (List.range (k.len / 4)).map fun j =>
  (localBase (coreOf k.six) k.dsp + (k.dst + BitVec.ofNat 64 (4 * j)).toNat,
    s.sourceWord k (k.src + BitVec.ofNat 64 (4 * j)))

/-- A copy of one row between local spaces writes its words and ends with their count as its token. -/
theorem copyPerform_local (cl : Nat) (source : k.ssp = .p ∨ k.ssp = .d) (target : k.dsp = .p ∨ k.dsp = .d) (row : k.rows = 1)
    (unread : k.buf = none) (alone : k.follow = none)
    (places : ∀ j, j < k.len / 4 → ∃ l m, s.copyPlace k k.ssp k.src j = some l ∧ l.poisoned s 4 = false
      ∧ s.copyPlace k k.dsp k.dst j = some m) :
    ∃ q, let u := s.storedLocal k.dsp (s.copiedWords k) q
      applyAll (copyPerform cl k s) s = applyAll (endCmd cl k (tokenWord 0 (4 * (k.len / 4))) u) u := by
  have here : (k.buf.isSome || podCopy k s) = false := by
    rw [unread, podCopy, Option.isSome_none, Bool.false_or, List.any_eq_false]
    intro p _
    rcases source with a | a <;> rcases target with b | b <;> simp [podWordOf, a, b]
  have scanned := copyScan_local (s := s) source target (ps := copyPositions k) (by
    rw [copyPositions_row row]
    simpa [State.copyPlace] using places)
  obtain ⟨q, stored⟩ := copyWrites_local (s := s) target (ws := (copyPositions k).map fun p => (p.2, s.sourceWord k p.1)) (by
    rw [copyPositions_row row]
    simpa using fun j hj => let ⟨_, m, _, _, into⟩ := places j hj; ⟨m, into⟩)
  have words : ((copyPositions k).map fun p => (p.2, s.sourceWord k p.1)).map
      (fun w => (localBase (coreOf k.six) k.dsp + w.1.toNat, w.2)) = s.copiedWords k := by
    rw [copyPositions_row row, List.map_map, List.map_map]
    rfl
  rw [words] at stored
  refine ⟨q, ?_⟩
  rw [copyPerform, here, scanned]
  simp only [Bool.false_eq_true, if_false]
  rw [applyAll_chain_cons, applyAll_nil, applyAll_chain_cons, stored, applyAll_chain_cons, chain_nil, applyAll_nil]
  simp only [copyEnd, alone, List.length_map, copyPositions_row row, List.length_range]

end

/-! ## The end of a command (R200, R204) -/

section
variable {cl : Nat} {k : Cmd} {tok : Word}

theorem cluster_apply_cluster (s : State) (n m : Nat) (c : Cluster) :
    ((Effect.cluster n c).apply s).cluster m = if m = n then c else s.cluster m := tblGet_set _ _ _ _ _

/-- The state without a command in its engine. -/
def State.dropped (s : State) (cl : Nat) (k : Cmd) : State :=
  (Effect.cluster cl { s.cluster cl with cmds := (s.cluster cl).cmds.filter (fun y => y.id != k.id) }).apply s

/-- A strand that has received the token of a command. -/
def Strand.tokened (x : Strand) (k : Cmd) (tok : Word) : Strand :=
  ({ x with await := x.await.filter (fun a => a.2 ≠ k.id) } : Strand).write (.s k.token) (.word tok)

/-- A command ends: it leaves the engine, its core acquires, and its token reaches its strand. -/
theorem endCmd_eq (cl : Nat) (k : Cmd) (tok : Word) (s : State) : ∃ t, OnCaches (s.dropped cl k) t
    ∧ applyAll (endCmd cl k tok s) s = (Effect.strand k.six ((t.strand k.six).tokened k tok)).apply t := by
  refine ⟨_, applyAll_onCaches (acquire_onCaches (coreOf k.six) (s.dropped cl k)) _, ?_⟩
  rw [endCmd, applyAll_chain_cons, applyAll_chain_cons, applyAll_chain_cons, chain_nil, applyAll_nil]
  rfl

theorem endCmd_mem (s : State) : (applyAll (endCmd cl k tok s) s).mem = s.mem := by
  obtain ⟨t, caches, ended⟩ := endCmd_eq cl k tok s
  rw [ended]
  exact caches.same State.mem fun _ _ _ _ => rfl

theorem endCmd_localMem (sp : Space) (s : State) : (applyAll (endCmd cl k tok s) s).localMem sp = s.localMem sp := by
  obtain ⟨t, caches, ended⟩ := endCmd_eq cl k tok s
  rw [ended]
  exact caches.same (State.localMem · sp) fun _ _ _ _ => rfl

theorem endCmd_token (named : k.token ≠ 0) (s : State) :
    ((applyAll (endCmd cl k tok s) s).strand k.six).readS k.token = tok := by
  obtain ⟨t, -, ended⟩ := endCmd_eq cl k tok s
  rw [ended, apply_strand_strand, Strand.tokened, readS_writeS, if_pos ⟨rfl, named⟩]

theorem endCmd_removes (s : State) : cmdOf (applyAll (endCmd cl k tok s) s) cl k.id = none := by
  obtain ⟨t, caches, ended⟩ := endCmd_eq cl k tok s
  have left : t.cluster cl = (s.dropped cl k).cluster cl := caches.same (State.cluster · cl) fun _ _ _ _ => rfl
  have same : (applyAll (endCmd cl k tok s) s).cluster cl = t.cluster cl := by rw [ended]; rfl
  rw [cmdOf, same, left, State.dropped, cluster_apply_cluster, if_pos rfl]
  simp

end

/-! ## A copy between P and D -/

/-- Consecutive words inside a local space lie one after another, without wrapping round. -/
theorem consecutive {a : Word} {n : Nat} (inside : ∀ j, j < n → (a + BitVec.ofNat 64 (4 * j)).toNat + 4 ≤ 2 ^ 26) :
    4 * n ≤ 2 ^ 26 ∧ ∀ j, j < n → (a + BitVec.ofNat 64 (4 * j)).toNat = a.toNat + 4 * j := by
  simp only [BitVec.toNat_add, BitVec.toNat_ofNat, Nat.add_mod_mod] at inside ⊢
  have few : n ≤ 2 ^ 24 := by
    by_contra many
    have first := inside 0 (by omega)
    have past := inside (2 ^ 24) (by omega)
    omega
  refine ⟨by omega, fun j hj => ?_⟩
  have first := inside 0 (by omega)
  omega

section
variable {s : State} {k : Cmd} (target : k.dsp = .p ∨ k.dsp = .d)
  (places : ∀ j, j < k.len / 4 → ∃ m, s.copyPlace k k.dsp k.dst j = some m)
include target places

theorem copied_consecutive : 4 * (k.len / 4) ≤ 2 ^ 26
    ∧ ∀ j, j < k.len / 4 → (k.dst + BitVec.ofNat 64 (4 * j)).toNat = k.dst.toNat + 4 * j :=
  consecutive fun j hj => let ⟨_, into⟩ := places j hj; (localLoc_place target into).2.2

theorem copiedWords_apart : (s.copiedWords k).Pairwise fun w x => Apart w.1 x.1 := by
  obtain ⟨-, placed⟩ := copied_consecutive target places
  refine List.pairwise_map.mpr (List.pairwise_lt_range.imp_of_mem fun {i j} hi hj before => ?_)
  have first := placed i (List.mem_range.mp hi)
  have second := placed j (List.mem_range.mp hj)
  simp only [Apart, first, second]
  omega

/-- Every word written is a destination word of the copy, at its place. -/
theorem copiedWords_place {w : Nat × Nat} (written : w ∈ s.copiedWords k) :
    ∃ j m, j < k.len / 4 ∧ s.copyPlace k k.dsp k.dst j = some m ∧ w.1 = m.addr := by
  obtain ⟨j, hj, rfl⟩ := List.mem_map.mp written
  obtain ⟨m, into⟩ := places j (List.mem_range.mp hj)
  exact ⟨j, m, List.mem_range.mp hj, into, (localLoc_place target into).2.1.symm⟩

/-- A destination word holds what its source word held. -/
theorem copied_word {t : State} (q : Tbl Bool) {j : Nat} {l m : Loc} (hj : j < k.len / 4)
    (written : t.localMem k.dsp = (s.storedLocal k.dsp (s.copiedWords k) q).localMem k.dsp)
    (origin : s.copyPlace k k.ssp k.src j = some l) (into : s.copyPlace k k.dsp k.dst j = some m) :
    m.read t 4 = l.read s 4 := by
  obtain ⟨space, addr, -⟩ := localLoc_place target into
  have word : (m.addr, l.read s 4) ∈ s.copiedWords k :=
    List.mem_map.mpr ⟨j, List.mem_range.mpr hj, by rw [addr, sourceWord_eq origin]⟩
  rw [read_localMem, space, written, localMem_storedLocal target, memRead_writeWords (copiedWords_apart target places) word]
  exact Nat.mod_eq_of_lt (by rw [read_localMem]; exact memRead_lt _ _ _)

/-- The other bytes of the two spaces are as they were. -/
theorem copied_elsewhere {sp : Space} (isLocal : sp = .p ∨ sp = .d) (q : Tbl Bool) {a : Nat}
    (out : ∀ j m, j < k.len / 4 → k.dsp = sp → s.copyPlace k k.dsp k.dst j = some m → a < m.addr ∨ m.addr + 4 ≤ a) :
    memGet ((s.storedLocal k.dsp (s.copiedWords k) q).localMem sp) a = memGet (s.localMem sp) a := by
  by_cases same : k.dsp = sp
  · rw [← same, localMem_storedLocal target]
    refine memGet_writeWords_other (fun w written => ?_) _
    obtain ⟨j, m, hj, into, addr⟩ := copiedWords_place target places written
    rw [addr]
    exact out j m hj same into
  · rw [localMem_storedLocal_other target isLocal same]

/-- Its token is the count of its bytes. -/
theorem copied_token (whole : k.len % 4 = 0) : tokenWord 0 (4 * (k.len / 4)) = BitVec.ofNat 64 k.len := by
  obtain ⟨few, -⟩ := copied_consecutive target places
  rw [tokenWord, show 4 * (k.len / 4) = k.len by omega, Nat.mod_eq_of_lt (by omega)]
  simp [bit]

end

theorem copyMoves_holds : copyMoves := by
  intro s cl id k _ listed begun free kind new unread alone row whole named source target places
  have targets : ∀ j, j < k.len / 4 → ∃ m, s.copyPlace k k.dsp k.dst j = some m :=
    fun j hj => let ⟨_, m, _, _, into⟩ := places j hj; ⟨m, into⟩
  obtain ⟨q, performs⟩ := copyPerform_local cl source target row unread alone places
  have numbered : k.id = id := by simpa using List.find?_some listed
  refine ⟨_, (copyCompletion_copies listed begun free (.inl kind) new).trans (congrArg Host.Outcome.next performs),
    fun j l m hj origin into => copied_word target targets q hj (endCmd_localMem _ _) origin into,
    fun a out => ?_, fun a out => ?_, endCmd_mem _, ?_, ?_⟩
  · exact (congrArg (memGet · a) (endCmd_localMem .p _)).trans (copied_elsewhere target targets (.inl rfl) q out)
  · exact (congrArg (memGet · a) (endCmd_localMem .d _)).trans (copied_elsewhere target targets (.inr rfl) q out)
  · rw [endCmd_token named, copied_token target targets whole]
  · rw [← numbered]
    exact endCmd_removes _

end Sys2Proof.Machine

/-! An integer matrix product (R224, R226, R227): the sums of its products, packed into a tile and read back. -/

namespace Sys2Proof.Machine

/-! ## Packed numbers -/

/-- `b`-bit numbers packed side by side, the first lowest. -/
def packBits (b : Nat) (xs : List Nat) : Nat := (xs.zipIdx.map fun p => p.1 % 2 ^ b * 2 ^ (b * p.2)).sum

theorem packBits_eq_ofDigits (b : Nat) (xs : List Nat) : packBits b xs = Nat.ofDigits (2 ^ b) (xs.map (· % 2 ^ b)) := by
  rw [Nat.ofDigits_eq_sum_mapIdx, List.mapIdx_eq_zipIdx_map, List.zipIdx_map, List.map_map, packBits]
  refine congrArg List.sum (List.map_congr_left fun p _ => ?_)
  rw [pow_mul]
  rfl

/-- Each of the numbers, read back. -/
theorem packBits_digit (b : Nat) {xs : List Nat} {i : Nat} (h : i < xs.length) :
    packBits b xs / 2 ^ (b * i) % 2 ^ b = xs[i] % 2 ^ b := by
  have digits : ∀ x ∈ xs.map (· % 2 ^ b), x < 2 ^ b := fun x hx => by
    obtain ⟨y, -, rfl⟩ := List.mem_map.mp hx
    exact Nat.mod_lt _ (Nat.two_pow_pos b)
  rw [packBits_eq_ofDigits, pow_mul, Nat.ofDigits_div_pow_eq_ofDigits_drop i (Nat.two_pow_pos b) _ digits, Nat.ofDigits_mod_eq_head!,
    List.drop_eq_getElem_cons (by simpa using h), List.head!_cons, List.getElem_map, Nat.mod_mod]

/-- A number cut to its lowest `n` bits keeps the digits that lie wholly in them. -/
theorem mod_digit (x : Nat) {b n i : Nat} (inside : b * i + b ≤ n) : x % 2 ^ n / 2 ^ (b * i) % 2 ^ b = x / 2 ^ (b * i) % 2 ^ b := by
  obtain ⟨m, rfl⟩ := Nat.exists_eq_add_of_le inside
  rw [Nat.add_assoc, pow_add, Nat.mod_mul_right_div_self, Nat.mod_mod_of_dvd _ (pow_dvd_pow 2 (Nat.le_add_right b m))]

theorem toNat_ofNat_digit (x : Nat) {w b i : Nat} (inside : b * i + b ≤ w) :
    (BitVec.ofNat w x).toNat / 2 ^ (b * i) % 2 ^ b = x / 2 ^ (b * i) % 2 ^ b := by
  rw [BitVec.toNat_ofNat, mod_digit x inside]

/-! ## Rows and elements of a tile -/

theorem row_tileOf (tag : Nat) {rows : List Nat} {i : Nat} (h : i < rows.length) (few : i < 32) :
    (tileOf tag rows).row i = rows[i] % 2 ^ 1024 :=
  (toNat_ofNat_digit _ (by omega)).trans (packBits_digit 1024 h)

theorem elemAt_mod_row (x : Nat) {j : Nat} (few : j < 32) : elemAt 22 (x % 2 ^ 1024) j = elemAt 22 x j := by
  have digit := mod_digit x (b := 32) (n := 1024) (i := j) (by omega)
  rwa [Nat.mul_comm 32 j] at digit

theorem elemAt_packElems {es : List Nat} {j : Nat} (h : j < es.length) : elemAt 22 (packElems 22 es) j = es[j] % 2 ^ 32 := by
  have same : packElems 22 es = packBits 32 es := congrArg List.sum (List.map_congr_left fun p _ => by
    rw [Nat.mul_comm 32 p.2]
    rfl)
  rw [same]
  have digit := packBits_digit 32 h
  rwa [Nat.mul_comm 32 j] at digit

/-- A tile of 32-bit elements, each given (R215). -/
def tileOfCells (cell : Nat → Nat → Nat) : Tile :=
  tileOf 22 ((List.range 32).map fun i => packElems 22 ((List.range 32).map (cell i)))

theorem elemAt_tileOfCells (cell : Nat → Nat → Nat) {i j : Nat} (hi : i < 32) (hj : j < 32) :
    elemAt 22 ((tileOfCells cell).row i) j = cell i j % 2 ^ 32 := by
  rw [tileOfCells, row_tileOf 22 (by simpa using hi) hi, elemAt_mod_row _ hj, List.getElem_map, List.getElem_range,
    elemAt_packElems (by simpa using hj), List.getElem_map, List.getElem_range]

/-- A tile whose cells are computed with their conditions, of which there are none. -/
theorem tile_of_quiet_cells {cell : Nat → Nat → Nat × BitVec 6} {value : Nat → Nat → Nat} (quiet : ∀ i j, cell i j = (value i j, 0)) :
    (let rows := (List.range 32).map fun i => (List.range 32).map (cell i)
     (tileOf 22 (rows.map fun r => packElems 22 (r.map Prod.fst)),
      rows.foldl (fun f r => r.foldl (fun f c => f ||| c.2) f) (0 : BitVec 6)))
      = (tileOfCells value, 0) := by
  have flags : ∀ (xs : List Nat) (i : Nat), (xs.map (cell i)).foldl (fun f c => f ||| c.2) (0 : BitVec 6) = 0 := by
    intro xs i
    induction xs with
    | nil => rfl
    | cons j xs ih =>
      rw [List.map_cons, List.foldl_cons, quiet i j]
      simpa using ih
  have allFlags : ∀ xs : List Nat, (xs.map fun i => (List.range 32).map (cell i)).foldl
      (fun f r => r.foldl (fun f c => f ||| c.2) f) (0 : BitVec 6) = 0 := by
    intro xs
    induction xs with
    | nil => rfl
    | cons i xs ih => rwa [List.map_cons, List.foldl_cons, flags]
  have values : ∀ i, ((List.range 32).map (cell i)).map Prod.fst = (List.range 32).map (value i) := fun i => by
    rw [List.map_map]
    exact List.map_congr_left fun j _ => by rw [Function.comp_apply, quiet i j]
  refine Prod.ext ?_ (allFlags _)
  simp only [tileOfCells, List.map_map, Function.comp_def, ← values]

/-! ## Integer elements and their products (R65, R224, R226) -/

/-- The tags that accumulate in I32 are the integer tags of 16 bits and fewer (R224). -/
theorem intTags_of_accTag {a b : Nat} (acc : accTag a b = some 22) : (10 ≤ a ∧ a ≤ 14) ∧ (10 ≤ b ∧ b ≤ 14) := by
  simp only [accTag] at acc
  split at acc
  · cases acc
  split at acc
  · cases acc
  split at acc
  · cases acc
  split at acc
  · next ints => simpa using ints
  · cases acc

theorem readElem_int {t : Nat} (int : 10 ≤ t ∧ t ≤ 14) (data side j : Nat) :
    readElem t data side j = .fin (Dy.ofInt (readInt t (elemAt t data j))) := by
  obtain ⟨lo, hi⟩ := int
  have noFloat : tagFmt t = none := by interval_cases t <;> rfl
  simp only [readElem, show ¬t = 21 by omega, show ¬(15 ≤ t ∧ t ≤ 20) by omega, if_false, noFloat]

theorem product_ints (a b : Int) : ∃ d, product (.fin (Dy.ofInt a)) (.fin (Dy.ofInt b)) = some (.fin d) ∧ d.intAt 0 = a * b := by
  refine ⟨_, rfl, ?_⟩
  have size : ((a.natAbs * b.natAbs * 2 ^ ((0 : Int) + 0 - 0).toNat : Nat) : Int) = |a| * |b| := by simp
  simp only [Dy.mul, Dy.ofInt, Dy.intAt, size]
  rcases lt_or_ge a 0 with ha | ha <;> rcases lt_or_ge b 0 with hb | hb
  · simp [ha, hb, abs_of_neg]
  · simp [ha, not_lt.mpr hb, abs_of_neg, abs_of_nonneg hb]
  · simp [not_lt.mpr ha, hb, abs_of_neg, abs_of_nonneg ha]
  · simp [not_lt.mpr ha, not_lt.mpr hb, abs_of_nonneg ha, abs_of_nonneg hb]

/-- Element `n` of row `i` of a run of registers under an integer tag. -/
def runElem (t : Nat) (vs : List VReg) (i n : Nat) : Int :=
  readInt t (elemAt t ((vs[i]?.map fun v => v.data.toNat).getD 0) n)

/-- An element of a panel in registers. -/
theorem panelElem_run {t i n : Nat} {vs : List VReg} (int : 10 ≤ t ∧ t ≤ 14) (row : i < vs.length) (column : n < tagCount t) :
    panelElem t (panelRun vs) i n = some (.fin (Dy.ofInt (runElem t vs i n))) := by
  simp only [runElem, panelElem, panelRun, List.getElem?_map, List.getElem?_eq_getElem row, Option.map_some, Option.getD_some,
    Nat.div_eq_of_lt column, Nat.mod_eq_of_lt column, List.getD_cons_zero, readElem_int int]

/-! ## MMA and MMAZ of two register runs (R226) -/

/-- What an integer MMA or MMAZ makes of element (i, j) of a tile. -/
def MxCmd.intCell (k : MxCmd) (zero : Bool) (old : Tile) (i j : Nat) : Nat :=
  wrapInt 32 (((if zero then 0 else elemAt 22 (old.row i) j : Nat) : Int)
    + if i < cfgM k.mcfg ∧ j < cfgN k.mcfg
      then ((List.range (cfgK k.mcfg)).map fun n =>
        runElem (cfgATag k.mcfg) k.runA i n * runElem (cfgBTag k.mcfg) k.runB j n).sum
      else 0)

theorem wrapInt_lt (w : Nat) (i : Int) : wrapInt w i < 2 ^ w := by
  have below := Int.emod_lt_of_pos i (show (0 : Int) < (2 ^ w : Nat) by exact_mod_cast Nat.two_pow_pos w)
  have nonneg := Int.emod_nonneg i (show ((2 ^ w : Nat) : Int) ≠ 0 by exact_mod_cast (Nat.two_pow_pos w).ne')
  unfold wrapInt
  omega

theorem wrapInt_of_lt {w n : Nat} (h : n < 2 ^ w) : wrapInt w n = n := by
  rw [wrapInt, Int.emod_eq_of_lt (Int.natCast_nonneg n) (by exact_mod_cast h), Int.toNat_natCast]

theorem elemAt_lt (t data j : Nat) : elemAt t data j < 2 ^ tagBits t := Nat.mod_lt _ (Nat.two_pow_pos _)

theorem elemAt_intCells (k : MxCmd) (zero : Bool) (old : Tile) {i j : Nat} (hi : i < 32) (hj : j < 32) :
    elemAt 22 ((tileOfCells (k.intCell zero old)).row i) j = k.intCell zero old i j :=
  (elemAt_tileOfCells _ hi hj).trans (Nat.mod_eq_of_lt (wrapInt_lt 32 _))

section
variable {k : MxCmd} (acc : accTag (cfgATag k.mcfg) (cfgBTag k.mcfg) = some 22)
  (depthA : cfgK k.mcfg ≤ tagCount (cfgATag k.mcfg)) (depthB : cfgK k.mcfg ≤ tagCount (cfgBTag k.mcfg))
  (rowsA : cfgM k.mcfg ≤ k.runA.length) (rowsB : cfgN k.mcfg ≤ k.runB.length)
include acc depthA depthB rowsA rowsB

theorem mmaTile_ints (zero : Bool) (old : Tile) :
    mmaTile k zero (panelRun k.runA) (panelRun k.runB) old = (tileOfCells (k.intCell zero old), 0) := by
  obtain ⟨intA, intB⟩ := intTags_of_accTag acc
  simp only [mmaTile, acc, Option.getD_some, if_true]
  refine tile_of_quiet_cells fun i j => ?_
  by_cases inside : i < cfgM k.mcfg ∧ j < cfgN k.mcfg
  · rw [MxCmd.intCell, if_pos inside, if_pos inside, List.filterMap_map, List.filterMap_eq_map_iff_forall_eq_some.mpr]
    intro n hn
    have depth := List.mem_range.mp hn
    obtain ⟨d, finite, value⟩ := product_ints (runElem (cfgATag k.mcfg) k.runA i n) (runElem (cfgBTag k.mcfg) k.runB j n)
    simp only [Function.comp_apply, panelElem_run intA (inside.1.trans_le rowsA) (depth.trans_le depthA),
      panelElem_run intB (inside.2.trans_le rowsB) (depth.trans_le depthB), finite, value]
  · rw [MxCmd.intCell, if_neg inside, if_neg inside, Int.add_zero, wrapInt_of_lt]
    cases zero
    · exact elemAt_lt 22 _ j
    · exact Nat.two_pow_pos 32

end

/-- The state without a command in its matrix unit. -/
def State.leftUnit (s : State) (cl id : Nat) : State :=
  (Effect.cluster cl { s.cluster cl with mx := (s.cluster cl).mx.filter (fun k => k.id != id) }).apply s

/-- A command that no copy has brought leaves the unit, and nothing else happens. -/
theorem leaveUnit_eq {s : State} {cl id : Nat} (alone : ∀ e ∈ (s.cluster cl).cmds, e.id ≠ id) :
    applyAll (leaveUnit cl id s) s = s.leftUnit cl id := by
  have noCopy : ((s.leftUnit cl id).cluster cl).cmds.find? (fun k => k.id == id) = none := by
    rw [State.leftUnit, cluster_apply_cluster, if_pos rfl]
    simpa using alone
  rw [leaveUnit, applyAll_chain_cons, applyAll_chain_cons, chain_nil, applyAll_nil]
  show applyAll (match ((s.leftUnit cl id).cluster cl).cmds.find? (fun k => k.id == id) with
    | some k => endCmd cl k (k.copied.getD 0) (s.leftUnit cl id)
    | none => []) (s.leftUnit cl id) = _
  rw [noCopy]
  rfl

theorem mxOf_leftUnit (s : State) (cl id : Nat) : mxOf (s.leftUnit cl id) cl id = none := by
  rw [mxOf, State.leftUnit, cluster_apply_cluster, if_pos rfl]
  simp

section
variable {s : State} {cl id : Nat} {k : MxCmd} (op : k.op = .mma ∨ k.op = .mmaz) (runA : k.mcfg.getLsbD 33 = false)
  (runB : k.mcfg.getLsbD 32 = false)
include op runA runB

/-- A product of two register runs fetches nothing. -/
theorem cmdFetch_runs : cmdFetch k = [] := by
  have none' : (descsOf false k.mcfg k.mgb k.specA k.specB) = [] := by
    simp only [descsOf, runA, runB, Bool.false_eq_true, if_false, List.append_nil]
  rcases op with op | op
  all_goals simp only [cmdFetch, op, none', List.flatMap_nil]

theorem cmdResult_ints (acc : accTag (cfgATag k.mcfg) (cfgBTag k.mcfg) = some 22)
    (depthA : cfgK k.mcfg ≤ tagCount (cfgATag k.mcfg)) (depthB : cfgK k.mcfg ≤ tagCount (cfgBTag k.mcfg))
    (rowsA : cfgM k.mcfg ≤ k.runA.length) (rowsB : cfgN k.mcfg ≤ k.runB.length) (x : Strand) :
    cmdResult k x [] = some (tileOfCells (k.intCell (decide (k.op = .mmaz)) (x.readT k.td)), 0) := by
  have panels : cmdPanels false k [] = (panelRun k.runA, panelRun k.runB) := by
    simp only [cmdPanels, runA, runB, Bool.false_eq_true, if_false]
  rcases op with op | op
  all_goals
    simp only [cmdResult, op, panels, mmaTile_ints acc depthA depthB rowsA rowsB]
    rfl

/-- A command that waits for no commit performs: it leaves the unit, and its tile and conditions reach its strand. -/
theorem mxPerform_runs (ready : mxOldest k s = none) (alone : ∀ e ∈ (s.cluster cl).cmds, e.id ≠ k.id) {tile : Tile} {fl : BitVec 6}
    (result : cmdResult k (s.strand k.six) [] = some (tile, fl)) :
    applyAll (mxPerform cl k s) s
      = (Effect.strand k.six (((s.strand k.six).setTile k.td tile).raise fl)).apply (s.leftUnit cl k.id) := by
  have stays : k.op ≠ .tmovOut := by rcases op with op | op <;> rw [op] <;> exact nofun
  simp only [mxPerform, ready, cmdFetch_runs op runA runB, operandReads]
  rw [applyAll_chain_cons, applyAll_nil, applyAll_chain_cons, leaveUnit_eq alone, applyAll_chain_cons, chain_nil, applyAll_nil]
  simp only [show (s.leftUnit cl k.id).strand k.six = s.strand k.six from rfl, result, if_neg stays]
  rfl

end

theorem readT_raise_setTile (x : Strand) (n m : Nat) (y : Tile) (fl : BitVec 6) :
    ((x.setTile n y).raise fl).readT m = if m = n then y else x.readT m := tblGet_set _ _ _ _ _

theorem readS_raise_setTile (x : Strand) (n m : Nat) (y : Tile) (fl : BitVec 6) :
    ((x.setTile n y).raise fl).readS m = x.readS m := rfl

theorem flags_raise_setTile (x : Strand) (n : Nat) (y : Tile) : ((x.setTile n y).raise 0).sys.flags = x.sys.flags :=
  BitVec.or_zero

theorem matrixTile_holds : matrixTile := by
  intro s cl id k y listed begun free shadow op ready alone runA runB at' bt acc depthA depthB rowsA rowsB x a b
  have numbered : k.id = id := by simpa using List.find?_some listed
  have result := cmdResult_ints op runA runB acc depthA depthB rowsA rowsB x
  have performs := mxPerform_runs op runA runB ready (fun e he => numbered ▸ alone e he) result
  refine ⟨_, (matrixCommandCompletion_does listed begun free shadow).trans (congrArg Host.Outcome.next performs), ?_, ?_⟩
  · rw [← numbered]
    exact mxOf_leftUnit s cl k.id
  · rw [apply_strand_strand]
    refine ⟨by rw [readT_raise_setTile, if_pos rfl]; rfl, fun i j hi hj => ?_,
      fun n hn => by rw [readT_raise_setTile, if_neg hn], flags_raise_setTile _ _ _, fun n => readS_raise_setTile _ _ _ _ _⟩
    rw [readT_raise_setTile, if_pos rfl, elemAt_intCells k _ _ hi hj, MxCmd.intCell]
    rcases op with op | op
    all_goals simp only [op]; rfl

/-- Settles O46, event by event; a copy by the words it writes, a product by its cells. -/
theorem unitEvents : Obligations.UnitEvents := ⟨unitEvents_happen, copyMoves_holds, matrixTile_holds⟩

end Sys2Proof.Machine

/-! The matrix instructions at issue (R216, R218, R223, R225, R230 to R235): the checks that an instruction passes, and the one command
that it enters in the unit of its quad. -/

namespace Sys2Proof.Machine

/-! ## Operations of an issue -/

section
variable {s : State} {i : Instr} {enc : Nat} {w : BitVec 3} {rs : List RegId} {body : M Ctl} (hr : s.ready .v)
  (quad : isCompute s.coreNo = true) (issued : exec i s = mxIssue (infoV enc w.toNat rs) body s)
include hr quad issued

/-- On a core of a quad a matrix instruction issues as any other of the V-stream (R214). -/
theorem exec_matrix_of_runs {t : State} (runs : Runs body s.landed .next t) : exec i s = .next (t.ended .v 4 w.toNat) :=
  exec_of_runs hr (issued.trans (if_pos quad)) runs

theorem exec_matrix_of_stops {x : Stop} (stops : ∀ k, Prog.run onStop s (body k) s.landed = onStop x s) :
    exec i s = .next (onStop x s) :=
  exec_of_stops hr (issued.trans (if_pos quad)) stops

end

/-- A trap of the V-stream (R33). -/
theorem run_trap_v {α : Type} {s t : State} (stream : t.stream = .v) (c u : Nat) (a : Word) (k : α → Prog) :
    Prog.run onStop s ((trap c u a : M α) k) t = onStop (.trap { cause := c, sub := u, addr := a, strm := .v }) s := by
  rw [m_trap, run_get, run_stop, stream]

section
variable {s : State} {n tag : Nat}

/-- The tag of a tile that no MLDT in the unit names (R216). -/
theorem runs_issueTag (known : tagAtIssue s s.six n = some tag) : Runs (issueTag n) s tag s := by
  intro f s0 k
  simp only [issueTag, m_bind, m_getS, run_get, known, m_pure]

theorem runs_issueTag_landed (known : tagAtIssue s.landed s.six n = some tag) : Runs (issueTag n) s.landed tag s.landed :=
  runs_issueTag (by rw [landed_six]; exact known)

/-- A command just numbered enters the unit. -/
theorem runs_enterUnit (k : MxCmd) (s : State) : Runs (enterUnit k) (Effect.fresh.apply s) () (s.entered k) := fun _ _ _ => rfl

theorem runs_scoredK (d : Nat) (w : Word) (s : State) : Runs (scored (.k d) (.word w)) s () (s.wrote (.k d) (.word w) 1) :=
  fun _ _ _ => rfl

end

/-! ## MMA, MMAZ and MTCX (R225, R230) -/

section
variable (s : State) (op : MxOp) (o : X3)

/-- The registers that spec A names; none where its panel comes from memory (R216). -/
def State.mmaRunA : List VReg :=
  let c := s.landed.me.v.mcfg
  if c.getLsbD 33 then [] else runOf s.landed.me (s.kreg o.a.toNat) (countsA (op == .mtcx) c).length

/-- The registers that spec B names, likewise. -/
def State.mmaRunB : List VReg :=
  let c := s.landed.me.v.mcfg
  if c.getLsbD 32 then [] else runOf s.landed.me (s.kreg (8 + o.x.toNat)) (countsB (op == .mtcx) c).length

/-- What steps 2 and 3 of R225 say of the pair. -/
def State.mmaCause (old : Option Nat) : Option Nat :=
  checkPair (op == .mtcx) s.landed.me.v.mcfg (s.kreg o.a.toNat) (s.kreg (8 + o.x.toNat)) (s.mmaRunA op o) (s.mmaRunB op o) old

/-- The panels of the pair that come from memory. -/
def State.mmaDescs : List (Word × List (Space × Word × Nat)) :=
  descsOf (op == .mtcx) s.landed.me.v.mcfg s.landed.me.v.mgb (s.kreg o.a.toNat) (s.kreg (8 + o.x.toNat))

/-- The tag that the pair is checked against: none for MMAZ, otherwise that of the tile once the unit's commands are over (R216). -/
def State.TileTag (old : Option Nat) : Prop :=
  if op = .mmaz then old = none else ∃ n, tagAtIssue s.landed s.six o.d.toNat = some n ∧ old = some n

variable {s op o} {old : Option Nat}

theorem runs_tileTag (tagged : s.TileTag op o old) :
    Runs (if op = .mmaz then pure none else do
      let t ← issueTag o.d.toNat
      pure (some t)) s.landed old s.landed := by
  unfold State.TileTag at tagged
  split at tagged
  case isTrue zero =>
    subst tagged
    exact runs_then zero (runs_pure none _)
  case isFalse reads =>
    obtain ⟨n, known, rfl⟩ := tagged
    exact runs_else reads (runs_bind (runs_issueTag_landed known) (runs_pure (some n) _))

variable {i : Instr} {fn : Nat} (hr : s.ready .v) (quad : isCompute s.coreNo = true) (issued : exec i s = mmaForm fn op o s)
  (encodes : encode i = opX 0x38 fn + o.bits) (tagged : s.TileTag op o old)
include hr quad issued encodes tagged

/-- A pair that passes the checks enters its one command. -/
theorem mmaForm_enters {hulls : List Hull} {u : State} (passes : s.mmaCause op o old = none)
    (described : Runs (checkDescs (s.mmaDescs op o) s.landed.me.v.mgb) s.landed hulls u) :
    exec i s
      = .next ((u.entered { u.mxCmd i op o.d.toNat with
          specA := s.kreg o.a.toNat, specB := s.kreg (8 + o.x.toNat), runA := s.mmaRunA op o, runB := s.mmaRunB op o,
          reads := hulls }).ended .v 4 o.w.toNat) := by
  refine exec_matrix_of_runs hr quad issued ?_
  refine runs_bind (runs_getK s _) (runs_bind (runs_getK s _) (runs_bind (runs_getS _) (runs_bind (runs_tileTag tagged) ?_)))
  simp only [State.mmaCause, State.mmaRunA, State.mmaRunB] at passes
  rw [← encodes, passes]
  exact runs_bind described (runs_bind (runs_newCmd i op o.d.toNat u) (runs_bind (runs_enterUnit _ u) (runs_pure _ _)))

/-- A pair that fails them traps, FORMAT or ILLEGAL. -/
theorem mmaForm_traps {cause : Nat} (fails : s.mmaCause op o old = some cause) :
    exec i s = .next (onStop (.trap { cause := cause, sub := 0, addr := BitVec.ofNat 64 (encode i), strm := .v }) s) := by
  refine exec_matrix_of_stops hr quad issued fun k => ?_
  simp only [State.mmaCause, State.mmaRunA, State.mmaRunB] at fails
  simp only [m_bind, run_getK_landed, m_getS, run_get]
  rw [runs_tileTag tagged, ← encodes, fails]
  exact run_trap_v (landed_v hr) cause 0 _ k

end

/-- The three instructions are one form (R223). -/
theorem mmas_mmaForm {e : (X3 → Instr) × MxOp} (he : e ∈ mmas) (o : X3) (s : State) :
    ∃ fn, exec (e.1 o) s = mmaForm fn e.2 o s ∧ encode (e.1 o) = opX 0x38 fn + o.bits := by
  simp only [mmas, List.mem_cons, List.not_mem_nil, or_false] at he
  rcases he with rfl | rfl | rfl
  · exact ⟨0, rfl, rfl⟩
  · exact ⟨1, rfl, rfl⟩
  · exact ⟨2, rfl, rfl⟩

/-- Settles O42: the one form enters its command, or traps, as the checks of its pair say. -/
theorem matrixMultiply : Obligations.MatrixMultiply := by
  intro e he o s hr quad _ _ _ _ _ _ _ old tagged
  obtain ⟨fn, issued, encodes⟩ := mmas_mmaForm he o s
  exact ⟨fun hulls u => mmaForm_enters hr quad issued encodes tagged, fun cause => mmaForm_traps hr quad issued encodes tagged⟩

/-! ## The tile instructions (R218, R231 to R235) -/

/-- A conversion word of R233 that names a tile tag. -/
theorem convertLegal {w : Word} (fields : w.toNat < 512) (mode : w.toNat / 32 % 8 < 6) (tagged : w.toNat % 32 ≠ 0)
    (listed : w.toNat % 32 < 24) (single : isBlock (w.toNat % 32) = false) :
    (decide (512 ≤ w.toNat ∨ 6 ≤ w.toNat / 32 % 8 ∨ w.toNat % 32 = 0 ∨ 24 ≤ w.toNat % 32) || isBlock (w.toNat % 32)) = false := by
  rw [single, Bool.or_false, decide_eq_false_iff_not]
  omega

section
variable {s : State} (hr : s.ready .v) (quad : isCompute s.coreNo = true)
include hr quad

section
variable (o : A2) {hulls : List Hull} {u : State}
  (described : Runs (checkDescs [(s.kreg o.a.toNat, imageFetch (s.kreg o.a.toNat) s.landed.me.v.mgb)] s.landed.me.v.mgb) s.landed hulls u)
include described

theorem exec_mldt :
    exec (.mldt o) s
      = .next ((u.entered { u.mxCmd (.mldt o) .mldt o.d.toNat with specA := s.kreg o.a.toNat, reads := hulls }).ended
          .v 4 o.w.toNat) := by
  refine exec_matrix_of_runs hr quad rfl ?_
  exact runs_bind (runs_getK s _) (runs_bind (runs_getS _) (runs_bind described (runs_bind (runs_newCmd (.mldt o) .mldt _ u)
    (runs_bind (runs_enterUnit _ u) (runs_pure _ _)))))

/-- The words of the image of a tile that MSTT stores (R231): the rows, then the tag record. -/
def State.imageStores (u : State) (n : Nat) (d mgb : Word) : List (Word × Nat) :=
  let y := u.me.readT n
  ((imageFetch d mgb).map (fun f => f.2.1)).zip
    ((imageWords d).map (fun p => cleanLane y.tag.toNat (y.row p.1 / 2 ^ (32 * p.2) % 2 ^ 32)) ++ [y.tag.toNat, 0])

/-- MSTT of a tile that no command names, into words that no engine command uses. -/
theorem exec_mstt {v : State} (idle : tileBusy u u.six o.d.toNat = false)
    (apart : (u.cluster (clusterOf u.coreNo)).cmds.any (fun k => conflicts k.reads k.writes [] hulls) = false)
    (stores : Runs (wideStore (dSpace (s.kreg o.a.toNat)) 4 (u.imageStores o.d.toNat (s.kreg o.a.toNat) s.landed.me.v.mgb)) u () v) :
    exec (.mstt o) s = .next (v.ended .v 4 o.w.toNat) := by
  refine exec_matrix_of_runs hr quad rfl ?_
  exact runs_bind (runs_getK s _) (runs_bind (runs_getS _) (runs_bind described (runs_bind (runs_getS u)
    (runs_bind (runs_stallIf _ u (by rw [idle, apart]; rfl)) (runs_bind stores (runs_pure _ _))))))

end

theorem exec_mzt (o : Mz) :
    exec (.mzt o) s
      = .next ((s.landed.entered { s.landed.mxCmd (.mzt o) .mzt o.d.toNat with specA := o.t.setWidth 64 }).ended .v 4 o.w.toNat) := by
  refine exec_matrix_of_runs hr quad rfl ?_
  exact runs_bind (runs_newCmd (.mzt o) .mzt _ s.landed) (runs_bind (runs_enterUnit _ s.landed) (runs_pure _ _))

/-- MCVT, with its generators stepped at issue where it rounds at random (R72, R233). -/
theorem exec_mcvt (o : X3) {src : Nat} :
    let w := s.kreg (8 + o.x.toNat)
    let n := w.toNat % 32
    w.toNat < 512 → w.toNat / 32 % 8 < 6 → n ≠ 0 → n < 24 → isBlock n = false →
    tagAtIssue s.landed s.six o.a.toNat = some src → src ≠ 0 →
    let u := s.landed.entered { s.landed.mxCmd (.mcvt o) .mcvt o.d.toNat with ta := o.a.toNat, specA := w }
    let y := u.me
    exec (.mcvt o) s = .next ((if isNarrowing src n && decide (mcvtMode w y.sys.rmode = 4)
      then u.withMe { y with v := { y.v with gen := rowDraws src n 32 y.v.gen } } else u).ended .v 4 o.w.toNat) := by
  intro w n fields mode tagged listed single known typed u y
  refine exec_matrix_of_runs hr quad rfl ?_
  refine runs_bind (runs_getK s _) (runs_bind (runs_illegalIf _ (convertLegal fields mode tagged listed single) _)
    (runs_bind (runs_issueTag_landed known) (runs_bind (runs_formatIf _ (decide_eq_false typed) _)
      (runs_bind (runs_newCmd (.mcvt o) .mcvt _ s.landed) (runs_bind (runs_enterUnit _ s.landed) (runs_bind (runs_getS u) ?_))))))
  split
  case isTrue => exact runs_bind (runs_modMe _ u) (runs_pure _ _)
  case isFalse => exact runs_pure _ u

section
variable (o : A2) {src : Nat} (known : tagAtIssue s.landed s.six o.a.toNat = some src)
include known

theorem exec_mtrn (moves : src = 0 ∨ src = 2 ∨ src = 22) :
    exec (.mtrn o) s
      = .next ((s.landed.entered { s.landed.mxCmd (.mtrn o) .mtrn o.d.toNat with ta := o.a.toNat }).ended .v 4 o.w.toNat) := by
  have legal : decide (src ≠ 0 ∧ src ≠ 2 ∧ src ≠ 22) = false := decide_eq_false (by omega)
  refine exec_matrix_of_runs hr quad rfl ?_
  exact runs_bind (runs_issueTag_landed known) (runs_bind (runs_formatIf _ legal _)
    (runs_bind (runs_newCmd (.mtrn o) .mtrn _ s.landed) (runs_bind (runs_enterUnit _ s.landed) (runs_pure _ _))))

theorem mtrn_badFormat (notRaw : src ≠ 0) (not32 : src ≠ 2) (notInt : src ≠ 22) : s.BadFormat (.mtrn o) := by
  refine exec_matrix_of_stops hr quad rfl fun k => ?_
  simp only [m_bind]
  rw [runs_issueTag_landed known]
  exact run_trapIf_fails (landed_v hr) (decide_eq_true ⟨notRaw, not32, notInt⟩) _ _ _ _

end

section
variable (o : X3) (fields : (s.kreg (8 + o.x.toNat)).toNat < 64)
include fields

/-- TMOV into a tile of the register's tag (R235). -/
theorem exec_tmov_in (into : (s.kreg (8 + o.x.toNat)).getLsbD 5 = true)
    (known : tagAtIssue s.landed s.six o.a.toNat = some (s.vreg o.d).t) :
    exec (.tmov o) s
      = .next ((s.landed.entered { s.landed.mxCmd (.tmov o) .tmovIn o.a.toNat with
          specA := s.kreg (8 + o.x.toNat), runA := [s.vreg o.d] }).ended .v 4 o.w.toNat) := by
  have same : decide ((s.vreg o.d).t ≠ (s.vreg o.d).t) = false := decide_eq_false (not_not_intro rfl)
  refine exec_matrix_of_runs hr quad rfl ?_
  refine runs_bind (runs_getK s _) (runs_bind (runs_illegalIf _ (decide_eq_false (Nat.not_le.mpr fields)) _)
    (runs_bind (runs_getV s _) (runs_then into ?_)))
  exact runs_bind (runs_issueTag_landed known) (runs_bind (runs_formatIf _ same _)
    (runs_bind (runs_newCmd (.tmov o) .tmovIn _ s.landed) (runs_bind (runs_enterUnit _ s.landed) (runs_pure _ _))))

/-- TMOV out of a tile: the register awaits its command (R235). -/
theorem exec_tmov_out (out : (s.kreg (8 + o.x.toNat)).getLsbD 5 = false) :
    let u := s.landed.entered { s.landed.mxCmd (.tmov o) .tmovOut o.a.toNat with
      specA := s.kreg (8 + o.x.toNat), specB := o.d.setWidth 64 }
    exec (.tmov o) s
      = .next ((u.withMe { u.me with await := u.me.await ++ [(.v o.d.toNat, s.landed.nextId)] }).ended .v 4 o.w.toNat) := by
  intro u
  refine exec_matrix_of_runs hr quad rfl ?_
  refine runs_bind (runs_getK s _) (runs_bind (runs_illegalIf _ (decide_eq_false (Nat.not_le.mpr fields)) _)
    (runs_bind (runs_getV s _) (runs_else (ne_true_of_eq_false out) ?_)))
  exact runs_bind (runs_newCmd (.tmov o) .tmovOut _ s.landed) (runs_bind (runs_enterUnit _ s.landed)
    (runs_bind (runs_modMe _ u) (runs_pure _ _)))

end

/-- TCFG of a legal configuration: the old one is read, the new one set (R218). -/
theorem exec_tcfg (o : X3) (legal : badConfig (s.kreg o.a.toNat) = false) :
    let t := s.landed
    let u := (t.wrote (.k o.d.toNat) (.word t.me.v.mcfg) 1).wrote (.k (o.d.toNat + 1)) (.word t.me.v.mgb) 1
    exec (.tcfg o) s
      = .next ((u.withMe { u.me with v := { u.me.v with mcfg := s.kreg o.a.toNat, mgb := s.kreg (8 + o.x.toNat) } }).ended
          .v 4 o.w.toNat) := by
  intro t u
  refine exec_matrix_of_runs hr quad rfl ?_
  exact runs_bind (runs_getK s _) (runs_bind (runs_getK s _) (runs_bind (runs_illegalIf _ legal _) (runs_bind (runs_getS t)
    (runs_bind (runs_scoredK _ _ t) (runs_bind (runs_scoredK _ _ _) (runs_bind (runs_modMe _ u) (runs_pure _ _)))))))

end

/-- Settles O43: each instruction passes its checks, then enters its command, stores its image or exchanges the configuration. -/
theorem tileInstructions : Obligations.TileInstructions := fun _ hr quad =>
  ⟨fun o _ _ described => ⟨exec_mldt hr quad o described, fun _ => exec_mstt hr quad o described⟩,
    exec_mzt hr quad,
    fun o _ => exec_mcvt hr quad o,
    fun o _ known => ⟨exec_mtrn hr quad o known, mtrn_badFormat hr quad o known⟩,
    fun o => ⟨exec_tmov_in hr quad o, exec_tmov_out hr quad o⟩,
    fun o => exec_tcfg hr quad o⟩

end Sys2Proof.Machine

/-! The state after reset (R257, R258, R347): every table is empty, and of the strand slots the chiplet's alone are listed. -/

namespace Sys2Proof.Machine

/-- Settles O57: the tables of a reset state are in canonical form in any configuration. -/
theorem resetWf : Obligations.ResetWf := resetOf_wf Cfg.default [] [] []

/-- The chiplet cores but core 0 wait after reset (R347). -/
theorem reset_strand_waiting {n : Nat} (low : 1057 ≤ n) (high : n < 1088) : State.reset.strand (8 * n) = .waiting := by
  have listed : ∀ i < 31, State.reset.strand (bootSix + 8 * (i + 1)) = .waiting := by decide +kernel
  have place : 8 * n = bootSix + 8 * (n - 1057 + 1) := by
    unfold bootSix
    omega
  rw [place]
  exact listed _ (by omega)

/-- An event that serves a queue does nothing where the command processor does not go on with it (R286). -/
theorem event_servePacket_unserved {s : State} {d q : Nat} (unserved : served s d q = false) (kind : List Word → State → Bool)
    (act : List Word → M Unit) : event (servePacket d q kind act) s = .next s := by
  simp only [event, M.prog, servePacket, m_bind, m_getS, run_get, unserved, Bool.false_eq_true, if_false, m_pure, run_done]

/-- Settles O53: what reset lists are the strands of the chiplet alone; every other table answers its default. -/
theorem resetState : Obligations.ResetState := by
  refine ⟨fun _ => ⟨rfl, rfl, rfl, rfl⟩, fun _ => ⟨rfl, rfl, rfl⟩, fun _ => ⟨rfl, rfl⟩, fun _ => ⟨rfl, rfl, rfl⟩, fun _ _ => rfl,
    fun _ => ⟨rfl, rfl, rfl, rfl⟩, fun _ _ => ⟨rfl, rfl⟩, fun c cluster => ?_, fun n low high => ?_,
    fun d q => event_servePacket_unserved rfl _ _⟩
  · have every : (BitVec.allOnes 32).getLsbD c = true := by rw [BitVec.getLsbD_allOnes, decide_eq_true cluster]
    exact ⟨every, every⟩
  · rw [reset_strand_waiting low high]
    exact ⟨rfl, rfl, rfl⟩

end Sys2Proof.Machine

/-! The actor and FIFO instructions (R303, R305). -/

namespace Sys2Proof.Machine

section
variable {s : State}

/-! ## ADECL (R303) -/

section
variable (o : A3) {t : State} {ws : List Word}

/-- How ADECL reads its descriptor: not at all where it removes the actor. -/
def Described (s : State) (o : A3) (ws : List Word) (t : State) : Prop :=
  o.a = 0 ∧ ws = [] ∧ t = s.landed ∨ o.a ≠ 0 ∧ (s.sreg o.a).toNat % 64 = 0 ∧ Runs (loadWords (s.sreg o.a) 16) s.landed ws t

theorem runs_described {o : A3} (described : Described s o ws t) {body : List Word → M Ctl} {c : Ctl} {u : State}
    (runs : Runs (body ws) t c u) :
    Runs (do
      if o.a ≠ 0 then trapIf (decide ((s.sreg o.a).toNat % 64 ≠ 0)) 4 0 (s.sreg o.a)
      let ws ← (if o.a = 0 then pure [] else loadWords (s.sreg o.a) 16)
      body ws) s.landed c u := by
  rcases described with ⟨removes, rfl, rfl⟩ | ⟨declares, aligned, loads⟩
  · exact runs_else (not_not.mpr removes) (runs_bind (runs_then removes (runs_pure _ _)) runs)
  · exact runs_then declares (runs_bind (runs_trapIf _ (notMisaligned aligned) _ _ _) (runs_bind (runs_else declares loads) runs))

theorem not_badActor {o : A3} {new : Option Actor} (good : o.a = 0 ∨ new.isSome = true) : ¬(o.a ≠ 0 ∧ new.isNone = true) := by
  rintro ⟨declares, bad⟩
  rw [Option.isNone_iff_eq_none.mp bad] at good
  exact good.elim declares nofun

section
variable (hr : s.ready .c) (described : Described s o ws t) {g : Nat} (group : t.me.gid = some g)
include hr described group

theorem exec_adecl_badDesc (bad : o.a ≠ 0 ∧ actorOf t g ws = none) :
    exec (.adecl o) s = .next ((t.wrote (.s o.d.toNat) (.word stBadDesc) 1).ended .c 4 o.w.toNat) := by
  refine issue_of_runs hr (runs_operands (runs_described described (runs_bind (runs_getS _) ?_)))
  simp only [group]
  exact runs_then ⟨bad.1, Option.isNone_iff_eq_none.mpr bad.2⟩ (runs_giveS_next _ _ _)

section
variable (good : o.a = 0 ∨ (actorOf t g ws).isSome = true) (here : t.coreNo = s.coreNo)
include good here

theorem exec_adecl_busy (busy : (tblGet none (t.core s.coreNo).actors ((s.sreg o.b).toNat % 32)).any Actor.busy = true) :
    exec (.adecl o) s = .next ((t.wrote (.s o.d.toNat) (.word stBusy) 1).ended .c 4 o.w.toNat) := by
  refine issue_of_runs hr (runs_operands (runs_described described (runs_bind (runs_getS _) ?_)))
  simp only [group, here]
  exact runs_else (not_badActor good) (runs_then busy (runs_giveS_next _ _ _))

theorem exec_adecl_stores (idle : (tblGet none (t.core s.coreNo).actors ((s.sreg o.b).toNat % 32)).any Actor.busy = false) :
    let n := (s.sreg o.b).toNat % 32
    let c := t.core s.coreNo
    let x := (Effect.core s.coreNo { c with actors := tblSet none c.actors n (if o.a = 0 then none else actorOf t g ws) }).apply t
    exec (.adecl o) s = .next ((x.wrote (.s o.d.toNat) (.word 0) 1).ended .c 4 o.w.toNat) := by
  intro n c x
  refine issue_of_runs hr (runs_operands (runs_described described (runs_bind (runs_getS _) ?_)))
  simp only [group, here]
  exact runs_else (not_badActor good) (runs_else (by rw [idle]; exact nofun) (runs_bind (runs_put _ _) (runs_giveS_next _ _ _)))

end
end
end

/-! ## FIFOs (R305) -/

/-- What FPUSH checks before it looks at the FIFO: the payload lies in registers, the strand is the oldest, earlier accesses are done. -/
theorem runs_pushChecks {sel : Word} {b : BitVec 5} {body : State → M Ctl} {c : Ctl} {u : State} (plain : s.me.spec = false)
    (released : outstanding s.landed s.six = false)
    (fits : (selected s.landed sel true).isSome = true → b.toNat + sel.toNat / 256 % 4 ≤ 31) (runs : Runs (body s.landed) s.landed c u) :
    Runs (do
      let s ← getS
      trapIf ((selected s sel true).isSome && decide (31 < b.toNat + sel.toNat / 256 % 4)) 16 3 sel
      beOldest
      release
      let s ← getS
      body s) s.landed c u := by
  have inside : ((selected s.landed sel true).isSome && decide (31 < b.toNat + sel.toNat / 256 % 4)) = false := by
    simpa using fits
  exact runs_bind (runs_getS _) (runs_bind (runs_trapIf _ inside _ _ _) (runs_bind (runs_beOldest_landed plain)
    (runs_bind (runs_release released) (runs_bind (runs_getS _) runs))))

section
variable (hr : s.ready .c) (plain : s.me.spec = false)
include hr plain

section
variable (o : A3) (released : outstanding s.landed s.six = false)
include released

theorem exec_fpush_badDesc (bad : selected s.landed (s.sreg o.a) true = none) :
    exec (.fpush o) s = .next ((s.landed.wrote (.s o.d.toNat) (.word stBadDesc) 1).ended .c 4 o.w.toNat) := by
  refine issue_of_runs hr (runs_bind (runs_getSr s _) (runs_pushChecks plain released (by rw [bad]; exact nofun) ?_))
  simp only [bad]
  exact runs_giveS_next _ _ _

section
variable {n i : Nat} {y : Actor} {f : Fifo} (names : selected s.landed (s.sreg o.a) true = some (n, i, y, f))
  (fits : o.b.toNat + (s.sreg o.a).toNat / 256 % 4 ≤ 31)
include names fits

theorem exec_fpush_full (full : f.cap ≤ f.count) :
    exec (.fpush o) s = .next ((s.landed.wrote (.s o.d.toNat) (.word stFull) 1).ended .c 4 o.w.toNat) := by
  refine issue_of_runs hr (runs_bind (runs_getSr s _) (runs_pushChecks plain released (fun _ => fits) ?_))
  simp only [names]
  exact runs_then full (runs_giveS_next _ _ _)

theorem exec_fpush_puts (room : f.count < f.cap) :
    let len := (s.sreg o.a).toNat / 256 % 4
    let x := applyAll
      (entryWrite s.coreNo f (withLen (y.dests.getD i 0) len) (readRun s.landed.me o.b.toNat (len + 1)) s.landed) s.landed
    let x := (setActor s.landed s.coreNo n (y.setOut i f.pushed)).apply x
    exec (.fpush o) s = .next ((x.wrote (.s o.d.toNat) (.word 0) 1).ended .c 4 o.w.toNat) := by
  intro len x x'
  refine issue_of_runs hr (runs_bind (runs_getSr s _) (runs_pushChecks plain released (fun _ => fits) ?_))
  simp only [names]
  exact runs_else (not_le.mpr room) (runs_bind (runs_puts _ _) (runs_bind (runs_put _ _) (runs_giveS_next _ _ _)))

end
end

section
variable (o : A2) {n i : Nat} {y : Actor} {f : Fifo}

theorem exec_fpop_takes (names : selected s.landed (s.sreg o.a) false = some (n, i, y, f)) (holds : f.count ≠ 0)
    (sound : entryPoisoned s.landed s.coreNo f = false) :
    let t := (setActor s.landed s.coreNo n (y.setIn i f.popped)).apply s.landed
    let u := applyAll (acquire s.coreNo t) t
    exec (.fpop o) s
      = .next ((u.withMe ((List.range 5).foldl
          (fun x j => x.write (.s (o.d.toNat + j)) (.word ((entryRead s.landed s.coreNo f).getD j 0))) u.me)).ended
          .c 4 o.w.toNat) := by
  intro t u
  refine issue_of_runs hr (runs_bind (runs_getSr s _) (runs_bind (runs_beOldest_landed plain) (runs_bind (runs_getS _) ?_)))
  simp only [names]
  exact runs_else holds (runs_bind (runs_trapIf _ sound _ _ _) (runs_bind (runs_put _ _) (runs_bind (runs_acquireHere _)
    (runs_bind (runs_modMe _ _) (runs_pure _ _)))))

theorem exec_fcnt_counts (names : selected s.landed (s.sreg o.a) ((s.sreg o.a).getLsbD 7) = some (n, i, y, f)) :
    exec (.fcnt o) s
      = .next ((s.landed.wrote (.s o.d.toNat) (.word (BitVec.ofNat 64 f.count)) 1).ended .c 4 o.w.toNat) := by
  refine issue_of_runs hr (runs_bind (runs_getSr s _) (runs_bind (runs_beOldest_landed plain) (runs_bind (runs_getS _) ?_)))
  simp only [names]
  exact runs_giveS_next _ _ _

theorem exec_fcnt_badDesc (bad : selected s.landed (s.sreg o.a) ((s.sreg o.a).getLsbD 7) = none) :
    exec (.fcnt o) s = .next ((s.landed.wrote (.s o.d.toNat) (.word stBadDesc) 1).ended .c 4 o.w.toNat) := by
  refine issue_of_runs hr (runs_bind (runs_getSr s _) (runs_bind (runs_beOldest_landed plain) (runs_bind (runs_getS _) ?_)))
  simp only [bad]
  exact runs_giveS_next _ _ _

end
end
end

/-- Settles O28: the actor's descriptor is read, then its declaration stored or refused; the FIFOs by the entry that a selector names. -/
theorem actorInstructions : Obligations.ActorInstructions :=
  ⟨fun o _ _ _ _ hr here group described =>
      ⟨fun good => ⟨exec_adecl_stores o hr described group good here, exec_adecl_busy o hr described group good here⟩,
        exec_adecl_badDesc o hr described group⟩,
    fun o _ hr plain released => ⟨exec_fpush_badDesc hr plain o released,
      fun _ _ _ _ names fits => ⟨exec_fpush_full hr plain o released names fits, exec_fpush_puts hr plain o released names fits⟩⟩,
    fun o _ hr plain => ⟨fun _ _ _ _ => exec_fpop_takes hr plain o, fun _ _ _ _ => exec_fcnt_counts hr plain o,
      exec_fcnt_badDesc hr plain o⟩⟩

end Sys2Proof.Machine

/-! The task and dependence-counter instructions (R294 to R297). -/

namespace Sys2Proof.Machine

section
variable {s : State}

theorem landed_gid (s : State) : s.landed.me.gid = s.me.gid := by rw [landed_me, landSt_gid]
theorem landed_taskId (s : State) : s.landed.me.taskId = s.me.taskId := by rw [landed_me, Strand.taskId, Strand.taskId, landSt_job]

/-- What an instruction answers that has placed its stream itself. -/
theorem issue_placed_of_runs {enc w : Nat} {rs : List RegId} {body : M Ctl} {t : State} (hr : s.ready .c)
    (runs : Runs body s.landed .placed t) : issue (infoC enc w rs) body s = .next (t.endedHere .c w) := by
  rw [issue_infoC _ _ _ _ _ hr, runs, run_finish_endedHere]
  rfl

/-! ## TSPAWN (R294) -/

/-- The part of TSPAWN that comes before its descriptor is looked at. -/
theorem issue_tspawn {o : A3} {t u : State} {ws : List Word} (hr : s.ready .c) (aligned : (s.sreg o.a).toNat % 64 = 0)
    (loads : Runs (loadWords (s.sreg o.a) 8) s.landed ws t) (released : outstanding t t.six = false)
    (spawns : Runs (spawnBody o.d (s.sreg o.b) ws) t () u) : exec (.tspawn o) s = .next (u.ended .c 4 o.w.toNat) :=
  issue_of_runs hr (runs_operands (runs_bind (runs_trapIf _ (notMisaligned aligned) _ _ _)
    (runs_bind loads (runs_bind (runs_release released) (runs_bind spawns (runs_pure _ _))))))

theorem runs_spawnBody_badDesc (d : BitVec 5) (b : Word) {ws : List Word}
    (bad : badTask s.chose s.chose.six (fun i => ws.getD i 0) = true) :
    Runs (spawnBody d b ws) s () (s.chose.wrote (.s d.toNat) (.word stBadDesc) 1) :=
  runs_bind (runs_choose_next s 4) (runs_bind (runs_getS _) (runs_then bad (runs_giveS _ _ _)))

/-- The timed task that a strand fires, the parent of what it spawns (R294). -/
def timedParent (s : State) : Option (Nat × Task) := (taskOf s s.me).filter (fun p => p.2.timed)

theorem timedParent_eq_some {p : Nat × Task} (task : taskOf s s.me = some p) (timed : p.2.timed = true) : timedParent s = some p := by
  rw [timedParent, task]
  exact Option.filter_some_pos (p := fun p : Nat × Task => p.2.timed) timed

theorem timedParent_eq_none (untimed : ∀ p, taskOf s s.me = some p → p.2.timed = false) : timedParent s = none := by
  simpa [timedParent, Option.filter_eq_none_iff] using fun id task => untimed (id, task)

/-- The state in which TSPAWN enqueues a task, by whether the task is timed and by its parent (R294). -/
def spawnState (s : State) (timed : Bool) (gid : Nat) (b : Word) (parent : Option (Nat × Task)) : TaskState :=
  match parent with
  | some p => if timed then (match counterOf s (some gid) b with | some i => .attached i | none => .queued)
              else .deferred p.1 (if b = 0 then none else some b)
  | none => match counterOf s (some gid) b with | some i => .attached i | none => .queued

theorem spawnState_of_startsAs {timed : Bool} {b : Word} {st : TaskState} {gid : Nat} (group : s.me.gid = some gid)
    (starts : StartsAs s timed b st) : spawnState s timed gid b (timedParent s) = st := by
  rcases starts with ⟨p, task, parent, rfl, rfl⟩ | ⟨now, counter⟩
  · rw [timedParent_eq_some task parent]
    rfl
  · rw [group] at counter
    have atOnce : spawnState s timed gid b (timedParent s)
        = match counterOf s (some gid) b with | some i => .attached i | none => .queued := by
      rcases now with rfl | untimed
      · cases timedParent s <;> rfl
      · rw [timedParent_eq_none untimed]
        rfl
    rw [atOnce]
    rcases counter with ⟨none', rfl⟩ | ⟨i, some', rfl⟩
    · rw [none']
    · rw [some']

/-- A task that is not too early for its group, nor for its parent, is not late (R294). -/
theorem notLate {ws : List Word} {b : Word} {gid : Nat} {g : Group} (may : MaySpawn s b ws gid g) (id : Nat) :
    ¬((ws.getD 2 0).getLsbD 2 && (isLate (ws.getD 1 0) id (s.myGroup.bind Group.lastTs)
      || (timedParent s).any (fun p => decide ((ws.getD 1 0).toNat < p.2.ts.toNat)))) = true := by
  obtain ⟨member, group⟩ := may.member
  rw [State.myGroup, member, Option.bind_some, group, Option.bind_some, Bool.and_eq_true]
  rintro ⟨timed, late⟩
  obtain ⟨inGroup, afterParent⟩ := may.timely timed id
  rw [inGroup, Bool.false_or, Option.any_eq_true] at late
  obtain ⟨p, parent, early⟩ := late
  obtain ⟨task, isTimed⟩ := Option.filter_eq_some_iff.mp parent
  exact absurd (afterParent p task isTimed) (not_le.mpr (of_decide_eq_true early))

/-- The task that TSPAWN enqueues. -/
def spawnedTask (s : State) (ws : List Word) (gid : Nat) (st : TaskState) : Task :=
  { ts := ws.getD 1 0, timed := (ws.getD 2 0).getLsbD 2, pri := (ws.getD 2 0).extractLsb' 0 2,
    pin := if (ws.getD 2 0).getLsbD 13 then boundCore s s.six ((ws.getD 2 0).toNat / 8 % 1024) else none,
    entry := ws.getD 0 0, args := [ws.getD 3 0, ws.getD 4 0, ws.getD 5 0, ws.getD 6 0], dom := s.me.dom,
    domGen := (s.dom s.me.dom).gen, gid := gid, st := st, parent := (timedParent s).map Prod.fst, reads := [], writes := [],
    homes := [] }

theorem runs_spawnBody_enqueues (d : BitVec 5) {b : Word} {ws : List Word} {gid : Nat} {g : Group} {st : TaskState} {u : State}
    (chosen : s.chose = u) (may : MaySpawn u b ws gid g) (starts : StartsAs u ((ws.getD 2 0).getLsbD 2) b st) :
    let id := nextTaskId (s.choice 4) (u.die (s.choice 4)).taskCount
    Runs (spawnBody d b ws) s () ((applyAll [.die (s.choice 4) { u.die (s.choice 4) with taskCount := id.2 },
      .task id.1 (some (spawnedTask u ws gid st))] u).wrote (.s d.toNat) (.word (BitVec.ofNat 64 id.1)) 1) := by
  subst chosen
  intro id
  obtain ⟨member, group⟩ := may.member
  obtain ⟨quota, slots⟩ := may.room
  have mine : s.chose.myGroup = some g := by rw [State.myGroup, member, Option.bind_some, group]
  have counted : ¬(b ≠ 0 ∧ (counterOf s.chose s.chose.me.gid b).isNone = true) := by
    rintro ⟨some', none'⟩
    have names := may.counted.resolve_left some'
    rw [Option.isNone_iff_eq_none.mp none'] at names
    cases names
  have room : ¬((s.chose.tenant g.tenant).tq.toNat ≤ slotsHeld s.chose g.tenant ∨ 65536 ≤ slotsInUse s.chose) :=
    not_or.mpr ⟨not_le.mpr quota, not_le.mpr slots⟩
  obtain rfl := spawnState_of_startsAs member starts
  refine runs_bind (runs_choose_next s 4) (runs_bind (runs_getS _) (runs_else (by rw [may.legal]; exact nofun)
    (runs_else counted (runs_else (notLate may _) ?_))))
  rw [mine]
  simp only [member]
  exact runs_else room (runs_bind (runs_put _ _) (runs_bind (runs_put _ _) (runs_giveS _ _ _)))

/-! ## TSTAMP and TABORT (R296, R297) -/

section
variable (hr : s.ready .c)
include hr

theorem exec_tstamp (o : A2) :
    exec (.tstamp o) s = .next ((s.landed.wrote (.s o.d.toNat) (.word (stampWord s.landed (s.sreg o.a))) 1).ended .c 4 o.w.toNat) :=
  issue_of_runs hr (runs_bind (runs_getSr s _) (runs_bind (runs_getS _) (runs_giveS_next _ _ _)))

theorem exec_tabort_nothing (o : AA) (plain : s.me.spec = false ∨ s.me.taskId = none) :
    exec (.tabort o) s = .next (s.landed.ended .c 4 o.w.toNat) := by
  have nothing : (if s.landed.me.spec then s.landed.me.taskId else none) = none := by
    rw [landed_spec, landed_taskId]
    rcases plain with plain | untasked
    · rw [plain]
      rfl
    · rw [untasked, ite_self]
  refine issue_of_runs hr (runs_bind (runs_getSr s _) (runs_bind (runs_getS _) ?_))
  simp only [nothing]
  exact runs_pure _ _

theorem exec_tabort_aborts (o : AA) {id : Nat} (spec : s.me.spec = true) (task : s.me.taskId = some id) :
    exec (.tabort o) s = .next ((applyAll (abortTask (decide (s.sreg o.a = 0)) id s.landed) s.landed).endedHere .c o.w.toNat) := by
  have own : (if s.landed.me.spec then s.landed.me.taskId else none) = some id := by
    rw [landed_spec, landed_taskId, spec, task, if_pos rfl]
  refine issue_placed_of_runs hr (runs_bind (runs_getSr s _) (runs_bind (runs_getS _) ?_))
  simp only [own]
  exact runs_bind (runs_puts _ _) (runs_pure _ _)

/-! ## DCSET and DCDEC (R295) -/

section
variable (o : A2) (plain : s.me.spec = false)
include plain

section
variable {gid : Nat} {g : Group} {i : Nat} (counts : s.sreg o.a ≠ 0) (small : (s.sreg o.a).toNat < 2 ^ 32)
  (member : s.me.gid = some gid) (group : s.group gid = some g)
  (free : (if (s.landed.counter (s.landed.choice 65536)).gid.isNone then some (s.landed.choice 65536) else freeCounter s.landed)
    = some i)
include counts small member group free

/-- DCSET up to the tenant's quota. -/
theorem exec_dcset_of_runs {u : State}
    (runs : Runs (if (s.landed.tenant g.tenant).dq.toNat ≤ countersHeld s.landed g.tenant then (do
        giveS o.d stQuota
        pure Ctl.next)
      else do
        put (.counter i { s.landed.counter i with count := (s.sreg o.a).toNat, gid := some gid })
        giveS o.d (BitVec.ofNat 64 ((s.landed.counter i).gen * 65536 + i))
        pure Ctl.next) s.landed.chose .next u) :
    exec (.dcset o) s = .next (u.ended .c 4 o.w.toNat) := by
  have legal : ¬(2 ^ 32 ≤ (s.sreg o.a).toNat ∨ s.sreg o.a = 0) := not_or.mpr ⟨not_le.mpr small, counts⟩
  have member' : s.landed.me.gid = some gid := (landed_gid s).trans member
  have tenant : s.landed.tenantOf s.landed.me = some g.tenant := by
    rw [State.tenantOf, member', Option.bind_some, show s.landed.group gid = s.group gid from rfl, group, Option.map_some]
  refine issue_of_runs hr (runs_bind (runs_getSr s _) (runs_bind (runs_beOldest_landed plain) (runs_else legal
    (runs_bind (runs_getS _) ?_))))
  simp only [tenant, member']
  refine runs_bind (runs_choose_next _ _) ?_
  rw [free]
  exact runs

theorem exec_dcset_sets (room : countersHeld s.landed g.tenant < (s.landed.tenant g.tenant).dq.toNat) :
    let t := s.landed
    let x := (Effect.counter i { t.counter i with count := (s.sreg o.a).toNat, gid := some gid }).apply t.chose
    exec (.dcset o) s
      = .next ((x.wrote (.s o.d.toNat) (.word (BitVec.ofNat 64 ((t.counter i).gen * 65536 + i))) 1).ended .c 4 o.w.toNat) :=
  exec_dcset_of_runs hr o plain counts small member group free
    (runs_else (not_le.mpr room) (runs_bind (runs_put _ _) (runs_giveS_next _ _ _)))

theorem exec_dcset_quota (full : (s.landed.tenant g.tenant).dq.toNat ≤ countersHeld s.landed g.tenant) :
    exec (.dcset o) s = .next ((s.landed.chose.wrote (.s o.d.toNat) (.word stQuota) 1).ended .c 4 o.w.toNat) :=
  exec_dcset_of_runs hr o plain counts small member group free (runs_then full (runs_giveS_next _ _ _))

end

section
variable (released : outstanding s.landed s.six = false)
include released

theorem exec_dcdec_unknown (unknown : counterOf s.landed s.me.gid (s.sreg o.a) = none) :
    exec (.dcdec o) s = .next ((s.landed.wrote (.s o.d.toNat) (.word stCounter) 1).ended .c 4 o.w.toNat) := by
  refine issue_of_runs hr (runs_bind (runs_getSr s _) (runs_bind (runs_beOldest_landed plain) (runs_bind (runs_release released)
    (runs_bind (runs_getS _) ?_))))
  simp only [landed_gid, unknown]
  exact runs_giveS_next _ _ _

theorem exec_dcdec_counts {i : Nat} (names : counterOf s.landed s.me.gid (s.sreg o.a) = some i) :
    let c := s.landed.counter i
    let x := applyAll (if c.count - 1 = 0 then releaseTasks i s.landed ++ [.counter i (freedCounter c)]
      else [.counter i { c with count := c.count - 1 }]) s.landed
    exec (.dcdec o) s
      = .next ((x.wrote (.s o.d.toNat) (.word (BitVec.ofNat 64 (c.count - 1))) 1).ended .c 4 o.w.toNat) := by
  intro c x
  refine issue_of_runs hr (runs_bind (runs_getSr s _) (runs_bind (runs_beOldest_landed plain) (runs_bind (runs_release released)
    (runs_bind (runs_getS _) ?_))))
  simp only [landed_gid, names]
  by_cases last : c.count - 1 = 0
  · have after : x = (Effect.counter i (freedCounter c)).apply (applyAll (releaseTasks i s.landed) s.landed) := by
      simp only [x, if_pos last, applyAll_append, applyAll_cons, applyAll_nil]
    rw [after]
    exact runs_then last (runs_bind (runs_puts _ _) (runs_bind (runs_put _ _) (runs_giveS_next _ _ _)))
  · have after : x = (Effect.counter i { c with count := c.count - 1 }).apply s.landed := by
      simp only [x, if_neg last, applyAll_cons, applyAll_nil]
    rw [after]
    exact runs_else last (runs_bind (runs_put _ _) (runs_giveS_next _ _ _))

end
end
end
end

theorem taskInstructions_hold : taskInstructions :=
  ⟨fun o _ _ _ hr aligned loads released =>
      ⟨fun _ _ _ may starts => issue_tspawn hr aligned loads released (runs_spawnBody_enqueues o.d rfl may starts),
        fun bad => issue_tspawn hr aligned loads released (runs_spawnBody_badDesc o.d _ bad)⟩,
    fun o _ hr => exec_tstamp hr o, fun o _ hr => ⟨exec_tabort_nothing hr o, fun _ => exec_tabort_aborts hr o⟩⟩

theorem counterInstructions_hold : counterInstructions := fun o _ hr plain =>
  ⟨fun _ _ _ counts small member group free => ⟨exec_dcset_sets hr o plain counts small member group free,
      exec_dcset_quota hr o plain counts small member group free⟩,
    fun released => ⟨exec_dcdec_unknown hr o plain released, fun _ => exec_dcdec_counts hr o plain released⟩⟩

/-- Settles O29: a spawn by its descriptor, its group's room and how its task starts; the counters by what their handle names. -/
theorem taskResult : Obligations.TaskResult := ⟨taskInstructions_hold, counterInstructions_hold⟩

end Sys2Proof.Machine

/-! The Tutor instructions (R308, R313 to R316, R322 to R325). -/

namespace Sys2Proof.Machine

section
variable {s : State}

theorem landed_got (s : State) : s.landed.me.got = s.me.got := by rw [landed_me, landSt_got]

/-- The check that a slot is the strand's own, or free for it (R314, R322, R323). -/
theorem mayUse {t : State} {y : TutorSlot} (may : y.conf = false ∨ ownsSlot t y = true ∨ t.me.sys.pm = true) :
    (y.conf && !ownsSlot t y && !t.me.sys.pm) = false := by
  rcases may with free | own | privileged
  · rw [free]
    rfl
  · rw [own, Bool.not_true, Bool.and_false]
    rfl
  · rw [privileged, Bool.not_true, Bool.and_false]

section
variable (hr : s.ready .c)
include hr

/-! ## APXQRY (R322) -/

section
variable (o : A2)

theorem exec_apxqry_absent (absent : tutorHere s = false) :
    exec (.apxqry o) s = .next ((s.landed.wrote (.s o.d.toNat) (.word apAbsent) 1).ended .c 4 o.w.toNat) := by
  have absent' : tutorHere s.landed = false := absent
  refine issue_of_runs hr (runs_bind (runs_getSr s _) (runs_bind (runs_getS _) ?_))
  rw [absent']
  exact runs_giveS_next _ _ _

section
variable (here : tutorHere s = true)
include here

theorem exec_apxqry_answers (item : (s.sreg o.a).toNat / 16 ≤ 5)
    (may : (tblGet .off (s.cluster (clusterOf s.coreNo)).tutor ((s.sreg o.a).toNat % 16)).conf = false
      ∨ ownsSlot s.landed (tblGet .off (s.cluster (clusterOf s.coreNo)).tutor ((s.sreg o.a).toNat % 16)) = true
      ∨ s.landed.me.sys.pm = true ∨ (s.sreg o.a).toNat / 16 = 5) :
    exec (.apxqry o) s = .next ((s.landed.wrote (.s o.d.toNat)
      (.word (tutorItem (s.cluster (clusterOf s.coreNo)) ((s.sreg o.a).toNat % 16) ((s.sreg o.a).toNat / 16))) 1).ended .c 4 o.w.toNat) := by
  have here' : tutorHere s.landed = true := here
  have allowed : (let y := tblGet .off (s.landed.cluster (clusterOf s.landed.coreNo)).tutor ((s.sreg o.a).toNat % 16)
      y.conf && !ownsSlot s.landed y && !s.landed.me.sys.pm && decide ((s.sreg o.a).toNat / 16 ≠ 5)) = false := by
    rcases or_assoc.mpr (or_assoc.mpr may) with own | room
    · exact congrArg (· && _) (mayUse (or_assoc.mp own))
    · rw [room, decide_eq_false (not_not.mpr rfl), Bool.and_false]
  refine issue_of_runs hr (runs_bind (runs_getSr s _) (runs_bind (runs_getS _) ?_))
  simp only [here', Bool.not_true, Bool.false_eq_true, if_false, if_neg (not_lt.mpr item), allowed]
  exact runs_giveS_next _ _ _

/-! ## APXINV (R323) -/

theorem exec_apxinv_slot (plain : s.me.spec = false) (acquired : acqPending s.landed s.six = false) (one : (s.sreg o.a).toNat < 16)
    (conf : (tblGet .off (s.cluster (clusterOf s.coreNo)).tutor ((s.sreg o.a).toNat % 16)).conf = true)
    (may : ownsSlot s.landed (tblGet .off (s.cluster (clusterOf s.coreNo)).tutor ((s.sreg o.a).toNat % 16)) = true
      ∨ s.landed.me.sys.pm = true) :
    let c := s.cluster (clusterOf s.coreNo)
    let n := (s.sreg o.a).toNat % 16
    let x := (Effect.cluster (clusterOf s.coreNo)
      { c with tutor := tblSet .off c.tutor n (tblGet .off c.tutor n).invalidated }).apply s.landed
    exec (.apxinv o) s = .next ((x.wrote (.s o.d.toNat) (.word 0) 1).ended .c 4 o.w.toNat) := by
  intro c n x
  have waits : (tutorHere s.landed && acqPending s.landed s.landed.six) = false := by
    rw [landed_six, acquired, Bool.and_false]
  have absent : ¬(!tutorHere s.landed) = true := by
    rw [show tutorHere s.landed = true from here]
    exact nofun
  have notAll : ¬(s.sreg o.a).getLsbD 4 = true := by
    rw [BitVec.getLsbD, Nat.testBit_lt_two_pow one]
    exact nofun
  have listed : ¬(!(tblGet .off c.tutor n).conf) = true := by
    rw [conf]
    exact nofun
  have allowed : ¬(!ownsSlot s.landed (tblGet .off c.tutor n) && !s.landed.me.sys.pm) = true := by
    rcases may with own | privileged
    · rw [own]
      exact nofun
    · rw [privileged, Bool.not_true, Bool.and_false]
      exact nofun
  exact issue_of_runs hr (runs_bind (runs_getSr s _) (runs_bind (runs_beOldest_landed plain) (runs_bind (runs_getS _)
    (runs_bind (runs_stallIf _ _ waits) (runs_else absent (runs_else (by omega) (runs_else notAll (runs_else listed (runs_else allowed
      (runs_bind (runs_put _ _) (runs_giveS_next _ _ _)))))))))))

end
end

/-! ## APXCFG (R314) -/

section
variable (o : X3) (plain : s.me.spec = false)
include plain

/-- APXCFG from the word that it answers. -/
theorem exec_apxcfg_of_runs {r : Word} {u : State}
    (runs : let w := s.landed.me.readOx o.x.toNat
      let n := w.toNat % 16
      let op := w.toNat / 64 % 4
      let t := tblGet .off (s.landed.cluster (clusterOf s.landed.coreNo)).tutor n
      Runs (if op = 2 ∧ s.landed.me.got ≠ [] then exported n (s.sreg o.a)
        else if !tutorHere s.landed then pure apAbsent
        else if decide (256 ≤ w.toNat ∨ op = 3) then pure apBadDesc
        else if t.conf && !ownsSlot s.landed t && !s.landed.me.sys.pm then pure apNotOwn
        else if op = 0 then configure n (s.sreg o.a)
        else if op = 1 then setMode n (w.extractLsb' 4 2)
        else exportWeights n (s.sreg o.a)) s.landed r u) :
    exec (.apxcfg o) s = .next ((u.wrote (.s o.d.toNat) (.word r) 1).ended .c 4 o.w.toNat) :=
  issue_of_runs hr (runs_bind (runs_getSr s _) (runs_bind (runs_getOx _ _) (runs_bind (runs_beOldest_landed plain)
    (runs_bind (runs_getS _) (runs_bind runs (runs_giveS_next _ _ _))))))

section
variable (nothing : s.me.got = [])
include nothing

theorem exec_apxcfg_absent (absent : tutorHere s = false) :
    exec (.apxcfg o) s = .next ((s.landed.wrote (.s o.d.toNat) (.word apAbsent) 1).ended .c 4 o.w.toNat) := by
  have absent' : (!tutorHere s.landed) = true := by rw [show tutorHere s.landed = false from absent]; rfl
  exact exec_apxcfg_of_runs hr o plain (runs_else (fun sent => sent.2 ((landed_got s).trans nothing)) (runs_then absent' (runs_pure _ _)))

theorem exec_apxcfg_badDesc (here : tutorHere s = true)
    (bad : 256 ≤ (s.landed.me.readOx o.x.toNat).toNat ∨ (s.landed.me.readOx o.x.toNat).toNat / 64 % 4 = 3) :
    exec (.apxcfg o) s = .next ((s.landed.wrote (.s o.d.toNat) (.word apBadDesc) 1).ended .c 4 o.w.toNat) := by
  have present : ¬(!tutorHere s.landed) = true := by rw [show tutorHere s.landed = true from here]; exact nofun
  exact exec_apxcfg_of_runs hr o plain (runs_else (fun sent => sent.2 ((landed_got s).trans nothing))
    (runs_else present (runs_then (decide_eq_true bad) (runs_pure _ _))))

end

theorem exec_apxcfg_mode (here : tutorHere s = true) (acquired : acqPending s.landed s.six = false)
    (legal : (s.landed.me.readOx o.x.toNat).toNat < 256) (mode : (s.landed.me.readOx o.x.toNat).toNat / 64 % 4 = 1)
    (conf : (tblGet .off (s.cluster (clusterOf s.coreNo)).tutor ((s.landed.me.readOx o.x.toNat).toNat % 16)).conf = true)
    (may : ownsSlot s.landed (tblGet .off (s.cluster (clusterOf s.coreNo)).tutor ((s.landed.me.readOx o.x.toNat).toNat % 16)) = true
      ∨ s.landed.me.sys.pm = true) :
    let w := s.landed.me.readOx o.x.toNat
    let c := s.cluster (clusterOf s.coreNo)
    let y := tblGet .off c.tutor (w.toNat % 16)
    let m := w.extractLsb' 4 2
    let z : TutorSlot := { y with
      mode := m, impure := false, diverged := false, samples := if m = 2 ∧ y.mode ≠ 2 then [] else y.samples,
      sinceTrain := if m = 2 ∧ y.mode ≠ 2 then 0 else y.sinceTrain }
    let x := (Effect.cluster (clusterOf s.coreNo) { c with tutor := tblSet .off c.tutor (w.toNat % 16) z }).apply s.landed
    exec (.apxcfg o) s = .next ((x.wrote (.s o.d.toNat) (.word 0) 1).ended .c 4 o.w.toNat) := by
  intro w c y m z x
  have present : ¬(!tutorHere s.landed) = true := by rw [show tutorHere s.landed = true from here]; exact nofun
  have known : ¬decide (256 ≤ w.toNat ∨ w.toNat / 64 % 4 = 3) = true := by
    have legal : w.toNat < 256 := legal
    have mode : w.toNat / 64 % 4 = 1 := mode
    rw [decide_eq_true_eq]
    omega
  have allowed : ¬(y.conf && !ownsSlot s.landed y && !s.landed.me.sys.pm) = true := by
    rw [mayUse (.inr may)]
    exact nofun
  have sets : Runs (setMode (w.toNat % 16) m) s.landed 0 x := by
    refine runs_bind (runs_getS _) (runs_bind (runs_stallIf _ _ acquired) (runs_then conf ?_))
    simp only [decide_eq_true_eq]
    exact runs_bind (runs_put _ _) (runs_pure _ _)
  exact exec_apxcfg_of_runs hr o plain (runs_else (by omega) (runs_else present (runs_else known (runs_else allowed
    (runs_else (by omega) (runs_then mode sets))))))

end
end
/-! ## APXCALL (R315) -/

theorem runs_getPc (s : State) : Runs getPc s s.pc s := fun _ _ _ => rfl

/-- What an instruction of the V-stream answers that transfers control. -/
theorem exec_jump_of_runs {i : Instr} {enc : Nat} {w : BitVec 3} {rs : List RegId} (hr : s.ready .v) {body : M Ctl}
    (issued : exec i s = issue (infoV enc w.toNat rs) body s) {a : Word} {t : State} (runs : Runs body s.landed (.jump a) t) :
    exec i s = .next (t.endedAt .v a w.toNat) := by
  rw [issued, issue_infoV _ _ _ _ _ hr, runs, run_finish_endedAt]
  rfl

/-- The issuing strand with no region record, as APXCALL leaves it before it looks at a slot. -/
def State.unrecorded (s : State) : State := s.landed.withMe { s.landed.me with region := none }

/-- The engine once the strand's earlier samples have arrived (R324). -/
def State.sampled (s : State) : State :=
  let cl := clusterOf s.coreNo
  (Effect.cluster cl (arriveOwn s.six (s.unrecorded.cluster cl))).apply s.unrecorded

theorem sampled_me (s : State) : s.sampled.me = { s.landed.me with region := none } := withMe_me _ _

theorem sampled_pc (s : State) : s.sampled.pc = s.pc := by
  have same : s.sampled.stream = s.stream := rfl
  have pc (x : Strand) (st : Stream) : ({ x with region := none } : Strand).pcOf st = x.pcOf st := by cases st <;> rfl
  rw [State.pc, sampled_me, same, pc, landed_me, landSt_pcOf]
  rfl

theorem sampled_spec (s : State) : s.sampled.me.spec = s.me.spec := by
  rw [sampled_me]
  exact landed_spec s

section
variable (hr : s.ready .v)
include hr

section
variable (o : X3) (tagged : (s.vreg o.a).t = 2)

omit hr in
include tagged in
theorem runs_callStart {enc : Nat} {body : VReg → Word → State → M Ctl} {c : Ctl} {u : State}
    (runs : Runs (body (s.vreg o.a) (s.kreg (8 + o.x.toNat)) s.unrecorded) s.unrecorded c u) :
    Runs (do
      let v ← getV o.a
      let w ← getK (8 + o.x.toNat)
      formatIf (decide (v.t ≠ 2)) enc
      modMe (fun x => { x with region := none })
      let s ← getS
      body v w s) s.landed c u :=
  runs_bind (runs_getV s _) (runs_bind (runs_getK s _) (runs_bind (runs_formatIf _ (by simp [tagged]) _)
    (runs_bind (runs_modMe _ _) (runs_bind (runs_getS _) runs))))

omit hr in
/-- The strand's earlier samples arrive, and the call looks at the engine (R324). -/
theorem runs_callHere {body : State → Word → M Ctl} {c : Ctl} {u : State} (runs : Runs (body s.sampled s.sampled.pc) s.sampled c u) :
    let cl := clusterOf s.unrecorded.coreNo
    Runs (do
      put (.cluster cl (arriveOwn s.unrecorded.six (s.unrecorded.cluster cl)))
      let s ← getS
      let pc ← getPc
      body s pc) s.unrecorded c u :=
  runs_bind (runs_put _ _) (runs_bind (runs_getS _) (runs_bind (runs_getPc _) runs))

include tagged

theorem exec_apxcall_absent (absent : tutorHere s = false) :
    exec (.apxcall o) s = .next (s.unrecorded.ended .v 4 o.w.toNat) := by
  have absent' : ¬tutorHere s.unrecorded = true := by rw [show tutorHere s.unrecorded = false from absent]; exact nofun
  exact exec_of_runs hr rfl (runs_callStart o tagged (runs_else absent' (runs_pure _ _)))

/-- The slot that a call names, and whether it answers the call (R315). -/
def State.calledSlot (s : State) (w : Word) : TutorSlot := tblGet .off (s.sampled.cluster (clusterOf s.coreNo)).tutor w.toNat
abbrev State.answers (s : State) (w : Word) : Prop :=
  w.toNat < 16 ∧ (s.calledSlot w).conf = true ∧ (s.calledSlot w).mode ≠ 0 ∧ ownsSlot s.sampled (s.calledSlot w) = true
    ∧ (s.calledSlot w).start = s.sampled.pc ∧ (!s.sampled.me.spec) = true

omit hr tagged in
theorem answers_iff (w : Word) : s.answers w ↔ w.toNat < 16 ∧ (s.calledSlot w).conf = true ∧ (s.calledSlot w).mode ≠ 0
    ∧ ownsSlot s.sampled (s.calledSlot w) = true ∧ (s.calledSlot w).start = s.pc ∧ s.me.spec = false := by
  rw [State.answers, sampled_pc, sampled_spec, Bool.not_eq_true']

omit hr tagged in
theorem not_answers {w : Word} (not : 16 ≤ w.toNat ∨ (s.calledSlot w).conf = false ∨ (s.calledSlot w).mode = 0
    ∨ ownsSlot s.sampled (s.calledSlot w) = false ∨ (s.calledSlot w).start ≠ s.pc ∨ s.me.spec = true) : ¬s.answers w := by
  rw [answers_iff]
  rintro ⟨listed, conf, mode, own, start, plain⟩
  rcases not with past | unconf | off | foreign | elsewhere | spec
  · omega
  · exact Bool.false_ne_true (unconf.symm.trans conf)
  · exact mode off
  · exact Bool.false_ne_true (foreign.symm.trans own)
  · exact elsewhere start
  · exact Bool.false_ne_true (plain.symm.trans spec)

variable (here : tutorHere s = true)
include here

theorem exec_apxcall_unanswered (not : ¬s.answers (s.kreg (8 + o.x.toNat))) :
    exec (.apxcall o) s = .next (s.sampled.ended .v 4 o.w.toNat) :=
  exec_of_runs hr rfl (runs_callStart o tagged (runs_then here (runs_callHere (runs_else not (runs_pure _ _)))))

omit hr tagged here in
theorem sampled_coreNo (s : State) : s.sampled.coreNo = s.coreNo := rfl

omit hr tagged here in
/-- A slot in mode 3 answers a call that is not sampled (R315). -/
theorem runs_callSlot_serves (o : X3) (n : Nat) (v : VReg) (s : State) :
    let cl := clusterOf s.coreNo
    let c := s.cluster cl
    let y := tblGet .off c.tutor n
    let z := { y with calls := y.calls + 1 }
    let r := z.infer (lanes v (tdIn y.word2))
    y.mode = 3 → z.calls % 2 ^ tdSrate y.word2 ≠ 0 → r.all finite32 = true →
    let x := (Effect.cluster cl { c with tutor := tblSet .off c.tutor n { z with served := z.served + 1 } }).apply s
    Runs (callSlot o n v) s (.jump (y.stop + 4)) (x.wrote (.v o.d.toNat) (.vec (vreg (packLanes r) 0 2)) 1) := by
  intro cl c y z r mode unsampled finite x
  refine runs_bind (runs_getS _) ?_
  have counted : (if y.mode = 3 then { y with calls := y.calls + 1 } else y) = z := if_pos mode
  have serves : y.mode = 3 ∧ z.calls % 2 ^ tdSrate y.word2 ≠ 0 ∧ r.all finite32 = true := ⟨mode, unsampled, finite⟩
  simp only [show tblGet .off (s.cluster (clusterOf s.coreNo)).tutor n = y from rfl, counted]
  exact runs_then serves (runs_bind (runs_put _ _) (runs_bind (fun _ _ _ => rfl) (runs_pure _ _)))

theorem exec_apxcall_serves (answers : s.answers (s.kreg (8 + o.x.toNat))) :
    let cl := clusterOf s.coreNo
    let n := (s.kreg (8 + o.x.toNat)).toNat
    let c := s.sampled.cluster cl
    let y := tblGet .off c.tutor n
    let z := { y with calls := y.calls + 1 }
    let r := z.infer (lanes (s.vreg o.a) (tdIn y.word2))
    y.mode = 3 → z.calls % 2 ^ tdSrate y.word2 ≠ 0 → r.all finite32 = true →
    let x := (Effect.cluster cl { c with tutor := tblSet .off c.tutor n { z with served := z.served + 1 } }).apply s.sampled
    exec (.apxcall o) s = .next ((x.wrote (.v o.d.toNat) (.vec (vreg (packLanes r) 0 2)) 1).endedAt .v (y.stop + 4) o.w.toNat) := by
  intro cl n c y z r mode unsampled finite x
  have slot := runs_callSlot_serves o n (s.vreg o.a) s.sampled
  rw [sampled_coreNo] at slot
  exact exec_jump_of_runs hr rfl
    (runs_callStart o tagged (runs_then here (runs_callHere (runs_then answers (slot mode unsampled finite)))))

end

/-! ## APXRET (R316) -/

section
variable (o : X2)

omit hr in
theorem runs_retStart {body : VReg → Word → Word → State → M Ctl} {c : Ctl} {u : State}
    (runs : Runs (body (s.vreg o.d) (s.kreg (8 + o.x.toNat)) s.landed.pc s.landed) s.landed c u) :
    Runs (do
      let v ← getV o.d
      let w ← getK (8 + o.x.toNat)
      let pc ← getPc
      let s ← getS
      body v w pc s) s.landed c u :=
  runs_bind (runs_getV s _) (runs_bind (runs_getK s _) (runs_bind (runs_getPc _) (runs_bind (runs_getS _) runs)))

theorem exec_apxret_nothing (closed : s.landed.me.region = none) :
    exec (.apxret o) s = .next (s.landed.ended .v 4 o.w.toNat) := by
  refine exec_of_runs hr rfl (runs_retStart o ?_)
  rw [closed]
  exact runs_pure _ _

theorem exec_apxret_sends {r : Record} (open' : s.landed.me.region = some r) :
    let c := s.cluster r.cluster
    let y := tblGet .off c.tutor r.slot
    let v := s.vreg o.d
    (s.kreg (8 + o.x.toNat)).toNat = r.slot → y.stop = s.pc → v.t = 2 → y.conf = true → y.gen = r.gen →
    let x := (Effect.cluster r.cluster { c with samples := c.samples ++
      [{ six := s.six, slot := r.slot, gen := r.gen, inputs := r.inputs, results := lanes v (tdOut y.word2) }] }).apply s.unrecorded
    exec (.apxret o) s = .next (x.ended .v 4 o.w.toNat) := by
  intro c y v slot stop tagged conf gen x
  have pc : s.landed.pc = s.pc := by rw [State.pc, landed_me, landed_stream, landSt_pcOf]; rfl
  refine exec_of_runs hr rfl (runs_retStart o ?_)
  rw [open', pc]
  exact runs_then ⟨slot, stop⟩ (runs_bind (runs_modMe _ _) (runs_then ⟨tagged, conf, gen⟩ (runs_bind (runs_put _ _) (runs_pure _ _))))

end
end
end

/-- Settles O34: each instruction by its slot's state and what it may do with it. -/
theorem tutorResult : Obligations.TutorResult :=
  ⟨fun o _ hr => ⟨exec_apxqry_absent hr o, exec_apxqry_answers hr o,
      fun here plain acquired => exec_apxinv_slot hr o here plain acquired⟩,
    fun o _ hr plain => ⟨fun here acquired => exec_apxcfg_mode hr o plain here acquired,
      fun here nothing => exec_apxcfg_badDesc hr o plain nothing here, fun absent nothing => exec_apxcfg_absent hr o plain nothing absent⟩,
    fun o _ hr tagged => ⟨exec_apxcall_absent hr o tagged, fun here =>
      ⟨fun not => exec_apxcall_unanswered hr o tagged here (not_answers not), fun slot conf mode own start plain =>
        exec_apxcall_serves hr o tagged here ((answers_iff _).mpr ⟨slot, conf, fun off => absurd (mode.symm.trans off) (by decide),
          own, start, plain⟩) mode⟩⟩,
    fun o _ hr => ⟨exec_apxret_nothing hr o, fun _ => exec_apxret_sends hr o⟩⟩

end Sys2Proof.Machine

/-! What leaves on the pod fabric (R352 to R355), and what arrives there: sending changes, of a link, its replay buffer alone. -/

namespace Sys2Proof.Machine

/-- An event by what its body does. -/
theorem event_of_runs {body : M Unit} {s t : State} (runs : Runs body s () t) : event body s = .next t := congrArg _ (runs _ _ _)

/-- What a chain of effects keeps where each of its parts does. -/
theorem applyAll_chain_keeps (P : State → Prop) {fs : List (State → List Effect)} (keeps : ∀ f ∈ fs, ∀ s, P s → P (applyAll (f s) s))
    {s : State} (holds : P s) : P (applyAll (chain fs s) s) := by
  induction fs generalizing s with
  | nil => exact holds
  | cons f fs ih =>
    rw [applyAll_chain_cons]
    exact ih (fun g hg => keeps g (List.mem_cons_of_mem _ hg)) (keeps f List.mem_cons_self s holds)

/-! ## Effects beside the package's registers -/

/-- An effect that leaves the package's registers, and with them the fabric, as they are. -/
def Effect.offPkg : Effect → Bool
  | .pkg _ | .reset => false
  | _ => true

theorem offPkg_pkg {e : Effect} (h : e.offPkg = true) (s : State) : (e.apply s).pkg = s.pkg := by
  cases e <;> first | rfl | cases h

theorem applyAll_offPkg {es : List Effect} (h : ∀ e ∈ es, e.offPkg = true) (s : State) : (applyAll es s).pkg = s.pkg :=
  applyAll_keeps State.pkg es s fun e he => offPkg_pkg (h e he)

/-- Outputs are appended, never taken back. -/
theorem applyAll_outputs (es : List Effect) (s : State) : ∃ os, (applyAll es s).outputs = s.outputs ++ os := by
  induction es generalizing s with
  | nil => exact ⟨[], (List.append_nil _).symm⟩
  | cons e es ih =>
    obtain ⟨os, rest⟩ := ih (e.apply s)
    rw [applyAll_cons, rest, apply_outputs]
    split
    · exact ⟨_, List.append_assoc _ _ _⟩
    · exact ⟨os, rfl⟩

theorem invalidateSlots_offPkg (p : TutorSlot → Bool) (s : State) : ∀ e ∈ invalidateSlots p s, e.offPkg = true := by
  intro e he
  obtain ⟨n, c, rfl⟩ := mem_invalidateSlots he
  rfl

/-! ## What sending leaves (R352 to R355) -/

/-- What of a link no sending changes: whether it runs, on how many lanes, and what it has received (R353, R354). -/
def Link.line (k : Link) : Bool × Nat × Nat × Bool × Bool := (k.up, k.lanes, k.recvSeq, k.nak, k.peerOff)

/-- What sending leaves of the fabric. -/
structure Fabric.Sends (f g : Fabric) : Prop where
  lines : ∀ l, (tblGet .down g.links l).line = (tblGet .down f.links l).line
  copies : g.copies = f.copies
  markers : g.markers = f.markers

theorem Fabric.Sends.refl (f : Fabric) : f.Sends f := ⟨fun _ => rfl, rfl, rfl⟩
theorem Fabric.Sends.trans {f g h : Fabric} (a : f.Sends g) (b : g.Sends h) : f.Sends h :=
  ⟨fun l => (b.lines l).trans (a.lines l), b.copies.trans a.copies, b.markers.trans a.markers⟩

/-- A link written with its line as it was. -/
theorem lines_tblSet {t : Tbl Link} {n : Nat} {k : Link} (line : k.line = (tblGet .down t n).line) (l : Nat) :
    (tblGet .down (tblSet .down t n k) l).line = (tblGet .down t l).line := by
  rw [tblGet_set]
  split
  · next here => rw [here, line]
  · rfl

/-- Effects that send, in a state. -/
def Sending (es : List Effect) (s : State) : Prop := s.pkg.fab.Sends (applyAll es s).pkg.fab

theorem sending_of_offPkg {es : List Effect} (h : ∀ e ∈ es, e.offPkg = true) (s : State) : Sending es s := by
  rw [Sending, applyAll_offPkg h]
  exact .refl _

theorem sending_setFab {f : Fabric} {es : List Effect} {s : State} (sends : s.pkg.fab.Sends f)
    (rest : Sending es ((setFab s f).apply s)) : Sending (setFab s f :: es) s := sends.trans rest

theorem sending_chain {fs : List (State → List Effect)} (each : ∀ f ∈ fs, ∀ s, Sending (f s) s) (s : State) : Sending (chain fs s) s :=
  applyAll_chain_keeps (fun t => s.pkg.fab.Sends t.pkg.fab) (fun f hf t sends => sends.trans (each f hf t)) (.refl _)

theorem leaves_sending (o : Output) (s : State) : Sending (leaves o s) s := by
  unfold leaves
  dsimp only
  split
  · exact .refl _
  · refine sending_setFab ⟨fun _ => rfl, rfl, rfl⟩ (sending_of_offPkg (fun e he => ?_) _)
    split at he
    · obtain ⟨p, -, hp⟩ := List.mem_filterMap.mp he
      split at hp
      · obtain ⟨-, ⟨⟩⟩ := Option.ite_none_right_eq_some.mp hp
        rfl
      · cases hp
    · split at he
      · rw [List.mem_singleton.mp he]
        rfl
      · cases he

theorem emit_sending (pkg cls : Nat) (o : Output) (s : State) : Sending (emit pkg cls o s) s := by
  rw [emit, Sending, applyAll_chain_cons, applyAll_chain_cons, chain_nil, applyAll_nil]
  refine Fabric.Sends.trans ?_ (leaves_sending o _)
  exact sending_setFab (es := [.output o]) ⟨lines_tblSet rfl, rfl, rfl⟩ (.refl _)

theorem podSend_sending (pkg cls : Nat) (mk : Nat → Output) (s : State) : Sending (podSend pkg cls mk s) s := by
  unfold podSend
  dsimp only
  split
  · exact sending_setFab ⟨fun _ => rfl, rfl, rfl⟩ (.refl _)
  · exact sending_setFab ⟨fun _ => rfl, rfl, rfl⟩ (emit_sending _ _ _ _)

theorem podFlush_sending (s : State) : Sending (podFlush s) s := by
  refine sending_chain (fun f hf t => ?_) s
  obtain ⟨-, -, rfl⟩ := List.mem_map.mp hf
  unfold podSendNext
  dsimp only
  split
  · exact .refl _
  · exact sending_setFab ⟨fun _ => rfl, rfl, rfl⟩ (emit_sending _ _ _ _)

theorem resendAll_sending (link : Nat) (s : State) : Sending (resendAll link s) s :=
  sending_setFab ⟨lines_tblSet rfl, rfl, rfl⟩ (sending_of_offPkg (fun e he => by obtain ⟨p, -, rfl⟩ := List.mem_map.mp he; rfl) _)

theorem heard_sending (p : Nat) (s : State) : Sending (heard p s) s := by
  unfold heard
  dsimp only
  split
  · exact sending_setFab ⟨fun _ => rfl, rfl, rfl⟩ (.refl _)
  · exact .refl _

/-! ## Links (R352 to R354) -/

section
variable {s : State}

@[simp] theorem chose_pkg (s : State) : s.chose.pkg = s.pkg := by unfold State.chose; split <;> rfl
@[simp] theorem chose_outputs (s : State) : s.chose.outputs = s.outputs := by unfold State.chose; split <;> rfl

/-- A link of the fabric. -/
def State.link (s : State) (l : Nat) : Link := tblGet .down s.pkg.fab.links l

theorem Sending.line {es : List Effect} {s : State} (sends : Sending es s) (l : Nat) : ((applyAll es s).link l).line = (s.link l).line :=
  sends.lines l

/-- A flit of data or control that passes its CRC (R353, R354) is accepted where its SEQ is the next. -/
theorem received_line {k : Link} {flit : BitVec 2048} (sound : flitCrc flit = BitVec.ofNat 64 (flit.toNat / 2 ^ 1984))
    (kind : flKind flit = 1 ∨ flKind flit = 2) :
    (k.received flit).line = (k.up, k.lanes, if flSeq flit = k.recvSeq then (k.recvSeq + 1) % 4096 else k.recvSeq,
      decide (flSeq flit ≠ k.recvSeq), flOff flit) := by
  have known : ¬3 ≤ flKind flit := by omega
  have carries : flKind flit ≠ 0 := by omega
  rw [Link.received, if_neg (not_not.mpr sound), if_neg known, Link.take, if_neg carries, show (k.acked flit).recvSeq = k.recvSeq from rfl]
  by_cases next : flSeq flit = k.recvSeq
  · rw [if_neg (not_not.mpr next), if_pos next, decide_eq_false (not_not.mpr next)]
    dsimp only
    split <;> rfl
  · rw [if_pos next, if_neg next, decide_eq_true next]
    rfl

/-- The link of a flit once it has been received, with what has left its input buffer (log entry 39). -/
def State.flitLink (s : State) (l : Nat) (flit : BitVec 2048) : Link :=
  { s.link l with input := (s.link l).input.drop (s.choice ((s.link l).input.length + 1)) }.received flit

/-- The state in which a flit has been received and acknowledged (R353). -/
def State.flitTaken (s : State) (l : Nat) (flit : BitVec 2048) : State :=
  let f := s.chose.pkg.fab
  applyAll [setFab s.chose { f with links := tblSet .down f.links l (s.flitLink l flit).flow }, .output (.ack l)] s.chose

/-- What follows a flit's acknowledgement: what its NAK asks for, and what waits for the link. -/
def State.flitAnswer (s : State) (l : Nat) (flit : BitVec 2048) : List Effect :=
  chain [fun t => if (s.flitLink l flit).resend then resendAll l t else [], heard (s.link l).peer, podFlush] (s.flitTaken l flit)

theorem flitAnswer_sending (l : Nat) (flit : BitVec 2048) : Sending (s.flitAnswer l flit) (s.flitTaken l flit) := by
  refine sending_chain (fun f hf t => ?_) _
  simp only [List.mem_cons, List.not_mem_nil, or_false] at hf
  rcases hf with rfl | rfl | rfl
  · dsimp only
    split
    · exact resendAll_sending l t
    · exact .refl _
  · exact heard_sending _ t
  · exact podFlush_sending t

theorem flitTaken_link (l : Nat) (flit : BitVec 2048) : (s.flitTaken l flit).link l = (s.flitLink l flit).flow := tblGet_set_same _ _ _ _

theorem flow_line (k : Link) : k.flow.line = k.line := rfl

theorem flitLink_line {l : Nat} {flit : BitVec 2048} (sound : flitCrc flit = BitVec.ofNat 64 (flit.toNat / 2 ^ 1984))
    (kind : flKind flit = 1 ∨ flKind flit = 2) :
    (s.flitLink l flit).line = ((s.link l).up, (s.link l).lanes,
      if flSeq flit = (s.link l).recvSeq then ((s.link l).recvSeq + 1) % 4096 else (s.link l).recvSeq,
      decide (flSeq flit ≠ (s.link l).recvSeq), flOff flit) := by
  rw [State.flitLink, received_line sound kind]

theorem flitTaken_outputs (l : Nat) (flit : BitVec 2048) : (s.flitTaken l flit).outputs = s.outputs ++ [.ack l] := by
  simp only [State.flitTaken, setFab, applyAll_cons, applyAll_nil, apply_outputs, chose_outputs]

theorem exec_flitReceive {l : Nat} (flit : BitVec 2048) (listed : l < s.cfg.links) (up : (s.link l).up = true)
    (running : s.pkg.frozen = false) :
    exec (.flitReceive l flit) s = .next (applyAll (s.flitAnswer l flit) (s.flitTaken l flit)) := by
  have may : (decide (l < s.cfg.links) && (s.link l).up && !s.pkg.frozen) = true := by
    rw [decide_eq_true listed, up, running]
    rfl
  exact event_of_runs (runs_then may (runs_bind (runs_choose_next s _) (runs_bind (runs_getS _) (runs_bind (runs_put _ _)
    (runs_bind (runs_put _ _) (runs_bind (runs_getS _) (runs_puts _ _)))))))

/-- A flit is acknowledged, and accepted in SEQ order where it passes its CRC (R353, R354). -/
theorem flitReceive_acks {l : Nat} (flit : BitVec 2048) (listed : l < s.cfg.links) (up : (s.link l).up = true)
    (running : s.pkg.frozen = false) :
    ∃ (t : State) (os : List Output), exec (.flitReceive l flit) s = .next t ∧ t.outputs = s.outputs ++ .ack l :: os
      ∧ (flitCrc flit = BitVec.ofNat 64 (flit.toNat / 2 ^ 1984) → flKind flit = 1 ∨ flKind flit = 2 →
        (t.link l).recvSeq = (if flSeq flit = (s.link l).recvSeq then ((s.link l).recvSeq + 1) % 4096 else (s.link l).recvSeq)
          ∧ (t.link l).nak = decide (flSeq flit ≠ (s.link l).recvSeq) ∧ (t.link l).peerOff = flOff flit) := by
  obtain ⟨os, outputs⟩ := applyAll_outputs (s.flitAnswer l flit) (s.flitTaken l flit)
  refine ⟨_, os, exec_flitReceive flit listed up running, ?_, fun sound kind => ?_⟩
  · rw [outputs, flitTaken_outputs, List.append_assoc, List.singleton_append]
  · have line := (flitAnswer_sending (s := s) l flit).line l
    rw [flitTaken_link, flow_line, flitLink_line sound kind] at line
    simp only [Link.line, Prod.mk.injEq] at line
    obtain ⟨-, -, recvSeq, nak, peerOff⟩ := line
    exact ⟨recvSeq, nak, peerOff⟩

/-- A link as its training leaves it (R353): the far end of one that was down is the environment's. -/
def Link.trained (k : Link) (lanes peer plink : Nat) : Link :=
  let up := decide (lanes = 8 ∨ lanes = 4)
  let y : Link := if k.up || !up then k else { k with peer := peer, plink := plink }
  { y with up := up, lanes := if up then lanes else 0 }

/-- The state in which a link has trained, before it resends. -/
def State.linkTrained (s : State) (l n : Nat) : State :=
  let c := s.chose.chose
  (setFab c { c.pkg.fab with
    links := tblSet .down c.pkg.fab.links l ((c.link l).trained n (s.choice 128) (s.chose.choice 16)) }).apply c

theorem linkTrained_link (l n : Nat) :
    (s.linkTrained l n).link l = (s.chose.chose.link l).trained n (s.choice 128) (s.chose.choice 16) :=
  tblGet_set_same _ _ _ _

/-- What a link that runs does once it has trained: what its sender keeps leaves again, and what waits (R353). -/
def State.retrained (s : State) (l n : Nat) : List Effect :=
  if decide (n = 8 ∨ n = 4) then chain [resendAll l, podFlush] (s.linkTrained l n) else []

theorem retrained_sending (l n : Nat) : Sending (s.retrained l n) (s.linkTrained l n) := by
  unfold State.retrained
  split
  · refine sending_chain (fun f hf t => ?_) _
    rcases List.mem_pair.mp hf with rfl | rfl
    · exact resendAll_sending l t
    · exact podFlush_sending t
  · exact .refl _

theorem runs_puts_if {c : Prop} [Decidable c] (es : List Effect) (s : State) :
    Runs (if c then puts es else pure ()) s () (applyAll (if c then es else []) s) := by
  split
  · exact runs_puts es s
  · exact runs_pure _ s

theorem exec_linkRetrain {l : Nat} (n : Nat) (listed : l < s.cfg.links) (running : s.pkg.frozen = false) :
    exec (.linkRetrain l n) s = .next (applyAll (s.retrained l n) (s.linkTrained l n)) := by
  have may : (decide (l < s.cfg.links) && !s.pkg.frozen) = true := by
    rw [decide_eq_true listed, running]
    rfl
  exact event_of_runs (runs_then may (runs_bind (runs_choose_next s _) (runs_bind (runs_choose_next _ _) (runs_bind (runs_getS _)
    (runs_bind (runs_put _ _) (runs_bind (runs_getS _) (runs_puts_if _ _)))))))

theorem linkRetrain_trains {l : Nat} (n : Nat) (listed : l < s.cfg.links) (running : s.pkg.frozen = false) :
    ∃ t : State, exec (.linkRetrain l n) s = .next t ∧ (t.link l).up = decide (n = 8 ∨ n = 4)
      ∧ (t.link l).lanes = if n = 8 ∨ n = 4 then n else 0 := by
  refine ⟨_, exec_linkRetrain n listed running, ?_⟩
  have line := (retrained_sending (s := s) l n).line l
  rw [linkTrained_link] at line
  simp only [Link.line, Link.trained, Prod.mk.injEq, decide_eq_true_eq] at line
  obtain ⟨up, lanes, -⟩ := line
  exact ⟨up, lanes⟩

/-! ## Streams (R355) -/

section
variable {dest cls : Nat} (l : Nat) (member : isMember s.pkg.fab dest = true)
include member

theorem routeChange_holds (free : s.pkg.fab.streamHeld.contains (dest, cls) = false) :
    s.does (.routeChange dest cls l) [setFab s { s.pkg.fab with streamHeld := s.pkg.fab.streamHeld ++ [(dest, cls)] }] := by
  have program : exec (.routeChange dest cls l) s
      = event (whenever true fun t => [setFab t { s.pkg.fab with streamHeld := s.pkg.fab.streamHeld ++ [(dest, cls)] }]) s := by
    show execRouteChange dest cls l s = _
    simp only [execRouteChange, member, free, Bool.not_true, Bool.false_eq_true, if_false, Bool.not_false, if_true]
  exact program.trans (event_effects rfl rfl)

theorem routeChange_resumes (held : s.pkg.fab.streamHeld.contains (dest, cls) = true) :
    let f := s.pkg.fab
    let k := tblGet 0 f.routes (streamKey dest cls)
    let old := tblGet .down f.links k
    let packets := openPackets f dest cls old
    packets = [] ∨ old.up = false →
    s.does (.routeChange dest cls l) (chain
      [fun s => [setFab s { f with
          links := tblSet .down f.links k { old with replay := old.replay.filter (fun p => p.2.stream != some (dest, cls)) },
          streamHeld := f.streamHeld.filter (fun p => p != (dest, cls)), routes := tblSet 0 f.routes (streamKey dest cls) l,
          waiting := packets.map (fun o => (dest, cls, o)) ++ f.waiting }], podFlush] s) := by
  intro f k old packets clear
  have guard : (packets.isEmpty || !old.up) = true := by
    rcases clear with none' | down
    · rw [none']
      rfl
    · rw [down, Bool.not_false, Bool.or_true]
  show execRouteChange dest cls l s = _
  simp only [execRouteChange, member, held, Bool.not_true, Bool.false_eq_true, if_false]
  exact event_effects guard rfl

end

/-! ## The pod clock and its windows (R356 to R358) -/

theorem ptpMessage_does (m : PtpMsg) : s.does (.ptpMessage m) [setFab s (ptpUpdate m s.pkg.fab)] := event_effects rfl rfl

theorem ptpMessage_syncs (origin receipt : Nat) (elected : s.pkg.fab.master ≠ none) :
    let f := s.pkg.fab
    let off : Int := (receipt : Int) - origin - f.delay
    s.does (.ptpMessage (.sync origin receipt))
      [setFab s { f with offset := BitVec.ofInt 32 off, time := (f.time - off).toNat, lock := true }] := by
  intro f off
  have update : ptpUpdate (.sync origin receipt) f = { f with offset := BitVec.ofInt 32 off, time := (f.time - off).toNat, lock := true } :=
    if_pos (Option.isSome_iff_ne_none.mpr elected)
  rw [← update]
  exact ptpMessage_does _

theorem windowClose_does {n : Nat} (next : nextClose s.pkg.fab = some n) (en : s.pkg.fab.en = true)
    (acked : writesAcked s.pkg.fab n = true) (due : (n + 1) * windowLen s.pkg.fab ≤ s.pkg.fab.time) :
    s.does .windowClose (chain
      ((fun s => [setFab s { s.pkg.fab with closed := some n }])
        :: (members s.pkg.fab).map (fun p => podSend p 2 (fun m => .marker p m n))) s) := by
  show execWindowClose s = _
  simp only [execWindowClose, next]
  exact event_effects (by rw [en, acked, decide_eq_true due]; rfl) rfl

theorem windowEntry_does {n : Nat} (en : s.pkg.fab.en = true) (closed : s.pkg.fab.closed = some n) (own : s.pkg.fab.window ≤ n + 1)
    (due : (s.pkg.fab.window + 1) * windowLen s.pkg.fab ≤ s.pkg.fab.time)
    (all : (members s.pkg.fab).all (fun p => s.pkg.fab.markers.contains (p, s.pkg.fab.window - 1)) = true) :
    s.does .windowEntry [setFab s (enterWindow (s.pkg.fab.window + 1) s.pkg.fab)] := by
  show execWindowEntry s = _
  simp only [execWindowEntry, closed]
  exact event_effects (by rw [en, decide_eq_true ⟨due, own⟩, all]; rfl) rfl

/-! ## What arrives in order (R352, R355) -/

section
variable {p : Nat} (member : isMember s.pkg.fab p = true)
include member

/-- The next packet of a member's stream is counted, its sender heard, and then it is acted on. -/
theorem inOrder_next {cls num : Nat} (next : tblGet 0 s.pkg.fab.recvNum (streamKey p cls) = num) (act : State → List Effect) :
    inOrder p cls num act s = chain
      [fun s => [setFab s { s.pkg.fab with recvNum := tblSet 0 s.pkg.fab.recvNum (streamKey p cls) (num + 1) }], heard p, act] s :=
  if_pos (by rw [member, next, beq_self_eq_true]; rfl)

/-- The state in which a member's next packet is acted on. -/
theorem exec_arrivesNext {i : Instr} {cls : Nat} {act : State → List Effect}
    (issued : exec i s = event (whenever true (arrivesNext p cls act)) s) :
    ∃ u : State, exec i s = .next (applyAll (act u) u) := by
  have happens := issued.trans (event_effects rfl (inOrder_next member rfl act))
  rw [applyAll_chain_cons, applyAll_chain_cons, applyAll_chain_cons, chain_nil, applyAll_nil] at happens
  exact ⟨_, happens⟩

theorem closeMarker_marks (n : Nat) :
    ∃ t : State, exec (.closeMarker p n) s = .next t ∧ t.pkg.fab.markers.contains (p, n) = true := by
  obtain ⟨u, marked⟩ := exec_arrivesNext member (i := .closeMarker p n) rfl
  refine ⟨_, marked, ?_⟩
  show (if u.pkg.fab.markers.contains (p, n) then u.pkg.fab.markers else u.pkg.fab.markers ++ [(p, n)]).contains (p, n) = true
  split
  · assumption
  · simp

/-- No kept copy is left of the frame that a member invalidates (R362). -/
theorem remoteInvalidation_drops (fr : Nat) :
    ∃ t : State, exec (.remoteInvalidation p fr) s = .next t
      ∧ ∀ c ∈ t.pkg.fab.copies,
        ¬(Config.podBase + p * 2 ^ 44 + frameBase fr ≤ c.pa ∧ c.pa < Config.podBase + p * 2 ^ 44 + frameBase fr + 65536) := by
  obtain ⟨u, happens⟩ := exec_arrivesNext member (i := .remoteInvalidation p fr) rfl
  refine ⟨_, happens, fun c hc => ?_⟩
  generalize Config.podBase + p * 2 ^ 44 + frameBase fr = base at hc ⊢
  rw [applyAll_chain_cons, applyAll_chain_cons, applyAll_chain_cons, chain_nil, applyAll_nil, (podSend_sending ..).copies,
    (sending_of_offPkg (invalidateSlots_offPkg _ _) _).copies] at hc
  have kept : c ∈ (dropFrame base u.pkg.fab).copies := hc
  have outside := (List.mem_filter.mp kept).2
  simp only [Bool.not_eq_true', decide_eq_false_iff_not] at outside
  exact outside

theorem podAccess_answers (req : PodReq) (here : req.src = p) (next : tblGet 0 s.pkg.fab.recvNum (streamKey req.src 0) = req.seq) :
    s.does (.podAccess req) (chain
      [fun s => [setFab s { s.pkg.fab with
         recvNum := tblSet 0 s.pkg.fab.recvNum (streamKey req.src 0) (req.seq + 1) }],
       heard req.src,
       fun s => let r := podAnswer req s
         chain [fun _ => r.1.fx, podSend req.src 1 (fun n => .podReply req.src n req.seq r.1.v r.1.res r.2)] s] s) :=
  event_effects rfl (inOrder_next (here ▸ member) next _)

end

/-! ## Failed members (R359) -/

/-- A member is not live, and nothing is asked of it. -/
def Gone (p : Nat) (s : State) : Prop := s.pkg.fab.live.getLsbD p = false ∧ s.pkg.fab.remotes.all (fun r => r.pkg != p) = true

theorem gone_of_offPkg {p : Nat} {es : List Effect} (h : ∀ e ∈ es, e.offPkg = true) (gone : Gone p s) : Gone p (applyAll es s) := by
  rw [Gone, applyAll_offPkg h]
  exact gone

/-- What strands that are killed have asked of other packages stays asked of the same. -/
theorem gone_orphan {p : Nat} (who : Nat → Bool) (gone : Gone p s) : Gone p (applyAll (orphan who s) s) := by
  rw [orphan, applyAll_append]
  refine gone_of_offPkg (fun e he => by obtain ⟨c, -, rfl⟩ := List.mem_map.mp he; rfl) ⟨gone.1, ?_⟩
  simpa [applyAll, List.all_map] using gone.2

theorem freeSlot_offPkg (s : State) (six : Nat) (x : Strand) : ∀ e ∈ freeSlot s six x, e.offPkg = true := by
  intro e he
  rcases List.mem_append.mp he with he | he
  · rw [keepQuant] at he
    split at he
    · cases he
    · split at he
      · cases he
      · rw [List.mem_singleton.mp he]
        rfl
  · rw [List.mem_singleton.mp he]
    rfl

theorem killStrand_offPkg (s : State) (six : Nat) (x : Strand) : ∀ e ∈ killStrand s six x, e.offPkg = true := by
  intro e he
  simp only [killStrand] at he
  split at he
  · exact freeSlot_offPkg s six _ e he
  · rw [List.mem_singleton.mp he]
    rfl

theorem setHold_offPkg (n : Nat) (d : Dom) (s : State) : ∀ e ∈ setHold n d s, e.offPkg = true := by
  intro e he
  rcases List.mem_cons.mp he with rfl | he
  · rfl
  · split at he
    · exact invalidateSlots_offPkg _ s e he
    · cases he

theorem reportFailed_offPkg (g : Nat) (s : State) : ∀ e ∈ reportFailed g s, e.offPkg = true := by
  rw [reportFailed]
  split
  · next y _ =>
    refine chain_all _ _ s fun f hf t => ?_
    rcases List.mem_pair.mp hf with rfl | rfl
    · refine chain_all _ _ t fun f hf t => ?_
      obtain ⟨d, -, rfl⟩ := List.mem_map.mp hf
      exact setHold_offPkg _ _ t
    · simp [reported, Effect.offPkg]
  · exact List.forall_mem_nil _

/-- Of the kill of a group, the part that touches the fabric is what its strands leave behind (R281). -/
theorem gone_killGroup {p : Nat} (g : Nat) (gone : Gone p s) : Gone p (applyAll (killGroup s g) s) := by
  rw [killGroup, applyAll_chain_cons]
  refine gone_of_offPkg (chain_all _ _ _ fun f hf t e he => ?_) (gone_orphan _ gone)
  simp only [List.mem_cons, List.not_mem_nil, or_false] at hf
  rcases hf with rfl | rfl | rfl | rfl | rfl | rfl | rfl
  · obtain ⟨q, -, he⟩ := List.mem_flatMap.mp he
    exact killStrand_offPkg t _ _ e he
  · obtain ⟨q, -, rfl⟩ := List.mem_map.mp he
    rfl
  · obtain ⟨q, -, rfl⟩ := List.mem_map.mp he
    rfl
  · obtain ⟨q, -, hq⟩ := List.mem_filterMap.mp he
    split at hq
    · obtain ⟨-, ⟨⟩⟩ := Option.ite_none_right_eq_some.mp hq
      rfl
    · cases hq
  · obtain ⟨q, -, hq⟩ := List.mem_filterMap.mp he
    obtain ⟨-, ⟨⟩⟩ := Option.ite_none_right_eq_some.mp hq
    rfl
  · rw [List.mem_singleton.mp he]
    rfl
  · exact reportFailed_offPkg g t e he

theorem gone_contain {p : Nat} (six : Nat) (x : Strand) (own : Bool) (gone : Gone p s) : Gone p (applyAll (contain s six x own) s) := by
  refine applyAll_chain_keeps (Gone p) (fun f hf t gone => ?_) gone
  simp only [List.mem_cons, List.not_mem_nil, or_false] at hf
  rcases hf with rfl | rfl | rfl
  · dsimp only
    split
    · exact gone_killGroup _ gone
    · rw [applyAll_chain_cons, applyAll_chain_cons, chain_nil, applyAll_nil]
      exact gone_of_offPkg (freeSlot_offPkg _ _ _) (gone_orphan _ gone)
  · refine gone_of_offPkg (fun e he => ?_) gone
    dsimp only at he
    split at he
    · split at he
      · rw [List.mem_singleton.mp he]
        rfl
      · cases he
    · cases he
  · exact gone

theorem gone_checkError {p : Nat} (six id sub : Nat) (addr : Word) (gone : Gone p s) :
    Gone p (applyAll (checkError six id sub addr s) s) := by
  unfold checkError
  dsimp only
  split
  · exact gone
  · split
    · rw [applyAll_chain_cons, applyAll_chain_cons, chain_nil, applyAll_nil]
      exact gone_contain _ _ _ gone
    · exact gone

theorem gone_answerGot {p : Nat} (six id : Nat) (a : Ack) (gone : Gone p s) : Gone p (applyAll (answerGot six id a s) s) := by
  unfold answerGot
  dsimp only
  split <;> exact gone

theorem gone_answerCmd {p : Nat} (id : Nat) (a : Ack) (gone : Gone p s) : Gone p (applyAll (answerCmd id a s) s) := by
  refine gone_of_offPkg (fun e he => ?_) gone
  obtain ⟨c, -, hc⟩ := List.mem_filterMap.mp he
  obtain ⟨-, ⟨⟩⟩ := Option.ite_none_right_eq_some.mp hc
  rfl

/-- An access that will not be answered asks nothing new of another package. -/
theorem gone_unanswered {p : Nat} (r : Remote) (gone : Gone p s) : Gone p (applyAll (unanswered r s) s) := by
  unfold unanswered
  dsimp only
  split
  · next plain =>
    rw [remoteAnswered, plain]
    dsimp only
    split
    · exact gone
    · split
      · exact gone_checkError _ _ _ _ gone
      · exact gone_answerGot _ _ _ gone
  · split
    · exact gone_answerCmd _ _ gone
    · split
      · exact gone_answerGot _ _ _ gone
      · exact gone_checkError _ _ _ _ gone

theorem memberFailure_fails {p : Nat} (member : isMember s.pkg.fab p = true) (live : s.pkg.fab.live.getLsbD p = true)
    (silent : tblGet 0 s.pkg.fab.heardAt p + 5 ≤ clockWindow s.pkg.fab) :
    ∃ t : State, exec (.memberFailure p) s = .next t ∧ Gone p t := by
  have listed : p < 128 := by
    simp only [isMember, Bool.and_eq_true, decide_eq_true_eq] at member
    exact member.2.1
  have fails : (isMember s.pkg.fab p && s.pkg.fab.live.getLsbD p && decide (tblGet 0 s.pkg.fab.heardAt p + 5 ≤ clockWindow s.pkg.fab))
      = true := by
    rw [member, live, decide_eq_true silent]
    rfl
  refine ⟨_, event_effects fails rfl, ?_⟩
  rw [applyAll_chain_append, applyAll_chain_cons]
  refine applyAll_chain_keeps (Gone p) (fun f hf t gone => ?_) (applyAll_chain_keeps (Gone p) (fun f hf t gone => ?_) ⟨?_, ?_⟩)
  · obtain ⟨r, -, rfl⟩ := List.mem_map.mp hf
    exact gone_unanswered r gone
  · rw [List.mem_singleton.mp hf]
    exact gone
  · show (s.pkg.fab.live &&& ~~~(1#128 <<< p)).getLsbD p = false
    simp [listed]
  · show (s.pkg.fab.remotes.filter (fun r => r.pkg != p)).all (fun r => r.pkg != p) = true
    simp [List.all_filter]

end

/-- Settles O49, event by event. -/
theorem fabricEvents : Obligations.FabricEvents := fun _ =>
  ⟨fun _ flit listed up running => flitReceive_acks flit listed up running, fun _ n => linkRetrain_trains n,
    fun _ _ l member => ⟨routeChange_holds l member, routeChange_resumes l member⟩, fun origin receipt => ptpMessage_syncs origin receipt,
    fun _ _ _ _ => ptpMessage_does _, fun _ => ptpMessage_does _, fun _ => event_effects rfl rfl, fun _ => windowClose_does,
    fun _ => windowEntry_does,
    fun _ member => ⟨closeMarker_marks member, remoteInvalidation_drops member, memberFailure_fails member⟩,
    fun req member => podAccess_answers member req rfl⟩

end Sys2Proof.Machine

/-! The packets of a queue (R283 to R286, R290), and the ends of groups (R289, R306). -/

namespace Sys2Proof.Machine

/-! ## Programs of events -/

/-- The state in which a meaning ends, however it ends. -/
def Ends (m : M Unit) (s t : State) : Prop := ∀ (f : Stop → State → State) (s0 : State), Prog.run f s0 (m fun _ => .done) s = t

theorem Runs.ends {m : M Unit} {s t : State} (runs : Runs m s () t) : Ends m s t := fun f s0 => runs f s0 _

theorem ends_bind {α : Type} {m : M α} {g : α → M Unit} {s t u : State} {a : α} (runs : Runs m s a t) (ends : Ends (g a) t u) :
    Ends (m >>= g) s u := fun f s0 => by rw [m_bind, runs f s0, ends f s0]

theorem ends_then {c : Prop} [Decidable c] {m n : M Unit} {s t : State} (h : c) (ends : Ends m s t) : Ends (if c then m else n) s t := by
  rwa [if_pos h]

theorem ends_else {c : Prop} [Decidable c] {m n : M Unit} {s t : State} (h : ¬c) (ends : Ends n s t) : Ends (if c then m else n) s t := by
  rwa [if_neg h]

theorem event_of_ends {body : M Unit} {s t : State} (ends : Ends body s t) : event body s = .next t := congrArg _ (ends _ _)

section
variable {s : State} {d q : Nat}

@[simp] theorem queueOf_setQueue (y : Queue) : queueOf (applyAll (setQueue d q y s) s) d q = y := by
  rw [queueOf, setQueue, applyAll_cons, applyAll_nil, die_apply_die, if_pos rfl]
  exact tblGet_set_same _ _ _ _

/-! ## Accesses of a command processor (R286) -/

theorem runs_cpDo {α : Type} (use : Nat) {r : Except CpStop α} {a : α} (performs : r = .ok a) : Runs (cpDo d q use r) s a s := by
  subst performs
  exact fun _ _ _ => rfl

theorem ends_cpDo_stops {α : Type} (use : Nat) {r : Except CpStop α} {e : CpStop} (stops : r = .error e) (g : α → M Unit) :
    Ends (cpDo d q use r >>= g) s (applyAll (e.effects d q use s) s) := by
  subst stops
  intro f s0
  exact runs_puts (e.effects d q use s) s f s0 fun _ => .done

theorem runs_cpLoad (use : Nat) {asid n : Nat} {pm : Bool} {va : Word} {ws : List Word} {es : List Effect}
    (performs : cpWords s d q asid pm va n = .ok (ws, es)) : Runs (cpLoad d q use asid pm va n) s ws (applyAll es s) :=
  runs_bind (runs_getS s) (runs_bind (runs_cpDo use performs) (runs_bind (runs_puts es s) (runs_pure _ _)))

theorem headed_of_written {hdr : Word} {es : List Effect}
    (written : cpWrite s d q (queueOf s d q).asid (queueOf s d q).privq (packetAddr (queueOf s d q)) hdr = .ok es) :
    s.headed d q hdr = applyAll (setQueue d q (queueOf (applyAll es s) d q).advanced (applyAll es s)) (applyAll es s) := by
  rw [State.headed]
  dsimp only
  rw [written]

theorem runs_stepFive {hdr : Word} {es : List Effect}
    (written : cpWrite s d q (queueOf s d q).asid (queueOf s d q).privq (packetAddr (queueOf s d q)) hdr = .ok es) :
    Runs (stepFive d q hdr) s () (s.headed d q hdr) := by
  rw [headed_of_written written]
  refine runs_bind (runs_getS s) ?_
  refine runs_bind (runs_cpDo 0 written) ?_
  exact runs_bind (runs_puts es s) (runs_bind (runs_getS _) (runs_puts _ _))

theorem ends_stepFive (hdr : Word) : Ends (stepFive d q hdr) s (s.headed d q hdr) := by
  cases written : cpWrite s d q (queueOf s d q).asid (queueOf s d q).privq (packetAddr (queueOf s d q)) hdr with
  | ok es => exact (runs_stepFive written).ends
  | error e =>
    have held : s.headed d q hdr = applyAll (e.effects d q 0 s) s := by
      rw [State.headed]
      dsimp only
      rw [written]
    rw [held]
    exact ends_bind (runs_getS s) (ends_cpDo_stops 0 written _)

theorem runs_packetSignal (ws : List Word) :
    Runs (packetSignal d q ws) s () (applyAll (decrement d q (queueOf s d q).asid (ws.getD 3 0) s) s) :=
  runs_bind (runs_getS s) (runs_puts _ _)

theorem ends_closePacket (hdr : Word) : Ends (closePacket d q hdr) s (s.closes d q hdr) := by
  refine ends_bind (runs_getS s) (ends_bind (runs_puts _ _) ?_)
  rw [State.closes]
  dsimp only
  rw [queueOf_setQueue]
  split
  · exact (runs_pure _ _).ends
  · exact ends_stepFive hdr

/-! ## Serving a queue (R286) -/

section
variable {ws : List Word} {es : List Effect} (finds : Finds s d q ws es) (kind : List Word → State → Bool) (act : List Word → M Unit)
include finds

theorem ends_servePacket_stops (empty : (ws.getD 0 0).getLsbD 63 = false) :
    Ends (servePacket d q kind act) s (applyAll (packetStop d q (applyAll es s)) (applyAll es s)) := by
  obtain ⟨served, packet⟩ := finds
  have stops : (!(ws.getD 0 0).getLsbD 63) = true := by rw [empty]; rfl
  refine ends_bind (runs_getS s) (ends_then served ?_)
  refine ends_bind (runs_cpDo 0 packet) ?_
  exact ends_bind (runs_puts es s) (ends_bind (runs_getS _) (ends_then stops (runs_puts _ _).ends))

theorem ends_servePacket_acts (valid : (ws.getD 0 0).getLsbD 63 = true) (mine : kind ws (applyAll es s) = true) {t : State}
    (ends : Ends (act ws) (applyAll es s) t) : Ends (servePacket d q kind act) s t := by
  obtain ⟨served, packet⟩ := finds
  have goes : ¬(!(ws.getD 0 0).getLsbD 63) = true := by rw [valid]; exact nofun
  refine ends_bind (runs_getS s) (ends_then served ?_)
  refine ends_bind (runs_cpDo 0 packet) ?_
  exact ends_bind (runs_puts es s) (ends_bind (runs_getS _) (ends_else goes (ends_then mine ends)))

/-- A queue that is served has nothing left over (R286, R290): its SIGNAL event looks at the packet. -/
theorem execPacketSignal_serves : execPacketSignal d q s = event (servePacket d q
    (fun ws s => decide (pkType (ws.getD 0 0) = 2) && !badPacket s d q ws && pastBarrier s d q (ws.getD 0 0))
    (fun ws => do
      packetSignal d q ws
      closePacket d q (doneHeader (ws.getD 0 0) false))) s := by
  have goes := finds.served
  simp only [served, Bool.and_eq_true, Option.isNone_iff_eq_none, List.all_eq_true, decide_eq_true_eq] at goes
  obtain ⟨⟨-, unclosed⟩, clear⟩ := goes
  have none_left : (queueOf s d q).reqs.find? (fun r => r.use == 1 && !r.held) = none := by
    refine List.find?_eq_none.mpr fun r hr left => ?_
    simp only [Bool.and_eq_true, beq_iff_eq] at left
    exact (clear r hr).1 left.1
  rw [execPacketSignal]
  dsimp only
  rw [none_left, unclosed]

end

theorem servePacket_stops {ws : List Word} {es : List Effect} (finds : Finds s d q ws es) (empty : (ws.getD 0 0).getLsbD 63 = false) :
    ∀ e ∈ [Instr.packetReject d q, .packetSignal d q, .packetLaunch d q, .packetResume d q],
      exec e s = .next (applyAll (packetStop d q (applyAll es s)) (applyAll es s)) := by
  have stops (kind : List Word → State → Bool) (act : List Word → M Unit) :
      event (servePacket d q kind act) s = .next (applyAll (packetStop d q (applyAll es s)) (applyAll es s)) :=
    event_of_ends (ends_servePacket_stops finds kind act empty)
  intro e he
  simp only [List.mem_cons, List.not_mem_nil, or_false] at he
  rcases he with rfl | rfl | rfl | rfl
  · exact stops _ _
  · exact (execPacketSignal_serves finds).trans (stops _ _)
  · exact stops _ _
  · exact stops _ _

theorem packetReject_happens {ws : List Word} {es fs : List Effect} (finds : Finds s d q ws es)
    (valid : (ws.getD 0 0).getLsbD 63 = true) (bad : badPacket (applyAll es s) d q ws = true)
    (written : cpWrite (applyAll es s) d q (queueOf (applyAll es s) d q).asid (queueOf (applyAll es s) d q).privq
      (packetAddr (queueOf (applyAll es s) d q)) (doneHeader (ws.getD 0 0) true) = .ok fs) :
    let u := (applyAll es s).headed d q (doneHeader (ws.getD 0 0) true)
    exec (.packetReject d q) s = .next (applyAll (decrement d q (queueOf u d q).asid (ws.getD 3 0) u) u) :=
  event_of_ends (ends_servePacket_acts finds _ _ valid bad (ends_bind (runs_stepFive written) (runs_packetSignal ws).ends))

theorem packetSignal_happens {ws : List Word} {es : List Effect} (finds : Finds s d q ws es) (valid : (ws.getD 0 0).getLsbD 63 = true)
    (good : badPacket (applyAll es s) d q ws = false) (past : pastBarrier (applyAll es s) d q (ws.getD 0 0) = true)
    (signal : pkType (ws.getD 0 0) = 2) :
    let t := applyAll es s
    let v := applyAll (decrement d q (queueOf t d q).asid (ws.getD 3 0) t) t
    exec (.packetSignal d q) s = .next (v.closes d q (doneHeader (ws.getD 0 0) false)) := by
  refine (execPacketSignal_serves finds).trans (event_of_ends ?_)
  refine ends_servePacket_acts finds _ _ valid ?_ (ends_bind (runs_packetSignal ws) (ends_closePacket _))
  rw [decide_eq_true signal, good, past]
  rfl

/-! ## Notifies and hardware slots (R285) -/

theorem queueNotify_does (die : d < 4) (queue : q < 1024) :
    let y := queueOf s d q
    s.does (.queueNotify d q) (setQueue d q (if y.mapped then { y with woken := true } else { y with pend := true }) s) :=
  event_effects (decide_eq_true ⟨die, queue⟩) rfl

theorem queueMap_does (die : d < 4) (queue : q < 1024) (unmapped : (queueOf s d q).mapped = false)
    (slots : ((s.die d).queues.filter (fun p => p.2.mapped)).length < 64) :
    let y := queueOf s d q
    s.does (.queueMap d q) (setQueue d q { y with mapped := true, pend := false, woken := y.pend } s) :=
  event_effects (decide_eq_true ⟨die, queue⟩) (if_neg fun full => full.elim (fun mapped => by
    rw [queueOf] at unmapped
    exact Bool.false_ne_true (unmapped.symm.trans mapped)) (by omega))

end

/-! ## The ends of groups (R289, R306) -/

section
variable {s : State} {gid : Nat} {g : Machine.Group} (known : s.group gid = some g)
include known

theorem groupCompletion_does (ends : (g.failed = true ∧ slotHeld s gid = false)
    ∨ (g.failed = false ∧ g.saved = false ∧ g.ctxs = [] ∧ groupLive s gid = false)) :
    s.does (.groupCompletion gid) (endGroup gid g s) := by
  show execGroupCompletion gid s = _
  rw [execGroupCompletion, known]
  refine event_effects ?_ rfl
  rcases ends with ⟨failed, free⟩ | ⟨sound, here, none_left, dead⟩
  · rw [if_pos failed, free]
    rfl
  · rw [sound, here, none_left, dead]
    rfl

/-- The state once a group's spill area is written (R306): the group saved, and the accesses of the writes given up. -/
def State.spilled (s : State) (gid : Nat) (g : Machine.Group) : State :=
  let u := applyAll (saveGroup gid g s) s
  let y := queueOf u g.die g.queue
  applyAll (setQueue g.die g.queue { y with reqs := y.reqs.filter (fun r => r.use ≠ 2) } u) u

theorem spillWrite_happens (leaving : g.preempting = true) (sound : g.failed = false) (free : slotHeld s gid = false)
    (idle : cmdInFlight s gid = false)
    (quiet : s.cores.all (fun c => !c.2.reqBuf.any (fun m => m.msg.gid == gid) && !c.2.repBuf.any (fun m => m.msg.gid == gid)
      && !c.2.hq.any (fun e => match e with | .message m => m.gid == gid | .atomic _ => false)) = true) :
    let ws := spillWords s gid g
    (64 * gdSpn g.desc0 < spillBytes ws → s.does (.spillWrite gid) (killGroup s gid))
    ∧ ∀ es, spillBytes ws ≤ 64 * gdSpn g.desc0 →
      cpWriteAll g.die g.queue g.asid (queueOf s g.die g.queue).privq ws s = .ok es →
      exec (.spillWrite gid) s = .next ((applyAll es s).spilled gid g) := by
  intro ws
  have runs : exec (.spillWrite gid) s = execSpillWrite gid s := rfl
  rw [State.does, runs, execSpillWrite, known]
  dsimp only
  rw [leaving, sound, free, idle]
  constructor
  · intro large
    exact event_of_ends (ends_then quiet (ends_then large (runs_puts _ _).ends))
  · intro es fits written
    refine event_of_ends (ends_then quiet (ends_else (Nat.not_lt.mpr fits) ?_))
    refine ends_bind (runs_cpDo 2 written) (ends_bind (runs_puts es s) ?_)
    exact ends_bind (runs_getS _) (ends_bind (runs_puts _ _) (ends_bind (runs_getS _) (runs_puts _ _).ends))

end
end Sys2Proof.Machine

/-! The header of a packet that is dealt with (R286, R328): its bytes are written, and what decides a launch stays as it was. -/

namespace Sys2Proof.Machine

/-! ## What decides who may be launched where -/

/-- What a launch goes by (R287, R288): groups, tasks, tenants, domains, queues, and the gates of the clusters. -/
def State.setting (s : State) := (s.groups, s.tasks, s.tenants, s.doms, s.dies, s.pkg.gated, s.pkg.gatereq)

/-- An effect that leaves all of it, where the gates are these. -/
def Effect.settled (gated gatereq : BitVec 32) : Effect → Bool
  | .pkg x => x.gated == gated && x.gatereq == gatereq
  | .group .. | .task .. | .tenant .. | .dom .. | .die .. | .reset => false
  | _ => true

theorem apply_settled {e : Effect} {s : State} (h : e.settled s.pkg.gated s.pkg.gatereq = true) : (e.apply s).setting = s.setting := by
  cases e <;> first
    | rfl
    | cases h
    | (simp only [Effect.settled, Bool.and_eq_true, beq_iff_eq] at h
       simp only [Effect.apply, State.setting, h.1, h.2])

theorem applyAll_settled {es : List Effect} {s : State} (h : ∀ e ∈ es, e.settled s.pkg.gated s.pkg.gatereq = true) :
    (applyAll es s).setting = s.setting := by
  induction es generalizing s with
  | nil => rfl
  | cons e es ih =>
    have head := apply_settled (h e List.mem_cons_self)
    obtain ⟨-, -, -, -, -, gated, gatereq⟩ : _ ∧ _ ∧ _ ∧ _ ∧ _ ∧ _ ∧ _ := by simpa only [State.setting, Prod.mk.injEq] using head
    rw [applyAll_cons, ih fun x hx => by rw [gated, gatereq]; exact h x (List.mem_cons_of_mem _ hx), head]

theorem settled_onL1 {e : Effect} (h : e.onL1 = true) (a b : BitVec 32) : e.settled a b = true := by
  cases e <;> first | rfl | cases h

theorem settled_clearRes (agent : Option Nat) (dirAgent pa n : Nat) (s : State) :
    ∀ e ∈ clearRes agent dirAgent pa n s, e.settled s.pkg.gated s.pkg.gatereq = true := by
  intro e he
  rcases List.mem_append.mp he with strand | pod
  · obtain ⟨p, -, hp⟩ := List.mem_filterMap.mp strand
    dsimp only at hp
    split at hp
    · obtain ⟨-, ⟨⟩⟩ := Option.ite_none_right_eq_some.mp hp
      rfl
    · cases hp
  · rw [dropPodRes] at pod
    dsimp only at pod
    split at pod
    · rw [List.mem_singleton.mp pod]
      simp [Effect.settled]
    · cases pod

/-- A write of bytes that no task has read (R274, R280). -/
theorem memStore_setting (agent : Option Nat) (dirAgent pa n v : Nat) {s : State} (unread : readersOf s (wordsOf pa n) = []) :
    (applyAll (memStore agent dirAgent pa n v s) s).setting = s.setting := by
  refine applyAll_chain_keeps (fun t => t.setting = s.setting) (fun f hf t same => ?_) rfl
  simp only [List.mem_cons, List.not_mem_nil, or_false] at hf
  rcases hf with rfl | rfl | rfl | rfl | rfl
  · refine (applyAll_settled fun e he => ?_).trans same
    rcases List.mem_append.mp he with bytes | mark
    · rw [List.mem_singleton.mp bytes]
      rfl
    · obtain ⟨w, -, hw⟩ := List.mem_filterMap.mp mark
      obtain ⟨-, ⟨⟩⟩ := Option.ite_none_right_eq_some.mp hw
      rfl
  · exact (applyAll_settled (settled_clearRes _ _ _ _ t)).trans same
  · refine (applyAll_settled fun e he => ?_).trans same
    dsimp only at he
    split at he
    · obtain ⟨k, c, rfl⟩ := mem_invalidateSlots he
      rfl
    · cases he
  · exact same
  · have tasks : t.tasks = s.tasks := congrArg (fun x => x.2.1) same
    dsimp only
    rw [readersOf_congr tasks, unread]
    exact same

theorem homeStore_setting (agent core : Option Nat) (dirAgent pa n v : Nat) {s : State} (unread : readersOf s (wordsOf pa n) = []) :
    (applyAll (homeStore agent core dirAgent pa n v s) s).setting = s.setting := by
  refine applyAll_chain_keeps (fun t => t.setting = s.setting) (fun f hf t same => ?_) rfl
  have tasks : t.tasks = s.tasks := congrArg (fun x => x.2.1) same
  simp only [List.mem_cons, List.not_mem_nil, or_false] at hf
  rcases hf with rfl | rfl
  · exact (applyAll_settled fun e he => settled_onL1 (l1Write_onL1 _ _ _ _ _ _ e he) _ _).trans same
  · exact (memStore_setting agent dirAgent pa n v ((readersOf_congr tasks _).trans unread)).trans same

/-! ## Step 5 of a packet -/

/-- What the header's write leaves (R286): its bytes, the queue past the packet, and of the rest what a launch goes by. -/
structure Headed (u : State) (d q pa : Nat) (hdr : Word) (v : State) : Prop where
  runs : Runs (stepFive d q hdr) u () v
  mem : v.mem = memWrite u.mem pa 8 hdr.toNat
  queue : queueOf v d q = (queueOf u d q).advanced
  groups : v.groups = u.groups
  tasks : v.tasks = u.tasks
  tenants : v.tenants = u.tenants
  doms : v.doms = u.doms
  gated : v.pkg.gated = u.pkg.gated
  gatereq : v.pkg.gatereq = u.pkg.gatereq
  st : ∀ six, (v.strand six).st = (u.strand six).st

theorem cpWrite_normal {s : State} {d q asid : Nat} {pm : Bool} {va w : Word} {x : Xl} (mapped : cpXl s d asid pm va .w = .ok x)
    (normal : x.cls = .normal) (local_ : x.pod = false) (sound : memCheck s false x.pa 8 = none) :
    cpWrite s d q asid pm va w
      = .ok (x.fx ++ homeStore none none (dieAgent d (va.toNat % 2 ^ 48)) x.pa 8 w.toNat (applyAll x.fx s)) := by
  rw [cpWrite, mapped]
  dsimp only
  rw [normal, local_, sound]
  rfl

theorem cpXl_onCaches {s : State} {d asid : Nat} {pm : Bool} {va : Word} {need : Need} {x : Xl}
    (mapped : cpXl s d asid pm va need = .ok x) : ∀ e ∈ x.fx, e.onCaches = true := by
  rw [cpXl] at mapped
  split at mapped
  · next found => exact translate_onCaches (by rw [found]; exact congrArg some (Except.ok.inj mapped))
  · split at mapped <;> cases mapped

theorem headed_of_headerAt {u : State} {d q pa : Nat} (at_ : u.headerAt d q pa) (hdr : Word) : Headed u d q pa hdr (u.headed d q hdr) := by
  obtain ⟨x, mapped, normal, local_, rfl, sound, unread⟩ := at_
  have written := cpWrite_normal (q := q) (w := hdr) mapped normal local_ sound
  obtain ⟨dir, tlb, l1, n, walked⟩ := applyAll_onCaches (cpXl_onCaches mapped) u
  have unread' : readersOf (applyAll x.fx u) (wordsOf x.pa 8) = [] := (readersOf_congr (by rw [walked]) _).trans unread
  have same := homeStore_setting none none (dieAgent d ((packetAddr (queueOf u d q)).toNat % 2 ^ 48)) x.pa 8 hdr.toNat unread'
  have leaves := fun six =>
    homeStore_leaves six none none (dieAgent d ((packetAddr (queueOf u d q)).toNat % 2 ^ 48)) x.pa 8 hdr.toNat _ unread'
  have runs := runs_stepFive written
  rw [headed_of_written written, applyAll_append] at runs ⊢
  generalize applyAll (homeStore _ _ _ _ _ _ _) _ = v at same leaves runs ⊢
  simp only [State.setting, Prod.mk.injEq] at same
  obtain ⟨groups, tasks, tenants, doms, dies, gated, gatereq⟩ := same
  rw [walked] at groups tasks tenants doms dies gated gatereq leaves
  have queue : queueOf v d q = queueOf u d q := by rw [queueOf, State.die, dies]; rfl
  exact {
    runs := runs
    mem := (leaves 0).1
    queue := by rw [queueOf_setQueue, queue]
    groups := groups, tasks := tasks, tenants := tenants, doms := doms, gated := gated, gatereq := gatereq
    st := fun six => by
      obtain ⟨r, strand⟩ := (leaves six).2.strand
      have of_v : v.strand six = { u.strand six with res := r } := strand
      show (v.strand six).st = (u.strand six).st
      rw [of_v] }

end Sys2Proof.Machine

/-! The binding of a group (R240, R288): which of the fitting clusters and cores is the device's choice, and any choice will do. -/

namespace Sys2Proof.Machine

/-! ## Choices (log entry 12) -/

theorem chose_eq (s : State) : ∃ o, s.chose = { s with oracle := o } := by
  unfold State.chose
  split
  · exact ⟨s.oracle, rfl⟩
  · exact ⟨_, rfl⟩

theorem choice_lt {n : Nat} (some_ : 0 < n) (s : State) : s.choice n < n := by
  unfold State.choice
  split
  · exact some_
  · split <;> assumption

/-- One of a list is chosen. -/
theorem runs_choose_of {α : Type} {xs : List α} (some_ : 0 < xs.length) (s : State) :
    ∃ k x o, Runs (choose xs.length) s k { s with oracle := o } ∧ xs[k]? = some x := by
  obtain ⟨o, chose⟩ := chose_eq s
  exact ⟨_, _, o, chose ▸ runs_choose_next s _, List.getElem?_eq_getElem (choice_lt some_ s)⟩

theorem without_perm {α : Type} {xs : List α} {k : Nat} {x : α} (h : xs[k]? = some x) : (x :: without k xs).Perm xs := by
  obtain ⟨lt, rfl⟩ := List.getElem?_eq_some_iff.mp h
  have parts : xs.take k ++ xs[k] :: xs.drop (k + 1) = xs := by rw [← List.drop_eq_getElem_cons, List.take_append_drop]
  exact (List.perm_middle.symm).trans (.of_eq parts)

theorem runs_pickFrom {n : Nat} {xs : List Nat} (enough : n ≤ xs.length) (distinct : xs.Nodup) (s : State) :
    ∃ ys o, Runs (pickFrom n xs) s ys { s with oracle := o } ∧ ys.length = n ∧ ys.Nodup ∧ ∀ y ∈ ys, y ∈ xs := by
  induction n generalizing xs s with
  | zero => exact ⟨[], s.oracle, runs_pure _ _, rfl, .nil, fun y hy => absurd hy List.not_mem_nil⟩
  | succ n ih =>
    obtain ⟨k, x, o, picks, at_⟩ := runs_choose_of (xs := xs) (by omega) s
    have perm := without_perm at_
    have length := perm.length_eq
    rw [List.length_cons] at length
    obtain ⟨fresh, rest⟩ := List.nodup_cons.mp (perm.nodup_iff.mpr distinct)
    obtain ⟨ys, o', picks', count, apart, among⟩ := ih (xs := without k xs) (by omega) rest { s with oracle := o }
    refine ⟨x :: ys, o', ?_, by rw [List.length_cons, count], List.nodup_cons.mpr ⟨fun hx => fresh (among x hx), apart⟩, ?_⟩
    · rw [pickFrom]
      refine runs_bind picks ?_
      rw [at_]
      exact runs_bind picks' (runs_pure _ _)
    · exact List.forall_mem_cons.mpr
        ⟨perm.mem_iff.mp List.mem_cons_self, fun y hy => perm.mem_iff.mp (List.mem_cons_of_mem _ (among y hy))⟩

/-! ## Blocks of cores, each in a cluster of its own -/

theorem freeCores_nodup (s : State) (tenant cl : Nat) : (freeCores s tenant cl).Nodup := by
  unfold freeCores
  split
  · exact .nil
  · exact ((List.nodup_range).map fun i j same => Nat.add_left_cancel same).filter _

theorem clusterOf_freeCore {s : State} {tenant cl c : Nat} (cluster : cl < 32) (free : c ∈ freeCores s tenant cl) : clusterOf c = cl := by
  unfold freeCores at free
  split at free
  · exact absurd free List.not_mem_nil
  · obtain ⟨i, hi, rfl⟩ := List.mem_map.mp (List.mem_filter.mp free).1
    have := List.mem_range.mp hi
    have compute : 32 * cl + i < Config.computeCores := show 32 * cl + i < 1024 by omega
    rw [clusterOf, if_pos compute]
    omega

/-- The clusters among some that can give `n` cores to a tenant's group. -/
def State.fitting (s : State) (tenant : Nat) (cs : List Nat) (n : Nat) : List Nat :=
  cs.filter (fun cl => decide (n ≤ (freeCores s tenant cl).length))

/-- Blocks of cores by cluster, of the sizes asked for: each from what its cluster has to give, no two in one cluster (R288). -/
structure Blocks (s : State) (tenant : Nat) (ns cs : List Nat) (ps : List (Nat × List Nat)) : Prop where
  sizes : ps.map (fun p => p.2.length) = ns
  apart : (ps.map Prod.fst).Nodup
  among : ∀ p ∈ ps, p.1 ∈ cs
  distinct : ∀ p ∈ ps, p.2.Nodup
  free : ∀ p ∈ ps, ∀ c ∈ p.2, c ∈ freeCores s tenant p.1

theorem runs_bindBlocks {tenant : Nat} {ns cs : List Nat} (s : State) (distinct : cs.Nodup)
    (room : ∀ i n, ns[i]? = some n → i < (s.fitting tenant cs n).length) :
    ∃ ps o, Runs (bindBlocks tenant ns cs) s (ps.flatMap Prod.snd) { s with oracle := o } ∧ Blocks s tenant ns cs ps := by
  induction ns generalizing cs s with
  | nil => exact ⟨[], s.oracle, runs_pure _ _, rfl, .nil, nofun, nofun, nofun⟩
  | cons n ns ih =>
    obtain ⟨k, cl, o, picks, at_⟩ := runs_choose_of (room 0 n rfl) s
    obtain ⟨member, fits⟩ := List.mem_filter.mp (List.mem_of_getElem? at_)
    obtain ⟨xs, o', takes, count, apart, free⟩ :=
      runs_pickFrom (of_decide_eq_true fits) (freeCores_nodup s tenant cl) { s with oracle := o }
    have room' : ∀ i m, ns[i]? = some m → i < (s.fitting tenant (cs.filter (fun c => c != cl)) m).length := by
      intro i m hm
      have := room (i + 1) m hm
      have fewer : s.fitting tenant (cs.filter (fun c => c != cl)) m = (s.fitting tenant cs m).erase cl := by
        rw [State.fitting, State.fitting, (distinct.filter _).erase_eq_filter cl, List.filter_comm]
      rw [fewer]
      exact Nat.lt_of_lt_of_le (by omega) (List.le_length_erase ..)
    obtain ⟨ps, o'', binds, sizes, away, among, each, rest⟩ := ih (cs := cs.filter (fun c => c != cl)) { s with oracle := o' }
      (distinct.filter _) room'
    have elsewhere : ∀ p ∈ ps, p.1 ∈ cs ∧ p.1 ≠ cl := fun p hp => by simpa using among p hp
    refine ⟨(cl, xs) :: ps, o'', ?_, ?_, ?_, ?_, ?_, ?_⟩
    · rw [bindBlocks]
      refine runs_bind (runs_getS s) (runs_bind picks ?_)
      rw [show (cs.filter fun cl => decide (n ≤ (freeCores s tenant cl).length))[k]? = some cl from at_]
      exact runs_bind takes (runs_bind binds (runs_pure _ _))
    · rw [List.map_cons, sizes, count]
    · refine List.nodup_cons.mpr ⟨fun hc => ?_, away⟩
      obtain ⟨p, hp, same⟩ := List.mem_map.mp hc
      exact (elsewhere p hp).2 same
    · exact List.forall_mem_cons.mpr ⟨member, fun p hp => (elsewhere p hp).1⟩
    · exact List.forall_mem_cons.mpr ⟨apart, each⟩
    · exact List.forall_mem_cons.mpr ⟨free, rest⟩

/-- The sizes of the blocks of a group of `n` cores (R288). -/
def blockSizes (n : Nat) : List Nat := List.replicate (n / 32) 32 ++ (if n % 32 = 0 then [] else [n % 32])

theorem blockSizes_sum (n : Nat) : (blockSizes n).sum = n := by
  rw [blockSizes, List.sum_append, List.sum_replicate, smul_eq_mul]
  split <;> simp only [List.sum_nil, List.sum_singleton] <;> omega

/-- Where a member of the blocks stands among them, when all but the last, smaller one are of 32. -/
theorem block_of_index {ps : List (Nat × List Nat)} {q : Nat} {rest : List Nat}
    (sizes : ps.map (fun p => p.2.length) = List.replicate q 32 ++ rest) (short : rest = [] ∨ ∃ r < 32, rest = [r]) {i : Nat}
    (listed : i < (ps.flatMap Prod.snd).length) : ∃ p, ps[i / 32]? = some p ∧ (ps.flatMap Prod.snd).getD i 0 ∈ p.2 := by
  induction q generalizing ps i with
  | zero =>
    rcases short with rfl | ⟨r, small, rfl⟩
    · rw [List.map_eq_nil_iff.mp sizes] at listed
      exact absurd listed (Nat.not_lt_zero _)
    · obtain ⟨p, rfl, size⟩ : ∃ p, ps = [p] ∧ p.2.length = r := by simpa using sizes
      rw [List.flatMap_singleton] at listed ⊢
      refine ⟨p, by rw [Nat.div_eq_of_lt (by omega)]; rfl, ?_⟩
      rw [List.getD_eq_getElem _ _ listed]
      exact List.getElem_mem _
  | succ q ih =>
    obtain ⟨p, ps', rfl, size, sizes'⟩ := List.map_eq_cons_iff.mp (by simpa [List.replicate_succ] using sizes)
    rw [List.flatMap_cons] at listed ⊢
    by_cases first : i < 32
    · refine ⟨p, by rw [Nat.div_eq_of_lt first]; rfl, ?_⟩
      rw [List.getD_append _ _ _ _ (by omega), List.getD_eq_getElem _ _ (by omega)]
      exact List.getElem_mem _
    · rw [List.length_append] at listed
      obtain ⟨p', at_, member⟩ := ih sizes' (i := i - 32) (by omega)
      refine ⟨p', ?_, ?_⟩
      · rw [show i / 32 = (i - 32) / 32 + 1 by omega]
        exact at_
      · rw [List.getD_append_right _ _ _ _ (by omega), size]
        exact member

theorem binds_of_blocks {s : State} {tenant n : Nat} {ps : List (Nat × List Nat)}
    (blocks : Blocks s tenant (blockSizes n) (List.range 32) ps) : Binds s tenant n (ps.flatMap Prod.snd) := by
  obtain ⟨sizes, apart, among, distinct, free⟩ := blocks
  have cluster : ∀ p ∈ ps, ∀ c ∈ p.2, clusterOf c = p.1 := fun p hp c hc =>
    clusterOf_freeCore (List.mem_range.mp (among p hp)) (free p hp c hc)
  have count : (ps.flatMap Prod.snd).length = n := by rw [List.length_flatMap, sizes, blockSizes_sum]
  have place : ∀ i, i < n → (ps.map Prod.fst)[i / 32]? = some (clusterOf ((ps.flatMap Prod.snd).getD i 0)) := fun i hi => by
    have short : (if n % 32 = 0 then [] else [n % 32]) = [] ∨ ∃ r < 32, (if n % 32 = 0 then [] else [n % 32]) = [r] := by
      split
      · exact .inl rfl
      · exact .inr ⟨_, Nat.mod_lt _ (by decide), rfl⟩
    obtain ⟨p, at_, member⟩ := block_of_index sizes short (i := i) (by omega)
    rw [List.getElem?_map, at_, cluster p (List.mem_of_getElem? at_) _ member]
    rfl
  refine ⟨count, ?_, fun c hc => ?_, fun i j hi hj => ?_⟩
  · refine List.nodup_flatMap.mpr ⟨distinct, (List.pairwise_map.mp apart).imp_of_mem fun hp hp' other c hc hc' => other ?_⟩
    rw [← cluster _ hp c hc, ← cluster _ hp' c hc']
  · obtain ⟨p, hp, member⟩ := List.mem_flatMap.mp hc
    rw [cluster p hp c member]
    exact free p hp c member
  · rw [← Option.some_inj, ← place i hi, ← place j hj]
    exact List.getElem?_inj (List.getElem?_eq_some_iff.mp (place i hi)).1 apart

/-- Where there are cores for a group, a binding is found (R288). -/
theorem runs_bindCores {s : State} {tenant n : Nat} (room : s.canBind tenant n) :
    ∃ cores o, Runs (bindCores tenant n) s cores { s with oracle := o } ∧ Binds s tenant n cores := by
  obtain ⟨full, more⟩ := room
  have enough : ∀ i m, (blockSizes n)[i]? = some m → i < (s.fitting tenant (List.range 32) m).length := by
    intro i m at_
    rw [blockSizes] at at_
    by_cases whole : i < n / 32
    · rw [List.getElem?_append_left (by simpa using whole), List.getElem?_replicate_of_lt whole] at at_
      rw [← Option.some.inj at_]
      exact Nat.lt_of_lt_of_le whole full
    · rw [List.getElem?_append_right (by simpa using whole), List.length_replicate] at at_
      split at at_
      · cases at_
      · next partial_ =>
        obtain ⟨zero, rfl⟩ := List.getElem?_eq_some_iff.mp at_
        simp only [List.length_singleton] at zero
        have := more partial_
        rw [List.getElem_singleton]
        exact Nat.lt_of_lt_of_le (by omega) this
  obtain ⟨ps, o, binds, blocks⟩ := runs_bindBlocks s List.nodup_range enough
  exact ⟨_, o, binds, binds_of_blocks blocks⟩

end Sys2Proof.Machine

/-! A group launched (R286 to R288): its number, its cores, and the initial task of each. -/

namespace Sys2Proof.Machine

/-! ## Task IDs (R294) -/

/-- The count of a die's task IDs after one more. -/
def nextCount (n : Nat) : Nat := (nextTaskId 0 n).2

theorem nextTaskId_eq (die n : Nat) : nextTaskId die n = (die * 2 ^ 46 + nextCount n, nextCount n) := rfl

theorem nextCount_eq (n : Nat) : nextCount n = if n + 1 < 70368744177664 then n + 1 else 1 := rfl

theorem iterate_nextCount {a : Nat} (low : 1 ≤ a) (high : a ≤ 70368744177663) (k : Nat) :
    nextCount^[k] a = (a - 1 + k) % 70368744177663 + 1 := by
  induction k with
  | zero => rw [Function.iterate_zero, id, Nat.add_zero, Nat.mod_eq_of_lt (by omega)]; omega
  | succ k ih => rw [Function.iterate_succ_apply', ih, nextCount_eq]; split <;> omega

theorem iterate_nextCount_ne (n : Nat) {k : Nat} (few : k < 1024) : nextCount^[k + 1] (nextCount n) ≠ nextCount n := by
  have low : 1 ≤ nextCount n ∧ nextCount n ≤ 70368744177663 := by rw [nextCount_eq]; split <;> omega
  obtain ⟨low, high⟩ := low
  rw [iterate_nextCount low high]
  omega

/-! ## The initial tasks -/

section
variable (die gid : Nat) (y : Queue) (pri : BitVec 2) (ws : List Word)

/-- What enqueuing the tasks of some cores leaves: of each a task, and otherwise queues and everything but a die's count as it was. -/
structure Enqueued (l : List (Nat × Nat)) (s w : State) : Prop where
  rest : w = { s with dies := w.dies, tasks := w.tasks }
  queues : ∀ q, queueOf w die q = queueOf s die q
  others : ∀ id, (∀ k < l.length, id ≠ die * 2 ^ 46 + nextCount^[k + 1] (s.die die).taskCount) → w.task id = s.task id
  each : ∀ p ∈ l, ∃ id, w.task id = some (initialTask s gid y pri ws p.2 p.1)

theorem runs_enqueueAll {l : List (Nat × Nat)} (few : l.length ≤ 1024) (s : State) :
    ∃ w, Runs (enqueueAll die gid y pri ws l) s () w ∧ Enqueued die gid y pri ws l s w := by
  induction l generalizing s with
  | nil => exact ⟨s, runs_pure _ _, rfl, fun _ => rfl, fun _ _ => rfl, nofun⟩
  | cons p r ih =>
    obtain ⟨core, c⟩ := p
    let n := nextCount (s.die die).taskCount
    let id := die * 2 ^ 46 + n
    let u := (Effect.task id (some (initialTask s gid y pri ws c core))).apply
      ((Effect.die die { s.die die with taskCount := n }).apply s)
    have count : u.die die = { s.die die with taskCount := n } := by
      show ((Effect.die die _).apply s).die die = _
      rw [die_apply_die, if_pos rfl]
    have task (k : Nat) : u.task k = if k = id then some (initialTask s gid y pri ws c core) else s.task k :=
      tblGet_set none s.tasks id k (some (initialTask s gid y pri ws c core))
    rw [List.length_cons] at few
    obtain ⟨w, runs, rest, queues, others, each⟩ := ih (by omega) u
    refine ⟨w, ?_, ?_, fun q => ?_, fun k new => ?_, ?_⟩
    · rw [enqueueAll]
      exact runs_bind (runs_getS s) (runs_bind (runs_put _ _) (runs_bind (runs_put _ _) runs))
    · rw [rest]
      rfl
    · rw [queues, queueOf, count]
      rfl
    · rw [others k fun i hi => ?_, task, if_neg (show ¬k = id from new 0 (Nat.succ_pos _))]
      rw [count]
      exact new (i + 1) (Nat.succ_lt_succ hi)
    · refine List.forall_mem_cons.mpr ⟨⟨id, ?_⟩, each⟩
      rw [others id fun i hi same => ?_, task, if_pos rfl]
      rw [count] at same
      exact iterate_nextCount_ne _ (by omega) (Nat.add_left_cancel same).symm

end

/-! ## The group's number -/

/-- One that is free of some, where there is one: the first choice, or else any. -/
theorem find_free {free : Nat → Bool} {n k : Nat} (some_ : ∃ g, g < n ∧ free g = true) (listed : k < n) :
    ∃ g, (if free k then some k else (List.range n).find? free) = some g ∧ g < n ∧ free g = true := by
  split
  · next here => exact ⟨k, rfl, listed, here⟩
  · obtain ⟨g, hg, here⟩ := some_
    obtain ⟨g', found⟩ := Option.isSome_iff_exists.mp (List.find?_isSome.mpr ⟨g, List.mem_range.mpr hg, here⟩)
    exact ⟨g', found, List.mem_range.mp (List.mem_of_find?_eq_some found), List.find?_some found⟩

theorem runs_newGroup {s : State} (free : ∃ g, g < 4096 ∧ s.group g = none) :
    ∃ gid o, Runs newGroup s gid { s with oracle := o } ∧ gid < 4096 ∧ s.group gid = none := by
  obtain ⟨o, chose⟩ := chose_eq s
  have picks : Runs (choose 4096) s (s.choice 4096) { s with oracle := o } := chose ▸ runs_choose_next s 4096
  obtain ⟨gid, found, listed, unused⟩ := find_free (free := fun i => (s.group i).isNone)
    (free.imp fun g hg => ⟨hg.1, Option.isNone_iff_eq_none.mpr hg.2⟩) (choice_lt (n := 4096) (by decide) s)
  refine ⟨gid, o, ?_, listed, Option.isNone_iff_eq_none.mp unused⟩
  refine runs_bind (runs_getS s) (runs_bind picks ?_)
  dsimp only
  rw [found]
  exact runs_pure _ _

/-! ## The tenant of the cores (R166) -/

/-- An effect on what lies at the cores and clusters, or on channels and tasks. -/
def Effect.moves : Effect → Bool
  | .core .. | .cluster .. | .bell .. | .pmemClear .. | .lmemClear .. | .poison .. | .task .. => true
  | _ => false

theorem applyAll_moves {es : List Effect} (h : ∀ e ∈ es, e.moves = true) (s : State) :
    ∃ c k b p l m t, applyAll es s = { s with cores := c, clusters := k, bells := b, pmem := p, lmem := l, poison := m, tasks := t } := by
  induction es generalizing s with
  | nil => exact ⟨_, _, _, _, _, _, _, rfl⟩
  | cons e es ih =>
    obtain ⟨c, k, b, p, l, m, t, rest⟩ := ih (fun x hx => h x (List.mem_cons_of_mem _ hx)) (e.apply s)
    have head := h e List.mem_cons_self
    rw [applyAll_cons, rest]
    cases e <;> first | exact ⟨_, _, _, _, _, _, _, rfl⟩ | cases head

theorem mem_hostTenant {tenant core : Nat} {s : State} {e : Effect} (he : e ∈ hostTenant tenant core s) :
    (∃ lo hi, e = .pmemClear lo hi) ∨ (∃ lo hi, e = .lmemClear lo hi) ∨ (∃ w, e = .poison w false)
      ∨ e = .core core { s.core core with tenant := some tenant } := by
  unfold hostTenant at he
  dsimp only at he
  split at he
  · cases he
  · simp only [List.mem_append, List.mem_cons, List.mem_map, List.not_mem_nil, or_false] at he
    obtain ((((clear | clear) | ⟨w, -, rfl⟩) | ⟨w, -, rfl⟩) | own) := he
    · exact .inl ⟨_, _, clear⟩
    · exact .inr (.inl ⟨_, _, clear⟩)
    · exact .inr (.inr (.inl ⟨_, rfl⟩))
    · exact .inr (.inr (.inl ⟨_, rfl⟩))
    · exact .inr (.inr (.inr own))

theorem hostTenant_moves (tenant core : Nat) (s : State) : ∀ e ∈ hostTenant tenant core s, e.moves = true := by
  intro e he
  obtain ⟨lo, hi, rfl⟩ | ⟨lo, hi, rfl⟩ | ⟨w, rfl⟩ | rfl := mem_hostTenant he <;> rfl

theorem hostTenant_core (tenant core : Nat) (s : State) :
    ((applyAll (hostTenant tenant core s) s).core core).tenant = some tenant := by
  unfold hostTenant
  dsimp only
  split
  · assumption
  · rw [applyAll_append]
    exact congrArg Core.tenant (tblGet_set_same _ _ _ _)

theorem hostTenant_keeps {tenant core k : Nat} {s : State} (hosts : (s.core k).tenant = some tenant) :
    ((applyAll (hostTenant tenant core s) s).core k).tenant = some tenant := by
  by_cases here : k = core
  · rw [here]
    exact hostTenant_core tenant core s
  · rw [applyAll_keeps (fun t => t.core k) _ s fun e he t => ?_]
    · exact hosts
    · obtain ⟨lo, hi, rfl⟩ | ⟨lo, hi, rfl⟩ | ⟨w, rfl⟩ | rfl := mem_hostTenant he
      · rfl
      · rfl
      · rfl
      · exact tblGet_set_other _ _ _ _ _ here

/-- Cores bound to a tenant all host it. -/
theorem hostTenant_all (tenant : Nat) (cores : List Nat) (s : State) :
    ∀ k ∈ cores, ((applyAll (chain (cores.map (hostTenant tenant)) s) s).core k).tenant = some tenant := by
  induction cores generalizing s with
  | nil => nofun
  | cons c cs ih =>
    rw [List.map_cons, applyAll_chain_cons]
    refine List.forall_mem_cons.mpr ⟨?_, ih _⟩
    refine applyAll_chain_keeps (fun t => (t.core c).tenant = some tenant) (fun f hf t hosts => ?_) (hostTenant_core tenant c s)
    obtain ⟨_, -, rfl⟩ := List.mem_map.mp hf
    exact hostTenant_keeps hosts

/-! ## A binding depends on groups and gates only (R288) -/

section
variable {s t : State}

theorem freeCores_congr (groups : t.groups = s.groups) (gated : t.pkg.gated = s.pkg.gated) (gatereq : t.pkg.gatereq = s.pkg.gatereq)
    (tenant cl : Nat) : freeCores t tenant cl = freeCores s tenant cl := by
  have core : coreFor t tenant = coreFor s tenant := funext fun c => by rw [coreFor, coreFor, groups]
  rw [freeCores, freeCores, gated, gatereq, core]

variable {tenant n : Nat} (free : ∀ cl, freeCores t tenant cl = freeCores s tenant cl)
include free

theorem canBind_congr (room : s.canBind tenant n) : t.canBind tenant n := by
  have same (m : Nat) : t.clustersWith tenant m = s.clustersWith tenant m := by simp only [State.clustersWith, free]
  rwa [State.canBind, same, same]

theorem Binds.congr {cores : List Nat} (binds : Binds t tenant n cores) : Binds s tenant n cores :=
  { binds with allowed := fun c hc => free (clusterOf c) ▸ binds.allowed c hc }

end

/-! ## LAUNCH -/

theorem gdCores_le (w : Word) : gdCores w ≤ 1024 := by unfold gdCores; omega

theorem dropBells_moves (gid : Nat) (s : State) : ∀ e ∈ dropBells gid s, e.moves = true := by
  intro e he
  obtain ⟨p, -, rfl⟩ := List.mem_map.mp he
  rfl

theorem dropBells_cores (gid : Nat) (s : State) : (applyAll (dropBells gid s) s).cores = s.cores :=
  applyAll_keeps State.cores _ s fun e he t => by
    obtain ⟨p, -, rfl⟩ := List.mem_map.mp he
    rfl

/-- Cores made a tenant's and a group's channels unmapped. -/
def State.hosted (s : State) (tenant gid : Nat) (cores : List Nat) : State :=
  let t := applyAll (chain (cores.map (hostTenant tenant)) s) s
  applyAll (dropBells gid t) t

theorem hostAll_moves (tenant : Nat) (cores : List Nat) (s : State) : ∀ e ∈ chain (cores.map (hostTenant tenant)) s, e.moves = true := by
  refine chain_all (fun e => e.moves = true) _ s fun f hf t => ?_
  obtain ⟨c, -, rfl⟩ := List.mem_map.mp hf
  exact hostTenant_moves tenant c t

theorem hosted_moves (s : State) (tenant gid : Nat) (cores : List Nat) : ∃ c k b p l m t,
    s.hosted tenant gid cores = { s with cores := c, clusters := k, bells := b, pmem := p, lmem := l, poison := m, tasks := t } := by
  rw [State.hosted, ← applyAll_append]
  exact applyAll_moves (List.forall_mem_append.mpr ⟨hostAll_moves tenant cores s, dropBells_moves gid _⟩) s

theorem hosted_tenant (s : State) (tenant gid : Nat) {cores : List Nat} {k : Nat} (member : k ∈ cores) :
    ((s.hosted tenant gid cores).core k).tenant = some tenant := by
  have hosts := hostTenant_all tenant cores s k member
  rw [State.core] at hosts
  rw [State.hosted, State.core, dropBells_cores]
  exact hosts

theorem runs_launchBody {v : State} {d q : Nat} {ws desc : List Word} (quota : slotsHeld v (queueOf v d q).tenant + gdCores (desc.getD 0 0)
      ≤ (v.tenant (queueOf v d q).tenant).tq.toNat) (slots : slotsInUse v + gdCores (desc.getD 0 0) ≤ 65536)
    (number : ∃ g, g < 4096 ∧ v.group g = none) (room : v.canBind (queueOf v d q).tenant (gdCores (desc.getD 0 0))) :
    let y := queueOf v d q
    ∃ gid cores w, Runs (launchBody d q ws desc) v () w
      ∧ gid < 4096 ∧ v.group gid = none ∧ Binds v y.tenant (gdCores (desc.getD 0 0)) cores
      ∧ w.group gid = some (launchedGroup v d q y ws desc cores)
      ∧ (∀ c core, cores[c]? = some core → (w.core core).tenant = some y.tenant
          ∧ ∃ id, w.task id = some (initialTask v gid y (gdPri (desc.getD 0 0)) ws c core))
      ∧ queueOf w d q = y ∧ w.mem = v.mem := by
  intro y
  obtain ⟨gid, o, numbers, listed, unused⟩ := runs_newGroup number
  obtain ⟨cores, o', binds, binding⟩ := runs_bindCores (s := { v with oracle := o }) room
  have same (cl : Nat) : freeCores { v with oracle := o } y.tenant cl = freeCores v y.tenant cl := rfl
  have binding' : Binds v y.tenant (gdCores (desc.getD 0 0)) cores := binding.congr same
  let b := { v with oracle := o' }
  let g := launchedGroup v d q y ws desc cores
  have few : cores.zipIdx.length ≤ 1024 := by rw [List.length_zipIdx, binding.count]; exact gdCores_le _
  have tenant := fun k (hk : k ∈ cores) => hosted_tenant b y.tenant gid hk
  obtain ⟨c, k, bells, p, l, m, t, moved⟩ := hosted_moves b y.tenant gid cores
  have made : launchedGroup (applyAll (chain (cores.map (hostTenant y.tenant)) b) b) d q y ws desc cores = g := by
    obtain ⟨_, _, _, _, _, _, _, same⟩ := applyAll_moves (hostAll_moves y.tenant cores b) b
    rw [same]
    rfl
  generalize hosted : b.hosted y.tenant gid cores = h at tenant moved
  obtain ⟨w, enqueues, rest, queues, others, each⟩ :=
    runs_enqueueAll d gid y (gdPri (desc.getD 0 0)) ws few ((Effect.group gid (some g)).apply h)
  refine ⟨gid, cores, w, ?_, listed, unused, binding', ?_, fun n core at_ => ⟨?_, ?_⟩, ?_, ?_⟩
  · have enough : decide ((v.tenant y.tenant).tq.toNat < slotsHeld v y.tenant + gdCores (desc.getD 0 0)
        ∨ 65536 < slotsInUse v + gdCores (desc.getD 0 0)) = false :=
      decide_eq_false fun exceeds => exceeds.elim (Nat.not_lt.mpr quota) (Nat.not_lt.mpr slots)
    refine runs_bind (runs_getS v) (runs_bind (runs_stallIf .none v enough) (runs_bind numbers (runs_bind binds ?_)))
    refine runs_bind (runs_getS _) (runs_bind (runs_puts _ _) (runs_bind (runs_getS _) (runs_bind (runs_puts _ _) ?_)))
    refine runs_bind (runs_put _ _) ?_
    rw [show launchedGroup _ d q _ ws desc cores = g from made]
    rw [show applyAll (dropBells gid _) _ = h from hosted]
    exact enqueues
  · rw [rest]
    exact tblGet_set_same none h.groups gid (some g)
  · rw [rest]
    exact tenant core (List.mem_of_getElem? at_)
  · obtain ⟨id, task⟩ := each (core, n) (List.mk_mem_zipIdx_iff_getElem?.mpr at_)
    refine ⟨id, task.trans ?_⟩
    rw [moved]
    rfl
  · rw [queues, moved]
    rfl
  · rw [rest, moved]
    rfl

section
variable {u v : State} {d q pa : Nat} {hdr : Word} (headed : Headed u d q pa hdr v)
include headed

theorem Headed.free (tenant cl : Nat) : freeCores v tenant cl = freeCores u tenant cl :=
  freeCores_congr headed.groups headed.gated headed.gatereq tenant cl

theorem Headed.group (g : Nat) : v.group g = u.group g := by rw [State.group, headed.groups]; rfl

theorem Headed.tenant (n : Nat) : v.tenant n = u.tenant n := by rw [State.tenant, headed.tenants]; rfl

theorem Headed.slotsHeld (n : Nat) : slotsHeld v n = Machine.slotsHeld u n := by
  simp only [Machine.slotsHeld, State.taskList, headed.tasks, headed.group]

theorem Headed.slotsInUse : slotsInUse v = Machine.slotsInUse u := by
  simp only [Machine.slotsInUse, State.taskList, headed.tasks]

/-- The header reads back (R286). -/
theorem Headed.header {w : State} (mem : w.mem = v.mem) : memRead w.mem pa 8 = hdr.toNat := by
  rw [mem, headed.mem, memRead_write]
  exact Nat.mod_eq_of_lt hdr.isLt

end

theorem packetLaunched_holds : packetLaunched := by
  intro s d q ws es finds valid t launch good past desc fs pa read u y n quota slots number room at_
  have headed := headed_of_headerAt at_ (doneHeader (ws.getD 0 0) false)
  generalize u.headed d q (doneHeader (ws.getD 0 0) false) = v at headed
  obtain ⟨gid, cores, w, launches, listed, unused, binds, group, each, queue, mem⟩ := runs_launchBody (v := v) (d := d) (q := q) (ws := ws)
    (desc := desc) (by rw [headed.queue, headed.slotsHeld, headed.tenant]; exact quota) (by rw [headed.slotsInUse]; exact slots)
    (by simpa only [headed.group] using number) (by rw [headed.queue]; exact canBind_congr (headed.free _) room)
  rw [headed.queue] at binds group each queue
  refine ⟨gid, cores, w, ?_, listed, (headed.group gid).symm.trans unused, binds.congr (headed.free _), ?_, fun c core at_ => ⟨?_, ?_⟩, queue,
    headed.header mem⟩
  · have mine : (decide (pkType (ws.getD 0 0) = 1) && !badPacket t d q ws && pastBarrier t d q (ws.getD 0 0)) = true := by
      rw [decide_eq_true launch, good, past]
      rfl
    refine event_of_ends (ends_servePacket_acts finds _ _ valid mine (ends_bind (runs_getS _) ?_))
    exact ends_bind (runs_cpDo 0 read) (ends_bind (runs_puts fs _) (ends_bind headed.runs launches.ends))
  · rw [group, launchedGroup, launchedGroup, groupTvec, groupTvec, headed.tenant]
    rfl
  · exact (each c core at_).1
  · obtain ⟨id, task⟩ := (each c core at_).2
    refine ⟨id, ?_⟩
    rw [task, initialTask, initialTask, State.dom, State.dom, headed.doms]
    rfl

end Sys2Proof.Machine

/-! A group resumed (R307): its messages, pool entries and actors put back, and the strand of each entry of the resume table dispatched. -/

namespace Sys2Proof.Machine

/-! ## The restore firing of a saved strand -/

/-- A strand as RESUME dispatches it (R307). -/
structure Restores (gid : Nat) (g : Machine.Group) (k : Nat) (entry : Word) (x : Strand) : Prop where
  st : x.st = .active
  gid : x.gid = some gid
  pc : x.c.pc = g.tvec &&& ~~~3#64
  pm : x.sys.pm = true
  cause : x.sys.tcause = 18
  addr : x.sys.taddr = g.segment k
  entry : x.readS 1 = entry
  quant : x.sys.quant = g.quantum

theorem restoreFiring_restores (s : State) (gid : Nat) (g : Machine.Group) (k six : Nat) (entry : Word) :
    Restores gid g k entry (restoreFiring s gid g k six entry) :=
  ⟨by simp [restoreFiring, firingOf], by simp [restoreFiring, firingOf], rfl, rfl, rfl, rfl, tblGet_set_same 0 _ 1 entry, rfl⟩

/-! ## The strands of a resume table -/

section
variable (gid : Nat) (g : Machine.Group)

/-- The slot of a resume table's entry on a group's cores. -/
def Group.slotAt (g : Machine.Group) (k : Nat) : Nat := 8 * g.cores.getD (k / 8) 0 + k % 8

/-- What becomes of the task of a restored firing, and what follows. -/
def refire (six : Nat) (s : State) (job : Job) (rest : M Unit) : M Unit :=
  match job with
  | .task id => match s.task id with
    | some t => do
      put (.task id (some { t with st := .firing six }))
      rest
    | none => rest
  | _ => rest

theorem runs_refire (six : Nat) (s t : State) (job : Job) :
    ∃ ts, ∀ (rest : M Unit) (w : State), Runs rest { t with tasks := ts } () w → Runs (refire six s job rest) t () w := by
  unfold refire
  split
  · split
    · exact ⟨_, fun _ _ runs => runs_bind (runs_put _ _) runs⟩
    · exact ⟨t.tasks, fun _ _ runs => runs⟩
  · exact ⟨t.tasks, fun _ _ runs => runs⟩

/-- What the dispatch of some entries leaves: a strand for each that is not zero, the other slots, groups, dies and memory as they were. -/
structure Restored (l : List (Word × Nat)) (s w : State) : Prop where
  groups : w.groups = s.groups
  dies : w.dies = s.dies
  mem : w.mem = s.mem
  others : ∀ six, (∀ p ∈ l, p.1 ≠ 0 → six ≠ g.slotAt p.2) → w.strand six = s.strand six
  each : ∀ p ∈ l, p.1 ≠ 0 → Restores gid g p.2 p.1 (w.strand (g.slotAt p.2))

theorem runs_restoreAll {l : List (Word × Nat)} (s : State) (apart : l.Pairwise fun p p' => g.slotAt p.2 ≠ g.slotAt p'.2)
    (bound : ∀ p ∈ l, p.2 / 8 < g.cores.length) (free : ∀ p ∈ l, p.1 ≠ 0 → (s.strand (g.slotAt p.2)).st = .free) :
    ∃ w, Runs (restoreAll gid g l) s () w ∧ Restored gid g l s w := by
  induction l generalizing s with
  | nil => exact ⟨s, runs_pure _ _, rfl, rfl, rfl, fun _ _ => rfl, nofun⟩
  | cons p r ih =>
    obtain ⟨entry, k⟩ := p
    obtain ⟨away, apart⟩ := List.pairwise_cons.mp apart
    obtain ⟨here, bound⟩ := List.forall_mem_cons.mp bound
    obtain ⟨slot, free⟩ := List.forall_mem_cons.mp free
    by_cases zero : entry = 0
    · obtain ⟨w, runs, groups, dies, mem, others, each⟩ := ih s apart bound free
      refine ⟨w, ?_, groups, dies, mem, fun six new => others six fun p hp => new p (List.mem_cons_of_mem _ hp), ?_⟩
      · rw [restoreAll]
        exact runs_bind (runs_getS s) (runs_then zero runs)
      · exact List.forall_mem_cons.mpr ⟨fun nonzero => absurd zero nonzero, each⟩
    · let six := g.slotAt k
      let x := restoreFiring s gid g k six entry
      have core : g.cores[k / 8]? = some (g.cores.getD (k / 8) 0) := by
        rw [List.getElem?_eq_getElem here, List.getD_eq_getElem _ _ here]
      obtain ⟨d, t, l1, n, acquired⟩ := applyAll_onCaches (acquire_onCaches (coreOf six) s) s
      let u := applyAll (startFiring six x s) s
      have started : u = (Effect.strand six x).apply { s with dir := d, tlb := t, l1 := l1, nextId := n } := by
        show applyAll (startFiring six x s) s = _
        rw [startFiring, applyAll_chain_cons, acquired]
        rfl
      obtain ⟨ts, fires⟩ := runs_refire six s u x.job
      have strand (j : Nat) : ({ u with tasks := ts } : State).strand j = if j = six then x else s.strand j := by
        rw [started]
        exact tblGet_set Strand.free s.strands six j x
      obtain ⟨w, runs, groups, dies, mem, others, each⟩ := ih { u with tasks := ts } apart bound fun p hp nonzero => by
        rw [strand, if_neg (away p hp).symm]
        exact free p hp nonzero
      refine ⟨w, ?_, ?_, ?_, ?_, fun j new => ?_, ?_⟩
      · have unheld : decide ((s.strand six).st ≠ .free) = false := decide_eq_false (not_not.mpr (slot zero))
        rw [restoreAll]
        refine runs_bind (runs_getS s) (runs_else zero ?_)
        rw [core]
        exact runs_bind (runs_stallIf .none s unheld) (runs_bind (runs_puts _ _) (fires _ w runs))
      · rw [groups, started]
        rfl
      · rw [dies, started]
        rfl
      · rw [mem, started]
        rfl
      · rw [others j fun p hp => new p (List.mem_cons_of_mem _ hp), strand, if_neg (new (entry, k) List.mem_cons_self zero)]
      · refine List.forall_mem_cons.mpr ⟨fun _ => ?_, each⟩
        rw [others _ fun p hp _ => away p hp, strand, if_pos rfl]
        exact restoreFiring_restores s gid g k six entry

end

theorem slotAt_inj {g : Machine.Group} (apart : g.cores.Nodup) {k j : Nat} (hk : k / 8 < g.cores.length) (hj : j / 8 < g.cores.length)
    (same : g.slotAt k = g.slotAt j) : k = j := by
  rw [Group.slotAt, Group.slotAt] at same
  have core : g.cores.getD (k / 8) 0 = g.cores.getD (j / 8) 0 := by omega
  rw [List.getD_eq_getElem _ _ hk, List.getD_eq_getElem _ _ hj, apart.getElem_inj_iff] at core
  omega

/-- Every entry of a resume table is dispatched to its own slot. -/
theorem runs_restoreTable (gid : Nat) {g : Machine.Group} (apart : g.cores.Nodup) {table : List Word}
    (length : table.length = 8 * g.cores.length) (s : State)
    (free : ∀ k, k < 8 * g.cores.length → table.getD k 0 ≠ 0 → (s.strand (g.slotAt k)).st = .free) :
    ∃ w, Runs (restoreAll gid g table.zipIdx) s () w ∧ Restored gid g table.zipIdx s w := by
  have bound : ∀ p ∈ table.zipIdx, p.2 / 8 < g.cores.length := fun p hp => by
    have := List.snd_lt_of_mem_zipIdx hp
    omega
  refine runs_restoreAll gid g s ?_ bound fun p hp nonzero => ?_
  · have seconds : (table.zipIdx.map Prod.snd).Nodup := by
      rw [List.zipIdx_map_snd]
      exact List.nodup_range'
    exact (List.pairwise_map.mp seconds).imp_of_mem fun hp hp' other same => other (slotAt_inj apart (bound _ hp) (bound _ hp') same)
  · have at_ := List.mem_zipIdx_iff_getElem?.mp hp
    obtain ⟨lt, entry⟩ := List.getElem?_eq_some_iff.mp at_
    refine free p.2 (by omega) ?_
    rwa [List.getD_eq_getElem _ _ lt, entry]

/-! ## What is put back -/

theorem chain_moves {fs : List (State → List Effect)} (s : State) (h : ∀ f ∈ fs, ∀ t, ∀ e ∈ f t, e.moves = true) :
    ∀ e ∈ chain fs s, e.moves = true := chain_all (fun e => e.moves = true) fs s h

theorem moveBells_moves (gid : Nat) (old new : List Nat) (s : State) : ∀ e ∈ moveBells gid old new s, e.moves = true := by
  refine List.forall_mem_append.mpr ⟨dropBells_moves gid s, fun e he => ?_⟩
  obtain ⟨p, -, rfl⟩ := List.mem_map.mp he
  rfl

theorem depositMsg_moves (core : Nat) (m : Msg) (s : State) : ∀ e ∈ depositMsg core m s, e.moves = true := by
  intro e he
  unfold depositMsg at he
  dsimp only at he
  split at he <;> (rw [List.mem_singleton.mp he]; rfl)

theorem restoreMsgs_moves (gid : Nat) (cores : List Nat) (ws : List Word) (m : Nat) (s : State) :
    ∀ e ∈ restoreMsgs gid cores ws m s, e.moves = true := by
  refine chain_moves s fun f hf t => ?_
  obtain ⟨i, -, rfl⟩ := List.mem_map.mp hf
  dsimp only
  generalize cores[(ws.getD (8 * i + 5) 0).toNat]? = core
  cases core with
  | some c => exact depositMsg_moves _ _ t
  | none => exact fun e he => absurd he List.not_mem_nil

theorem restorePool_moves (gid : Nat) (cores : List Nat) (ws : List Word) (p : Nat) (s : State) :
    ∀ e ∈ restorePool gid cores ws p s, e.moves = true := by
  refine chain_moves s fun f hf t e he => ?_
  obtain ⟨i, -, rfl⟩ := List.mem_map.mp hf
  dsimp only at he
  split at he
  · rw [List.mem_singleton.mp he]
    rfl
  · cases he

theorem restoreActors_moves (gid : Nat) (g : Machine.Group) (new : List Nat) (s : State) :
    ∀ e ∈ restoreActors gid g new s, e.moves = true := by
  refine chain_moves s fun f hf t e he => ?_
  rcases List.mem_append.mp hf with actor | task
  · obtain ⟨a, -, rfl⟩ := List.mem_map.mp actor
    dsimp only at he
    split at he
    · rw [List.mem_singleton.mp he]
      rfl
    · cases he
  · rw [List.mem_singleton.mp task] at he
    obtain ⟨p, -, hp⟩ := List.mem_filterMap.mp he
    split at hp
    · obtain ⟨-, ⟨⟩⟩ := Option.ite_none_right_eq_some.mp hp
      rfl
    · cases hp

/-- A group's cores made its tenant's, and what its spill area and its record hold put back (R307). -/
def State.rehosted (s : State) (gid : Nat) (g : Machine.Group) (cores : List Nat) (recs : List Word) (m p : Nat) : State :=
  let t := applyAll (chain (cores.map (hostTenant g.tenant)) s) s
  applyAll (chain [moveBells gid g.cores cores, restorePool gid cores (recs.drop (8 * m)) p, restoreMsgs gid cores recs m,
    restoreActors gid g cores] t) t

theorem rehosted_moves (s : State) (gid : Nat) (g : Machine.Group) (cores : List Nat) (recs : List Word) (m p : Nat) :
    ∃ c k b x l o t, s.rehosted gid g cores recs m p
      = { s with cores := c, clusters := k, bells := b, pmem := x, lmem := l, poison := o, tasks := t } := by
  rw [State.rehosted, ← applyAll_append]
  refine applyAll_moves (List.forall_mem_append.mpr ⟨hostAll_moves g.tenant cores s, chain_moves _ fun f hf t => ?_⟩) s
  simp only [List.mem_cons, List.not_mem_nil, or_false] at hf
  rcases hf with rfl | rfl | rfl | rfl
  · exact moveBells_moves _ _ _ t
  · exact restorePool_moves _ _ _ _ t
  · exact restoreMsgs_moves _ _ _ _ t
  · exact restoreActors_moves _ _ _ t

/-! ## RESUME -/

theorem group_apply_group (n : Nat) (x : Option Machine.Group) (s : State) : ((Effect.group n x).apply s).group n = x :=
  tblGet_set_same none s.groups n x

theorem cpWords_length {s : State} {d q asid n : Nat} {pm : Bool} {va : Word} {ws : List Word} {es : List Effect}
    (read : cpWords s d q asid pm va n = .ok (ws, es)) : ws.length = n := by
  induction n generalizing s va ws es with
  | zero =>
    cases read
    rfl
  | succ n ih =>
    rw [cpWords] at read
    split at read
    · cases read
    · split at read
      · cases read
      · next rest =>
        cases read
        rw [List.length_cons, ih rest]

section
variable {t u v : State} {d q gid pa : Nat} {ws table counts recs : List Word} {e1 e2 e3 : List Effect} {g : Machine.Group}

theorem runs_resumeBody
    (reads1 : cpWords t d q (queueOf t d q).asid (queueOf t d q).privq (ws.getD 2 0) (8 * g.cores.length) = .ok (table, e1))
    (reads2 : cpWords (applyAll e1 t) d q g.asid (queueOf t d q).privq g.spill 2 = .ok (counts, e2))
    (fits : 64 + 64 * (counts.getD 0 0).toNat + 16 * (counts.getD 1 0).toNat ≤ 64 * gdSpn g.desc0)
    (reads3 : cpWords (applyAll e2 (applyAll e1 t)) d q g.asid (queueOf t d q).privq (g.spill + 64)
      (8 * (counts.getD 0 0).toNat + 2 * (counts.getD 1 0).toNat) = .ok (recs, e3))
    (after : applyAll e3 (applyAll e2 (applyAll e1 t)) = u) (headed : Headed u d q pa (doneHeader (ws.getD 0 0) false) v)
    (room : u.canBind g.tenant g.cores.length)
    (free : ∀ k core, k < 8 * g.cores.length → table.getD k 0 ≠ 0 → core ∈ freeCores u g.tenant (clusterOf core) →
      (u.strand (8 * core + k % 8)).st = .free) :
    ∃ cores w, Runs (resumeBody d q ws gid g) t () w ∧ Binds u g.tenant g.cores.length cores
      ∧ w.group gid = some { resumedGroup g cores (ws.getD 3 0) with ctxs := g.ctxs.filter (fun c => decide (table.getD c.1 0 = 0)) }
      ∧ (∀ k, k < 8 * g.cores.length → table.getD k 0 ≠ 0 → Restores gid g k (table.getD k 0)
          (w.strand (8 * cores.getD (k / 8) 0 + k % 8)))
      ∧ queueOf w d q = queueOf v d q ∧ w.mem = v.mem := by
  obtain ⟨cores, o, binds, binding⟩ := runs_bindCores (canBind_congr (headed.free _) room)
  have binding : Binds u g.tenant g.cores.length cores := binding.congr (headed.free _)
  let b := { v with oracle := o }
  let g' := resumedGroup g cores (ws.getD 3 0)
  have count : g'.cores.length = g.cores.length := binding.count
  have length : table.length = 8 * g'.cores.length := by rw [cpWords_length reads1, count]
  obtain ⟨c, k, bells, x, l, p, ts, moved⟩ := rehosted_moves b gid g cores recs (counts.getD 0 0).toNat (counts.getD 1 0).toNat
  generalize rehosted : b.rehosted gid g cores recs (counts.getD 0 0).toNat (counts.getD 1 0).toNat = h at moved
  have unheld : ∀ k, k < 8 * g'.cores.length → table.getD k 0 ≠ 0 →
      (((Effect.group gid (some g')).apply h).strand (g'.slotAt k)).st = .free := by
    intro k listed nonzero
    have same : ((Effect.group gid (some g')).apply h).strand (g'.slotAt k) = v.strand (g'.slotAt k) := by rw [moved]; rfl
    rw [same, headed.st]
    rw [count] at listed
    refine free k _ listed nonzero (binding.allowed _ ?_)
    rw [List.getD_eq_getElem _ _ (show k / 8 < g'.cores.length by omega)]
    exact List.getElem_mem _
  obtain ⟨r, restores, groups, dies, mem, -, each⟩ :=
    runs_restoreTable gid (g := g') binding.apart length ((Effect.group gid (some g')).apply h) unheld
  refine ⟨cores, (Effect.group gid (some { g' with ctxs := g'.ctxs.filter (fun c => decide (table.getD c.1 0 = 0)) })).apply r, ?_, binding,
    group_apply_group _ _ r, fun k listed nonzero => ?_, ?_, ?_⟩
  · have room : decide (64 * gdSpn g.desc0 < 64 + 64 * (counts.getD 0 0).toNat + 16 * (counts.getD 1 0).toNat) = false :=
      decide_eq_false (Nat.not_lt.mpr fits)
    refine runs_bind (runs_getS t) (runs_bind (runs_cpLoad 0 reads1) (runs_bind (runs_cpLoad 0 reads2) ?_))
    refine runs_bind (runs_stallIf .none _ room) (runs_bind (runs_cpLoad 0 reads3) ?_)
    rw [after]
    refine runs_bind headed.runs (runs_bind binds ?_)
    refine runs_bind (runs_getS _) (runs_bind (runs_puts _ _) (runs_bind (runs_getS _) (runs_bind (runs_puts _ _) ?_)))
    rw [show applyAll (chain [moveBells gid g.cores cores, _, _, _] _) _ = h from rehosted]
    exact runs_bind (runs_put _ _) (runs_bind restores (runs_put _ _))
  · have at_ : (table.getD k 0, k) ∈ table.zipIdx := by
      have lt : k < table.length := by rw [cpWords_length reads1]; exact listed
      rw [List.mem_zipIdx_iff_getElem?, List.getElem?_eq_getElem lt, List.getD_eq_getElem _ _ lt]
    obtain ⟨st, gid', pc, pm, cause, addr, entry, quant⟩ := each _ at_ nonzero
    exact ⟨st, gid', pc, pm, cause, addr, entry, quant⟩
  · show queueOf r d q = _
    rw [queueOf, State.die, dies, moved]
    rfl
  · show r.mem = _
    rw [mem, moved]
    rfl

end

theorem packetResumed_holds : packetResumed := by
  intro s d q ws es finds valid t resume good past g table counts recs e1 e2 e3 pa saved y n t1 t2 u m p reads1 reads2 fits reads3 room
    free at_
  have headed := headed_of_headerAt at_ (doneHeader (ws.getD 0 0) false)
  obtain ⟨cores, w, resumes, binds, group, each, queue, mem⟩ :=
    runs_resumeBody (gid := (ws.getD 1 0).toNat) reads1 reads2 fits reads3 rfl headed room free
  refine ⟨cores, w, ?_, binds, group, fun k listed nonzero => ?_, queue.trans headed.queue, headed.header mem⟩
  · have mine : (decide (pkType (ws.getD 0 0) = 3) && !badPacket t d q ws && pastBarrier t d q (ws.getD 0 0)) = true := by
      rw [decide_eq_true resume, good, past]
      rfl
    refine event_of_ends (ends_servePacket_acts finds _ _ valid mine (ends_bind (runs_getS _) ?_))
    rw [saved]
    exact resumes.ends
  · obtain ⟨st, gid, pc, pm, cause, addr, entry, quant⟩ := each k listed nonzero
    exact ⟨st, gid, pc, pm, cause, addr, entry, quant⟩

/-- Settles O47: each event is `event` of its body, which runs to the end where nothing it waits for is missing. -/
theorem queueEvents : Obligations.QueueEvents :=
  ⟨fun _ _ _ die queue => ⟨queueNotify_does die queue, queueMap_does die queue⟩,
    fun _ _ _ _ _ finds => ⟨servePacket_stops finds, fun valid => ⟨fun _ bad written => packetReject_happens finds valid bad written,
      packetSignal_happens finds valid⟩⟩,
    packetLaunched_holds, packetResumed_holds,
    fun _ _ _ known => ⟨groupCompletion_does known, spillWrite_happens known⟩⟩

end Sys2Proof.Machine
